-- ==== Sys2Proof/Word.lean ====
section
/-! DEFINITION. Word types of the Sirsal S400 (R5, R148, R150, R272): bytes, control words, doublewords, the 128-bit
g-register contents, the 512-bit vector register and the 256-bit command word. -/
namespace Sys2Proof

/-- A byte of memory. -/
abbrev Byte := BitVec 8
/-- A control word, an FP32 value or a vector lane (R150, R272). -/
abbrev W32 := BitVec 32
/-- A doubleword: bits 63:0 of a g register, a CSR, an address (R148, R169). -/
abbrev W64 := BitVec 64
/-- The data bits of a g register (R148). -/
abbrev W128 := BitVec 128
/-- A command word (R291), a knot (R333), a peer table entry (R243). -/
abbrev W256 := BitVec 256
/-- A vector register (R150). -/
abbrev W512 := BitVec 512

/-- Bits `hi` down to `lo` of a word as a number. -/
def bitsN {n : Nat} (w : BitVec n) (hi lo : Nat) : Nat := (w.toNat >>> lo) % 2 ^ (hi + 1 - lo)

/-- One bit of a word. -/
def bit1 {n : Nat} (w : BitVec n) (i : Nat) : Bool := w.getLsbD i

end Sys2Proof
end

