-- ==== Sys2Proof/Machine/Flags.lean ====
section
/-! DEFINITION. Number formats, the one rounding rule, and the FFLAGS bits that it sets (R170, R250 to R256). A finite
number is kept exactly as sign, magnitude and power of two. -/
namespace Sys2Proof.Machine

/-- FFLAGS bits 6:0 (R170). -/
abbrev FFlags := BitVec 7
/-- nx, inexact. -/
def flNx : FFlags := 1
/-- uf, underflow. -/
def flUf : FFlags := 2
/-- of, overflow. -/
def flOf : FFlags := 4
/-- dz, division by zero. -/
def flDz : FFlags := 8
/-- nv, invalid operation. -/
def flNv : FFlags := 16
/-- sat, a conversion saturated. -/
def flSat : FFlags := 32
/-- rlnan, a ranked list refused a NaN candidate. -/
def flRlnan : FFlags := 64

/-- A flag if a condition holds. -/
def flagIf (b : Bool) (f : FFlags) : FFlags := if b then f else 0

/-- The formats of R250. -/
inductive Fmt where
  | fp32 | bf16 | fp16 | e4m3 | e5m2
deriving DecidableEq, Repr

/-- Mantissa width. -/
def Fmt.p : Fmt → Nat
  | .fp32 => 23 | .bf16 => 7 | .fp16 => 10 | .e4m3 => 3 | .e5m2 => 2
/-- Exponent width. -/
def Fmt.ebits : Fmt → Nat
  | .fp32 => 8 | .bf16 => 8 | .fp16 => 5 | .e4m3 => 4 | .e5m2 => 5
/-- Bias. -/
def Fmt.bias : Fmt → Int
  | .fp32 => 127 | .bf16 => 127 | .fp16 => 15 | .e4m3 => 7 | .e5m2 => 15
/-- Width in bits. -/
def Fmt.bits (f : Fmt) : Nat := 1 + f.ebits + f.p
/-- Bytes per element. -/
def Fmt.bytes (f : Fmt) : Nat := f.bits / 8
/-- An FP8 format. -/
def Fmt.fp8 : Fmt → Bool
  | .e4m3 => true | .e5m2 => true | _ => false

/-- The code of the largest finite magnitude (R250, R251). -/
def Fmt.maxCode (ftop : Bool) : Fmt → Nat
  | .fp32 => 0x7F7FFFFF | .bf16 => 0x7F7F | .fp16 => 0x7BFF
  | .e4m3 => if ftop then 0x77 else 0x7E
  | .e5m2 => if ftop then 0x7B else 0x7E
/-- The code of plus infinity, where the format has one (R250, R251). -/
def Fmt.infCode : Fmt → Nat
  | .fp32 => 0x7F800000 | .bf16 => 0x7F80 | .fp16 => 0x7C00 | .e4m3 => 0x78 | .e5m2 => 0x7C
/-- The canonical NaN (R252). -/
def Fmt.nanCode : Fmt → Nat
  | .fp32 => 0x7FC00000 | .bf16 => 0x7FC0 | .fp16 => 0x7E00 | .e4m3 => 0x7F | .e5m2 => 0x7F
/-- The code with a sign. -/
def Fmt.signed (f : Fmt) (neg : Bool) (c : Nat) : Nat := c + if neg then 2 ^ (f.bits - 1) else 0

/-- A number read from a code: NaN, an infinity, or (−1)^neg · m · 2^e. -/
inductive Num where
  | nan
  | inf (neg : Bool)
  | fin (neg : Bool) (m : Nat) (e : Int)
deriving DecidableEq, Repr, Inhabited

/-- Read a code (R250 to R252). -/
def Fmt.read (f : Fmt) (ftop : Bool) (c : Nat) : Num :=
  let neg := c / 2 ^ (f.bits - 1) % 2 == 1
  let mag := c % 2 ^ (f.bits - 1)
  let ex := mag / 2 ^ f.p
  let mant := mag % 2 ^ f.p
  if f.maxCode ftop < mag then
    if mag = f.infCode && (!f.fp8 || ftop) then .inf neg else .nan
  else if ex = 0 then .fin neg mant (1 - f.bias - f.p)
  else .fin neg (2 ^ f.p + mant) ((ex : Int) - f.bias - f.p)

/-- Rounding modes (R169, R253): whether a magnitude between two grid points goes to the larger. `twice` is twice the
remainder, `one` the grid step, in one unit; `odd` says that the smaller grid point is odd. -/
def roundsUp (mode : Nat) (neg odd : Bool) (twice one : Nat) : Bool :=
  match mode with
  | 0 => decide (one < twice) || (decide (twice = one) && odd)
  | 1 => false
  | 2 => decide (twice ≠ 0) && !neg
  | _ => decide (twice ≠ 0) && neg

/-- What an overflow delivers where the operation does not saturate (R254). -/
def Fmt.overflow (f : Fmt) (ftop : Bool) (mode : Nat) (neg : Bool) : Nat :=
  let toInf := match mode with
    | 0 => true
    | 1 => false
    | 2 => !neg
    | _ => neg
  f.signed neg (if toInf then f.infCode else f.maxCode ftop)

/-- round_to of R253 with overflow and flags of R254 and R255, of (−1)^neg · m · 2^e, m ≠ 0. -/
def Fmt.round (f : Fmt) (ftop sat : Bool) (mode : Nat) (neg : Bool) (m : Nat) (e : Int) : Nat × FFlags :=
  let emin : Int := 1 - f.bias
  let lg : Int := (Nat.log2 m : Int) + e
  let ex : Int := max lg emin
  let qe : Int := ex - f.p
  let sh : Nat := (qe - e).toNat
  let n : Nat := if e ≤ qe then m / 2 ^ sh else m * 2 ^ (e - qe).toNat
  let rem : Nat := if e ≤ qe then m % 2 ^ sh else 0
  let n' := if roundsUp mode neg (n % 2 == 1) (2 * rem) (2 ^ sh) then n + 1 else n
  let code : Nat := ((ex + f.bias - 1) * 2 ^ f.p).toNat + n'
  if f.maxCode ftop < code then
    if sat then (f.signed neg (f.maxCode ftop), flSat ||| flOf ||| flNx)
    else (f.overflow ftop mode neg, flOf ||| flNx)
  else (f.signed neg code, flagIf (rem ≠ 0) flNx ||| flagIf (rem ≠ 0 && lg < emin) flUf)

/-- Deliver an exact number in FP32 in a mode, without saturation (R253, R254, R257). -/
def toFp32 (mode : Nat) : Num → W32 × FFlags
  | .nan => (0x7FC00000, 0)
  | .inf neg => (BitVec.ofNat 32 (Fmt.fp32.signed neg Fmt.fp32.infCode), 0)
  | .fin neg m e =>
    if m = 0 then (BitVec.ofNat 32 (Fmt.fp32.signed neg 0), 0)
    else
      let r := Fmt.fp32.round false false mode neg m e
      (BitVec.ofNat 32 r.1, r.2)

/-- Narrow a number that FP32 holds to a format (R256); `sat` is the .sat suffix. -/
def Fmt.narrow (f : Fmt) (ftop sat : Bool) (mode : Nat) : Num → Nat × FFlags
  | .nan => (f.nanCode, 0)
  | .inf neg =>
    if sat || (f.fp8 && !ftop) then (f.signed neg (f.maxCode ftop), flSat) else (f.signed neg f.infCode, 0)
  | .fin neg m e =>
    if m = 0 then (f.signed neg 0, 0) else f.round ftop (sat || (f.fp8 && !ftop)) mode neg m e

/-- Read an FP32 value. -/
def num32 (w : W32) : Num := Fmt.fp32.read false w.toNat

/-- Widen a code to FP32 (R252): exact. -/
def Fmt.widen (f : Fmt) (ftop : Bool) (c : Nat) : W32 := (toFp32 0 (f.read ftop c)).1

/-- Narrow an FP32 value (R256). -/
def Fmt.narrowW (f : Fmt) (ftop sat : Bool) (mode : Nat) (w : W32) : Nat × FFlags := f.narrow ftop sat mode (num32 w)

end Sys2Proof.Machine
end

