-- ==== Sys2Proof/Machine/Float.lean ====
section
/-! DEFINITION. FP32 arithmetic with one rounding per result (R257, R258), conversions to and from integers (R309, R310),
seeds (R262, R263), the group sums of the matrix unit (R259) and the order of ranked lists (R269). -/
namespace Sys2Proof.Machine

/-- The canonical FP32 NaN (R252). -/
def nan32 : W32 := 0x7FC00000

/-- The signed integer of a magnitude over 2^e0, where e0 ≤ e. -/
def alignTo (e0 : Int) (neg : Bool) (m : Nat) (e : Int) : Int :=
  let v : Int := (m * 2 ^ (e - e0).toNat : Nat)
  if neg then -v else v

/-- The exact sum of two numbers, and whether ∞ − ∞ occurred (R255, R257). -/
def addNum (mode : Nat) : Num → Num → Num × Bool
  | .nan, _ => (.nan, false)
  | _, .nan => (.nan, false)
  | .inf a, .inf b => if a = b then (.inf a, false) else (.nan, true)
  | .inf a, .fin _ _ _ => (.inf a, false)
  | .fin _ _ _, .inf b => (.inf b, false)
  | .fin n1 m1 e1, .fin n2 m2 e2 =>
    let e := min e1 e2
    let v := alignTo e n1 m1 e1 + alignTo e n2 m2 e2
    if v = 0 then (.fin (if n1 = n2 then n1 else mode == 3) 0 e, false)
    else (.fin (decide (v < 0)) v.natAbs e, false)

/-- The exact product, and whether 0 × ∞ occurred (R257). -/
def mulNum : Num → Num → Num × Bool
  | .nan, _ => (.nan, false)
  | _, .nan => (.nan, false)
  | .inf a, .inf b => (.inf (a != b), false)
  | .inf a, .fin b m _ => if m = 0 then (.nan, true) else (.inf (a != b), false)
  | .fin a m _, .inf b => if m = 0 then (.nan, true) else (.inf (a != b), false)
  | .fin a m e, .fin b k g => (.fin (a != b) (m * k) (e + g), false)

/-- The opposite number. -/
def negNum : Num → Num
  | .nan => .nan
  | .inf a => .inf !a
  | .fin a m e => .fin (!a) m e

/-- Deliver an exact result with the invalid flag of its computation. -/
def deliver (mode : Nat) (r : Num × Bool) : W32 × FFlags :=
  let o := toFp32 mode r.1
  (o.1, o.2 ||| flagIf r.2 flNv)

/-- round(a + b) (R257). -/
def fadd32 (mode : Nat) (a b : W32) : W32 × FFlags := deliver mode (addNum mode (num32 a) (num32 b))
/-- round(a − b). -/
def fsub32 (mode : Nat) (a b : W32) : W32 × FFlags := deliver mode (addNum mode (num32 a) (negNum (num32 b)))
/-- round(a · b). -/
def fmul32 (mode : Nat) (a b : W32) : W32 × FFlags := deliver mode (mulNum (num32 a) (num32 b))
/-- round(±(a · b) + (±c)) with one rounding; 0 × ∞ is invalid even with a NaN addend. -/
def ffma32 (mode : Nat) (negP negC : Bool) (a b c : W32) : W32 × FFlags :=
  let p := mulNum (num32 a) (num32 b)
  let z := num32 c
  let r := addNum mode (if negP then negNum p.1 else p.1) (if negC then negNum z else z)
  deliver mode (r.1, r.2 || p.2)

/-- A number lies below another, −0 below +0 when `signed` (R258); false with a NaN. -/
def numLt (signed : Bool) : Num → Num → Bool
  | .nan, _ => false
  | _, .nan => false
  | .inf a, .inf b => a && !b
  | .inf a, .fin _ _ _ => a
  | .fin _ _ _, .inf b => !b
  | .fin n1 m1 e1, .fin n2 m2 e2 =>
    let e := min e1 e2
    let v1 := alignTo e n1 m1 e1
    let v2 := alignTo e n2 m2 e2
    decide (v1 < v2) || (signed && decide (m1 = 0) && decide (m2 = 0) && n1 && !n2)

/-- A value is a NaN. -/
def isNan32 (w : W32) : Bool := num32 w == .nan

/-- Minimum of R258. -/
def fmin32 (a b : W32) : W32 :=
  if isNan32 a then (if isNan32 b then nan32 else b)
  else if isNan32 b then a
  else if numLt true (num32 b) (num32 a) then b else a

/-- Maximum of R258. -/
def fmax32 (a b : W32) : W32 :=
  if isNan32 a then (if isNan32 b then nan32 else b)
  else if isNan32 b then a
  else if numLt true (num32 a) (num32 b) then b else a

/-- Ordered and equal, with +0 = −0 (R308). -/
def feq32 (a b : W32) : Bool :=
  !isNan32 a && !isNan32 b && !numLt false (num32 a) (num32 b) && !numLt false (num32 b) (num32 a)
/-- Ordered and less. -/
def flt32 (a b : W32) : Bool := numLt false (num32 a) (num32 b)
/-- Ordered and less or equal. -/
def fle32 (a b : W32) : Bool := flt32 a b || feq32 a b
/-- Unordered. -/
def fun32 (a b : W32) : Bool := isNan32 a || isNan32 b

/-- Round (−1)^neg · m · 2^e to an integer in a mode, and whether it was exact (R309). -/
def roundInt (mode : Nat) (neg : Bool) (m : Nat) (e : Int) : Int × Bool :=
  if 0 ≤ e then
    let v : Int := (m * 2 ^ e.toNat : Nat)
    (if neg then -v else v, true)
  else
    let sh := (-e).toNat
    let n := m / 2 ^ sh
    let rem := m % 2 ^ sh
    let n' := if roundsUp mode neg (n % 2 == 1) (2 * rem) (2 ^ sh) then n + 1 else n
    (if neg then -(n' : Int) else (n' : Int), decide (rem = 0))

/-- FP32 to a 32-bit integer between `lo` and `hi` (R309). -/
def fcvti32 (mode : Nat) (lo hi : Int) (w : W32) : W32 × FFlags :=
  match num32 w with
  | .nan => (0, flNv)
  | .inf neg => (BitVec.ofInt 32 (if neg then lo else hi), flNv)
  | .fin neg m e =>
    let r := roundInt mode neg m e
    if r.1 < lo then (BitVec.ofInt 32 lo, flNv)
    else if hi < r.1 then (BitVec.ofInt 32 hi, flNv)
    else (BitVec.ofInt 32 r.1, flagIf (!r.2) flNx)

/-- An integer to FP32 (R310). -/
def fcvtf32 (mode : Nat) (v : Int) : W32 × FFlags := toFp32 mode (.fin (decide (v < 0)) v.natAbs 0)

/-! ### Seeds (R262, R263) -/

/-- The largest n below 2^14 with n² ≤ v. -/
def isqrt14 (v : Nat) : Nat :=
  [13, 12, 11, 10, 9, 8, 7, 6, 5, 4, 3, 2, 1, 0].foldl
    (fun n i => if (n + 2 ^ i) * (n + 2 ^ i) ≤ v then n + 2 ^ i else n) 0

/-- E and t of R262 for m · 2^e, m ≠ 0. -/
def seedSplit (m : Nat) (e : Int) : Int × Nat :=
  let lg := Nat.log2 m
  (lg + e, if lg ≤ 11 then m * 2 ^ (11 - lg) - 2 ^ 11 else m / 2 ^ (lg - 11) - 2 ^ 11)

/-- Deliver a round14 value n · 2^k in FP32, with nx set exactly when it is not `exact` (R262). -/
def seedDeliver (neg : Bool) (n : Nat) (k : Int) (isExact : Num → Bool) : W32 × FFlags :=
  let r := Fmt.fp32.round false false 0 neg n k
  let w := BitVec.ofNat 32 r.1
  (w, (r.2 &&& (flUf ||| flOf)) ||| flagIf (!isExact (num32 w)) flNx)

/-- VRCPE of a number (R262, R263). -/
def rcpe32 (w : W32) : W32 × FFlags :=
  match num32 w with
  | .nan => (nan32, 0)
  | .inf neg => (BitVec.ofNat 32 (Fmt.fp32.signed neg 0), 0)
  | .fin neg m e =>
    if m = 0 then (BitVec.ofNat 32 (Fmt.fp32.signed neg Fmt.fp32.infCode), flDz)
    else
      let s := seedSplit m e
      let dd := 4097 + 2 * s.2
      let n := (2 ^ 27 + dd) / (2 * dd)
      seedDeliver neg n (-s.1 - 14) fun r => match r with
        | .fin _ rm re => decide (0 ≤ -(e + re)) && decide (m * rm = 2 ^ (-(e + re)).toNat)
        | _ => false

/-- VRSQE of a number (R262, R263). -/
def rsqe32 (w : W32) : W32 × FFlags :=
  match num32 w with
  | .nan => (nan32, 0)
  | .inf neg => if neg then (nan32, flNv) else (0, 0)
  | .fin neg m e =>
    if m = 0 then (BitVec.ofNat 32 (Fmt.fp32.signed neg Fmt.fp32.infCode), flDz)
    else if neg then (nan32, flNv)
    else
      let s := seedSplit m e
      let y := 4097 + 2 * s.2
      let b : Nat := if s.1 % 2 = 0 then 40 else 39
      let n := isqrt14 (2 ^ b / y)
      let n' := if (2 * n + 1) * (2 * n + 1) * y < 2 ^ (b + 2) then n + 1 else n
      let q : Int := if s.1 % 2 = 0 then s.1 / 2 else (s.1 - 1) / 2
      seedDeliver false n' (-q - 14) fun r => match r with
        | .fin _ rm re => decide (0 ≤ -(e + 2 * re)) && decide (m * (rm * rm) = 2 ^ (-(e + 2 * re)).toNat)
        | _ => false

/-! ### Matrix sums (R259) -/

/-- The exact sum of finite numbers and infinities of one sign. -/
def sumNum (mode : Nat) (acc : Num) : List Num → Num
  | [] => acc
  | x :: t => sumNum mode (addNum mode acc x).1 t

/-- One group: the exact sum of an accumulator and products, and whether an invalid case occurred (R257, R259): a NaN
operand, a 0 × ∞ product, or infinities of both signs give NaN, the last two with nv. -/
def groupSum (mode : Nat) (acc : Num) (ab : List (Num × Num)) : Num × Bool :=
  let ps := ab.map fun x => mulNum x.1 x.2
  let terms := acc :: ps.map (·.1)
  let bad := ps.any (·.2)
  if terms.any (· == .nan) then (.nan, bad)
  else if terms.any (· == .inf false) && terms.any (· == .inf true) then (.nan, true)
  else (sumNum mode acc (ps.map (·.1)), bad)

/-- Split a list into runs of 16. -/
def chunks16 {α : Type} : Nat → List α → List (List α)
  | 0, _ => []
  | _, [] => []
  | k + 1, l => l.take 16 :: chunks16 k (l.drop 16)

/-- acc(i, j) after the products of a row and a column, groups of 16 in ascending order (R259). -/
def dotFp32 (mode : Nat) (acc : W32) (ab : List (Num × Num)) : W32 × FFlags :=
  (chunks16 ab.length ab).foldl (fun r g =>
    let o := deliver mode (groupSum mode (num32 r.1) g)
    (o.1, r.2 ||| o.2)) (acc, 0)

/-! ### Ranked order (R269) -/

/-- Pair a precedes pair b; no value is a NaN. -/
def precedes (a b : W32 × W32) : Bool := flt32 b.1 a.1 || (feq32 a.1 b.1 && decide (a.2.toNat < b.2.toNat))

/-- Insert a candidate behind the pairs it does not precede. -/
def rankInsert (c : W32 × W32) : List (W32 × W32) → List (W32 × W32)
  | [] => [c]
  | x :: t => if precedes c x then c :: x :: t else x :: rankInsert c t

/-- Offer a candidate to a list of at most k pairs (R269, R270): the list, and whether a NaN was refused. -/
def rankOffer (k : Nat) (l : List (W32 × W32)) (c : W32 × W32) : List (W32 × W32) × Bool :=
  if isNan32 c.1 then (l, true) else ((rankInsert c l).take k, false)

end Sys2Proof.Machine
end

