-- ==== Sys2Proof/Config.lean ====
section
/-! DEFINITION. What the spec leaves to an implementation or names without defining: free values (no body, so no proof
can use a value of them) and the functions of outside standards that the spec names (SHAKE256, AES-XTS, AES key wrap,
ML-DSA-65). Assumptions 6 and 7 list them. -/
namespace Sys2Proof

/-- A free choice: the k-th value that the spec leaves open (replacement victims, a random draw's index). Log 7. -/
opaque Config.freeNat : Nat → Nat
/-- The energy in nJ of the k-th last-level fill charged (R35 event 8, R36); the spec gives no number. Log 50. -/
opaque Config.fillNj : Nat → Nat
/-- SHAKE256 with a 64-byte output (R24, R126), uninterpreted. Log 6. -/
opaque Config.shake256 : List Byte → BitVec 512
/-- AES-256-XTS encryption of one 256-byte data unit under a key pair and a tweak (R31), uninterpreted. Log 6. -/
opaque Config.xtsEncrypt : BitVec 512 → Nat → List Byte → List Byte
/-- AES-256-XTS decryption (R31), uninterpreted. Log 6. -/
opaque Config.xtsDecrypt : BitVec 512 → Nat → List Byte → List Byte
/-- AES key wrap of NIST SP 800-38F (R21): wrapping key, plain bytes, wrapped bytes; uninterpreted. Log 6. -/
opaque Config.keyWrap : W256 → List Byte → List Byte
/-- AES key unwrap (R22): none where the unwrap fails; uninterpreted. Log 6. -/
opaque Config.keyUnwrap : W256 → List Byte → Option (List Byte)
/-- The k-th XTS key pair that the Alafel core draws (R31). Log 6. -/
opaque Config.drbgXts : Nat → BitVec 512
/-- The k-th image key that the Alafel core draws (R126). Log 6. -/
opaque Config.drbgImageKey : Nat → W256
/-- Body bytes of the firmware image of boot stage 1 to 4 (R23). Log 6. -/
opaque Config.firmware : Nat → List Byte
/-- The key of the image of a stage is the root key, or a key signed by the root key (R23). Log 6. -/
opaque Config.imageKeyOk : Nat → Bool
/-- The ML-DSA-65 signature of the image of a stage verifies (R23). Log 6. -/
opaque Config.imageSigOk : Nat → Bool
/-- The security version number of the image of a stage (R23). Log 6. -/
opaque Config.imageVersion : Nat → Nat
/-- The security version fused for a stage (R23). Log 6. -/
opaque Config.fusedVersion : Nat → Nat
/-- ROM version and fuse image bytes, measured by measurement 0 (R24). Log 6. -/
opaque Config.romFuse : List Byte
/-- The certificate chain of slot 0, ending in the device identity key (R25). Log 6. -/
opaque Config.certChain : List Byte
/-- A signature with the device identity key over bytes (R25). Log 6. -/
opaque Config.identitySign : List Byte → List Byte
/-- The bytes of a response that the spec gives no layout for (R25), by request code and free counter. Log 6. -/
opaque Config.spdmBytes : Nat → Nat → List Byte
/-- AES-256-GCM encryption of the k-th sealed write of a port (R244), uninterpreted. Log 6. -/
opaque Config.gcmSeal : Nat → Nat → List Byte → List Byte
/-- The 64-byte tag write over sealed writes of a port (R244), uninterpreted. Log 6. -/
opaque Config.gcmTag : Nat → Nat → List Byte → BitVec 512
/-- The hash of a last-level line whose value modulo 6,144 is its set in its slice (R191: not architectural). Log 7. -/
opaque Config.llcSet : Nat → Nat
/-- Identity bytes at offset 0 of BAR0 (R12). Log 7. -/
opaque Config.identity : List Byte
/-- The layout version of an entry of the feature list (R17). Log 7. -/
opaque Config.featureVersion : Nat → BitVec 8

end Sys2Proof
end

