-- ==== Sys2Proof/Syntax.lean ====
section
/-! DEFINITION. The one inductive of instructions: one constructor per row of spec/opcode_table.json: control words,
command words, CSR rows, then device steps, each group in the table's order. Control words carry their fields as the
encoding gives them (R272 to R289). Command words carry the fields of their body (R291, R381, R403 to R410). -/
namespace Sys2Proof

/-- The fields that every command word shares (R291): knot 1 offset, knot 0 address bits 56:5, narrow, scope, knots. -/
structure CmdCommon where
  k1Off : BitVec 12
  k0 : BitVec 52
  narrow : Bool
  scope : Bool
  knots : BitVec 2
deriving DecidableEq, Repr, Inhabited

/-- The body of a matrix command (R381). `pitch` (bits 95:80) overlays vd, nregs_m1 and cseg of MM.ACCV, and `bound`
(bits 79:64) overlays lcore of MM.ACCST; the accessors below read the overlays. -/
structure MatBody where
  com : CmdCommon
  addr : W64
  aux : W32
  pitch : BitVec 16
  bound : BitVec 16
  handle : BitVec 4
  row0 : BitVec 7
  nrowsM1 : BitVec 7
  kdimM1 : BitVec 7
  vcols : BitVec 8
  src : BitVec 2
  fmt : BitVec 2
  chain : BitVec 2
  slot2 : BitVec 2
  slot : BitVec 2
  link : Bool
  relslot : Bool
  relplane : Bool
deriving DecidableEq, Repr, Inhabited

/-- The body of CP.COPY and CP.FILL (R403); for CP.FILL `src` is the 64-bit pattern. -/
structure CopyBody where
  com : CmdCommon
  src : W64
  dst : W64
  dkind : BitVec 2
  len : W32
deriving DecidableEq, Repr, Inhabited

/-- The body of CP.GATH and CP.SCAT (R404). -/
structure StrideBody where
  com : CmdCommon
  src : BitVec 57
  dst : BitVec 57
  pitch : W32
  rlenM1 : BitVec 16
  rowsM1 : BitVec 12
  dkind : BitVec 2
deriving DecidableEq, Repr, Inhabited

/-- The body of CP.MCAST (R405). -/
structure McastBody where
  com : CmdCommon
  src : W64
  off : BitVec 18
  koff : BitVec 18
  handle : BitVec 4
  mask : BitVec 16
  cluster : BitVec 7
  rk : Bool
  dkind : BitVec 2
  len : W32
deriving DecidableEq, Repr, Inhabited

/-- The body of CP.PEER (R406). -/
structure PeerBody where
  com : CmdCommon
  src : W64
  entry : BitVec 4
  off : BitVec 44
  rkOff : BitVec 28
  rk : Bool
  len : W32
deriving DecidableEq, Repr, Inhabited

/-- The body of XC.PLAN (R410). -/
structure PlanBody where
  com : CmdCommon
  planOff : BitVec 18
deriving DecidableEq, Repr, Inhabited

/-- The instructions, commands and device steps of spec/opcode_table.json. A device step (the last group) has no field:
what the agent that acts supplies (a number, a word, bytes) stands in the state's `op` (Machine/State.lean), and the
docstring of the step's meaning says which part of `op` it reads. -/
inductive Instr where
  | add (d : BitVec 6) (a : BitVec 6) (b : BitVec 6) -- ADD R301
  | sub (d : BitVec 6) (a : BitVec 6) (b : BitVec 6) -- SUB R301
  | mul (d : BitVec 6) (a : BitVec 6) (b : BitVec 6) -- MUL R301
  | mulh (d : BitVec 6) (a : BitVec 6) (b : BitVec 6) -- MULH R301
  | mulhn (d : BitVec 6) (a : BitVec 6) (b : BitVec 6) -- MULHN R301
  | div (d : BitVec 6) (a : BitVec 6) (b : BitVec 6) -- DIV R302
  | divn (d : BitVec 6) (a : BitVec 6) (b : BitVec 6) -- DIVN R302
  | rem (d : BitVec 6) (a : BitVec 6) (b : BitVec 6) -- REM R302
  | remn (d : BitVec 6) (a : BitVec 6) (b : BitVec 6) -- REMN R302
  | and_ (d : BitVec 6) (a : BitVec 6) (b : BitVec 6) -- AND R301
  | or_ (d : BitVec 6) (a : BitVec 6) (b : BitVec 6) -- OR R301
  | xor_ (d : BitVec 6) (a : BitVec 6) (b : BitVec 6) -- XOR R301
  | shl (d : BitVec 6) (a : BitVec 6) (b : BitVec 6) -- SHL R301
  | shr (d : BitVec 6) (a : BitVec 6) (b : BitVec 6) -- SHR R301
  | sra (d : BitVec 6) (a : BitVec 6) (b : BitVec 6) -- SRA R301
  | slt (d : BitVec 6) (a : BitVec 6) (b : BitVec 6) -- SLT R301
  | sltn (d : BitVec 6) (a : BitVec 6) (b : BitVec 6) -- SLTN R301
  | min_ (d : BitVec 6) (a : BitVec 6) (b : BitVec 6) -- MIN R301
  | max_ (d : BitVec 6) (a : BitVec 6) (b : BitVec 6) -- MAX R301
  | minn (d : BitVec 6) (a : BitVec 6) (b : BitVec 6) -- MINN R301
  | maxn (d : BitVec 6) (a : BitVec 6) (b : BitVec 6) -- MAXN R301
  | clz (d : BitVec 6) (a : BitVec 6) -- CLZ R301
  | ctz (d : BitVec 6) (a : BitVec 6) -- CTZ R301
  | popc (d : BitVec 6) (a : BitVec 6) -- POPC R301
  | sel (d : BitVec 6) (a : BitVec 6) (b : BitVec 6) -- SEL R301
  | addi (d : BitVec 6) (a : BitVec 6) (i : BitVec 14) -- ADDI R303
  | andi (d : BitVec 6) (a : BitVec 6) (i : BitVec 14) -- ANDI R303
  | ori (d : BitVec 6) (a : BitVec 6) (i : BitVec 14) -- ORI R303
  | xori (d : BitVec 6) (a : BitVec 6) (i : BitVec 14) -- XORI R303
  | shli (d : BitVec 6) (a : BitVec 6) (n : BitVec 6) -- SHLI R304
  | shri (d : BitVec 6) (a : BitVec 6) (n : BitVec 6) -- SHRI R304
  | srai (d : BitVec 6) (a : BitVec 6) (n : BitVec 6) -- SRAI R304
  | slti (d : BitVec 6) (a : BitVec 6) (i : BitVec 14) -- SLTI R303
  | sltni (d : BitVec 6) (a : BitVec 6) (i : BitVec 14) -- SLTNI R303
  | exts (d : BitVec 6) (a : BitVec 6) (p : BitVec 6) (w : BitVec 6) -- EXTS R305
  | extz (d : BitVec 6) (a : BitVec 6) (p : BitVec 6) (w : BitVec 6) -- EXTZ R305
  | ins (d : BitVec 6) (a : BitVec 6) (p : BitVec 6) (w : BitVec 6) -- INS R305
  | li (d : BitVec 6) (i : BitVec 20) -- LI R306
  | lih (d : BitVec 6) (i : BitVec 20) -- LIH R306
  | fadd (d : BitVec 6) (a : BitVec 6) (b : BitVec 6) -- FADD R307
  | fsub (d : BitVec 6) (a : BitVec 6) (b : BitVec 6) -- FSUB R307
  | fmul (d : BitVec 6) (a : BitVec 6) (b : BitVec 6) -- FMUL R307
  | ffma (d : BitVec 6) (a : BitVec 6) (b : BitVec 6) -- FFMA R307
  | fmin (d : BitVec 6) (a : BitVec 6) (b : BitVec 6) -- FMIN R307
  | fmax (d : BitVec 6) (a : BitVec 6) (b : BitVec 6) -- FMAX R307
  | fcmpEq (d : BitVec 6) (a : BitVec 6) (b : BitVec 6) -- FCMP_EQ R308
  | fcmpLt (d : BitVec 6) (a : BitVec 6) (b : BitVec 6) -- FCMP_LT R308
  | fcmpLe (d : BitVec 6) (a : BitVec 6) (b : BitVec 6) -- FCMP_LE R308
  | fcmpUn (d : BitVec 6) (a : BitVec 6) (b : BitVec 6) -- FCMP_UN R308
  | fcvtiI32 (d : BitVec 6) (a : BitVec 6) -- FCVTI_I32 R309
  | fcvtiN32 (d : BitVec 6) (a : BitVec 6) -- FCVTI_N32 R309
  | fcvtfI32 (d : BitVec 6) (a : BitVec 6) -- FCVTF_I32 R310
  | fcvtfN32 (d : BitVec 6) (a : BitVec 6) -- FCVTF_N32 R310
  | cbnd (d : BitVec 6) (a : BitVec 6) (b : BitVec 6) -- CBND R312
  | cbndx (d : BitVec 6) (a : BitVec 6) (b : BitVec 6) -- CBNDX R312
  | cperm (d : BitVec 6) (a : BitVec 6) (b : BitVec 6) -- CPERM R313
  | caddr (d : BitVec 6) (a : BitVec 6) (b : BitVec 6) -- CADDR R314
  | cinc (d : BitVec 6) (a : BitVec 6) (b : BitVec 6) -- CINC R314
  | cgetb (d : BitVec 6) (a : BitVec 6) -- CGETB R315
  | cgetl (d : BitVec 6) (a : BitVec 6) -- CGETL R315
  | cgetp (d : BitVec 6) (a : BitVec 6) -- CGETP R315
  | ctagt (d : BitVec 6) (a : BitVec 6) -- CTAGT R315
  | cdom (d : BitVec 6) (a : BitVec 6) -- CDOM R315
  | cmov (d : BitVec 6) (a : BitVec 6) -- CMOV R315
  | cclrt (d : BitVec 6) (a : BitVec 6) -- CCLRT R315
  | cinci (d : BitVec 6) (a : BitVec 6) (i : BitVec 14) -- CINCI R314
  | ldb (d : BitVec 6) (a : BitVec 6) (c : BitVec 2) (o : BitVec 9) -- LDB R324
  | ldbn (d : BitVec 6) (a : BitVec 6) (c : BitVec 2) (o : BitVec 9) -- LDBN R324
  | ldh (d : BitVec 6) (a : BitVec 6) (c : BitVec 2) (o : BitVec 9) -- LDH R324
  | ldhn (d : BitVec 6) (a : BitVec 6) (c : BitVec 2) (o : BitVec 9) -- LDHN R324
  | ldw (d : BitVec 6) (a : BitVec 6) (c : BitVec 2) (o : BitVec 9) -- LDW R324
  | ldwn (d : BitVec 6) (a : BitVec 6) (c : BitVec 2) (o : BitVec 9) -- LDWN R324
  | ldd (d : BitVec 6) (a : BitVec 6) (c : BitVec 2) (o : BitVec 9) -- LDD R324
  | ldc (d : BitVec 6) (a : BitVec 6) (c : BitVec 2) (o : BitVec 9) -- LDC R327
  | stb (a : BitVec 6) (b : BitVec 6) (c : BitVec 2) (o : BitVec 9) -- STB R325
  | sth (a : BitVec 6) (b : BitVec 6) (c : BitVec 2) (o : BitVec 9) -- STH R325
  | stw (a : BitVec 6) (b : BitVec 6) (c : BitVec 2) (o : BitVec 9) -- STW R325
  | std (a : BitVec 6) (b : BitVec 6) (c : BitVec 2) (o : BitVec 9) -- STD R325
  | stc (a : BitVec 6) (b : BitVec 6) (c : BitVec 2) (o : BitVec 9) -- STC R328
  | pref (a : BitVec 6) (c : BitVec 2) -- PREF R329
  | wbr (a : BitVec 6) (b : BitVec 6) -- WBR R330
  | invr (a : BitVec 6) (b : BitVec 6) -- INVR R330
  | fence (s : BitVec 2) -- FENCE R331
  | aadd (d : BitVec 6) (a : BitVec 6) (b : BitVec 6) (z : BitVec 1) (s : BitVec 2) (c : BitVec 2) -- AADD R332
  | aand (d : BitVec 6) (a : BitVec 6) (b : BitVec 6) (z : BitVec 1) (s : BitVec 2) (c : BitVec 2) -- AAND R332
  | aor (d : BitVec 6) (a : BitVec 6) (b : BitVec 6) (z : BitVec 1) (s : BitVec 2) (c : BitVec 2) -- AOR R332
  | axor (d : BitVec 6) (a : BitVec 6) (b : BitVec 6) (z : BitVec 1) (s : BitVec 2) (c : BitVec 2) -- AXOR R332
  | amin (d : BitVec 6) (a : BitVec 6) (b : BitVec 6) (z : BitVec 1) (s : BitVec 2) (c : BitVec 2) -- AMIN R332
  | amax (d : BitVec 6) (a : BitVec 6) (b : BitVec 6) (z : BitVec 1) (s : BitVec 2) (c : BitVec 2) -- AMAX R332
  | axchg (d : BitVec 6) (a : BitVec 6) (b : BitVec 6) (z : BitVec 1) (s : BitVec 2) (c : BitVec 2) -- AXCHG R332
  | acas (d : BitVec 6) (a : BitVec 6) (b : BitVec 6) (z : BitVec 1) (s : BitVec 2) (c : BitVec 2) -- ACAS R332
  | beq (a : BitVec 6) (b : BitVec 6) (w : BitVec 12) -- BEQ R316
  | bne (a : BitVec 6) (b : BitVec 6) (w : BitVec 12) -- BNE R316
  | blt (a : BitVec 6) (b : BitVec 6) (w : BitVec 12) -- BLT R316
  | bge (a : BitVec 6) (b : BitVec 6) (w : BitVec 12) -- BGE R316
  | bltn (a : BitVec 6) (b : BitVec 6) (w : BitVec 12) -- BLTN R316
  | bgen (a : BitVec 6) (b : BitVec 6) (w : BitVec 12) -- BGEN R316
  | jal (d : BitVec 6) (w : BitVec 20) -- JAL R317
  | jalr (d : BitVec 6) (a : BitVec 6) -- JALR R318
  | kinit (a : BitVec 6) (b : BitVec 6) -- KINIT R334
  | sig (a : BitVec 6) (b : BitVec 6) (t : BitVec 1) (s : BitVec 2) -- SIG R335
  | wait (d : BitVec 6) (a : BitVec 6) (b : BitVec 6) (s : BitVec 2) -- WAIT R336
  | kpeek (d : BitVec 6) (a : BitVec 6) -- KPEEK R337
  | kjoin (a : BitVec 6) -- KJOIN R337
  | waitm (d : BitVec 6) (a : BitVec 6) (b : BitVec 6) -- WAITM R338
  | chadd (a : BitVec 6) -- CHADD R339
  | ticket (d : BitVec 6) (a : BitVec 6) -- TICKET R344
  | qpush (a : BitVec 6) (b : BitVec 6) -- QPUSH R342
  | qpop (d : BitVec 6) (a : BitVec 6) (b : BitVec 6) -- QPOP R343
  | launch (a : BitVec 6) (b : BitVec 6) -- LAUNCH R345
  | spdef (h : BitVec 6) (a : BitVec 6) -- SPDEF R346
  | spadvp (h : BitVec 6) (a : BitVec 6) -- SPADVP R347
  | spadvc (h : BitVec 6) (a : BitVec 6) -- SPADVC R347
  | spwaitp (h : BitVec 6) (a : BitVec 6) -- SPWAITP R347
  | spwaitc (h : BitVec 6) (a : BitVec 6) -- SPWAITC R347
  | sbind (s : BitVec 6) (h : BitVec 6) (t : BitVec 6) -- SBIND R348
  | sunbind (s : BitVec 6) -- SUNBIND R348
  | srd (d : BitVec 6) (s : BitVec 6) -- SRD R349
  | bara (n : BitVec 6) (t : BitVec 1) -- BARA R350
  | baraX (n : BitVec 6) (t : BitVec 1) -- BARA_X R350
  | barw (n : BitVec 6) (t : BitVec 1) -- BARW R104
  | bar (n : BitVec 6) (t : BitVec 1) -- BAR R350
  | exch (n : BitVec 6) (t : BitVec 1) -- EXCH R411
  | vclaim (n : BitVec 6) -- VCLAIM R351
  | vgive (n : BitVec 6) -- VGIVE R153
  | tack (a : BitVec 6) -- TACK R352
  | untack -- UNTACK R353
  | bob (n : BitVec 6) (a : BitVec 6) -- BOB R354
  | csrr (d : BitVec 6) (c : BitVec 7) -- CSRR R413
  | csrw (d : BitVec 6) (a : BitVec 6) (c : BitVec 7) -- CSRW R413
  | csrs (d : BitVec 6) (a : BitVec 6) (c : BitVec 7) -- CSRS R413
  | csrc (d : BitVec 6) (a : BitVec 6) (c : BitVec 7) -- CSRC R413
  | trap (i : BitVec 20) -- TRAP R415
  | nop -- NOP R419
  | tret -- TRET R416
  | yield -- YIELD R417
  | done_ -- DONE R418
  | sendx -- SENDX R412
  | enqM (d : BitVec 6) (a : BitVec 6) (b : BitVec 6) -- ENQ_M R401
  | enqC (d : BitVec 6) (a : BitVec 6) (b : BitVec 6) -- ENQ_C R401
  | enqX (d : BitVec 6) (a : BitVec 6) (b : BitVec 6) -- ENQ_X R410
  | vadd (d : BitVec 7) (a : BitVec 7) (b : BitVec 7) (p : BitVec 3) -- VADD R359
  | vsub (d : BitVec 7) (a : BitVec 7) (b : BitVec 7) (p : BitVec 3) -- VSUB R359
  | vmul (d : BitVec 7) (a : BitVec 7) (b : BitVec 7) (p : BitVec 3) -- VMUL R359
  | vfma (d : BitVec 7) (a : BitVec 7) (b : BitVec 7) (p : BitVec 3) -- VFMA R359
  | vfms (d : BitVec 7) (a : BitVec 7) (b : BitVec 7) (p : BitVec 3) -- VFMS R359
  | vfnma (d : BitVec 7) (a : BitVec 7) (b : BitVec 7) (p : BitVec 3) -- VFNMA R359
  | vmin (d : BitVec 7) (a : BitVec 7) (b : BitVec 7) (p : BitVec 3) -- VMIN R359
  | vmax (d : BitVec 7) (a : BitVec 7) (b : BitVec 7) (p : BitVec 3) -- VMAX R359
  | vabs (d : BitVec 7) (a : BitVec 7) (p : BitVec 3) -- VABS R360
  | vneg (d : BitVec 7) (a : BitVec 7) (p : BitVec 3) -- VNEG R360
  | vrsqe (d : BitVec 7) (a : BitVec 7) (p : BitVec 3) -- VRSQE R361
  | vrcpe (d : BitVec 7) (a : BitVec 7) (p : BitVec 3) -- VRCPE R361
  | vcmp (c : BitVec 3) (d : BitVec 3) (a : BitVec 7) (b : BitVec 7) (p : BitVec 3) -- VCMP R363
  | vsel (d : BitVec 7) (a : BitVec 7) (b : BitVec 7) (p : BitVec 3) -- VSEL R364
  | vbcst (d : BitVec 7) (s : BitVec 6) (p : BitVec 3) -- VBCST R365
  | vext (d : BitVec 6) (a : BitVec 7) (l : BitVec 7) (p : BitVec 3) -- VEXT R366
  | vand (d : BitVec 7) (a : BitVec 7) (b : BitVec 7) (p : BitVec 3) -- VAND R362
  | vor (d : BitVec 7) (a : BitVec 7) (b : BitVec 7) (p : BitVec 3) -- VOR R362
  | vxor (d : BitVec 7) (a : BitVec 7) (b : BitVec 7) (p : BitVec 3) -- VXOR R362
  | vperm (d : BitVec 7) (a : BitVec 7) (b : BitVec 7) (p : BitVec 3) -- VPERM R367
  | vshl (d : BitVec 7) (a : BitVec 7) (b : BitVec 7) (p : BitVec 3) -- VSHL R362
  | vshr (d : BitVec 7) (a : BitVec 7) (b : BitVec 7) (p : BitVec 3) -- VSHR R362
  | vsra (d : BitVec 7) (a : BitVec 7) (b : BitVec 7) (p : BitVec 3) -- VSRA R362
  | viadd (d : BitVec 7) (a : BitVec 7) (b : BitVec 7) (p : BitVec 3) -- VIADD R362
  | visub (d : BitVec 7) (a : BitVec 7) (b : BitVec 7) (p : BitVec 3) -- VISUB R362
  | vimul (d : BitVec 7) (a : BitVec 7) (b : BitVec 7) (p : BitVec 3) -- VIMUL R362
  | vimin (d : BitVec 7) (a : BitVec 7) (b : BitVec 7) (p : BitVec 3) -- VIMIN R362
  | vimax (d : BitVec 7) (a : BitVec 7) (b : BitVec 7) (p : BitVec 3) -- VIMAX R362
  | vcvt (d : BitVec 7) (a : BitVec 7) (k : BitVec 7) (p : BitVec 3) -- VCVT R368
  | vpack (d : BitVec 7) (a : BitVec 7) (b : BitVec 7) (p : BitVec 3) -- VPACK R369
  | vunpk (d : BitVec 7) (a : BitVec 7) (b : BitVec 7) (p : BitVec 3) -- VUNPK R370
  | vsrd (d : BitVec 7) (s : BitVec 7) (p : BitVec 3) -- VSRD R376
  | vreda (d : BitVec 7) (a : BitVec 7) (p : BitVec 3) -- VREDA R371
  | vredx (d : BitVec 7) (a : BitVec 7) (p : BitVec 3) -- VREDX R371
  | vsift (d : BitVec 7) (a : BitVec 7) (b : BitVec 7) (p : BitVec 3) -- VSIFT R378
  | pset (d : BitVec 3) (s : BitVec 6) -- PSET R379
  | pand (d : BitVec 3) (a : BitVec 3) (b : BitVec 3) -- PAND R379
  | por (d : BitVec 3) (a : BitVec 3) (b : BitVec 3) -- POR R379
  | pnot (d : BitVec 3) (a : BitVec 3) -- PNOT R379
  | vgath (d : BitVec 7) (a : BitVec 7) (g : BitVec 6) (p : BitVec 3) (c : BitVec 2) -- VGATH R374
  | vscat (d : BitVec 7) (a : BitVec 7) (g : BitVec 6) (p : BitVec 3) (c : BitVec 2) -- VSCAT R374
  | vld (d : BitVec 7) (g : BitVec 6) (c : BitVec 2) (o : BitVec 11) -- VLD R372
  | vst (d : BitVec 7) (g : BitVec 6) (c : BitVec 2) (o : BitVec 11) -- VST R372
  | vldl (d : BitVec 7) (g : BitVec 6) (p : BitVec 3) (o : BitVec 10) -- VLDL R373
  | vstl (d : BitVec 7) (g : BitVec 6) (p : BitVec 3) (o : BitVec 10) -- VSTL R373
  | mmLdw (c : MatBody) -- MM_LDW R387
  | mmLdwQ (c : MatBody) -- MM_LDW_Q R387
  | mmSwap (c : MatBody) -- MM_SWAP R388
  | mmMma (c : MatBody) -- MM_MMA R389
  | mmMmaQ (c : MatBody) -- MM_MMA_Q R389
  | mmMmac (c : MatBody) -- MM_MMAC R389
  | mmMmacQ (c : MatBody) -- MM_MMAC_Q R389
  | mmZero (c : MatBody) -- MM_ZERO R392
  | mmRldef (c : MatBody) -- MM_RLDEF R395
  | mmAccst (c : MatBody) -- MM_ACCST R393
  | mmAccstSat (c : MatBody) -- MM_ACCST_SAT R393
  | mmAccv (c : MatBody) -- MM_ACCV R394
  | mmRlst (c : MatBody) -- MM_RLST R398
  | mmRlmrg (c : MatBody) -- MM_RLMRG R399
  | mmThr (c : MatBody) -- MM_THR R400
  | cpCopy (c : CopyBody) -- CP_COPY R403
  | cpMcast (c : McastBody) -- CP_MCAST R405
  | cpPeer (c : PeerBody) -- CP_PEER R406
  | cpFill (c : CopyBody) -- CP_FILL R403
  | cpGath (c : StrideBody) -- CP_GATH R404
  | cpScat (c : StrideBody) -- CP_SCAT R404
  | xcPlan (c : PlanBody) -- XC_PLAN R410
  | selvWrite (op : BitVec 2) (d a : BitVec 6) -- SELV_WRITE R166
  | chnWrite (op : BitVec 2) (d a : BitVec 6) (stall : Bool) -- CHN_WRITE R77
  | chlimWrite (op : BitVec 2) (d a : BitVec 6) -- CHLIM_WRITE R96
  | chmodeWrite (op : BitVec 2) (d a : BitVec 6) -- CHMODE_WRITE R77
  | fpCsrAccess (op : BitVec 2) (d a : BitVec 6) (csr : BitVec 7) -- FP_CSR_ACCESS R358
  | rlthrRead (d : BitVec 6) -- RLTHR_READ R400
  | evcntRead (d : BitVec 6) -- EVCNT_READ R34
  | capCsrRead (d : BitVec 6) (csr : BitVec 7) -- CAP_CSR_READ R172
  | tcauseWrite (op : BitVec 2) (d a : BitVec 6) -- TCAUSE_WRITE R169
  | illegalInstruction (w : W32) -- ILLEGAL_INSTRUCTION R290
  | hostWindowRead -- HOST_WINDOW_READ R10
  | hostWindowWrite -- HOST_WINDOW_WRITE R10
  | portLaneFailure -- PORT_LANE_FAILURE R13
  | portDown -- PORT_DOWN R14
  | peerSignalRecord -- PEER_SIGNAL_RECORD R15
  | peerPullRecord -- PEER_PULL_RECORD R15
  | peerRestorePull -- PEER_RESTORE_PULL R15
  | peerInboundWrite -- PEER_INBOUND_WRITE R243
  | restoreUnitRecord -- RESTORE_UNIT_RECORD R22
  | ppsLatch -- PPS_LATCH R16
  | holdoverTimeout -- HOLDOVER_TIMEOUT R16
  | powerOnReset -- POWER_ON_RESET R23
  | getVersion -- GET_VERSION R25
  | getCapabilities -- GET_CAPABILITIES R25
  | negotiateAlgorithms -- NEGOTIATE_ALGORITHMS R25
  | getDigests -- GET_DIGESTS R25
  | getCertificate -- GET_CERTIFICATE R25
  | challenge -- CHALLENGE R25
  | getMeasurements -- GET_MEASUREMENTS R26
  | keyExchange -- KEY_EXCHANGE R25
  | finish -- FINISH R25
  | keyUpdate -- KEY_UPDATE R25
  | heartbeat -- HEARTBEAT R25
  | endSession -- END_SESSION R25
  | tckInstall -- TCK_INSTALL R25
  | tckRemove -- TCK_REMOVE R25
  | spdmUnsupported -- SPDM_UNSUPPORTED R25
  | split -- SPLIT R29
  | merge -- MERGE R29
  | create -- CREATE R29
  | destroy -- DESTROY R29
  | destroyComplete -- DESTROY_COMPLETE R29
  | reserve -- RESERVE R32
  | unreserve -- UNRESERVE R32
  | squota -- SQUOTA R43
  | qon -- QON R41
  | qoff -- QOFF R41
  | qoffComplete -- QOFF_COMPLETE R41
  | checkpoint -- CHECKPOINT R19
  | checkpointComplete -- CHECKPOINT_COMPLETE R21
  | openRange -- OPEN R10
  | restore -- RESTORE R22
  | restoreComplete -- RESTORE_COMPLETE R22
  | vdPeriodStart -- VD_PERIOD_START R33
  | vdBudgetExhausted -- VD_BUDGET_EXHAUSTED R33
  | vdGraceExpired -- VD_GRACE_EXPIRED R118
  | superstepBoundary -- SUPERSTEP_BOUNDARY R117
  | saveComplete -- SAVE_COMPLETE R127
  | lazyFillComplete -- LAZY_FILL_COMPLETE R129
  | tableBaseWrite -- TABLE_BASE_WRITE R39
  | bitmapBaseWrite -- BITMAP_BASE_WRITE R39
  | notifyWrite -- NOTIFY_WRITE R42
  | doorbellWrite -- DOORBELL_WRITE R42
  | slotIdleTimeout -- SLOT_IDLE_TIMEOUT R46
  | launchPacket -- LAUNCH_PACKET R48
  | copyPacket -- COPY_PACKET R48
  | signalPacket -- SIGNAL_PACKET R48
  | waitPacket -- WAIT_PACKET R48
  | waitPacketSatisfied -- WAIT_PACKET_SATISFIED R48
  | waitPacketTimeout -- WAIT_PACKET_TIMEOUT R51
  | fencePacket -- FENCE_PACKET R48
  | fencePacketComplete -- FENCE_PACKET_COMPLETE R48
  | launchComplete -- LAUNCH_COMPLETE R49
  | builtEntryConsume -- BUILT_ENTRY_CONSUME R56
  | dispatchPass -- DISPATCH_PASS R59
  | launchHoldTimeout -- LAUNCH_HOLD_TIMEOUT R60
  | codeCopyLanded -- CODE_COPY_LANDED R61
  | codeCopyFailed -- CODE_COPY_FAILED R61
  | largeStepStart -- LARGE_STEP_START R116
  | vectorArbitrate -- VECTOR_ARBITRATE R68
  | matrixArbitrate -- MATRIX_ARBITRATE R69
  | chainedTileForward -- CHAINED_TILE_FORWARD R391
  | matrixCommandComplete -- MATRIX_COMMAND_COMPLETE R385
  | signalApply -- SIGNAL_APPLY R85
  | waitHomeArrival -- WAIT_HOME_ARRIVAL R86
  | snapshotJoin -- SNAPSHOT_JOIN R84
  | waitTimeout -- WAIT_TIMEOUT R336
  | waitmWake -- WAITM_WAKE R338
  | barrierRelease -- BARRIER_RELEASE R105
  | domload -- DOMLOAD R102
  | lendWrite -- LEND_WRITE R183
  | reqDivWrite -- REQ_DIV_WRITE R110
  | dividerRailReady -- DIVIDER_RAIL_READY R109
  | powerCapWrite -- POWER_CAP_WRITE R110
  | corePowerOff -- CORE_POWER_OFF R109
  | powerPeriod -- POWER_PERIOD R111
  | thermalMove -- THERMAL_MOVE R113
  | thermalMoveDone -- THERMAL_MOVE_DONE R114
  | energyExhausted -- ENERGY_EXHAUSTED R133
  | asyncTrapEntry -- ASYNC_TRAP_ENTRY R136
  | storeWritebackFault -- STORE_WRITEBACK_FAULT R140
  | engineFailure -- ENGINE_FAILURE R143
  | hardwareError -- HARDWARE_ERROR R37
  | halt -- HALT R145
  | resume -- RESUME R145
  | step -- STEP R145
  | rdreg -- RDREG R145
  | cancel -- CANCEL R146
  | breakpoint -- BREAK R145
  | wrreg -- WRREG R145
  | mapr -- MAPR R212
  | unmapr -- UNMAPR R212
  | mapp -- MAPP R212
  | dirty -- DIRTY R212
  | migrate -- MIGRATE R213
  | migrationComplete -- MIGRATION_COMPLETE R213
  | translationOpInvalid -- TRANSLATION_OP_INVALID R212
  | llcWritebackArrival -- LLC_WRITEBACK_ARRIVAL R191
  | loadDataArrival -- LOAD_DATA_ARRIVAL R139
  | copyBufferGrant -- COPY_BUFFER_GRANT R235
  | copyStart -- COPY_START R236
  | copySourceDone -- COPY_SOURCE_DONE R231
  | copyDataVisible -- COPY_DATA_VISIBLE R231
  | spoolReservationGrant -- SPOOL_RESERVATION_GRANT R239
  | spoolSlotCounted -- SPOOL_SLOT_COUNTED R239
  | multicastLanding -- MULTICAST_LANDING R242
  | exchangeSend -- EXCHANGE_SEND R248
  | exchangeLanding -- EXCHANGE_LANDING R249
  | strandEnd -- STRAND_END R418
  | registerWrite -- REGISTER_WRITE R38
  | portUp -- PORT_UP R14
  | restoreManifestArrival -- RESTORE_MANIFEST_ARRIVAL R22
  | thermLimitCleared -- THERM_LIMIT_CLEARED R113
  | homeAccessArrival -- HOME_ACCESS_ARRIVAL R178
  | writeAcknowledged -- WRITE_ACKNOWLEDGED R194
  | supervisorTrapResume -- SUPERVISOR_TRAP_RESUME R136
  | fetchFault -- FETCH_FAULT R165
deriving DecidableEq, Repr

end Sys2Proof
end

