-- ==== Sys2Proof/WellFormed.lean ====
section
/-! DEFINITION. Which terms of Instr stand for an encoding of the spec: the number limits of R276 and R284 to R288, the
ENQ pair rule of R290 and the common checks of a command word (R291). Device steps carry no encoding and need no check. -/
namespace Sys2Proof

/-- R276, R305: in major 0x09 the field must end within bit 63. -/
def wfField (p w : BitVec 6) : Bool := p.toNat + w.toNat + 1 ≤ 64
/-- R284: a spool handle number is 0 to 15. -/
def wfHandle (h : BitVec 6) : Bool := h.toNat ≤ 15
/-- R284: a stream register number is 0 to 7. -/
def wfStream (s : BitVec 6) : Bool := s.toNat ≤ 7
/-- R284, R157: an element type is 0 to 4. -/
def wfElem (t : BitVec 6) : Bool := t.toNat ≤ 4
/-- R285: a team barrier number is 0 to 15; a domain number is 0 to 63. -/
def wfBarrier (n : BitVec 6) (dom : BitVec 1) : Bool := dom == 1 || n.toNat ≤ 15
/-- R285: a granule count is 1 to 14. -/
def wfCount (n : BitVec 6) : Bool := 1 ≤ n.toNat && n.toNat ≤ 14
/-- R285: the body length field of BOB is 0 to 15. -/
def wfBody (n : BitVec 6) : Bool := n.toNat ≤ 15
/-- R290: the pair of an ENQ is even and not g0. -/
def wfPair (a : BitVec 6) : Bool := a.toNat % 2 == 0 && a != 0
/-- R288: the lane number of VEXT is 0 to 15. -/
def wfLane (l : BitVec 7) : Bool := l.toNat ≤ 15
/-- R288: the stream number of VSRD is 0 to 7. -/
def wfVStream (s : BitVec 7) : Bool := s.toNat ≤ 7
/-- R368: the conversion codes of VCVT. -/
def wfCvt (k : BitVec 7) : Bool := k.toNat ≤ 0x0B || (0x14 ≤ k.toNat && k.toNat ≤ 0x17)

/-- R291: the common fields of a command word that may name at most `maxKnots` knots and may (or may not) be narrow. -/
def wfCommon (maxKnots : Nat) (mayNarrow : Bool) (c : CmdCommon) : Bool :=
  c.knots.toNat ≤ maxKnots && (c.knots.toNat != 0 || c.k0 == 0) && (c.knots.toNat == 2 || c.k1Off == 0)
    && (mayNarrow || !c.narrow)

/-- The well-formedness of an instruction. -/
def Instr.wf : Instr → Bool
  | .exts _ _ p w => wfField p w
  | .extz _ _ p w => wfField p w
  | .ins _ _ p w => wfField p w
  | .spdef h _ => wfHandle h
  | .spadvp h _ => wfHandle h
  | .spadvc h _ => wfHandle h
  | .spwaitp h _ => wfHandle h
  | .spwaitc h _ => wfHandle h
  | .sbind s h t => wfStream s && wfHandle h && wfElem t
  | .sunbind s => wfStream s
  | .srd _ s => wfStream s
  | .bara n t => wfBarrier n t
  | .baraX n t => wfBarrier n t
  | .barw n t => wfBarrier n t
  | .bar n t => wfBarrier n t
  | .exch n t => wfBarrier n t
  | .vclaim n => wfCount n
  | .vgive n => wfCount n
  | .bob n _ => wfBody n
  | .enqM _ a _ => wfPair a
  | .enqC _ a _ => wfPair a
  | .enqX _ a _ => wfPair a
  | .vext _ _ l _ => wfLane l
  | .vcvt _ _ k _ => wfCvt k
  | .vsrd _ s _ => wfVStream s
  | .mmLdw c => wfCommon 1 false c.com
  | .mmLdwQ c => wfCommon 1 false c.com
  | .mmSwap c => wfCommon 1 false c.com
  | .mmMma c => wfCommon 1 false c.com
  | .mmMmaQ c => wfCommon 1 false c.com
  | .mmMmac c => wfCommon 1 false c.com
  | .mmMmacQ c => wfCommon 1 false c.com
  | .mmZero c => wfCommon 1 false c.com
  | .mmRldef c => wfCommon 1 false c.com
  | .mmAccst c => wfCommon 1 true c.com
  | .mmAccstSat c => wfCommon 1 true c.com
  | .mmAccv c => wfCommon 1 false c.com
  | .mmRlst c => wfCommon 1 false c.com
  | .mmRlmrg c => wfCommon 1 false c.com
  | .mmThr c => wfCommon 1 false c.com
  | .cpCopy c => wfCommon 2 true c.com
  | .cpMcast c => wfCommon 2 true c.com
  | .cpPeer c => wfCommon 2 true c.com
  | .cpFill c => wfCommon 1 true c.com
  | .cpGath c => wfCommon 2 true c.com
  | .cpScat c => wfCommon 2 true c.com
  | .xcPlan c => wfCommon 0 false c.com && !c.com.scope
  | _ => true

end Sys2Proof
end

