-- ==== Sys2Proof/Decode.lean ====
section
/-! DEFINITION. Decoding of control words (R272 to R290) and of command words (R291 to R296, R381, R403 to R410), and
the encoder. Decoding is total: a word that names no instruction gives none (R290). -/
namespace Sys2Proof

/-- An instruction behind a condition on must-be-zero and number fields (R290). -/
def guardI (b : Bool) (i : Instr) : Option Instr := if b then some i else none

/-- Bits 31:26, the major opcode (R272). -/
def fMajor (w : W32) : BitVec 6 := w.extractLsb' 26 6
/-- Bits 25:20: d of formats A, B and D, s1 of format C. -/
def fD (w : W32) : BitVec 6 := w.extractLsb' 20 6
/-- Bits 19:14: s1 of formats A and B, s2 of format C. -/
def fS1 (w : W32) : BitVec 6 := w.extractLsb' 14 6
/-- Bits 13:8: s2 of format A. -/
def fS2 (w : W32) : BitVec 6 := w.extractLsb' 8 6
/-- Bits 7:0: func of format A. -/
def fFunc (w : W32) : BitVec 8 := w.extractLsb' 0 8
/-- Bits 13:0: imm14. -/
def fI14 (w : W32) : BitVec 14 := w.extractLsb' 0 14
/-- Bits 19:0: imm20. -/
def fI20 (w : W32) : BitVec 20 := w.extractLsb' 0 20
/-- Bits 25:19: vd. -/
def fVd (w : W32) : BitVec 7 := w.extractLsb' 19 7
/-- Bits 18:12: va. -/
def fVa (w : W32) : BitVec 7 := w.extractLsb' 12 7
/-- Bits 11:5: vb. -/
def fVb (w : W32) : BitVec 7 := w.extractLsb' 5 7
/-- Bits 4:2: pred. -/
def fP (w : W32) : BitVec 3 := w.extractLsb' 2 3
/-- Bits 1:0: sub. -/
def fSub (w : W32) : BitVec 2 := w.extractLsb' 0 2

/-- Major 0x01 (R275). -/
def decInt (w : W32) : Option Instr :=
  let d := fD w; let a := fS1 w; let b := fS2 w
  match (fFunc w).toNat with
  | 0x00 => some (.add d a b) | 0x01 => some (.sub d a b) | 0x02 => some (.mul d a b)
  | 0x03 => some (.mulh d a b) | 0x04 => some (.mulhn d a b) | 0x05 => some (.div d a b)
  | 0x06 => some (.divn d a b) | 0x07 => some (.rem d a b) | 0x08 => some (.remn d a b)
  | 0x10 => some (.and_ d a b) | 0x11 => some (.or_ d a b) | 0x12 => some (.xor_ d a b)
  | 0x18 => some (.shl d a b) | 0x19 => some (.shr d a b) | 0x1A => some (.sra d a b)
  | 0x20 => some (.slt d a b) | 0x21 => some (.sltn d a b) | 0x22 => some (.min_ d a b)
  | 0x23 => some (.max_ d a b) | 0x24 => some (.minn d a b) | 0x25 => some (.maxn d a b)
  | 0x28 => guardI (b == 0) (.clz d a) | 0x29 => guardI (b == 0) (.ctz d a) | 0x2A => guardI (b == 0) (.popc d a)
  | 0x30 => some (.sel d a b)
  | _ => none

/-- Major 0x06 (R276). -/
def decShift (w : W32) : Option Instr :=
  let d := fD w; let a := fS1 w; let n : BitVec 6 := w.extractLsb' 0 6
  let z := (w.extractLsb' 6 6 : BitVec 6) == 0
  match (w.extractLsb' 12 2 : BitVec 2).toNat with
  | 0 => guardI z (.shli d a n) | 1 => guardI z (.shri d a n) | 2 => guardI z (.srai d a n)
  | _ => none

/-- Major 0x09 (R276, R305). -/
def decField (w : W32) : Option Instr :=
  let d := fD w; let a := fS1 w; let p : BitVec 6 := w.extractLsb' 6 6; let n : BitVec 6 := w.extractLsb' 0 6
  match (w.extractLsb' 12 2 : BitVec 2).toNat with
  | 0 => guardI (wfField p n) (.exts d a p n) | 1 => guardI (wfField p n) (.extz d a p n)
  | 2 => guardI (wfField p n) (.ins d a p n)
  | _ => none

/-- Major 0x0C (R277). -/
def decFloat (w : W32) : Option Instr :=
  let d := fD w; let a := fS1 w; let b := fS2 w
  match (fFunc w).toNat with
  | 0x00 => some (.fadd d a b) | 0x01 => some (.fsub d a b) | 0x02 => some (.fmul d a b)
  | 0x03 => some (.ffma d a b) | 0x04 => some (.fmin d a b) | 0x05 => some (.fmax d a b)
  | 0x08 => some (.fcmpEq d a b) | 0x09 => some (.fcmpLt d a b) | 0x0A => some (.fcmpLe d a b)
  | 0x0B => some (.fcmpUn d a b)
  | 0x10 => guardI (b == 0) (.fcvtiI32 d a) | 0x11 => guardI (b == 0) (.fcvtiN32 d a)
  | 0x18 => guardI (b == 0) (.fcvtfI32 d a) | 0x19 => guardI (b == 0) (.fcvtfN32 d a)
  | _ => none

/-- Major 0x0D (R278). -/
def decCap (w : W32) : Option Instr :=
  let d := fD w; let a := fS1 w; let b := fS2 w
  match (fFunc w).toNat with
  | 0x00 => some (.cbnd d a b) | 0x01 => some (.cbndx d a b) | 0x02 => some (.cperm d a b)
  | 0x03 => some (.caddr d a b) | 0x04 => some (.cinc d a b)
  | 0x08 => guardI (b == 0) (.cgetb d a) | 0x09 => guardI (b == 0) (.cgetl d a) | 0x0A => guardI (b == 0) (.cgetp d a)
  | 0x0B => guardI (b == 0) (.ctagt d a) | 0x0C => guardI (b == 0) (.cdom d a)
  | 0x10 => guardI (b == 0) (.cmov d a) | 0x11 => guardI (b == 0) (.cclrt d a)
  | _ => none

/-- Bits 13:11, the kind of a load or store (R279). -/
def fKind (w : W32) : BitVec 3 := w.extractLsb' 11 3
/-- Bits 10:9, cpol of a load or store (R279). -/
def fCpol (w : W32) : BitVec 2 := w.extractLsb' 9 2
/-- Bits 8:0, the offset of a load or store (R279). -/
def fOff (w : W32) : BitVec 9 := w.extractLsb' 0 9

/-- Major 0x10 (R279). -/
def decLoad (w : W32) : Option Instr :=
  let d := fD w; let a := fS1 w; let c := fCpol w; let o := fOff w
  match (fKind w).toNat with
  | 0 => some (.ldb d a c o) | 1 => some (.ldbn d a c o) | 2 => some (.ldh d a c o) | 3 => some (.ldhn d a c o)
  | 4 => some (.ldw d a c o) | 5 => some (.ldwn d a c o) | 6 => some (.ldd d a c o) | 7 => some (.ldc d a c o)
  | _ => none

/-- Major 0x11 (R279). -/
def decStore (w : W32) : Option Instr :=
  let a := fD w; let b := fS1 w; let c := fCpol w; let o := fOff w
  match (fKind w).toNat with
  | 0 => some (.stb a b c o) | 2 => some (.sth a b c o) | 4 => some (.stw a b c o)
  | 6 => some (.std a b c o) | 7 => some (.stc a b c o)
  | _ => none

/-- Major 0x12 (R280). -/
def decCache (w : W32) : Option Instr :=
  let d := fD w; let a := fS1 w; let b := fS2 w; let lo : BitVec 2 := w.extractLsb' 0 2
  match (w.extractLsb' 2 6 : BitVec 6).toNat with
  | 0 => guardI (d == 0 && b == 0) (.pref a lo)
  | 2 => match lo.toNat with
    | 0 => guardI (d == 0) (.wbr a b) | 1 => guardI (d == 0) (.invr a b) | _ => none
  | 4 => guardI (d == 0 && a == 0 && b == 0) (.fence lo)
  | _ => none

/-- Major 0x13 (R281). -/
def decAtomic (w : W32) : Option Instr :=
  let d := fD w; let a := fS1 w; let b := fS2 w
  let z : BitVec 1 := w.extractLsb' 4 1; let s : BitVec 2 := w.extractLsb' 2 2; let c : BitVec 2 := w.extractLsb' 0 2
  match (w.extractLsb' 5 3 : BitVec 3).toNat with
  | 0 => some (.aadd d a b z s c) | 1 => some (.aand d a b z s c) | 2 => some (.aor d a b z s c)
  | 3 => some (.axor d a b z s c) | 4 => some (.amin d a b z s c) | 5 => some (.amax d a b z s c)
  | 6 => some (.axchg d a b z s c) | 7 => some (.acas d a b z s c)
  | _ => none

/-- Majors 0x18 and 0x19 (R282). -/
def decBranch (nat : Bool) (w : W32) : Option Instr :=
  let a := fD w; let b := fS1 w; let o : BitVec 12 := w.extractLsb' 0 12
  match nat, (w.extractLsb' 12 2 : BitVec 2).toNat with
  | false, 0 => some (.beq a b o) | false, 1 => some (.bne a b o) | false, 2 => some (.blt a b o)
  | false, 3 => some (.bge a b o)
  | true, 0 => some (.bltn a b o) | true, 1 => some (.bgen a b o)
  | _, _ => none

/-- Major 0x1C (R283). -/
def decSync (w : W32) : Option Instr :=
  let d := fD w; let a := fS1 w; let b := fS2 w
  let sc : BitVec 2 := w.extractLsb' 0 2
  match (fFunc w).toNat with
  | 0x00 => guardI (d == 0) (.kinit a b)
  | 0x08 => guardI (d == 0) (.sig a b 0 sc) | 0x09 => guardI (d == 0) (.sig a b 0 sc)
  | 0x0A => guardI (d == 0) (.sig a b 0 sc) | 0x0B => guardI (d == 0) (.sig a b 0 sc)
  | 0x0C => guardI (d == 0) (.sig a b 1 sc) | 0x0D => guardI (d == 0) (.sig a b 1 sc)
  | 0x0E => guardI (d == 0) (.sig a b 1 sc) | 0x0F => guardI (d == 0) (.sig a b 1 sc)
  | 0x10 => some (.wait d a b sc) | 0x11 => some (.wait d a b sc)
  | 0x12 => some (.wait d a b sc) | 0x13 => some (.wait d a b sc)
  | 0x18 => guardI (b == 0) (.kpeek d a)
  | 0x19 => guardI (d == 0 && b == 0) (.kjoin a)
  | 0x1A => some (.waitm d a b)
  | 0x20 => guardI (d == 0 && b == 0) (.chadd a)
  | 0x28 => guardI (b == 0) (.ticket d a)
  | 0x30 => guardI (d == 0) (.qpush a b)
  | 0x31 => some (.qpop d a b)
  | 0x38 => guardI (d == 0) (.launch a b)
  | _ => none

/-- Major 0x1D (R284). -/
def decSpool (w : W32) : Option Instr :=
  let d := fD w; let a := fS1 w; let b := fS2 w
  match (fFunc w).toNat with
  | 0x00 => guardI (wfHandle d && b == 0) (.spdef d a)
  | 0x01 => guardI (wfHandle d && b == 0) (.spadvp d a)
  | 0x02 => guardI (wfHandle d && b == 0) (.spadvc d a)
  | 0x03 => guardI (wfHandle d && b == 0) (.spwaitp d a)
  | 0x04 => guardI (wfHandle d && b == 0) (.spwaitc d a)
  | 0x08 => guardI (wfStream d && wfHandle a && wfElem b) (.sbind d a b)
  | 0x09 => guardI (wfStream d && a == 0 && b == 0) (.sunbind d)
  | 0x10 => guardI (wfStream a && b == 0) (.srd d a)
  | _ => none

/-- Major 0x1E (R285). -/
def decBarrier (w : W32) : Option Instr :=
  let d := fD w; let n := fS1 w; let b := fS2 w; let t : BitVec 1 := w.extractLsb' 0 1
  let z := d == 0 && b == 0
  match (fFunc w).toNat with
  | 0x00 => guardI (z && wfBarrier n t) (.bara n t) | 0x01 => guardI (z && wfBarrier n t) (.bara n t)
  | 0x02 => guardI (z && wfBarrier n t) (.baraX n t) | 0x03 => guardI (z && wfBarrier n t) (.baraX n t)
  | 0x04 => guardI (z && wfBarrier n t) (.barw n t) | 0x05 => guardI (z && wfBarrier n t) (.barw n t)
  | 0x08 => guardI (z && wfBarrier n t) (.bar n t) | 0x09 => guardI (z && wfBarrier n t) (.bar n t)
  | 0x0A => guardI (z && wfBarrier n t) (.exch n t) | 0x0B => guardI (z && wfBarrier n t) (.exch n t)
  | 0x10 => guardI (z && wfCount n) (.vclaim n)
  | 0x11 => guardI (z && wfCount n) (.vgive n)
  | 0x18 => guardI z (.tack n)
  | 0x19 => guardI (z && n == 0) .untack
  | _ => none

/-- Major 0x20 (R286, R413). -/
def decCsr (w : W32) : Option Instr :=
  let d := fD w; let a := fS1 w; let c : BitVec 7 := w.extractLsb' 0 7
  let z := (w.extractLsb' 7 5 : BitVec 5) == 0
  match (w.extractLsb' 12 2 : BitVec 2).toNat with
  | 0 => guardI (z && a == 0) (.csrr d c)
  | 1 => guardI z (.csrw d a c) | 2 => guardI z (.csrs d a c) | 3 => guardI z (.csrc d a c)
  | _ => none

/-- Major 0x22 (R286). -/
def decSystem (w : W32) : Option Instr :=
  let z := fD w == 0 && fS1 w == 0 && fS2 w == 0
  match (fFunc w).toNat with
  | 0 => guardI z .nop | 1 => guardI z .tret | 2 => guardI z .yield | 3 => guardI z .done_ | 8 => guardI z .sendx
  | _ => none

/-- Major 0x23 (R286, R290). -/
def decEnq (w : W32) : Option Instr :=
  let d := fD w; let a := fS1 w; let b := fS2 w
  match (fFunc w).toNat with
  | 0 => guardI (wfPair a) (.enqM d a b) | 1 => guardI (wfPair a) (.enqC d a b) | 2 => guardI (wfPair a) (.enqX d a b)
  | _ => none

/-- Majors 0x30 to 0x39 (R287, R288). -/
def decVector (w : W32) : Option Instr :=
  let d := fVd w; let a := fVa w; let b := fVb w; let p := fP w
  match (fMajor w).toNat, (fSub w).toNat with
  | 0x30, 0 => some (.vadd d a b p) | 0x30, 1 => some (.vsub d a b p)
  | 0x30, 2 => some (.vmul d a b p) | 0x30, 3 => some (.vfma d a b p)
  | 0x31, 0 => some (.vfms d a b p) | 0x31, 1 => some (.vfnma d a b p)
  | 0x31, 2 => some (.vmin d a b p) | 0x31, 3 => some (.vmax d a b p)
  | 0x32, 0 => guardI (b == 0) (.vabs d a p) | 0x32, 1 => guardI (b == 0) (.vneg d a p)
  | 0x32, 2 => guardI (b == 0) (.vrsqe d a p) | 0x32, 3 => guardI (b == 0) (.vrcpe d a p)
  | 0x33, 0 => guardI ((w.extractLsb' 25 1 : BitVec 1) == 0) (.vcmp (w.extractLsb' 22 3) (w.extractLsb' 19 3) a b p)
  | 0x33, 1 => some (.vsel d a b p)
  | 0x33, 2 => guardI ((w.extractLsb' 18 1 : BitVec 1) == 0 && b == 0) (.vbcst d (w.extractLsb' 12 6) p)
  | 0x33, 3 => guardI ((w.extractLsb' 25 1 : BitVec 1) == 0 && wfLane b) (.vext (w.extractLsb' 19 6) a b p)
  | 0x34, 0 => some (.vand d a b p) | 0x34, 1 => some (.vor d a b p)
  | 0x34, 2 => some (.vxor d a b p) | 0x34, 3 => some (.vperm d a b p)
  | 0x35, 0 => some (.vshl d a b p) | 0x35, 1 => some (.vshr d a b p)
  | 0x35, 2 => some (.vsra d a b p) | 0x35, 3 => some (.viadd d a b p)
  | 0x36, 0 => some (.visub d a b p) | 0x36, 1 => some (.vimul d a b p)
  | 0x36, 2 => some (.vimin d a b p) | 0x36, 3 => some (.vimax d a b p)
  | 0x37, 0 => guardI (wfCvt b) (.vcvt d a b p) | 0x37, 1 => some (.vpack d a b p)
  | 0x37, 2 => some (.vunpk d a b p) | 0x37, 3 => guardI (wfVStream a && b == 0) (.vsrd d a p)
  | 0x38, 0 => guardI (b == 0) (.vreda d a p) | 0x38, 1 => guardI (b == 0) (.vredx d a p)
  | 0x38, 2 => some (.vsift d a b p)
  | 0x39, 0 => guardI ((w.extractLsb' 22 4 : BitVec 4) == 0 && (w.extractLsb' 18 1 : BitVec 1) == 0 && b == 0 && p == 0)
      (.pset (w.extractLsb' 19 3) (w.extractLsb' 12 6))
  | 0x39, 1 => guardI ((w.extractLsb' 22 4 : BitVec 4) == 0 && (w.extractLsb' 15 4 : BitVec 4) == 0
      && (w.extractLsb' 8 4 : BitVec 4) == 0 && p == 0)
      (.pand (w.extractLsb' 19 3) (w.extractLsb' 12 3) (w.extractLsb' 5 3))
  | 0x39, 2 => guardI ((w.extractLsb' 22 4 : BitVec 4) == 0 && (w.extractLsb' 15 4 : BitVec 4) == 0
      && (w.extractLsb' 8 4 : BitVec 4) == 0 && p == 0)
      (.por (w.extractLsb' 19 3) (w.extractLsb' 12 3) (w.extractLsb' 5 3))
  | 0x39, 3 => guardI ((w.extractLsb' 22 4 : BitVec 4) == 0 && (w.extractLsb' 15 4 : BitVec 4) == 0 && b == 0 && p == 0)
      (.pnot (w.extractLsb' 19 3) (w.extractLsb' 12 3))
  | _, _ => none

/-- The instruction that a control word names, or none where R290 makes it illegal. -/
def decodeWord (w : W32) : Option Instr :=
  let d := fD w; let a := fS1 w
  match (fMajor w).toNat with
  | 0x01 => decInt w
  | 0x02 => some (.addi d a (fI14 w)) | 0x03 => some (.andi d a (fI14 w))
  | 0x04 => some (.ori d a (fI14 w)) | 0x05 => some (.xori d a (fI14 w))
  | 0x06 => decShift w
  | 0x07 => some (.slti d a (fI14 w)) | 0x08 => some (.sltni d a (fI14 w))
  | 0x09 => decField w
  | 0x0A => some (.li d (fI20 w)) | 0x0B => some (.lih d (fI20 w))
  | 0x0C => decFloat w
  | 0x0D => decCap w
  | 0x0E => some (.cinci d a (fI14 w))
  | 0x10 => decLoad w | 0x11 => decStore w | 0x12 => decCache w | 0x13 => decAtomic w
  | 0x18 => decBranch false w | 0x19 => decBranch true w
  | 0x1A => some (.jal d (fI20 w))
  | 0x1B => guardI (fS2 w == 0 && fFunc w == 0) (.jalr d a)
  | 0x1C => decSync w | 0x1D => decSpool w | 0x1E => decBarrier w
  | 0x1F => guardI (wfBody d && fS2 w == 0 && fFunc w == 0) (.bob d a)
  | 0x20 => decCsr w
  | 0x21 => guardI (d == 0) (.trap (fI20 w))
  | 0x22 => decSystem w | 0x23 => decEnq w
  | 0x3A => guardI ((w.extractLsb' 11 1 : BitVec 1) == 0) (.vgath (fVd w) (fVa w) (w.extractLsb' 5 6) (fP w) (fSub w))
  | 0x3B => guardI ((w.extractLsb' 11 1 : BitVec 1) == 0) (.vscat (fVd w) (fVa w) (w.extractLsb' 5 6) (fP w) (fSub w))
  | 0x3C => some (.vld (fVd w) (w.extractLsb' 13 6) (w.extractLsb' 11 2) (w.extractLsb' 0 11))
  | 0x3D => some (.vst (fVd w) (w.extractLsb' 13 6) (w.extractLsb' 11 2) (w.extractLsb' 0 11))
  | 0x3E => some (.vldl (fVd w) (w.extractLsb' 13 6) (w.extractLsb' 10 3) (w.extractLsb' 0 10))
  | 0x3F => some (.vstl (fVd w) (w.extractLsb' 13 6) (w.extractLsb' 10 3) (w.extractLsb' 0 10))
  | _ => decVector w

/-! ### Command words -/

/-- The internal operations of R294, one for each op and variant. -/
inductive CmdOp where
  | ldw | ldwQ | swap | mma | mmaQ | mmac | mmacQ | zero | rldef | accst | accstSat | accv | rlst | rlmrg | thr
  | copy | mcast | peer | fill | gath | scat | plan
deriving DecidableEq, Repr, Inhabited

/-- The queue an internal operation belongs to (R294). -/
inductive CmdQueue where
  | matrix | copy | exchange
deriving DecidableEq, Repr

/-- R294: op in bits 14:4 and variant in bits 3:0 of a decode table entry; none where undefined. -/
def cmdOpOf (entry : BitVec 16) : Option CmdOp :=
  match bitsN entry 14 4, bitsN entry 3 0 with
  | 0x001, 0 => some .ldw | 0x001, 1 => some .ldwQ
  | 0x002, 0 => some .swap
  | 0x003, 0 => some .mma | 0x003, 1 => some .mmaQ
  | 0x004, 0 => some .mmac | 0x004, 1 => some .mmacQ
  | 0x005, 0 => some .zero | 0x006, 0 => some .rldef
  | 0x007, 0 => some .accst | 0x007, 1 => some .accstSat
  | 0x008, 0 => some .accv | 0x009, 0 => some .rlst | 0x00A, 0 => some .rlmrg | 0x00B, 0 => some .thr
  | 0x040, 0 => some .copy | 0x041, 0 => some .mcast | 0x042, 0 => some .peer
  | 0x043, 0 => some .fill | 0x044, 0 => some .gath | 0x045, 0 => some .scat
  | 0x080, 0 => some .plan
  | _, _ => none

/-- The queue column of R294. -/
def CmdOp.queue : CmdOp → CmdQueue
  | .copy | .mcast | .peer | .fill | .gath | .scat => .copy
  | .plan => .exchange
  | _ => .matrix

/-- The map 2 opcode of an operation (R295). -/
def CmdOp.opcode : CmdOp → BitVec 10
  | .ldw => 0x100 | .ldwQ => 0x101 | .swap => 0x102 | .mma => 0x104 | .mmaQ => 0x105 | .mmac => 0x106 | .mmacQ => 0x107
  | .zero => 0x108 | .rldef => 0x10A | .accst => 0x10C | .accstSat => 0x10D | .accv => 0x10E | .rlst => 0x110
  | .rlmrg => 0x112 | .thr => 0x114
  | .copy => 0x200 | .mcast => 0x201 | .peer => 0x202 | .fill => 0x203 | .gath => 0x204 | .scat => 0x205
  | .plan => 0x300

/-- A decode table: the non-zero entries by opcode (R293); every other entry is 0x0000. -/
abbrev DecodeTable := List (Nat × BitVec 16)

/-- Entry `opcode` of a decode table. -/
def tableEntry (t : DecodeTable) (opcode : Nat) : BitVec 16 :=
  match t.find? (fun e => e.1 == opcode) with
  | some e => e.2
  | none => 0

/-- Map 2, the native map (R295). -/
def map2 : DecodeTable :=
  [(0x100, 0x8010), (0x101, 0x8011), (0x102, 0x8020), (0x104, 0x8030), (0x105, 0x8031), (0x106, 0x8040), (0x107, 0x8041),
   (0x108, 0x8050), (0x10A, 0x8060), (0x10C, 0x8070), (0x10D, 0x8071), (0x10E, 0x8080), (0x110, 0x8090), (0x112, 0x80A0),
   (0x114, 0x80B0)] ++
  [(0x200, 0x8400), (0x201, 0x8410), (0x202, 0x8420), (0x203, 0x8430), (0x204, 0x8440), (0x205, 0x8450), (0x300, 0x8800)]

/-- Map 1, the S200 opcodes (R296). -/
def map1 : DecodeTable :=
  [(0x011, 0x8010), (0x012, 0x8020), (0x013, 0x8030), (0x014, 0x8050), (0x015, 0x8070), (0x016, 0x8071), (0x017, 0x8080),
   (0x021, 0x8400), (0x022, 0x8430), (0x023, 0x8440), (0x024, 0x8450), (0x025, 0x8420)]

/-- The common fields of a command word (R291). -/
def decCommon (w : W256) : CmdCommon :=
  ⟨w.extractLsb' 244 12, w.extractLsb' 192 52, w.getLsbD 13, w.getLsbD 12, w.extractLsb' 10 2⟩

/-- The body of a matrix command (R381). -/
def decMat (w : W256) : MatBody :=
  ⟨decCommon w, w.extractLsb' 128 64, w.extractLsb' 96 32, w.extractLsb' 80 16, w.extractLsb' 64 16, w.extractLsb' 60 4,
   w.extractLsb' 53 7, w.extractLsb' 46 7, w.extractLsb' 39 7, w.extractLsb' 31 8, w.extractLsb' 29 2, w.extractLsb' 27 2,
   w.extractLsb' 25 2, w.extractLsb' 23 2, w.extractLsb' 21 2, w.getLsbD 20, w.getLsbD 19, w.getLsbD 18⟩

/-- The body of CP.COPY and CP.FILL (R403). -/
def decCopy (w : W256) : CopyBody :=
  ⟨decCommon w, w.extractLsb' 128 64, w.extractLsb' 64 64, w.extractLsb' 62 2, w.extractLsb' 16 32⟩

/-- The body of CP.GATH and CP.SCAT (R404). -/
def decStride (w : W256) : StrideBody :=
  ⟨decCommon w, w.extractLsb' 135 57, w.extractLsb' 78 57, w.extractLsb' 46 32, w.extractLsb' 30 16, w.extractLsb' 18 12,
   w.extractLsb' 16 2⟩

/-- The body of CP.MCAST (R405). -/
def decMcast (w : W256) : McastBody :=
  ⟨decCommon w, w.extractLsb' 128 64, w.extractLsb' 110 18, w.extractLsb' 92 18, w.extractLsb' 88 4, w.extractLsb' 72 16,
   w.extractLsb' 65 7, w.getLsbD 64, w.extractLsb' 62 2, w.extractLsb' 16 32⟩

/-- The body of CP.PEER (R406). -/
def decPeer (w : W256) : PeerBody :=
  ⟨decCommon w, w.extractLsb' 128 64, w.extractLsb' 124 4, w.extractLsb' 80 44, w.extractLsb' 52 28, w.getLsbD 51,
   w.extractLsb' 16 32⟩

/-- The body of XC.PLAN (R410). -/
def decPlan (w : W256) : PlanBody := ⟨decCommon w, w.extractLsb' 16 18⟩

/-- Bits 15:14 of a command word and the zero bits of the body for the operation (R291, R381, R403 to R410). -/
def cmdZeroOk (o : CmdOp) (w : W256) : Bool :=
  (w.extractLsb' 14 2 : BitVec 2) == 0 &&
  match o with
  | .copy | .fill | .mcast => (w.extractLsb' 48 14 : BitVec 14) == 0
  | .gath | .scat => true
  | .peer => (w.extractLsb' 48 3 : BitVec 3) == 0
  | .plan => (w.extractLsb' 34 158 : BitVec 158) == 0
  | _ => (w.extractLsb' 16 2 : BitVec 2) == 0

/-- The command that a word means once its opcode has decoded to `o` (R293, R294). -/
def cmdInstr (o : CmdOp) (w : W256) : Instr :=
  match o with
  | .ldw => .mmLdw (decMat w) | .ldwQ => .mmLdwQ (decMat w) | .swap => .mmSwap (decMat w) | .mma => .mmMma (decMat w)
  | .mmaQ => .mmMmaQ (decMat w) | .mmac => .mmMmac (decMat w) | .mmacQ => .mmMmacQ (decMat w)
  | .zero => .mmZero (decMat w) | .rldef => .mmRldef (decMat w) | .accst => .mmAccst (decMat w)
  | .accstSat => .mmAccstSat (decMat w) | .accv => .mmAccv (decMat w) | .rlst => .mmRlst (decMat w)
  | .rlmrg => .mmRlmrg (decMat w) | .thr => .mmThr (decMat w)
  | .copy => .cpCopy (decCopy w) | .mcast => .cpMcast (decMcast w) | .peer => .cpPeer (decPeer w)
  | .fill => .cpFill (decCopy w) | .gath => .cpGath (decStride w) | .scat => .cpScat (decStride w)
  | .plan => .xcPlan (decPlan w)

/-- The command that a 256-bit word names under a decode table: none where the entry is not valid or undefined (R293,
R294), where a must-be-zero bit is set, or where the common fields break R291. -/
def decodeCommand (t : DecodeTable) (w : W256) : Option Instr :=
  let e := tableEntry t (bitsN w 9 0)
  if e.getLsbD 15 then
    match cmdOpOf e with
    | some o => guardI (cmdZeroOk o w && (cmdInstr o w).wf) (cmdInstr o w)
    | none => none
  else none

/-! ### The encoder -/

/-- The control word of an instruction, written from the formats of R272 and the maps of R274 to R289. -/
def encodeWord : Instr → Option W32
  | .add d a b => some (0x1#6 ++ d ++ a ++ b ++ 0x0#8 : BitVec 32)
  | .sub d a b => some (0x1#6 ++ d ++ a ++ b ++ 0x1#8 : BitVec 32)
  | .mul d a b => some (0x1#6 ++ d ++ a ++ b ++ 0x2#8 : BitVec 32)
  | .mulh d a b => some (0x1#6 ++ d ++ a ++ b ++ 0x3#8 : BitVec 32)
  | .mulhn d a b => some (0x1#6 ++ d ++ a ++ b ++ 0x4#8 : BitVec 32)
  | .div d a b => some (0x1#6 ++ d ++ a ++ b ++ 0x5#8 : BitVec 32)
  | .divn d a b => some (0x1#6 ++ d ++ a ++ b ++ 0x6#8 : BitVec 32)
  | .rem d a b => some (0x1#6 ++ d ++ a ++ b ++ 0x7#8 : BitVec 32)
  | .remn d a b => some (0x1#6 ++ d ++ a ++ b ++ 0x8#8 : BitVec 32)
  | .and_ d a b => some (0x1#6 ++ d ++ a ++ b ++ 0x10#8 : BitVec 32)
  | .or_ d a b => some (0x1#6 ++ d ++ a ++ b ++ 0x11#8 : BitVec 32)
  | .xor_ d a b => some (0x1#6 ++ d ++ a ++ b ++ 0x12#8 : BitVec 32)
  | .shl d a b => some (0x1#6 ++ d ++ a ++ b ++ 0x18#8 : BitVec 32)
  | .shr d a b => some (0x1#6 ++ d ++ a ++ b ++ 0x19#8 : BitVec 32)
  | .sra d a b => some (0x1#6 ++ d ++ a ++ b ++ 0x1A#8 : BitVec 32)
  | .slt d a b => some (0x1#6 ++ d ++ a ++ b ++ 0x20#8 : BitVec 32)
  | .sltn d a b => some (0x1#6 ++ d ++ a ++ b ++ 0x21#8 : BitVec 32)
  | .min_ d a b => some (0x1#6 ++ d ++ a ++ b ++ 0x22#8 : BitVec 32)
  | .max_ d a b => some (0x1#6 ++ d ++ a ++ b ++ 0x23#8 : BitVec 32)
  | .minn d a b => some (0x1#6 ++ d ++ a ++ b ++ 0x24#8 : BitVec 32)
  | .maxn d a b => some (0x1#6 ++ d ++ a ++ b ++ 0x25#8 : BitVec 32)
  | .clz d a => some (0x1#6 ++ d ++ a ++ 0x0#6 ++ 0x28#8 : BitVec 32)
  | .ctz d a => some (0x1#6 ++ d ++ a ++ 0x0#6 ++ 0x29#8 : BitVec 32)
  | .popc d a => some (0x1#6 ++ d ++ a ++ 0x0#6 ++ 0x2A#8 : BitVec 32)
  | .sel d a b => some (0x1#6 ++ d ++ a ++ b ++ 0x30#8 : BitVec 32)
  | .addi d a i => some (0x2#6 ++ d ++ a ++ i : BitVec 32)
  | .andi d a i => some (0x3#6 ++ d ++ a ++ i : BitVec 32)
  | .ori d a i => some (0x4#6 ++ d ++ a ++ i : BitVec 32)
  | .xori d a i => some (0x5#6 ++ d ++ a ++ i : BitVec 32)
  | .shli d a n => some (0x6#6 ++ d ++ a ++ 0x0#8 ++ n : BitVec 32)
  | .shri d a n => some (0x6#6 ++ d ++ a ++ 0x40#8 ++ n : BitVec 32)
  | .srai d a n => some (0x6#6 ++ d ++ a ++ 0x80#8 ++ n : BitVec 32)
  | .slti d a i => some (0x7#6 ++ d ++ a ++ i : BitVec 32)
  | .sltni d a i => some (0x8#6 ++ d ++ a ++ i : BitVec 32)
  | .exts d a p w => some (0x9#6 ++ d ++ a ++ 0x0#2 ++ p ++ w : BitVec 32)
  | .extz d a p w => some (0x9#6 ++ d ++ a ++ 0x1#2 ++ p ++ w : BitVec 32)
  | .ins d a p w => some (0x9#6 ++ d ++ a ++ 0x2#2 ++ p ++ w : BitVec 32)
  | .li d i => some (0xA#6 ++ d ++ i : BitVec 32)
  | .lih d i => some (0xB#6 ++ d ++ i : BitVec 32)
  | .fadd d a b => some (0xC#6 ++ d ++ a ++ b ++ 0x0#8 : BitVec 32)
  | .fsub d a b => some (0xC#6 ++ d ++ a ++ b ++ 0x1#8 : BitVec 32)
  | .fmul d a b => some (0xC#6 ++ d ++ a ++ b ++ 0x2#8 : BitVec 32)
  | .ffma d a b => some (0xC#6 ++ d ++ a ++ b ++ 0x3#8 : BitVec 32)
  | .fmin d a b => some (0xC#6 ++ d ++ a ++ b ++ 0x4#8 : BitVec 32)
  | .fmax d a b => some (0xC#6 ++ d ++ a ++ b ++ 0x5#8 : BitVec 32)
  | .fcmpEq d a b => some (0xC#6 ++ d ++ a ++ b ++ 0x8#8 : BitVec 32)
  | .fcmpLt d a b => some (0xC#6 ++ d ++ a ++ b ++ 0x9#8 : BitVec 32)
  | .fcmpLe d a b => some (0xC#6 ++ d ++ a ++ b ++ 0xA#8 : BitVec 32)
  | .fcmpUn d a b => some (0xC#6 ++ d ++ a ++ b ++ 0xB#8 : BitVec 32)
  | .fcvtiI32 d a => some (0xC#6 ++ d ++ a ++ 0x0#6 ++ 0x10#8 : BitVec 32)
  | .fcvtiN32 d a => some (0xC#6 ++ d ++ a ++ 0x0#6 ++ 0x11#8 : BitVec 32)
  | .fcvtfI32 d a => some (0xC#6 ++ d ++ a ++ 0x0#6 ++ 0x18#8 : BitVec 32)
  | .fcvtfN32 d a => some (0xC#6 ++ d ++ a ++ 0x0#6 ++ 0x19#8 : BitVec 32)
  | .cbnd d a b => some (0xD#6 ++ d ++ a ++ b ++ 0x0#8 : BitVec 32)
  | .cbndx d a b => some (0xD#6 ++ d ++ a ++ b ++ 0x1#8 : BitVec 32)
  | .cperm d a b => some (0xD#6 ++ d ++ a ++ b ++ 0x2#8 : BitVec 32)
  | .caddr d a b => some (0xD#6 ++ d ++ a ++ b ++ 0x3#8 : BitVec 32)
  | .cinc d a b => some (0xD#6 ++ d ++ a ++ b ++ 0x4#8 : BitVec 32)
  | .cgetb d a => some (0xD#6 ++ d ++ a ++ 0x0#6 ++ 0x8#8 : BitVec 32)
  | .cgetl d a => some (0xD#6 ++ d ++ a ++ 0x0#6 ++ 0x9#8 : BitVec 32)
  | .cgetp d a => some (0xD#6 ++ d ++ a ++ 0x0#6 ++ 0xA#8 : BitVec 32)
  | .ctagt d a => some (0xD#6 ++ d ++ a ++ 0x0#6 ++ 0xB#8 : BitVec 32)
  | .cdom d a => some (0xD#6 ++ d ++ a ++ 0x0#6 ++ 0xC#8 : BitVec 32)
  | .cmov d a => some (0xD#6 ++ d ++ a ++ 0x0#6 ++ 0x10#8 : BitVec 32)
  | .cclrt d a => some (0xD#6 ++ d ++ a ++ 0x0#6 ++ 0x11#8 : BitVec 32)
  | .cinci d a i => some (0xE#6 ++ d ++ a ++ i : BitVec 32)
  | .ldb d a c o => some (0x10#6 ++ d ++ a ++ 0x0#3 ++ c ++ o : BitVec 32)
  | .ldbn d a c o => some (0x10#6 ++ d ++ a ++ 0x1#3 ++ c ++ o : BitVec 32)
  | .ldh d a c o => some (0x10#6 ++ d ++ a ++ 0x2#3 ++ c ++ o : BitVec 32)
  | .ldhn d a c o => some (0x10#6 ++ d ++ a ++ 0x3#3 ++ c ++ o : BitVec 32)
  | .ldw d a c o => some (0x10#6 ++ d ++ a ++ 0x4#3 ++ c ++ o : BitVec 32)
  | .ldwn d a c o => some (0x10#6 ++ d ++ a ++ 0x5#3 ++ c ++ o : BitVec 32)
  | .ldd d a c o => some (0x10#6 ++ d ++ a ++ 0x6#3 ++ c ++ o : BitVec 32)
  | .ldc d a c o => some (0x10#6 ++ d ++ a ++ 0x7#3 ++ c ++ o : BitVec 32)
  | .stb a b c o => some (0x11#6 ++ a ++ b ++ 0x0#3 ++ c ++ o : BitVec 32)
  | .sth a b c o => some (0x11#6 ++ a ++ b ++ 0x2#3 ++ c ++ o : BitVec 32)
  | .stw a b c o => some (0x11#6 ++ a ++ b ++ 0x4#3 ++ c ++ o : BitVec 32)
  | .std a b c o => some (0x11#6 ++ a ++ b ++ 0x6#3 ++ c ++ o : BitVec 32)
  | .stc a b c o => some (0x11#6 ++ a ++ b ++ 0x7#3 ++ c ++ o : BitVec 32)
  | .pref a c => some (0x12#6 ++ 0x0#6 ++ a ++ 0x0#6 ++ 0x0#6 ++ c : BitVec 32)
  | .wbr a b => some (0x12#6 ++ 0x0#6 ++ a ++ b ++ 0x8#8 : BitVec 32)
  | .invr a b => some (0x12#6 ++ 0x0#6 ++ a ++ b ++ 0x9#8 : BitVec 32)
  | .fence s => some (0x12#6 ++ 0x0#6 ++ 0x0#6 ++ 0x0#6 ++ 0x4#6 ++ s : BitVec 32)
  | .aadd d a b z s c => some (0x13#6 ++ d ++ a ++ b ++ 0x0#3 ++ z ++ s ++ c : BitVec 32)
  | .aand d a b z s c => some (0x13#6 ++ d ++ a ++ b ++ 0x1#3 ++ z ++ s ++ c : BitVec 32)
  | .aor d a b z s c => some (0x13#6 ++ d ++ a ++ b ++ 0x2#3 ++ z ++ s ++ c : BitVec 32)
  | .axor d a b z s c => some (0x13#6 ++ d ++ a ++ b ++ 0x3#3 ++ z ++ s ++ c : BitVec 32)
  | .amin d a b z s c => some (0x13#6 ++ d ++ a ++ b ++ 0x4#3 ++ z ++ s ++ c : BitVec 32)
  | .amax d a b z s c => some (0x13#6 ++ d ++ a ++ b ++ 0x5#3 ++ z ++ s ++ c : BitVec 32)
  | .axchg d a b z s c => some (0x13#6 ++ d ++ a ++ b ++ 0x6#3 ++ z ++ s ++ c : BitVec 32)
  | .acas d a b z s c => some (0x13#6 ++ d ++ a ++ b ++ 0x7#3 ++ z ++ s ++ c : BitVec 32)
  | .beq a b w => some (0x18#6 ++ a ++ b ++ 0x0#2 ++ w : BitVec 32)
  | .bne a b w => some (0x18#6 ++ a ++ b ++ 0x1#2 ++ w : BitVec 32)
  | .blt a b w => some (0x18#6 ++ a ++ b ++ 0x2#2 ++ w : BitVec 32)
  | .bge a b w => some (0x18#6 ++ a ++ b ++ 0x3#2 ++ w : BitVec 32)
  | .bltn a b w => some (0x19#6 ++ a ++ b ++ 0x0#2 ++ w : BitVec 32)
  | .bgen a b w => some (0x19#6 ++ a ++ b ++ 0x1#2 ++ w : BitVec 32)
  | .jal d w => some (0x1A#6 ++ d ++ w : BitVec 32)
  | .jalr d a => some (0x1B#6 ++ d ++ a ++ 0x0#6 ++ 0x0#8 : BitVec 32)
  | .kinit a b => some (0x1C#6 ++ 0x0#6 ++ a ++ b ++ 0x0#8 : BitVec 32)
  | .sig a b t s => some (0x1C#6 ++ 0x0#6 ++ a ++ b ++ 0x1#5 ++ t ++ s : BitVec 32)
  | .wait d a b s => some (0x1C#6 ++ d ++ a ++ b ++ 0x4#6 ++ s : BitVec 32)
  | .kpeek d a => some (0x1C#6 ++ d ++ a ++ 0x0#6 ++ 0x18#8 : BitVec 32)
  | .kjoin a => some (0x1C#6 ++ 0x0#6 ++ a ++ 0x0#6 ++ 0x19#8 : BitVec 32)
  | .waitm d a b => some (0x1C#6 ++ d ++ a ++ b ++ 0x1A#8 : BitVec 32)
  | .chadd a => some (0x1C#6 ++ 0x0#6 ++ a ++ 0x0#6 ++ 0x20#8 : BitVec 32)
  | .ticket d a => some (0x1C#6 ++ d ++ a ++ 0x0#6 ++ 0x28#8 : BitVec 32)
  | .qpush a b => some (0x1C#6 ++ 0x0#6 ++ a ++ b ++ 0x30#8 : BitVec 32)
  | .qpop d a b => some (0x1C#6 ++ d ++ a ++ b ++ 0x31#8 : BitVec 32)
  | .launch a b => some (0x1C#6 ++ 0x0#6 ++ a ++ b ++ 0x38#8 : BitVec 32)
  | .spdef h a => some (0x1D#6 ++ h ++ a ++ 0x0#6 ++ 0x0#8 : BitVec 32)
  | .spadvp h a => some (0x1D#6 ++ h ++ a ++ 0x0#6 ++ 0x1#8 : BitVec 32)
  | .spadvc h a => some (0x1D#6 ++ h ++ a ++ 0x0#6 ++ 0x2#8 : BitVec 32)
  | .spwaitp h a => some (0x1D#6 ++ h ++ a ++ 0x0#6 ++ 0x3#8 : BitVec 32)
  | .spwaitc h a => some (0x1D#6 ++ h ++ a ++ 0x0#6 ++ 0x4#8 : BitVec 32)
  | .sbind s h t => some (0x1D#6 ++ s ++ h ++ t ++ 0x8#8 : BitVec 32)
  | .sunbind s => some (0x1D#6 ++ s ++ 0x0#6 ++ 0x0#6 ++ 0x9#8 : BitVec 32)
  | .srd d s => some (0x1D#6 ++ d ++ s ++ 0x0#6 ++ 0x10#8 : BitVec 32)
  | .bara n t => some (0x1E#6 ++ 0x0#6 ++ n ++ 0x0#6 ++ 0x0#7 ++ t : BitVec 32)
  | .baraX n t => some (0x1E#6 ++ 0x0#6 ++ n ++ 0x0#6 ++ 0x1#7 ++ t : BitVec 32)
  | .barw n t => some (0x1E#6 ++ 0x0#6 ++ n ++ 0x0#6 ++ 0x2#7 ++ t : BitVec 32)
  | .bar n t => some (0x1E#6 ++ 0x0#6 ++ n ++ 0x0#6 ++ 0x4#7 ++ t : BitVec 32)
  | .exch n t => some (0x1E#6 ++ 0x0#6 ++ n ++ 0x0#6 ++ 0x5#7 ++ t : BitVec 32)
  | .vclaim n => some (0x1E#6 ++ 0x0#6 ++ n ++ 0x0#6 ++ 0x10#8 : BitVec 32)
  | .vgive n => some (0x1E#6 ++ 0x0#6 ++ n ++ 0x0#6 ++ 0x11#8 : BitVec 32)
  | .tack a => some (0x1E#6 ++ 0x0#6 ++ a ++ 0x0#6 ++ 0x18#8 : BitVec 32)
  | .untack => some (0x1E#6 ++ 0x0#6 ++ 0x0#6 ++ 0x0#6 ++ 0x19#8 : BitVec 32)
  | .bob n a => some (0x1F#6 ++ n ++ a ++ 0x0#6 ++ 0x0#8 : BitVec 32)
  | .csrr d c => some (0x20#6 ++ d ++ 0x0#6 ++ 0x0#7 ++ c : BitVec 32)
  | .csrw d a c => some (0x20#6 ++ d ++ a ++ 0x20#7 ++ c : BitVec 32)
  | .csrs d a c => some (0x20#6 ++ d ++ a ++ 0x40#7 ++ c : BitVec 32)
  | .csrc d a c => some (0x20#6 ++ d ++ a ++ 0x60#7 ++ c : BitVec 32)
  | .trap i => some (0x21#6 ++ 0x0#6 ++ i : BitVec 32)
  | .nop => some (0x22#6 ++ 0x0#6 ++ 0x0#6 ++ 0x0#6 ++ 0x0#8 : BitVec 32)
  | .tret => some (0x22#6 ++ 0x0#6 ++ 0x0#6 ++ 0x0#6 ++ 0x1#8 : BitVec 32)
  | .yield => some (0x22#6 ++ 0x0#6 ++ 0x0#6 ++ 0x0#6 ++ 0x2#8 : BitVec 32)
  | .done_ => some (0x22#6 ++ 0x0#6 ++ 0x0#6 ++ 0x0#6 ++ 0x3#8 : BitVec 32)
  | .sendx => some (0x22#6 ++ 0x0#6 ++ 0x0#6 ++ 0x0#6 ++ 0x8#8 : BitVec 32)
  | .enqM d a b => some (0x23#6 ++ d ++ a ++ b ++ 0x0#8 : BitVec 32)
  | .enqC d a b => some (0x23#6 ++ d ++ a ++ b ++ 0x1#8 : BitVec 32)
  | .enqX d a b => some (0x23#6 ++ d ++ a ++ b ++ 0x2#8 : BitVec 32)
  | .vadd d a b p => some (0x30#6 ++ d ++ a ++ b ++ p ++ 0x0#2 : BitVec 32)
  | .vsub d a b p => some (0x30#6 ++ d ++ a ++ b ++ p ++ 0x1#2 : BitVec 32)
  | .vmul d a b p => some (0x30#6 ++ d ++ a ++ b ++ p ++ 0x2#2 : BitVec 32)
  | .vfma d a b p => some (0x30#6 ++ d ++ a ++ b ++ p ++ 0x3#2 : BitVec 32)
  | .vfms d a b p => some (0x31#6 ++ d ++ a ++ b ++ p ++ 0x0#2 : BitVec 32)
  | .vfnma d a b p => some (0x31#6 ++ d ++ a ++ b ++ p ++ 0x1#2 : BitVec 32)
  | .vmin d a b p => some (0x31#6 ++ d ++ a ++ b ++ p ++ 0x2#2 : BitVec 32)
  | .vmax d a b p => some (0x31#6 ++ d ++ a ++ b ++ p ++ 0x3#2 : BitVec 32)
  | .vabs d a p => some (0x32#6 ++ d ++ a ++ 0x0#7 ++ p ++ 0x0#2 : BitVec 32)
  | .vneg d a p => some (0x32#6 ++ d ++ a ++ 0x0#7 ++ p ++ 0x1#2 : BitVec 32)
  | .vrsqe d a p => some (0x32#6 ++ d ++ a ++ 0x0#7 ++ p ++ 0x2#2 : BitVec 32)
  | .vrcpe d a p => some (0x32#6 ++ d ++ a ++ 0x0#7 ++ p ++ 0x3#2 : BitVec 32)
  | .vcmp c d a b p => some (0x33#6 ++ 0x0#1 ++ c ++ d ++ a ++ b ++ p ++ 0x0#2 : BitVec 32)
  | .vsel d a b p => some (0x33#6 ++ d ++ a ++ b ++ p ++ 0x1#2 : BitVec 32)
  | .vbcst d s p => some (0x33#6 ++ d ++ 0x0#1 ++ s ++ 0x0#7 ++ p ++ 0x2#2 : BitVec 32)
  | .vext d a l p => some (0x33#6 ++ 0x0#1 ++ d ++ a ++ l ++ p ++ 0x3#2 : BitVec 32)
  | .vand d a b p => some (0x34#6 ++ d ++ a ++ b ++ p ++ 0x0#2 : BitVec 32)
  | .vor d a b p => some (0x34#6 ++ d ++ a ++ b ++ p ++ 0x1#2 : BitVec 32)
  | .vxor d a b p => some (0x34#6 ++ d ++ a ++ b ++ p ++ 0x2#2 : BitVec 32)
  | .vperm d a b p => some (0x34#6 ++ d ++ a ++ b ++ p ++ 0x3#2 : BitVec 32)
  | .vshl d a b p => some (0x35#6 ++ d ++ a ++ b ++ p ++ 0x0#2 : BitVec 32)
  | .vshr d a b p => some (0x35#6 ++ d ++ a ++ b ++ p ++ 0x1#2 : BitVec 32)
  | .vsra d a b p => some (0x35#6 ++ d ++ a ++ b ++ p ++ 0x2#2 : BitVec 32)
  | .viadd d a b p => some (0x35#6 ++ d ++ a ++ b ++ p ++ 0x3#2 : BitVec 32)
  | .visub d a b p => some (0x36#6 ++ d ++ a ++ b ++ p ++ 0x0#2 : BitVec 32)
  | .vimul d a b p => some (0x36#6 ++ d ++ a ++ b ++ p ++ 0x1#2 : BitVec 32)
  | .vimin d a b p => some (0x36#6 ++ d ++ a ++ b ++ p ++ 0x2#2 : BitVec 32)
  | .vimax d a b p => some (0x36#6 ++ d ++ a ++ b ++ p ++ 0x3#2 : BitVec 32)
  | .vcvt d a k p => some (0x37#6 ++ d ++ a ++ k ++ p ++ 0x0#2 : BitVec 32)
  | .vpack d a b p => some (0x37#6 ++ d ++ a ++ b ++ p ++ 0x1#2 : BitVec 32)
  | .vunpk d a b p => some (0x37#6 ++ d ++ a ++ b ++ p ++ 0x2#2 : BitVec 32)
  | .vsrd d s p => some (0x37#6 ++ d ++ s ++ 0x0#7 ++ p ++ 0x3#2 : BitVec 32)
  | .vreda d a p => some (0x38#6 ++ d ++ a ++ 0x0#7 ++ p ++ 0x0#2 : BitVec 32)
  | .vredx d a p => some (0x38#6 ++ d ++ a ++ 0x0#7 ++ p ++ 0x1#2 : BitVec 32)
  | .vsift d a b p => some (0x38#6 ++ d ++ a ++ b ++ p ++ 0x2#2 : BitVec 32)
  | .pset d s => some (0x39#6 ++ 0x0#4 ++ d ++ 0x0#1 ++ s ++ 0x0#7 ++ 0x0#3 ++ 0x0#2 : BitVec 32)
  | .pand d a b => some (0x39#6 ++ 0x0#4 ++ d ++ 0x0#4 ++ a ++ 0x0#4 ++ b ++ 0x0#3 ++ 0x1#2 : BitVec 32)
  | .por d a b => some (0x39#6 ++ 0x0#4 ++ d ++ 0x0#4 ++ a ++ 0x0#4 ++ b ++ 0x0#3 ++ 0x2#2 : BitVec 32)
  | .pnot d a => some (0x39#6 ++ 0x0#4 ++ d ++ 0x0#4 ++ a ++ 0x0#7 ++ 0x0#3 ++ 0x3#2 : BitVec 32)
  | .vgath d a g p c => some (0x3A#6 ++ d ++ a ++ 0x0#1 ++ g ++ p ++ c : BitVec 32)
  | .vscat d a g p c => some (0x3B#6 ++ d ++ a ++ 0x0#1 ++ g ++ p ++ c : BitVec 32)
  | .vld d g c o => some (0x3C#6 ++ d ++ g ++ c ++ o : BitVec 32)
  | .vst d g c o => some (0x3D#6 ++ d ++ g ++ c ++ o : BitVec 32)
  | .vldl d g p o => some (0x3E#6 ++ d ++ g ++ p ++ o : BitVec 32)
  | .vstl d g p o => some (0x3F#6 ++ d ++ g ++ p ++ o : BitVec 32)
  | _ => none

/-- A command word from its common fields, its 176 body bits and its opcode (R291). -/
def encCommon (c : CmdCommon) (body : BitVec 176) (opcode : BitVec 10) : W256 :=
  c.k1Off ++ c.k0 ++ body ++ 0#2 ++ BitVec.ofBool c.narrow ++ BitVec.ofBool c.scope ++ c.knots ++ opcode

/-- The body bits of a matrix command (R381). -/
def encMat (c : MatBody) : BitVec 176 :=
  c.addr ++ c.aux ++ c.pitch ++ c.bound ++ c.handle ++ c.row0 ++ c.nrowsM1 ++ c.kdimM1 ++ c.vcols ++ c.src ++ c.fmt
    ++ c.chain ++ c.slot2 ++ c.slot ++ BitVec.ofBool c.link ++ BitVec.ofBool c.relslot ++ BitVec.ofBool c.relplane ++ 0#2

/-- The command word of a command, with its map 2 opcode (R295, R381, R403 to R410). -/
def encodeCommand : Instr → Option W256
  | .mmLdw c => some (encCommon c.com (encMat c) 0x100)
  | .mmLdwQ c => some (encCommon c.com (encMat c) 0x101)
  | .mmSwap c => some (encCommon c.com (encMat c) 0x102)
  | .mmMma c => some (encCommon c.com (encMat c) 0x104)
  | .mmMmaQ c => some (encCommon c.com (encMat c) 0x105)
  | .mmMmac c => some (encCommon c.com (encMat c) 0x106)
  | .mmMmacQ c => some (encCommon c.com (encMat c) 0x107)
  | .mmZero c => some (encCommon c.com (encMat c) 0x108)
  | .mmRldef c => some (encCommon c.com (encMat c) 0x10A)
  | .mmAccst c => some (encCommon c.com (encMat c) 0x10C)
  | .mmAccstSat c => some (encCommon c.com (encMat c) 0x10D)
  | .mmAccv c => some (encCommon c.com (encMat c) 0x10E)
  | .mmRlst c => some (encCommon c.com (encMat c) 0x110)
  | .mmRlmrg c => some (encCommon c.com (encMat c) 0x112)
  | .mmThr c => some (encCommon c.com (encMat c) 0x114)
  | .cpCopy c => some (encCommon c.com (c.src ++ c.dst ++ c.dkind ++ 0#14 ++ c.len) 0x200)
  | .cpMcast c => some (encCommon c.com
      (c.src ++ c.off ++ c.koff ++ c.handle ++ c.mask ++ c.cluster ++ BitVec.ofBool c.rk ++ c.dkind ++ 0#14 ++ c.len) 0x201)
  | .cpPeer c => some (encCommon c.com (c.src ++ c.entry ++ c.off ++ c.rkOff ++ BitVec.ofBool c.rk ++ 0#3 ++ c.len) 0x202)
  | .cpFill c => some (encCommon c.com (c.src ++ c.dst ++ c.dkind ++ 0#14 ++ c.len) 0x203)
  | .cpGath c => some (encCommon c.com (c.src ++ c.dst ++ c.pitch ++ c.rlenM1 ++ c.rowsM1 ++ c.dkind) 0x204)
  | .cpScat c => some (encCommon c.com (c.src ++ c.dst ++ c.pitch ++ c.rlenM1 ++ c.rowsM1 ++ c.dkind) 0x205)
  | .xcPlan c => some (encCommon c.com (0#158 ++ c.planOff) 0x300)
  | _ => none

/-- Bytes of a word, least significant first (R165: little-endian). -/
def bytesLE (n : Nat) (w : Nat) : List Byte :=
  match n with
  | 0 => []
  | n + 1 => BitVec.ofNat 8 w :: bytesLE n (w / 256)

/-- The number that a little-endian byte list holds. -/
def natLE : List Byte → Nat
  | [] => 0
  | b :: bs => b.toNat + 256 * natLE bs

/-- The words of a well-formed instruction, as bytes in the order memory holds them; device steps have none. -/
def encode (i : Instr) : List Byte :=
  match encodeWord i with
  | some w => bytesLE 4 w.toNat
  | none =>
    match encodeCommand i with
    | some w => bytesLE 32 w.toNat
    | none => []

/-- Decode one control word from bytes, and give the rest of the bytes. -/
def decodeBytes : List Byte → Option (Instr × List Byte)
  | b0 :: b1 :: b2 :: b3 :: rest =>
    match decodeWord (BitVec.ofNat 32 (natLE [b0, b1, b2, b3])) with
    | some i => some (i, rest)
    | none => none
  | _ => none

/-- The instruction the decoder reads from an instruction whose bits are `w`: a control word of 32 bits, or for a wider
count a command word of 256 bits under map 2. -/
def decodeTableWord (nbits w : Nat) : Option Instr :=
  if nbits ≤ 32 then (decodeBytes (bytesLE 4 (w % 2 ^ nbits))).map Prod.fst
  else decodeCommand map2 (BitVec.ofNat 256 (w % 2 ^ nbits))

end Sys2Proof
end

