-- ==== Sys2Proof/Machine/Table.lean ====
section
/-! DEFINITION. Finite tables by number and memory banks, as lists in one canonical form. A `Tbl` is sorted by key with
no key twice. A `Memory` lists (address, byte) pairs with addresses strictly rising and no byte 0, since an unlisted
address reads 0 (log 2). A `Bank` adds the capability tag of each 16-byte granule (R200) and the poison of each 64-byte
sector (R144). -/
namespace Sys2Proof.Machine

/-- A table by number: keys strictly rising. -/
abbrev Tbl (α : Type) := List (Nat × α)

/-- The entry of key `k`. -/
def Tbl.find {α : Type} : Tbl α → Nat → Option α
  | [], _ => none
  | (j, x) :: t, k => if j = k then some x else Tbl.find t k

/-- The entry of key `k`, or a default. -/
def Tbl.getD {α : Type} (t : Tbl α) (k : Nat) (d : α) : α :=
  match t.find k with
  | some x => x
  | none => d

/-- Write the entry of key `k`. -/
def Tbl.put {α : Type} : Tbl α → Nat → α → Tbl α
  | [], k, x => [(k, x)]
  | (j, y) :: t, k, x => if k < j then (k, x) :: (j, y) :: t else if k = j then (k, x) :: t else (j, y) :: Tbl.put t k x

/-- Remove the entry of key `k`. -/
def Tbl.del {α : Type} : Tbl α → Nat → Tbl α
  | [], _ => []
  | (j, y) :: t, k => if j = k then t else (j, y) :: Tbl.del t k

/-- Keys rise strictly from above `lo`. -/
def Tbl.sortedFrom {α : Type} : Nat → Tbl α → Bool
  | _, [] => true
  | lo, (j, _) :: t => decide (lo ≤ j) && Tbl.sortedFrom (j + 1) t

/-- The canonical form of a table. -/
def Tbl.wf {α : Type} (t : Tbl α) : Bool := Tbl.sortedFrom 0 t

/-- A sparse memory: (address, byte) pairs. -/
abbrev Memory := List Host.Cell

/-- What an unlisted address reads as (log 2). -/
def Memory.blank : Byte := 0

/-- Read one byte. -/
def Memory.read : Memory → Nat → Byte
  | [], _ => Memory.blank
  | (j, x) :: t, a => if j = a then x else Memory.read t a

/-- Write one byte; writing what an unlisted address reads as removes the entry. -/
def Memory.write : Memory → Nat → Byte → Memory
  | [], a, x => if x = Memory.blank then [] else [(a, x)]
  | (j, y) :: t, a, x =>
    if a < j then (if x = Memory.blank then (j, y) :: t else (a, x) :: (j, y) :: t)
    else if a = j then (if x = Memory.blank then t else (a, x) :: t)
    else (j, y) :: Memory.write t a x

/-- Addresses rise strictly from `lo` and no entry is the blank byte. -/
def Memory.wfFrom : Nat → Memory → Bool
  | _, [] => true
  | lo, (j, x) :: t => decide (lo ≤ j) && decide (x ≠ Memory.blank) && Memory.wfFrom (j + 1) t

/-- The canonical form of a memory. -/
def Memory.wf (m : Memory) : Bool := Memory.wfFrom 0 m

/-- Insert a number into a strictly rising list. -/
def insertNat (k : Nat) : List Nat → List Nat
  | [] => [k]
  | j :: t => if k < j then k :: j :: t else if k = j then j :: t else j :: insertNat k t

/-- Remove a number from a list. -/
def removeNat (k : Nat) : List Nat → List Nat
  | [] => []
  | j :: t => if j = k then t else j :: removeNat k t

/-- One memory bank: bytes, the granules whose tag is 1, and for each poisoned 64-byte sector the bytes written since. -/
structure Bank where
  bytes : Memory
  tags : List Nat
  poison : Tbl (BitVec 64)
deriving DecidableEq, Repr

/-- A bank with nothing listed. -/
def Bank.empty : Bank := ⟨[], [], []⟩

/-- Read one byte. -/
def Bank.read (b : Bank) (a : Nat) : Byte := b.bytes.read a

/-- The tag of the granule that holds byte `a` (R200). -/
def Bank.tag (b : Bank) (a : Nat) : Bool := b.tags.contains (a / 16)

/-- Byte `a` lies in a poisoned sector (R144). -/
def Bank.poisoned (b : Bank) (a : Nat) : Bool := (b.poison.find (a / 64)).isSome

/-- Note that byte `a` of a poisoned sector has been written: when all 64 have, the poison is gone (R144). -/
def poisonWrite (p : Tbl (BitVec 64)) (a : Nat) : Tbl (BitVec 64) :=
  match p.find (a / 64) with
  | none => p
  | some w =>
    let w' := w ||| (1#64 <<< (a % 64))
    if w' = BitVec.allOnes 64 then p.del (a / 64) else p.put (a / 64) w'

/-- Write one byte: its granule's tag clears (R200) and a poisoned sector takes note (R144). -/
def Bank.write (b : Bank) (a : Nat) (x : Byte) : Bank :=
  ⟨b.bytes.write a x, removeNat (a / 16) b.tags, poisonWrite b.poison a⟩

/-- Write bytes from address `a` on. -/
def Bank.writeList (b : Bank) (a : Nat) : List Byte → Bank
  | [] => b
  | x :: xs => Bank.writeList (b.write a x) (a + 1) xs

/-- Read `n` bytes from address `a` on. -/
def Bank.readList (b : Bank) (a : Nat) : Nat → List Byte
  | 0 => []
  | n + 1 => b.read a :: Bank.readList b (a + 1) n

/-- Set or clear the tag of the granule that holds byte `a`. -/
def Bank.setTag (b : Bank) (a : Nat) (t : Bool) : Bank :=
  { b with tags := if t then insertNat (a / 16) b.tags else removeNat (a / 16) b.tags }

/-- Mark the sector that holds byte `a` poisoned. -/
def Bank.setPoison (b : Bank) (a : Nat) : Bank := { b with poison := b.poison.put (a / 64) 0 }

/-- Clear the poison of the sector that holds byte `a`. -/
def Bank.clearPoison (b : Bank) (a : Nat) : Bank := { b with poison := b.poison.del (a / 64) }

/-- Numbers rise strictly from above `lo`. -/
def risingFrom : Nat → List Nat → Bool
  | _, [] => true
  | lo, j :: t => decide (lo ≤ j) && risingFrom (j + 1) t

/-- The canonical form of a bank. -/
def Bank.wf (b : Bank) : Bool := b.bytes.wf && risingFrom 0 b.tags && b.poison.wf

/-- Drop every byte, tag and poison from `lo` below `hi` (a scrub: what was there reads 0 afterwards, R31). -/
def Bank.scrub (b : Bank) (lo hi : Nat) : Bank :=
  ⟨b.bytes.filter (fun c => c.1 < lo || hi ≤ c.1), b.tags.filter (fun g => 16 * g + 15 < lo || hi ≤ 16 * g),
   b.poison.filter (fun e => 64 * e.1 + 63 < lo || hi ≤ 64 * e.1)⟩

end Sys2Proof.Machine
end

