-- ==== Sys2Proof/Machine/State.lean ====
section
/-! DEFINITION. The state of the S400: strands, cores, cells, clusters, partitions, queues, engines, memories, messages
in flight, and State.reset. Every field is plain data. Field docstrings name the rule that gives the field. -/
namespace Sys2Proof.Machine

/-! ### Strand state (R147) -/

/-- A g register: 128 data bits and a tag (R148). -/
structure GReg where
  bits : W128
  tag : Bool
deriving DecidableEq, Repr, Inhabited

/-- A stream register's binding record (R157). -/
structure Stream where
  offset : Nat
  slot : Nat
  typ : Nat
  handle : Nat
  bound : Bool
deriving DecidableEq, Repr, Inhabited

/-- A spool handle's descriptor (R158); the reserve index is (prod + resv) mod the slot count. -/
structure Spool where
  chain : Nat
  cons : Nat
  prod : Nat
  fill : Nat
  free : Nat
  resv : Nat
  narrow : BitVec 256
  recs : Nat
  base : Nat
  slotSize : Nat
  slotsM1 : Nat
  defined : Bool
deriving DecidableEq, Repr, Inhabited

/-- A word of a bobbin body with the scalar operands captured when BOB retired (R160, R162). -/
structure BobWord where
  ins : Instr
  s1 : GReg
  s2 : GReg
  au1 : GReg
  au2 : GReg
deriving DecidableEq, Repr

/-- The bobbin (R160 to R164). `pass` and `word` are the next to issue; `active` holds while passes remain; `next` is the tick from
which it may enter a word (R162). -/
structure Bobbin where
  words : List BobWord
  sd : Int
  sa : Int
  sb : Int
  si : Int
  passes : Nat
  pass : Nat
  word : Nat
  pc : Nat
  active : Bool
  fault : Bool
  next : Nat
deriving DecidableEq, Repr

/-- An entry of the vector queue (R124, R356): the instruction, its PC, the captured scalar operand, FRND and FTOP, and of a
word of the bobbin its pass and word number (R163). -/
structure VqEntry where
  ins : Instr
  pc : Nat
  scalar : GReg
  frnd : Nat
  ftop : Bool
  fromBob : Option (Nat × Nat)
deriving DecidableEq, Repr

/-! ### Places and messages -/

/-- Where a byte lives: a core's scratchpad, the chip scratchpad window, global memory, or a device physical address
(queue 0's packets, R48). -/
inductive Loc where
  | scratch (core off : Nat)
  | chip (x : Nat)
  | glob (va : Nat)
  | phys (pa : Nat)
deriving DecidableEq, Repr, Inhabited

/-- The reply of a home to a blocking access: the bytes' value, a tag, a poisoned address, or a fault (R139, R144). -/
structure Reply where
  value : Nat
  flag : Bool
  bad : Bool
  poison : Option Nat
  fault : Option Bool
deriving DecidableEq, Repr

/-- A cache line of 256 bytes by virtual line number, with sector valid bits, write mask, granule tags and sector poison
(R186, R191, R200, R144). -/
structure Line where
  va : Nat
  data : BitVec 2048
  valid : BitVec 4
  mask : BitVec 256
  tags : BitVec 16
  poison : BitVec 4
deriving DecidableEq, Repr

/-- What a home access does (R178, R323). -/
inductive AccOp where
  | load | storec (tag : Bool)
  | atomic (op : Nat)
  | ticket | kinit | kpeek
  | qpush (chain : Nat) (ovf : Bool) (span : Nat)
  | qpop (span : Nat)
  | launch (cap : Nat)
  /-- A trace record appended to a ring of so many entries (R98, R99). -/
  | trace (ents : Nat)
deriving DecidableEq, Repr

/-- A request of a core to a home: the operation, location, size in bytes, value and comparison value. -/
structure Access where
  core : Nat
  part : Nat
  vd : Nat
  op : AccOp
  loc : Loc
  size : Nat
  value : Nat
  cmp : Nat
  cpol : Nat
  blocking : Bool
deriving DecidableEq, Repr

/-- A signal to a knot (R85). `ack` says that a strand of core `src` counts it among its writes to be acknowledged. -/
structure Signal where
  src : Nat
  ack : Bool
  part : Nat
  vd : Nat
  knot : Loc
  delta : W64
  chain : Nat
  origin : W32
  ovf : Bool
  err : Bool
  psn : Bool
deriving DecidableEq, Repr

/-- A wait at a knot's home (R336), a KJOIN, or a WAITM (R337, R338). -/
structure WaitReq where
  core : Nat
  part : Nat
  vd : Nat
  knot : Loc
  kind : Nat
  target : W64
  deadline : Option Nat
deriving DecidableEq, Repr

/-- A line fill request (R186): line, sectors, policy; `pref` says that no instruction waits for it (R329). -/
structure Fill where
  core : Nat
  part : Nat
  vd : Nat
  line : Nat
  sectors : BitVec 4
  cpol : Nat
  pref : Bool
deriving DecidableEq, Repr

/-- An exchange message (R249): sender with its partition and virtual device, receiver, handle, payload, chain, origin, send
tick, arrival tick, whether it keeps to exchange timing (R246), whether another message has made it late. -/
structure Xmsg where
  part : Nat
  vd : Nat
  src : Nat
  dst : Nat
  handle : Nat
  data : List Byte
  chain : Nat
  ovf : Bool
  origin : W32
  sent : Nat
  at_ : Nat
  timed : Bool
  late : Bool
deriving DecidableEq, Repr

/-- Where a chain value is held (R82). -/
inductive Site where
  | core (n : Nat)
  | unit (cell : Nat)
  | barrier (cluster : Nat)
  | base (stack : Nat)
  | peer (links : Nat)
deriving DecidableEq, Repr

/-- A snapshot on its way to a waiter (R86): its value, origins and the home's site as it was taken (R83, R121). -/
structure Snapshot where
  core : Nat
  chain : Nat
  max : W32
  last : W32
  ovf : Bool
  site : Site
deriving DecidableEq, Repr

/-- A message in flight. A write-back carries a line's written bytes with the policy of the store; `direct` says that a store
that may not allocate in the core cache left as a masked write (R197). -/
inductive Msg where
  | access (a : Access)
  | reply (core : Nat) (r : Reply)
  | signal (x : Signal)
  | wait (x : WaitReq)
  | snapshot (x : Snapshot)
  | fill (x : Fill)
  | writeback (core part vd : Nat) (l : Line) (cpol : Nat) (direct : Bool)
  | ack (core : Nat)
  | exchange (x : Xmsg)
deriving DecidableEq, Repr

/-- A store held by a migration (R214): the core that waits, its virtual device, the line with mask, its policy. -/
structure HeldWrite where
  core : Nat
  part : Nat
  vd : Nat
  line : Line
  cpol : Nat
deriving DecidableEq, Repr

/-! ### Strands -/

/-- An engine command with what ENQ captured (R89, R401): the operation, the word, the issuer, FTOP, FRND, e0, the
MCBASE samples (R242), the issuer's mode (R75), whether an ENQ.M waits for its completion (R394), how many entries of
the vector queue must leave before it may start, since a vector memory instruction stands before it (R224), the issuer's team
index, stage and strand number (R143), of a word of the bobbin its pass and word number (R163), and the releases of the issuer that had retired
and not reached their homes, since they come before it (R225). -/
structure Cmd where
  op : CmdOp
  word : W256
  pc : Nat
  core : Nat
  part : Nat
  vd : Nat
  launch : Nat
  ftop : Bool
  frnd : Nat
  e0 : Nat
  ovf : Bool
  wid : W32
  declared : Bool
  mcbase : List (Nat × Nat)
  id : Nat
  waited : Bool
  after : Nat
  issuer : Nat × Nat × Nat
  fromBob : Option (Nat × Nat)
  behind : List Msg
deriving DecidableEq, Repr

/-- A barrier name: a team barrier by its number j, or a domain (R100, R101). -/
structure BarId where
  team : Bool
  num : Nat
deriving DecidableEq, Repr, Inhabited

/-- What a strand waits for, and so how its waiting ticks count (R78, R84, R93, R119). A strand whose wait is `data 0`,
`own`, `join` or `excluded` tries its instruction again at its next turn (log 9); the others end by a device step. -/
inductive WaitKind where
  /-- Replies or fills of a blocking access: `n` are outstanding (R139). Own work. -/
  | data (n : Nat)
  /-- The same, while a migration holds the write that the access needs (R93, R214). -/
  | heldData (n : Nat)
  /-- A condition that the instruction tests again. Own work. -/
  | own
  /-- A condition that the instruction tests again; blocked in a join (R84). -/
  | join
  /-- A condition that the instruction tests again; excluded ticks (R93). -/
  | excluded
  /-- A line or granule that lazy restore must fill first, then the instruction tests again; excluded ticks, those of the cycle
  that finds it absent among them (R93, R129). -/
  | lazy
  /-- WAIT at a knot's home: destination register, deadline, scope, tick at which it began to be blocked (R87, R336). -/
  | knot (d : BitVec 6) (deadline : Option Nat) (scope : BitVec 2) (since : Nat)
  /-- KJOIN's snapshot (R337). -/
  | kjoin
  /-- WAITM: destination register, deadline (R338). -/
  | monitor (d : BitVec 6) (deadline : Option Nat)
  /-- A barrier release (R104): barrier, generation. -/
  | barrier (bar : BarId) (gen : Nat)
  /-- A granule claim of n positions in the cell's claim queue (R152). -/
  | claim (n : Nat)
  /-- The re-entered claim of a restored strand (R130). -/
  | reclaim
  /-- YIELD while a stop request is pending (R417). -/
  | yield
  /-- A supervisor trap: cause, tval, epc, detail (R136). -/
  | supervisor (cause : Nat) (tval epc : W64) (detail : Nat)
  /-- DONE's release is complete; the strand ends at STRAND_END (R418). -/
  | ending
deriving DecidableEq, Repr

/-- The strand's latest arrival at a barrier, and whether a BARW has waited for it (R104). -/
structure Arrival where
  bar : BarId
  gen : Nat
  waited : Bool
deriving DecidableEq, Repr

/-- A held barrier release (R104, R124), with the exchange origin it carries where its generation had xflag (R246). -/
structure Held where
  bar : BarId
  gen : Nat
  chain : Nat
  max : W32
  last : W32
  ovf : Bool
  origin : Option Nat
deriving DecidableEq, Repr

/-- The exchange state of a strand (R246, R247): plan offset, entry count, next entry, origin X in exchange mode,
sends not yet landed, whether a send was made, xlate (R122). -/
structure Exchange where
  planOff : Nat
  planCount : Nat
  next : Nat
  origin : Option Nat
  inFlight : Nat
  sent : Bool
  xlate : Bool
deriving DecidableEq, Repr, Inhabited

/-- Gang membership (R65, R352): leader core, member cores in strand order, the mask a pending TACK named. -/
structure Gang where
  leader : Nat
  members : List Nat
  tacking : Option W64
  tacked : Bool
  noCode : Bool
deriving DecidableEq, Repr, Inhabited

/-- A directory entry of level 2 (R206 to R208): translation word and region word. -/
structure DirEntry where
  t : W64
  r : W64
deriving DecidableEq, Repr

/-- The identity of a strand: launch, partition, virtual device, team, stage, template (R3, R53, R56). -/
structure Ident where
  launch : Nat
  part : Nat
  vd : Nat
  index : Nat
  stage : Nat
  strand : Nat
  teamSize : Nat
  tmpl : Nat
  team : List Nat
  bslots : List Nat
deriving DecidableEq, Repr, Inhabited

/-- The phase of a strand: placed with its code copy under way, started, or being saved (R61, R127). -/
inductive Phase where
  | placed | live | saving | moving
deriving DecidableEq, Repr

/-- A strand: one context resident on one core (R3, R147). -/
structure Strand where
  /-- Who the strand is. -/
  id : Ident
  phase : Phase
  pc : Nat
  g : Vector GReg 64
  v : Vector W512 128
  p : Vector (BitVec 16) 8
  /-- The CSRs by number (R169); those R169 does not store, and the plan slot 0x7E, are kept elsewhere. -/
  csr : Vector W64 128
  streams : Vector Stream 8
  spools : Vector Spool 16
  bobbin : Bobbin
  /-- Granule positions held and base positions (R150, R171). -/
  holding : Nat
  baseGran : Nat
  /-- The end of the strand's span (R166). -/
  spanEnd : Nat
  /-- Marks of R127 and R128: absent and dirty granule positions and scratchpad lines. -/
  granAbsent : BitVec 16
  granDirty : BitVec 16
  lineAbsent : List Nat
  lineClean : List Nat
  vq : List VqEntry
  mq : List Cmd
  cq : List Cmd
  cache : List Line
  fillBuf : List Line
  /-- The protection lookaside buffer (R208): regions by number, each with its region word and the state and leaf bits of its
  translation word; both words are 0 for one cached as absent. -/
  plb : Tbl DirEntry
  /-- Write-backs and uncached stores not yet acknowledged (R194). -/
  unacked : Nat
  /-- A release of the instruction at PC has sent its write-backs (R194). -/
  released : Bool
  /-- What the strand waits for. -/
  wait : Option WaitKind
  /-- The issue cycle of the instruction at PC has been charged. -/
  begun : Bool
  reply : Option Reply
  /-- Bytes that the instruction at PC has read or fixed so far (QPUSH, QPOP, LAUNCH). -/
  stash : List Byte
  arrivals : List Arrival
  held : List Held
  exch : Exchange
  gang : Gang
  /-- Held asynchronous traps 0x0A and 0x11: cause, tval, detail (R137). -/
  async : List (Nat × W64 × Nat)
  /-- Image generation (R125). -/
  gen : Nat
  /-- The tick at which the strand's next local cycle begins, and ready ticks of g and v registers (R300, R357). -/
  now : Nat
  gRdy : Tbl Nat
  vRdy : Tbl Nat
  /-- g registers pending from VEXT (R356). -/
  gPend : List Nat
  /-- Instructions retired since the count was last added to event 1 (R35), excluded ticks likewise (event 10),
  joins likewise (event 9), claim ticks likewise (event 13), range-lock traps likewise (event 12), vector issues
  likewise (event 2). -/
  evts : Vector Nat 16
  /-- Debugger: halted, a single step is due to trap (R145). -/
  halted : Bool
  stepping : Bool
  haltReq : Bool
  /-- A save has begun: the strand stops at its next instruction boundary (R117, R118). -/
  stopReq : Bool
  /-- What a restored strand waits for once its granules are back (R119, R130). -/
  after : Option WaitKind
deriving DecidableEq, Repr

/-! ### Cells, clusters, cores -/

/-- A chain value with its overflow flag and origin (R89, R90). -/
structure Chain where
  val : Nat
  ovf : Bool
  origin : W32
deriving DecidableEq, Repr, Inhabited

/-- One plane of a matrix unit (R383): rows of 128 16-bit cells by row number. -/
structure Plane where
  owner : Option Nat
  fmt : Nat
  ftop : Bool
  link : Bool
  poison : BitVec 128
  rows : Tbl (BitVec 2048)
  chain : Chain
deriving DecidableEq, Repr

/-- A ranked list of a slot row (R383, R269): pairs in order, and its nan bit. -/
structure RList where
  pairs : List (W32 × W32)
  nan : Bool
deriving DecidableEq, Repr, Inhabited

/-- An accumulator slot (R383): plain rows of 128 FP32 elements, or ranked lists. -/
structure Slot where
  owner : Option Nat
  ranked : Bool
  k : Nat
  base : W32
  vcols : Nat
  rows : Tbl (BitVec 4096)
  lists : Tbl RList
  poison : BitVec 128
  chain : Chain
deriving DecidableEq, Repr

/-- What reading a source gives (R387, R389): codes of each row with its poison, slots consumed. -/
structure Rows where
  codes : List (List Nat)
  bad : List Bool
  slots : Nat
deriving DecidableEq, Repr

/-- What a tile hands to its east neighbour (R391): the rows of A, and the flags and poison of the tiles so far. -/
structure Feed where
  rows : Rows
  flags : BitVec 7
  psn : Bool
deriving DecidableEq, Repr

/-- A command running at a port: the command, its chain, its busy ticks, the tick they end, a forwarded tile's distance
from its westmost unit (R391), its place in the order of starts, the slots that it consumes of its source spool and the first of
them (R384), what a forwarded tile has from its west neighbour, and the chain it started from, with its flag (R89, R97). -/
structure Running where
  cmd : Cmd
  chain : Nat
  ovf : Bool
  busy : Nat
  endTick : Nat
  lag : Nat
  order : Nat
  taken : Nat
  pos : Nat
  feed : Option Feed
  start : Nat
  startOvf : Bool
deriving DecidableEq, Repr

/-- A port of a matrix unit (R69). -/
structure Port where
  ptr : Nat
  credit : Nat
  running : Option Running
deriving DecidableEq, Repr

/-- A cell: planes, slots, ports, vector arbiter, claim queue (R68, R69, R151, R383); forwarded tiles waiting, each with the
tick it is due once its west neighbour has started (R71). -/
structure Cell where
  active : Plane
  shadow : Plane
  slots : Vector Slot 4
  load : Port
  array : Port
  vptr : Nat
  deficit : Vector Nat 8
  vtick : Nat
  lanes : Vector Nat 4
  claims : List (Nat × Nat × Nat)
  forwards : List (Running × Option Nat)
deriving DecidableEq, Repr

/-- Barrier state: members or participants and arrivals as logical cores, and the fields of R100. The phase of R100 is
the parity of `gen`. -/
structure Bar where
  members : List Nat
  arrived : List Nat
  last : W32
  max : W32
  chain : Nat
  ovf : Bool
  gen : Nat
  xflag : Bool
  /-- The tick at which the issue cycles of the arrivals so far have passed (R105). -/
  ready : Nat
deriving DecidableEq, Repr, Inhabited

/-- A loaded barrier domain (R101, R102): pleat offset, pleat count, entries (cluster, mask), state. -/
structure Domain where
  offset : Nat
  pleats : Nat
  entries : List (Nat × BitVec 16)
  bar : Bar
deriving DecidableEq, Repr

/-- A release on its way to a participant (R104, R105): it falls due in [tick, tick + 16]; `comp` is the completion tick. -/
structure Release where
  core : Nat
  id : Ident
  held : Held
  comp : Nat
  tick : Nat
deriving DecidableEq, Repr

/-- A range lock of a cluster (R228): owner command, whether it is a destination, the range. -/
structure Lock where
  cmd : Nat
  dest : Bool
  loc : Loc
  len : Nat
deriving DecidableEq, Repr

/-- A cluster: 16 barrier slots (R100) and the range-lock table (R228). A slot is free while it holds none. -/
structure Cluster where
  bars : Tbl Bar
  locks : List Lock
deriving DecidableEq, Repr

/-- What a core keeps whatever runs on it: requested divider, throttle divider, divider in force, rail wait (new divider,
tick), power, idle since, breakpoints, physical site, thermal throttling (R109 to R114, R145). -/
structure CoreCfg where
  reqDiv : Nat
  throttle : Nat
  div : Nat
  rail : Option (Nat × Nat)
  powered : Bool
  idle : Nat
  breaks : Vector Nat 4
  site : Nat
  hot : Bool
  moveTo : Option Nat
  /-- The throttle divider is 16 because the energy of the strand's virtual device is exhausted (R133). -/
  slow : Bool
  /-- The protection lookaside buffer (R208) while no strand is resident: what the last one left there. -/
  plb : Tbl DirEntry
deriving DecidableEq, Repr

/-! ### Engines -/

/-- The state of a copy command at its streamer (R235, R236, R402): granted a buffer, started, source read. -/
inductive CopyPhase where
  | granted | started | sourceDone
deriving DecidableEq, Repr

/-- A copy command (R235 to R245). `queue` is the host queue of a copy packet (R48). `done` names the ranges of the data already written (R230),
each with 0 for the windows or a multicast's receiver plus 1, its first byte and its length; `ahead` holds parts of the source read beyond
`data`, each with its first byte, its bytes and their poisoned ranges; `endTick` is the tick at which the busy cycles are over (R407). -/
structure CopyCmd where
  cmd : Cmd
  queue : Option Nat
  slice : Nat
  phase : CopyPhase
  chain : Nat
  ovf : Bool
  data : List Byte
  bad : List (Nat × Nat)
  landed : List Nat
  fail : Option Nat
  order : Nat
  done : List (Nat × Nat × Nat)
  ahead : List (Nat × List Byte × List (Nat × Nat))
  endTick : Nat
deriving DecidableEq, Repr

/-- A spool of a partition: whose it is (R175, R239). -/
structure SpoolId where
  part : Nat
  vd : Nat
  core : Nat
  handle : Nat
deriving DecidableEq, Repr, Inhabited

/-- A spool landing waiting for, or holding, a reservation (R239): spool, slots, slots counted, data not yet landed with
the ranges of it that are poisoned, what its fill records hold, whether its data is there, its command (none: SPADVP). -/
structure Landing where
  spool : SpoolId
  slots : Nat
  granted : Bool
  counted : Nat
  data : List Byte
  bad : List (Nat × Nat)
  error : Bool
  narrow : Bool
  ftop : Bool
  chain : Nat
  ovf : Bool
  origin : W32
  ready : Bool
  cmd : Option Nat
deriving DecidableEq, Repr

/-- A pending discard of a skipped command (R390): spool, slots left, chain, origin, its place among the consumers' starts. -/
structure Discard where
  spool : SpoolId
  slots : Nat
  chain : Nat
  origin : W32
  order : Nat
deriving DecidableEq, Repr

/-! ### Partitions, queues, launches -/

/-- A virtual device (R32 to R36, R117, R133). `stop` is the tick of its stop request, then of the start of its save;
`fillBytes` are the bytes of the fills charged to it (R36). -/
structure Vd where
  rsv : Option (Nat × Nat)
  pendRsv : Option (Nat × Nat)
  remaining : Nat
  debit : Nat
  deadline : Nat
  start : Nat
  running : Bool
  stop : Option Nat
  exhausted : Bool
  quotaUj : Nat
  usedUj : Nat
  overrunUj : Nat
  allow : BitVec 256
  counts : Vector W64 16
  fillBytes : Nat
  saveBase : W64
  saving : Bool
  forced : Bool
deriving DecidableEq, Repr

/-- A team that waits to be placed: index, stage, template, entry bits, start chain (R53, R56). -/
structure TeamReq where
  index : Nat
  stage : Nat
  tmpl : Nat
  entry : W256
  argOff : Nat
  chain : Nat
deriving DecidableEq, Repr

/-- A launch from acceptance to completion (R48 to R62). -/
structure Launch where
  id : Nat
  part : Nat
  vd : Nat
  queue : Nat
  knot : W64
  delta : W64
  tag : W32
  sys : Bool
  record : BitVec 1024
  tmpls : List (BitVec 1024)
  tables : List DecodeTable
  chain0 : Nat
  /-- Teams to place next, in (index, stage) order: for an ordinary launch only the head is kept. -/
  head : Option TeamReq
  /-- Teams of a consumed entry still to place (R56). -/
  rest : List TeamReq
  inList : Bool
  blocked : Option Nat
  holds : Bool
  /-- Entries consumed, the end entry seen or consumption ended (R56). -/
  consumed : Nat
  closed : Bool
  err : Bool
  psn : Bool
  anyRan : Bool
  finalChain : Nat
  finalOvf : Bool
  stepHeld : Bool
deriving DecidableEq, Repr

/-- A saved context (R57, R63, R123): the strand with its barrier records (kept with one strand of a team), slots, planes and range
locks. -/
structure Saved where
  core : Nat
  vd : Nat
  strand : Strand
  bars : List Bar
  slots : List (Nat × Slot)
  active : Option Plane
  shadow : Option Plane
  locks : List Lock
  image : Nat
  order : Nat
deriving DecidableEq, Repr

/-- Phases of an SPDM responder path (R25). -/
structure Spdm where
  version : Bool
  caps : Bool
  algs : Bool
  exchanged : Bool
  session : Bool
  updates : Nat
deriving DecidableEq, Repr, Inhabited

/-- A checkpoint under way (R19 to R21): what is left to send, records so far, status address. -/
structure Ckpt where
  dirtyOnly : Bool
  ports : BitVec 16
  target : Nat
  units : Nat
  digest : List Byte
  status : Nat
deriving DecidableEq, Repr

/-- A restore under way (R22): ports, manifest address, manifest fields once it has arrived. -/
structure Rest where
  ports : BitVec 16
  src : Nat
  manifest : Option (List Byte)
  units : Nat
  got : Nat
  digest : List Byte
  unwrapOk : Bool
  status : Nat
deriving DecidableEq, Repr

/-- A MIGRATE under way (R213): page, target word, knot, old word. -/
structure Migration where
  page : Nat
  target : W64
  knot : W64
  old : W64
deriving DecidableEq, Repr

/-- The registers of a partition's management page with no home of their own (R38): DOMBASE and DOMLOAD status, grace_tk,
lend and status, translation block, debugger block, mailbox. -/
structure Page where
  domBase : W64
  domload : W32
  domStat : W32
  grace : Nat
  lend : W32
  lendStat : W32
  trCmd : W64
  trArg0 : W64
  trArg1 : W64
  trArg2 : W64
  trStat : W32
  trRes : W64
  dbgCmd : W64
  dbgStat : W32
  dbgAddr : W64
  dbgTag : Bool
  dbgData : W512
  reqLen : W32
  rspLen : W32
  mbBusy : Bool
  mbDone : Bool
  mbReq : Memory
  mbRsp : Memory
  /-- The request that go has passed to the Alafel core, while it is busy (R38). -/
  mbSent : List Byte
deriving DecidableEq, Repr

/-- A partition (R27 to R38). -/
structure Partition where
  node : Nat
  sliceBase : Nat
  sliceLog2 : Nat
  state : Nat
  vdsAsked : Nat
  hidden : W64
  openBase : Nat
  openLen : Nat
  utilSum : Nat
  quota : Nat
  /-- The queue slots assigned to the partition (R39, R43): bit s for slot s. -/
  slots : BitVec 64
  lastMapped : Nat
  vds : Tbl Vd
  keys : BitVec 512
  imageKey : W256
  generation : Nat
  keyEpoch : Nat
  tck : Option (W64 × W256)
  m10 : BitVec 512
  m11 : BitVec 512
  m12 : BitVec 512
  imagesSeen : List (BitVec 512)
  nextCluster : Nat
  domains : Tbl Domain
  saved : List Saved
  /-- Virtual devices whose images a RESTORE has brought and the steward has not yet read (R22). -/
  unread : List Nat
  /-- The root capabilities of the supervisor context (R205). -/
  roots : List GReg
  page : Page
  peers : Vector W256 16
  spdm : Spdm
  log : List W256
  logCount : Nat
  unattributed : W64
  ckpt : Option Ckpt
  rest : Option Rest
  migrations : List Migration
  destroyStatus : Option Nat
deriving DecidableEq, Repr

/-- The hold that a started packet keeps on later packets of its queue (R48). -/
inductive Hold where
  | wait (knot : Loc) (target : W64) (deadline : Option Nat)
  | fence
deriving DecidableEq, Repr

/-- A packet that has started and not completed; `ref` is twice the command of a copy packet, or twice the launch plus 1. -/
structure Started where
  index : Nat
  knot : W64
  delta : W64
  tag : W32
  sys : Bool
  hold : Option Hold
  ref : Nat
deriving DecidableEq, Repr

/-- A slot's copy of its queue's record and what the device keeps for a mapped queue (R40, R45, R46). -/
structure QSlot where
  queue : Nat
  record : W512
  order : Nat
  idle : Option Nat
  started : List Started
  stopping : Bool
  off : Option Nat
deriving DecidableEq, Repr

/-- A peer port (R13, R14). -/
structure PeerPort where
  up : Bool
  lanes : Nat
deriving DecidableEq, Repr

/-! ### The device -/

/-- The state of the boot chain (R23). -/
inductive Boot where
  | rom | running | recovery
deriving DecidableEq, Repr

/-- A last-level line with its context tag, partition (R36, R191) and the line of the cache. -/
structure LlcLine where
  line : Line
  ctx : Nat
  part : Nat
deriving DecidableEq, Repr

/-- Time and step-start registers (R16, R115). -/
structure TimeRegs where
  ptpSec : BitVec 48
  ptpNs : BitVec 30
  syncTick : Nat
  latchSeq : W32
  valid : Bool
  holdover : Bool
  stepPeriod : Nat
  stepOffset : Nat
  stepCells : Nat
deriving DecidableEq, Repr

/-- Power registers (R110, R111). -/
structure PowerRegs where
  capMw : Nat
  refused : Bool
  short : Bool
  floor : Vector Nat 4
  grant : Vector Nat 4
  demand : Vector Nat 4
  throttled : Vector Nat 4
  thermLimit : Nat
  untiered : Nat
  nextPeriod : Nat
deriving DecidableEq, Repr

/-- The operands of a device step: what the agent that acts supplies (log 12). -/
structure StepOp where
  a : Nat
  b : Nat
  c : Nat
  d : Nat
  flag : Bool
  w : W256
  data : List Byte
  nats : List Nat
  pairs : List (Nat × Nat)
deriving DecidableEq, Repr, Inhabited

/-- Whose turn it is (log 3): a core runs one instruction, or a device step happens with its operands. -/
inductive Turn where
  | core (n : Nat)
  | device (i : Instr) (op : StepOp)
deriving DecidableEq, Repr

/-- What the device has sent to the outside (log 12): frames on a port, answers to host reads, SPDM answers. -/
inductive Output where
  | frame (port addr : Nat) (data : List Byte)
  | hostRead (data : List Byte) (poisoned : Bool)
  | spdm (path : Option Nat) (code : Nat) (data : List Byte)
  /-- A request on the host's link that fails with unsupported-request status (R11). -/
  | unsupported
deriving DecidableEq, Repr

/-- The whole device. -/
structure State where
  /-- Whose turn comes next (log 3). -/
  agenda : List Turn
  /-- The core that the instruction runs on (log 3). -/
  cur : Nat
  /-- The operands of the device step (log 12). -/
  op : StepOp
  /-- How many free values have been taken (log 7). -/
  freeCtr : Nat
  /-- What was sent to the outside (log 12). -/
  out : List Output
  /-- TICK (R4). -/
  tick : Nat
  boot : Boot
  failStage : Nat
  debugUnlocked : Bool
  measure : Vector (BitVec 512) 6
  ide : Bool
  hostSpdm : Spdm
  epoch : Nat
  time : TimeRegs
  power : PowerRegs
  tableBase : W64
  /-- A write of table_base has been accepted: queue 0's record stands in the table (R39). -/
  tableSet : Bool
  bitmapBase : W64
  qslots : Tbl QSlot
  mapOrder : Nat
  ports : Vector PeerPort 12
  log : List W256
  logCount : Nat
  corrected : Tbl Nat
  /-- Split nodes of the buddy tree (R29). -/
  splits : List Nat
  parts : Tbl Partition
  launches : List Launch
  launchCtr : Nat
  /-- Strands resident or placed, by logical core. -/
  strands : Tbl Strand
  cores : Tbl CoreCfg
  cells : Tbl Cell
  clusters : Tbl Cluster
  releases : List Release
  flight : List Msg
  /-- The timed exchange messages that have landed while others are still on their way: what they held delays those (R249). -/
  passed : List Xmsg
  waits : List WaitReq
  monitors : List (WaitReq × Bool)
  copies : List CopyCmd
  /-- Copy-queue entries of strands that have ended (R402, R418). -/
  orphans : List Cmd
  landings : List Landing
  discards : List Discard
  cmdCtr : Nat
  /-- Region entries of the directory, by region number (R206, R208). -/
  dir : Tbl DirEntry
  /-- The directory nodes that MAPR has made, in the order of their making (R206, R212). -/
  dirNodes : List Nat
  llc : List LlcLine
  heldWrites : List HeldWrite
  hbm : Bank
  host : Bank
  scratch : Bank
  chip : Bank
deriving DecidableEq, Repr

/-! ### Outcomes -/

/-- Why the machine stops. -/
inductive Fault where
  /-- An offset of the host's window at or beyond its 384 GiB names no byte of any slice (R10). Raised by HOST_WINDOW_READ and
  HOST_WINDOW_WRITE. Safe: the model stops where the spec names no byte. -/
  | noSuchByte (offset : Nat)
deriving DecidableEq, Repr

/-- Why an instruction has no meaning in a state. -/
inductive Refusal where
  /-- Raised by Dispatch.lean for an instruction without a meaning. Safe: the model stops. -/
  | notModelled (mnemonic : String)
  /-- Raised by the meaning of a device step whose condition in the spec does not hold in the state: the device cannot
  take that step there. Safe: no state follows. -/
  | notEnabled (mnemonic : String)
  /-- Raised by a control word or command executed where the current core has no started strand. Safe. -/
  | noStrand
deriving DecidableEq, Repr

/-! ### Reset -/

/-- A bobbin at dispatch: idle (R164). -/
def Bobbin.idle : Bobbin := ⟨[], 0, 0, 0, 0, 0, 0, 0, 0, false, false, 0⟩

/-- A spool descriptor before SPDEF (R158). -/
def Spool.undef : Spool := ⟨0, 0, 0, 0, 0, 0, 0, 0, 0, 0, 0, false⟩

/-- An unbound stream register (R157). -/
def Stream.unbound : Stream := ⟨0, 0, 0, 0, false⟩

/-- A plane without an owner: zero, E4M3, link 0 (R383). -/
def Plane.zero : Plane := ⟨none, 0, false, false, 0, [], ⟨0, false, 0⟩⟩

/-- A slot without an owner: plain mode, zero (R383). -/
def Slot.zero : Slot := ⟨none, false, 0, 0, 0, [], [], 0, ⟨0, false, 0⟩⟩

/-- An idle port (R69); pointer and credit 0 (log 1). -/
def Port.idle : Port := ⟨0, 0, none⟩

/-- A cell after reset (log 1). -/
def Cell.reset : Cell :=
  ⟨Plane.zero, Plane.zero, Vector.replicate 4 Slot.zero, Port.idle, Port.idle, 0, Vector.replicate 8 0, 0,
   Vector.replicate 4 0, [], []⟩

/-- A cluster after reset: no slot taken, no lock. -/
def Cluster.reset : Cluster := ⟨[], []⟩

/-- A core after reset: req_div 1 (R110); throttle, divider, power, site as log 1 says. -/
def CoreCfg.reset (n : Nat) : CoreCfg := ⟨1, 1, 1, none, false, 0, Vector.replicate 4 0, n, false, none, false, []⟩

/-- An SPDM path before its first request. -/
def Spdm.reset : Spdm := ⟨false, false, false, false, false, 0⟩

/-- A virtual device before its first reservation (R32, R123, R133); allow-list as log 1 says. -/
def Vd.reset : Vd :=
  ⟨none, none, 0, 0, 0, 0, false, none, false, 0, 0, 0, 0, Vector.replicate 16 0, 0, 0, false, false⟩

/-- A management page at CREATE: grace_tk 190,000 (R118), every other register 0 (R38). -/
def Page.reset : Page :=
  ⟨0, 0, 0, 190000, 0, 0, 0, 0, 0, 0, 0, 0, 0, 0, 0, false, 0, 0, 0, false, false, [], [], []⟩

/-- Time registers after reset (R16, R115). -/
def TimeRegs.reset : TimeRegs := ⟨0, 0, 0, 0, false, false, 0, 0, 32⟩

/-- Power registers after reset (R110); first period end as log 1 says. -/
def PowerRegs.reset : PowerRegs :=
  ⟨2000000, false, false, Vector.replicate 4 0, Vector.replicate 4 0, Vector.replicate 4 0, Vector.replicate 4 0, 105, 0,
   19000⟩

/-- The operands of a step that takes none. -/
def StepOp.none : StepOp := ⟨0, 0, 0, 0, false, 0, [], [], []⟩

/-- Queue 0 in slot 0 (R39): its record zero but for state mapped. -/
def QSlot.management : QSlot := ⟨0, BitVec.ofNat 512 (2 * 2 ^ 34), 0, none, [], false, none⟩

/-- The device right after reset: the Alafel core about to run from ROM (R23), every register at the value its rule gives
or that log 1 names, memories with nothing listed (log 2), no partition, no strand, nothing in flight. -/
def State.reset : State where
  agenda := []
  cur := 0
  op := StepOp.none
  freeCtr := 0
  out := []
  tick := 0
  boot := .rom
  failStage := 0
  debugUnlocked := false
  measure := Vector.replicate 6 0
  ide := false
  hostSpdm := Spdm.reset
  epoch := 0
  time := TimeRegs.reset
  power := PowerRegs.reset
  tableBase := 0
  tableSet := false
  bitmapBase := 0
  qslots := [(0, QSlot.management)]
  mapOrder := 1
  ports := Vector.replicate 12 ⟨true, 4⟩
  log := []
  logCount := 0
  corrected := []
  splits := []
  parts := []
  launches := []
  launchCtr := 0
  strands := []
  cores := []
  cells := []
  clusters := []
  releases := []
  flight := []
  passed := []
  waits := []
  monitors := []
  copies := []
  orphans := []
  landings := []
  discards := []
  cmdCtr := 0
  dir := []
  dirNodes := []
  llc := []
  heldWrites := []
  hbm := Bank.empty
  host := Bank.empty
  scratch := Bank.empty
  chip := Bank.empty

end Sys2Proof.Machine
end

