-- ==== Sys2Proof/Machine/Ops.lean ====
section
/-! DEFINITION. Named operations over the state: tables of strands, cores, cells and partitions, registers (R148 to
R156), chain arithmetic (R75 to R97), sites and transits (R82, R83), taking a trap and returning from one (R134 to
R138), and the shape that every control word shares (waits, gangs, retirement). -/
namespace Sys2Proof.Machine

/-- The outcome of a step. -/
abbrev Out := Host.Outcome State Fault Refusal

/-! ### Tables of the state -/

/-- The strand resident or placed on logical core `n`. -/
def State.strand (s : State) (n : Nat) : Option Strand := s.strands.find n
/-- Replace the strand of core `n`. -/
def State.setStrand (s : State) (n : Nat) (x : Strand) : State := { s with strands := s.strands.put n x }
/-- Take the strand of core `n` away. -/
def State.delStrand (s : State) (n : Nat) : State := { s with strands := s.strands.del n }
/-- Apply a function to the strand of core `n`, if there is one. -/
def State.onStrand (s : State) (n : Nat) (f : Strand → Strand) : State :=
  match s.strand n with
  | some x => s.setStrand n (f x)
  | none => s
/-- What core `n` keeps whatever runs on it. -/
def State.coreCfg (s : State) (n : Nat) : CoreCfg := s.cores.getD n (CoreCfg.reset n)
/-- Replace it. -/
def State.setCore (s : State) (n : Nat) (c : CoreCfg) : State := { s with cores := s.cores.put n c }
/-- The cell of a core (R3). -/
def cellOf (n : Nat) : Nat := n / 8
/-- The device cluster of a core (R27). -/
def clusterOf (n : Nat) : Nat := n / 16
/-- Cell `c`. -/
def State.cell (s : State) (c : Nat) : Cell := s.cells.getD c Cell.reset
/-- Replace cell `c`. -/
def State.setCell (s : State) (c : Nat) (x : Cell) : State := { s with cells := s.cells.put c x }
/-- Cluster `c`. -/
def State.cluster (s : State) (c : Nat) : Cluster := s.clusters.getD c Cluster.reset
/-- Replace cluster `c`. -/
def State.setCluster (s : State) (c : Nat) (x : Cluster) : State := { s with clusters := s.clusters.put c x }
/-- Partition `p`. -/
def State.part (s : State) (p : Nat) : Option Partition := s.parts.find p
/-- Replace partition `p`. -/
def State.setPart (s : State) (p : Nat) (x : Partition) : State := { s with parts := s.parts.put p x }
/-- Apply a function to partition `p`, if it exists. -/
def State.onPart (s : State) (p : Nat) (f : Partition → Partition) : State :=
  match s.part p with
  | some x => s.setPart p (f x)
  | none => s
/-- Virtual device `v` of a partition. -/
def Partition.vd (x : Partition) (v : Nat) : Vd := x.vds.getD v Vd.reset
/-- Replace it. -/
def Partition.setVd (x : Partition) (v : Nat) (d : Vd) : Partition := { x with vds := x.vds.put v d }
/-- Apply a function to virtual device `v` of partition `p`. -/
def State.onVd (s : State) (p v : Nat) (f : Vd → Vd) : State := s.onPart p fun x => x.setVd v (f (x.vd v))
/-- Put a message in flight, behind the others. -/
def State.send (s : State) (m : Msg) : State := { s with flight := s.flight ++ [m] }
/-- Note what is sent to the outside. -/
def State.emit (s : State) (o : Output) : State := { s with out := s.out ++ [o] }

/-! ### The host's link (R11) -/

/-- The link serves requests: IDE is established and the firmware runs (R11, R23). -/
def State.linkUp (s : State) : Bool := s.ide && s.boot == .running

/-- A request on the host's link: before IDE is established it fails with unsupported-request status (R11). -/
def onLink (s : State) (f : Out) : Out := if s.linkUp then f else .next (s.emit .unsupported)

/-- Take a free value below `n` (log 7). -/
def State.free (s : State) (n : Nat) : Nat × State := (Config.freeNat s.freeCtr % n, { s with freeCtr := s.freeCtr + 1 })

/-- The first cluster of a node of the buddy tree (R27): node k at depth δ covers 128/2^δ clusters. -/
def nodeDepth (k : Nat) : Nat := Nat.log2 k
/-- How many clusters a node holds (R27). -/
def nodeSize (k : Nat) : Nat := 128 / 2 ^ nodeDepth k
/-- The first cluster of a node (R27). -/
def nodeFirst (k : Nat) : Nat := (k - 2 ^ nodeDepth k) * nodeSize k
/-- Cluster `c` lies in node `k`. -/
def inNode (k c : Nat) : Bool := decide (nodeFirst k ≤ c) && decide (c < nodeFirst k + nodeSize k)

/-! ### Registers -/

/-- A g register; g0 reads as zero with tag 0 (R148). -/
def Strand.getG (x : Strand) (r : BitVec 6) : GReg := if r = 0 then ⟨0, false⟩ else x.g[r.toNat]'r.isLt
/-- Bits 63:0 of a g register. -/
def Strand.rd (x : Strand) (r : BitVec 6) : W64 := (x.getG r).bits.setWidth 64
/-- Write a g register; a write to g0 is discarded (R148). -/
def Strand.setG (x : Strand) (r : BitVec 6) (v : GReg) : Strand :=
  if r = 0 then x else { x with g := x.g.set r.toNat v r.isLt }
/-- Write plain data of 64 bits: bits 127:64 zero, tag 0 (R148). -/
def Strand.setW (x : Strand) (r : BitVec 6) (v : W64) : Strand := x.setG r ⟨v.setWidth 128, false⟩
/-- A v register (R150). -/
def Strand.getV (x : Strand) (r : BitVec 7) : W512 := x.v[r.toNat]'r.isLt
/-- Write a v register and mark its granule dirty (R127). -/
def Strand.setV (x : Strand) (r : BitVec 7) (w : W512) : Strand :=
  { x with v := x.v.set r.toNat w r.isLt, granDirty := x.granDirty ||| (1#16 <<< (r.toNat / 8)) }
/-- A predicate; p0 reads as 0xFFFF (R156). -/
def Strand.getP (x : Strand) (r : BitVec 3) : BitVec 16 := if r = 0 then 0xFFFF#16 else x.p[r.toNat]'r.isLt
/-- Write a predicate; a write to p0 is discarded (R156). -/
def Strand.setP (x : Strand) (r : BitVec 3) (w : BitVec 16) : Strand :=
  if r = 0 then x else { x with p := x.p.set r.toNat w r.isLt }
/-- A register position is held (R150). -/
def Strand.holds (x : Strand) (r : Nat) : Bool := decide (r / 8 < x.holding)
/-- A stored CSR by number. -/
def Strand.csrAt (x : Strand) (n : BitVec 7) : W64 := x.csr[n.toNat]'n.isLt
/-- Replace a stored CSR. -/
def Strand.setCsr (x : Strand) (n : BitVec 7) (v : W64) : Strand := { x with csr := x.csr.set n.toNat v n.isLt }
/-- The selvage (R166). -/
def Strand.selv (x : Strand) : Nat := bitsN (x.csrAt 0x20#7) 18 0
/-- FTOP (R169). -/
def Strand.ftop (x : Strand) : Bool := bit1 (x.csrAt 0x18#7) 0
/-- FRND (R169). -/
def Strand.frnd (x : Strand) : Nat := bitsN (x.csrAt 0x19#7) 1 0
/-- OR bits into FFLAGS (R170). -/
def Strand.orFlags (x : Strand) (f : BitVec 7) : Strand := x.setCsr 0x1A#7 (x.csrAt 0x1A#7 ||| f.setWidth 64)
/-- WID (R75). -/
def Strand.wid (x : Strand) : W32 := (x.csrAt 0x08#7).setWidth 32
/-- Add to an event count of the strand (R35). -/
def Strand.count (x : Strand) (e : BitVec 4) (k : Nat) : Strand :=
  { x with evts := x.evts.set e.toNat (x.evts[e.toNat]'e.isLt + k) e.isLt }
/-- The PC after the instruction (R165). -/
def Strand.pcPlus (x : Strand) (k : Nat) : Nat := (x.pc + k) % 2 ^ 64

/-! ### Chains (R75 to R97) -/

/-- The largest chain, stall or knot chain (R95). -/
def chainMax : Nat := 2 ^ 48 - 1
/-- Saturating addition and whether it saturated (R95). -/
def satAdd (a b : Nat) : Nat × Bool := if chainMax < a + b then (chainMax, true) else (a + b, false)
/-- CHN.chain. -/
def Strand.chain (x : Strand) : Nat := bitsN (x.csrAt 0x10#7) 47 0
/-- CHN.ovf. -/
def Strand.ovf (x : Strand) : Bool := bit1 (x.csrAt 0x10#7) 63
/-- CHLIM. -/
def Strand.chlim (x : Strand) : Nat := bitsN (x.csrAt 0x13#7) 47 0
/-- CHMODE.mode: declared (R75). -/
def Strand.declared (x : Strand) : Bool := bit1 (x.csrAt 0x15#7) 0
/-- CHMODE.trace (R75). -/
def Strand.traced (x : Strand) : Bool := bit1 (x.csrAt 0x15#7) 1
/-- A chain or stall register from its value and flag (R75). -/
def chainReg (v : Nat) (ovf : Bool) : W64 := BitVec.ofNat 64 (v + if ovf then 2 ^ 63 else 0)
/-- A chain lies above a limit; a limit of 0 lies above every chain (R96). -/
def above (chain lim : Nat) : Bool := decide (lim ≠ 0) && decide (lim < chain)

/-- Mark a chain-limit crossing: chpend, and the trap's TVAL (R96, R135, R137). -/
def Strand.markCross (x : Strand) : Strand :=
  if x.async.any (fun t => t.1 == 0x0C) then x
  else { x.setCsr 0x22#7 (x.csrAt 0x22#7 ||| 0x800#64) with
         async := x.async ++ [(0x0C, BitVec.ofNat 64 x.chain, 0)] }

/-- limit_check of R96, from the chain and limit before to those now in force. -/
def Strand.limitCheck (x : Strand) (oldChain oldLim : Nat) : Strand :=
  if !above oldChain oldLim && above x.chain x.chlim then x.markCross else x

/-- Set CHN.chain and possibly CHN.ovf, with the limit check (R96). -/
def Strand.setChain (x : Strand) (v : Nat) (ovf : Bool) : Strand :=
  (x.setCsr 0x10#7 (chainReg v (x.ovf || ovf))).limitCheck x.chain x.chlim

/-- Add to CHN.chain in either mode (R80, R95, R96). -/
def Strand.addChain (x : Strand) (t : Nat) : Strand :=
  let r := satAdd x.chain t
  x.setChain r.1 r.2

/-- Own-work ticks (R78): added in measured mode only (R81). -/
def Strand.own (x : Strand) (t : Nat) : Strand := if x.declared then x else x.addChain t

/-- The own-work ticks of `k` local cycles at divider `d` (R78). Where one of them carries the chain above CHLIM, the crossing is noted with the
chain as that cycle leaves it (R96). -/
def Strand.ownCycles (x : Strand) (k d : Nat) : Strand :=
  let j := (x.chlim - x.chain) / d + 1
  if k ≤ 1 ∨ x.chlim = 0 ∨ x.chlim < x.chain ∨ k ≤ j then x.own (k * d) else (x.own (j * d)).own ((k - j) * d)

/-- Take back own-work ticks of cycles that have not begun (R78), with a crossing that fell in them (R96). A saturated chain keeps its value
(R95). -/
def Strand.takeBack (x : Strand) (t : Nat) : Strand :=
  if x.declared || x.chain == chainMax then x
  else
    let c := x.chain - t
    let y := x.setCsr 0x10#7 (chainReg c x.ovf)
    if x.async.any fun a => a.1 == 0x0C && decide (c < a.2.1.toNat) then
      { y.setCsr 0x22#7 (y.csrAt 0x22#7 &&& ~~~0x800#64) with async := y.async.filter fun a => a.1 != 0x0C }
    else y

/-- Excluded ticks: added to CHSTALL (R93, R95) and to event 10 (R35). -/
def Strand.stall (x : Strand) (t : Nat) : Strand :=
  let r := satAdd (bitsN (x.csrAt 0x14#7) 47 0) t
  (x.setCsr 0x14#7 (chainReg r.1 (bit1 (x.csrAt 0x14#7) 63 || r.2))).count 10#4 t

/-! ### Sites (R82, R83) -/

/-- The cluster of an on-chip site that has one. -/
def Site.cluster : Site → Option Nat
  | .core n => some (clusterOf n)
  | .unit c => some (c / 2)
  | .barrier c => some c
  | .base _ => none
  | .peer _ => none

/-- The die of a site (R7, R27). -/
def Site.die : Site → Nat
  | .core n => clusterOf n / 64
  | .unit c => c / 2 / 64
  | .barrier c => c / 64
  | .base st => st / 4
  | .peer _ => 0

/-- The mesh charge between clusters (R82). -/
def meshTicks (a b : Nat) : Nat :=
  let row := fun c : Nat => c % 64 / 8
  let col := fun c : Nat => c % 8
  let diff := fun i j : Nat => (i - j) + (j - i)
  let dr := diff (row a) (row b)
  if a / 64 = b / 64 then 2 * (dr + diff (col a) (col b))
  else if a / 64 = 0 then 2 * (dr + (7 - col a) + col b) + 20
  else 2 * (dr + col a + (7 - col b)) + 20

/-- A core and a unit of its cell (R82). -/
def Site.near : Site → Site → Bool
  | .core n, .unit c => cellOf n == c
  | .unit c, .core n => cellOf n == c
  | _, _ => false

/-- The transit charge of R82 in measured mode. -/
def transit (a b : Site) : Nat :=
  if a = b || a.near b then 0
  else match a, b with
    | .peer k, _ => 2000 * k
    | _, .peer k => 2000 * k
    | .base i, .base j => 80 + if i / 4 ≠ j / 4 then 20 else 0
    | _, _ =>
      match a.cluster, b.cluster with
      | some i, some j => if i = j then 1 else meshTicks i j
      | _, _ => 40 + if a.die ≠ b.die then 20 else 0

/-- The transit charge in a mode (R81). -/
def transitIn (declared : Bool) (a b : Site) : Nat := if declared then 0 else transit a b

/-- What a join brings (R84). -/
structure JoinSrc where
  chain : Nat
  max : W32
  last : W32
  ovf : Bool
  site : Site
deriving DecidableEq, Repr

/-- join of R84 at the strand of core `n`. -/
def Strand.join (x : Strand) (n : Nat) (j : JoinSrc) : Strand :=
  let r := satAdd j.chain (transitIn x.declared j.site (.core n))
  let y := if x.chain < r.1 then (x.setCsr 0x11#7 (j.max.setWidth 64)).setChain r.1 (j.ovf || r.2)
           else x.setChain x.chain (j.ovf || r.2)
  (y.setCsr 0x12#7 (j.last.setWidth 64)).count 9#4 1

/-! ### Cycles (R78) -/

/-- The core whose scratchpad holds the words that core `n` executes, and whose divider it runs at: its gang's leader once
tacked (R65), else its own. -/
def Strand.codeCore (x : Strand) (n : Nat) : Nat := if x.gang.tacked then x.gang.leader else n

/-- The divider in force at core `n` (R65, R109). -/
def State.divOf (s : State) (n : Nat) : Nat :=
  match s.strand n with
  | some x => (s.coreCfg (x.codeCore n)).div
  | none => (s.coreCfg n).div

/-- The ticks of whole local cycles from `now` until tick `t` is reached. -/
def gapTicks (now t d : Nat) : Nat := if t ≤ now then 0 else (t - now + d - 1) / d * d

/-- How the waiting ticks of a kind of wait count (R78): 0 own work, 1 in a join, 2 excluded. -/
def WaitKind.charge : WaitKind → Nat
  | .join => 1
  | .knot _ _ _ _ => 1
  | .kjoin => 1
  | .barrier _ _ => 1
  | .excluded => 2
  | .lazy => 2
  | .claim _ => 2
  | .reclaim => 2
  | .heldData _ => 2
  | _ => 0

/-- The strand waits at its boundary for the line of its PC, which lazy restore has still to fill (R129); the mark is [3]. -/
def Strand.fetchWait (x : Strand) : Bool := x.wait == some .lazy && x.stash == [3]

/-- Charge ticks by class and move the strand's clock on. -/
def Strand.spend (x : Strand) (cls t : Nat) : Strand :=
  let y := { x with now := x.now + t }
  if cls = 0 then y.own t else if cls = 1 then y else y.stall t

/-- Charge local cycles as own work. -/
def Strand.cycles (x : Strand) (k d : Nat) : Strand := { x with now := x.now + k * d }.ownCycles k d

/-- Charge the local cycles up to tick `t` in a class; ticks of a granule claim are event 13. -/
def Strand.settleAs (x : Strand) (cls t d : Nat) : Strand :=
  let g := gapTicks x.now t d
  let y := if cls = 0 then x.cycles (g / d) d else x.spend cls g
  match x.wait with
  | some (.claim _) => y.count 13#4 g
  | some (.reclaim) => y.count 13#4 g
  | _ => y

/-- A tick of the strand after `t` once divider `d` becomes `e` at the first boundary of its cycles after `t` (R78, R109): the cycles that begin there
last `e` ticks. -/
def shiftTick (t d e u : Nat) : Nat := if u ≤ t then u else u - (u - t - 1) / d * d + (u - t - 1) / d * e

/-- The strand's divider changes from `d` to `e` at tick `t` (R78, R109): the cycles of its instruction that have not begun, and those of results under
way, are counted at the new one. -/
def Strand.redivide (x : Strand) (t d e : Nat) : Strand :=
  let k := (x.now - t - 1) / d
  let y := if k = 0 then x else ({ x.takeBack (k * d) with now := x.now - k * d }).cycles k e
  { y with
    gRdy := x.gRdy.map fun r => (r.1, shiftTick t d e r.2)
    vRdy := x.vRdy.map fun r => (r.1, shiftTick t d e r.2)
    bobbin := { x.bobbin with next := shiftTick t d e x.bobbin.next } }

/-- The class of a strand's waiting ticks (R78). -/
def Strand.charge (x : Strand) : Nat :=
  match x.wait with
  | some k => k.charge
  | none => 0

/-- Charge the local cycles up to tick `t`, by what the strand waits for. -/
def Strand.settle (x : Strand) (t d : Nat) : Strand := x.settleAs x.charge t d

/-- The issue cycle, charged once, of an instruction that waits, or that reads or joins a chain after it (R84, R85). -/
def Strand.issued (x : Strand) (d : Nat) : Strand := if x.begun then x else { x.cycles 1 d with begun := true }

/-- The local cycles that pass before every register named is ready (R300). -/
def Strand.readyCycles (x : Strand) (rs : List (BitVec 6)) (d : Nat) : Nat :=
  gapTicks x.now ((rs.map fun r => x.gRdy.getD r.toNat 0).foldl max 0) d / d

/-- Note when a result is ready: after `k` local cycles from the issue that has just been charged one (R300). -/
def Strand.later (x : Strand) (r : BitVec 6) (k d : Nat) : Strand :=
  if r = 0 || k ≤ 1 then { x with gRdy := x.gRdy.del r.toNat }
  else { x with gRdy := x.gRdy.put r.toNat (x.now + (k - 1) * d) }

/-- The strand can try an instruction now: it has started, is not halted, and waits for nothing that a device step must
bring. One that is to stop still ends the instruction that it has begun (R118, R145). -/
def Strand.runnable (x : Strand) : Bool :=
  x.phase == .live && !x.halted && (x.wait.isSome || !(x.haltReq || x.stopReq)) &&
  match x.wait with
  | none => true
  | some (.data n) => n == 0
  | some .own => true
  | some .join => true
  | some .excluded => true
  | some .lazy => true
  | _ => false

/-- The strand leaves the instruction it was trying. -/
def Strand.drop (x : Strand) : Strand :=
  { x with wait := none, begun := false, reply := none, stash := [], fillBuf := [], released := false }

/-- End an instruction: its issue cycle (unless charged already) and further cycles, the retired count, the new PC. -/
def Strand.finish (x : Strand) (k d pc : Nat) : Strand :=
  { ((x.cycles (if x.begun then k - 1 else k) d).count 1#4 1).drop with pc := pc }

/-- Retire the instruction of core `n` after `k` cycles and go on at the next word. -/
def State.retire (s : State) (n : Nat) (x : Strand) (k : Nat) : State :=
  s.setStrand n (x.finish k (s.divOf n) (x.pcPlus 4))

/-- The instruction of core `n` waits: its issue cycle is charged once. The cycle that finds a line or granule absent is excluded
instead, and the instruction issues when the fill has come (R93). -/
def State.blockOn (s : State) (n : Nat) (k : WaitKind) : State :=
  s.onStrand n fun x =>
    { (if k = .lazy then (if x.wait = some .lazy then x else x.spend 2 (s.divOf n)) else x.issued (s.divOf n)) with wait := some k }

/-! ### Traps (R134 to R138) -/

/-- A trap about to be taken. -/
structure Trap where
  cause : Nat
  tval : W64
  detail : Nat
  imprecise : Bool
deriving DecidableEq, Repr

/-- A precise trap without detail. -/
def Trap.precise (cause : Nat) (tval : W64) : Trap := ⟨cause, tval, 0, false⟩

/-- TCAUSE.active (R135). -/
def Strand.active (x : Strand) : Bool := bit1 (x.csrAt 0x22#7) 8

/-- The trap goes to the supervisor (R136). Bit 0 of `detail` is TCAUSE bit 16, fatal. -/
def Strand.toSupervisor (x : Strand) (t : Trap) : Bool :=
  t.cause == 0x13 || t.cause == 0x14 || ((t.cause == 0x09 || t.cause == 0x0A) && t.detail % 2 == 1) || x.active ||
    !bit1 (x.csrAt 0x25#7) t.cause

/-- TCAUSE after a delegated trap: chpend and more stay (R135, R136). -/
def tcauseOf (old : W64) (t : Trap) : W64 :=
  (old &&& 0x1800#64) ||| BitVec.ofNat 64 (t.cause + 2 ^ 8 + (if t.imprecise then 2 ^ 9 else 0) + t.detail % 256 * 2 ^ 16)

/-- Entry to the strand's own handler (R136). -/
def Strand.enter (x : Strand) (t : Trap) (epc : Nat) : Strand :=
  { (((x.drop.setCsr 0x24#7 (BitVec.ofNat 64 epc)).setCsr 0x23#7 t.tval).setCsr 0x22#7 (tcauseOf (x.csrAt 0x22#7) t)) with
    pc := (x.csrAt 0x21#7).toNat }

/-- A trap to the supervisor: the strand stays resident and blocked (R136). -/
def Strand.toSteward (x : Strand) (t : Trap) (epc : Nat) : Strand :=
  { x.drop with wait := some (.supervisor t.cause t.tval (BitVec.ofNat 64 epc) t.detail) }

/-- take_trap of R136. -/
def Strand.takeTrap (x : Strand) (t : Trap) (epc : Nat) : Strand :=
  let y := if t.cause = 0x08 then x.count 12#4 1 else x
  if y.toSupervisor t then y.toSteward t epc else y.enter t epc

/-- A launch has consumed poisoned data (R144, R333). -/
def State.notePsn (s : State) (p id : Nat) : State :=
  { s with launches := s.launches.map fun l => if l.part = p ∧ l.id = id then { l with psn := true } else l }

/-- An entry whose translation word has state 0 is absent (R206, R207). -/
def DirEntry.present (d : DirEntry) : Option DirEntry := if bitsN d.t 63 62 = 0 then none else some d

/-- The directory entry of a global address. -/
def State.region (s : State) (a : Nat) : Option DirEntry := (s.dir.find (a / 2 ^ 30)).bind DirEntry.present

/-- The region of a global address as a strand's core knows it (R208): what its lookaside buffer holds, else the directory's entry. -/
def State.regionSeen (s : State) (x : Strand) (a : Nat) : Option DirEntry :=
  match x.plb.find (a / 2 ^ 30) with
  | some d => d.present
  | none => s.region a

/-- Note a region in the lookaside buffer, an absent one as absent: at most 64 entries, of which the lowest region leaves first (R208: the
order is not architectural). -/
def Strand.seeRegion (x : Strand) (s : State) (a : Nat) : Strand :=
  match x.plb.find (a / 2 ^ 30) with
  | some _ => x
  | none =>
    let e : DirEntry := match s.region a with
      | some d => ⟨d.t &&& 0xC800000000000000#64, d.r⟩
      | none => ⟨0, 0⟩
    { x with plb := Tbl.put (x.plb.drop (x.plb.length + 1 - 64)) (a / 2 ^ 30) e }

/-- An access to a global address that finds its region absent (0x09) has looked it up (R204, R208). -/
def Strand.seeTrap (x : Strand) (s : State) (t : Trap) : Strand :=
  if t.cause = 9 ∧ 2 ^ 40 ≤ t.tval.toNat ∧ t.tval.toNat < 2 ^ 57 then x.seeRegion s t.tval.toNat else x

/-- A held fault is of a cause that stays held while a delegated handler runs (R137); the others are the bobbin's (R163). -/
def heldCause (c : Nat) : Bool := c == 0x0A || c == 0x0C || c == 0x11

/-- A held or pending asynchronous trap; a second of one cause sets more (R137). A bobbin's fault while a handler runs is kept, whatever cause that
handles: it is taken as a double trap (R136). -/
def Strand.addAsync (x : Strand) (cause : Nat) (tval : W64) (detail : Nat) : Strand :=
  if x.async.any (fun t => t.1 == cause) || (heldCause cause && x.active && bitsN (x.csrAt 0x22#7) 7 0 == cause) then
    x.setCsr 0x22#7 (x.csrAt 0x22#7 ||| 0x1000#64)
  else { x with async := x.async ++ [(cause, tval, detail)] }

/-- The asynchronous trap that the next boundary takes, in the order of R138. While active only a fault of the bobbin is
taken, as a double trap (R136, R137). -/
def Strand.dueAsync (x : Strand) : Option (Nat × W64 × Nat) :=
  let bob := x.async.find? fun t => !heldCause t.1
  if x.active then bob
  else
    match x.async.find? (fun t => t.1 == 0x0C) with
    | some t => some t
    | none =>
      match x.async.find? (fun t => t.1 == 0x0A) with
      | some t => some t
      | none =>
        match x.async.find? (fun t => t.1 == 0x11) with
        | some t => some t
        | none => bob

/-- Trap entry of one member of a gang, or of a strand alone: `sup` sends it to the supervisor. No cycle is charged. -/
def Strand.asyncEntry (x : Strand) (t : Trap) (sup : Bool) : Strand :=
  let y := { x with async := x.async.filter fun a => a.1 != t.cause }
  let y := if t.cause = 0x0C then y.setCsr 0x22#7 (y.csrAt 0x22#7 &&& ~~~0x800#64) else y
  let y := if t.cause = 0x08 then y.count 12#4 1 else y
  if sup then y.toSteward t x.pc else y.enter t x.pc

/-- The trap of a held fault (R134, R163): 0x0C and 0x11 are taken where they are found, the others are imprecise. -/
def asyncTrap (a : Nat × W64 × Nat) : Trap := ⟨a.1, a.2.1, a.2.2, a.1 != 0x0C && a.1 != 0x11⟩

/-- The held traps that the members of a gang, or a strand alone, take at a boundary (R137, R138). -/
def State.dueTraps (s : State) (ms : List Nat) : List (Nat × Trap) :=
  ms.filterMap fun n => ((s.strand n).bind Strand.dueAsync).map fun a => (n, asyncTrap a)

/-- Take the held traps `due` of members `ms`, of whom `x` is one: the whole gang traps with them (R67). -/
def State.takeAsync (s : State) (x : Strand) (ms : List Nat) (due : List (Nat × Trap)) : State :=
  let sup := due.any fun p => ((s.strand p.1).map fun y => y.toSupervisor p.2).getD false
  let imp := due.any (·.2.imprecise)
  let s2 := if due.any (fun p => p.2.cause == 0x0B) then s.notePsn x.id.part x.id.launch else s
  ms.foldl (fun (z : State) n => z.onStrand n fun y =>
    match due.find? (·.1 == n) with
    | some p => y.asyncEntry p.2 sup
    | none => y.asyncEntry ⟨0, 0, 0, imp⟩ sup) s2

/-- The trap of an instruction of core `n`: its issue cycle is own work, then take_trap. A held trap that has come while the
instruction waited falls at the same boundary and goes first where R138 lists it first; the instruction then raises its own again. -/
def State.trapOn (s : State) (n : Nat) (x : Strand) (t : Trap) : State :=
  if x.wait.isSome && x.dueAsync.isSome then (s.setStrand n x).takeAsync x [n] ((s.setStrand n x).dueTraps [n])
  else (if t.cause = 0x0B then s.notePsn x.id.part x.id.launch else s).setStrand n
    (((x.seeTrap s t).issued (s.divOf n)).takeTrap t x.pc)

/-- Return from a delegated handler (R416): active clears and the PC is TEPC. -/
def Strand.trapReturn (x : Strand) : Strand :=
  { x.setCsr 0x22#7 (x.csrAt 0x22#7 &&& ~~~0x100#64) with pc := (x.csrAt 0x24#7).toNat }

/-! ### Control words -/

/-- What one member of a gang, or a strand alone, does with a word. -/
inductive Eff where
  /-- The word is done in this state. -/
  | done (s : State)
  /-- The word traps precisely; `y` is its strand, charged for what the word has waited for its operands (R300). -/
  | trap (y : Strand) (t : Trap)
  /-- The word waits, in this state. -/
  | block (s : State) (k : WaitKind)

/-- The cores that a word runs on: the gang's members once it is tacked (R65), else the core itself. -/
def Strand.members (x : Strand) (n : Nat) : List Nat := if x.gang.tacked then x.gang.members else [n]

/-- The class in which the ticks of a gang's member count, or of a strand alone: excluded while any member's are (R79). -/
def State.gangCharge (s : State) (ms : List Nat) (x : Strand) : Nat :=
  if ms.any fun m => ((s.strand m).map (·.charge)).getD 0 == 2 then 2 else x.charge

/-- Two identities of one strand: its team's barrier slots may differ after a restore (R108, R128). -/
def Ident.same (i j : Ident) : Bool :=
  i.part == j.part && i.launch == j.launch && i.index == j.index && i.stage == j.stage && i.strand == j.strand

/-- The completion tick of the generation that a strand waits for, where its release is on its way (R104). -/
def State.completed (s : State) (n : Nat) (x : Strand) : Option Nat :=
  match x.wait with
  | some (.barrier b g) => (s.releases.find? fun r => r.core == n && x.id.same r.id && r.held.bar == b && r.held.gen == g).map (·.comp)
  | _ => none

/-- Charge a member's ticks up to tick `t`. Those of a wait at a barrier are a join up to the completion and excluded after it (R93, R94). -/
def State.settleMember (s : State) (ms : List Nat) (t n : Nat) (x : Strand) : Strand :=
  match s.completed n x with
  | some k => (x.settleAs (s.gangCharge ms x) (min k t) (s.divOf n)).settleAs 2 t (s.divOf n)
  | none => x.settleAs (s.gangCharge ms x) t (s.divOf n)

/-- Charge every member's ticks up to tick `t`. -/
def State.settleTo (s : State) (ms : List Nat) (t : Nat) : State :=
  ms.foldl (fun (z : State) n => z.onStrand n (s.settleMember ms t n)) s

/-- Charge every member's ticks up to now. -/
def State.settleAll (s : State) (ms : List Nat) : State := s.settleTo ms s.tick

/-- Charge the ticks of core `n`, and of its gang, up to now. -/
def State.settleCore (s : State) (n : Nat) : State :=
  match s.strand n with
  | some x => s.settleAll (x.members n)
  | none => s

/-- The divider of core `n` changes from `d` to `e` now, for its strand or the gang that it leads (R65, R78, R109). -/
def State.redivide (s : State) (n d e : Nat) : State :=
  match s.strand n with
  | some x => (x.members n).foldl (fun (z : State) m => z.onStrand m fun y => if y.codeCore m = n then y.redivide s.tick d e else y) s
  | none => s

/-- Run a word on each member in strand order; none unless every member is done. -/
def runAll (f : State → Nat → Strand → Eff) : List Nat → State → Option State
  | [], s => some s
  | n :: ns, s =>
    match s.strand n with
    | none => none
    | some x =>
      match f s n x with
      | .done s' => runAll f ns s'
      | _ => none

/-- The members that trap at a word, with their strands. -/
def gangTraps (f : State → Nat → Strand → Eff) (s : State) (ms : List Nat) : List (Nat × Strand × Trap) :=
  ms.filterMap fun n =>
    match s.strand n with
    | none => none
    | some x =>
      match f s n x with
      | .trap y t => some (n, y, t)
      | _ => none

/-- Every member traps: the raisers with their own cause, the others with 0x00; all go to the supervisor when one raiser's
cause does (R67, R134). -/
def State.gangTrap (s : State) (ms : List Nat) (ts : List (Nat × Trap)) : State :=
  let s := match (ms.headD 0 |> s.strand), ts.any (fun p => p.2.cause == 0x0B) with
    | some x, true => s.notePsn x.id.part x.id.launch
    | _, _ => s
  let sup := ts.any fun p => match s.strand p.1 with
    | some x => x.toSupervisor p.2
    | none => false
  ms.foldl (fun (z : State) (n : Nat) =>
    let t : Trap := match ts.find? (fun p => p.1 == n) with
      | some p => p.2
      | none => ⟨0, 0, 0, (ts.head?.map (·.2.imprecise)).getD false⟩
    z.onStrand n fun x =>
      let y := (x.seeTrap z t).issued (z.divOf n)
      let y := if t.cause = 0x08 then y.count 12#4 1 else y
      if sup then y.toSteward t x.pc else y.enter t x.pc) s

/-- The trap of an instruction of core `n` that a device step brings: with its whole gang where it is tacked (R67). -/
def State.trapAt (s : State) (n : Nat) (x : Strand) (t : Trap) : State :=
  if x.gang.tacked then (s.setStrand n x).gangTrap x.gang.members [(n, t)] else s.trapOn n x t

/-- A wait that the instruction ends by testing again. -/
def WaitKind.tests (k : WaitKind) : Bool := k == .own || k == .join || k == .excluded || k == .lazy

/-- A member still tests whether it may go on. -/
def testing (f : State → Nat → Strand → Eff) (s : State) (ms : List Nat) : Bool :=
  ms.any fun n => match s.strand n with
    | none => false
    | some x => match f s n x with
      | .block _ k => k.tests
      | _ => false

/-- A member finds a line or granule absent (R129). -/
def filling (f : State → Nat → Strand → Eff) (s : State) (ms : List Nat) : Bool :=
  ms.any fun n => match s.strand n with
    | none => false
    | some x => match f s n x with
      | .block _ .lazy => true
      | _ => false

/-- Core `n` waits with its gang. The cycle in which another member finds a line or granule absent is excluded for it too (R79). -/
def State.blockWith (s : State) (fill : Bool) (n : Nat) (k : WaitKind) : State :=
  if fill && k != .lazy then s.onStrand n fun x => { (if x.wait.isSome then x else x.spend 2 (s.divOf n)) with wait := some k }
  else s.blockOn n k

/-- The whole gang waits with its members that wait (R65). While one of them still tests, no request of another leaves it, for the
word may yet trap (`hold`; R233). -/
def blockAll (f : State → Nat → Strand → Eff) (hold fill : Bool) : List Nat → State → State
  | [], s => s
  | n :: ns, s =>
    match s.strand n with
    | none => blockAll f hold fill ns s
    | some x =>
      match f s n x with
      | .block s' k => blockAll f hold fill ns (if hold && !k.tests then s.blockWith fill n .own else s'.blockWith fill n k)
      | _ => blockAll f hold fill ns (s.blockWith fill n .own)

/-- Members of a gang stay in step: follower i runs i local cycles behind the leader, and each waits, in a class, for the latest
(R65, R79). -/
def State.gangSync (s : State) (ms : List Nat) (cls : Nat) : State :=
  let d := s.divOf (ms.headD 0)
  let lead := fun i : Nat => (ms.length - i) * d
  let t := (ms.zipIdx.map fun p => ((s.strand p.1).map (·.now + lead p.2)).getD 0).foldl max 0
  ms.zipIdx.foldl (fun (z : State) p => z.onStrand p.1 fun x => x.spend cls (t - lead p.2 - x.now)) s

/-- The commands that a word of a gang has placed, those from number `k` on, carry their issuer's chain at the word's retirement, with its wait for
the gang's latest member (R65, R79, R89). -/
def Strand.stampFrom (x : Strand) (k : Nat) : Strand :=
  let f := fun c : Cmd => if k ≤ c.id then { c with e0 := x.chain, ovf := x.ovf } else c
  { x with mq := x.mq.map f, cq := x.cq.map f }

/-- A word of a gang (R65 to R67). -/
def runGang (f : State → Nat → Strand → Eff) (ms : List Nat) (s : State) : State :=
  match runAll f ms s with
  | some s' => ms.foldl (fun (z : State) n => z.onStrand n (·.stampFrom s.cmdCtr)) (s'.gangSync ms 0)
  | none =>
    match gangTraps f s ms with
    | [] => blockAll f (testing f s ms) (filling f s ms) ms s
    | ts =>
      let s1 := ts.foldl (fun (z : State) p => z.setStrand p.1 p.2.1) s
      let own := ts.map fun p => (p.1, p.2.2)
      match ms.findSome? s.strand, s.dueTraps ms with
      | some x, d :: ds => if x.wait.isSome then s1.takeAsync x ms (d :: ds) else s1.gangTrap ms own
      | _, _ => s1.gangTrap ms own

/-- A word of a strand that runs alone. -/
def runAlone (f : State → Nat → Strand → Eff) (n : Nat) (s : State) : State :=
  match s.strand n with
  | none => s
  | some x =>
    match f s n x with
    | .done s' => s'
    | .trap y t => s.trapOn n y t
    | .block s' k => s'.blockOn n k

/-- A control word at the current core: refused where no strand there can run one, else done by the strand alone or by
its gang. A gang waits while a member waits for something that a device step must bring. -/
def word (s : State) (f : State → Nat → Strand → Eff) : Out :=
  match s.strand s.cur with
  | none => .refused .noStrand
  | some x =>
    if x.runnable then
      if x.gang.tacked then
        let ms := x.gang.members
        let s1 := (s.settleAll ms).gangSync ms (if s.gangCharge ms x = 2 then 2 else 0)
        if ms.all (fun m => ((s1.strand m).map Strand.runnable).getD true) then .next (runGang f ms s1)
        else .next s1
      else .next (runAlone f s.cur (s.setStrand s.cur (x.settle s.tick (s.divOf s.cur))))
    else .refused .noStrand

/-- A g register that a queued vector instruction will write is not read or written before it completes (R356). -/
def Strand.pending (x : Strand) (rs : List (BitVec 6)) : Bool := rs.any fun r => x.gPend.contains r.toNat

/-- A register that the word names is still pending from VEXT in some member of the gang, or in the strand alone: the word waits (R65, R356). -/
def gangPending (s : State) (n : Nat) (x : Strand) (rs : List (BitVec 6)) : Bool :=
  (x.members n).any fun m => ((s.strand m).map (·.pending rs)).getD false

/-- The shape of an instruction that computes from g registers: it waits for its operands (R300), then `f` gives the
strand with its result, ready after `lat` cycles in `d`; `k` issue cycles. -/
def compute (srcs : List (BitVec 6)) (d : BitVec 6) (k lat : Nat) (f : Strand → Strand) : State → Nat → Strand → Eff :=
  fun s n x =>
    if x.pending (d :: srcs) then .block s .own
    else
      let dv := s.divOf n
      let y := x.cycles (x.readyCycles srcs dv) dv
      .done (s.setStrand n (((f y).finish k dv (x.pcPlus 4)).later d (lat + 1 - k) dv))

/-- The instruction word at the strand's PC (R165): four bytes of its scratchpad, little-endian. -/
def State.fetchWord (s : State) (n pc : Nat) : W32 :=
  let b := fun i => s.scratch.read (n * 2 ^ 18 + pc + i)
  b 3 ++ b 2 ++ b 1 ++ b 0

/-- The word that the strand of core `n` executes, zero-extended (R65, R165). -/
def State.wordAt (s : State) (n : Nat) (x : Strand) : W64 := (s.fetchWord (x.codeCore n) x.pc).setWidth 64

/-- The instruction at the PC of the strand of core `n`. -/
def State.instrAt (s : State) (n : Nat) (x : Strand) : Option Instr := decodeWord (s.fetchWord (x.codeCore n) x.pc)

/-- An illegal use: precise 0x01 with the instruction word in TVAL (R134). -/
def illegal (s : State) (n : Nat) (x : Strand) : Eff := .trap x (.precise 0x01 (s.wordAt n x))

/-- Go on with the strand of core `n` as it stands. -/
def withStrand (s : State) (n : Nat) (f : Strand → Eff) : Eff :=
  match s.strand n with
  | some x => f x
  | none => .done s

end Sys2Proof.Machine
end

