-- ==== Sys2Proof/Machine/Operands.lean ====
section
/-! DEFINITION. Operand forms: capabilities (R200 to R205), the address map and its windows (R173 to R176, R182, R199),
views (R179), range locks (R228, R229), and the checks of an access in the order of R138 (R204). -/
namespace Sys2Proof.Machine

/-! ### Capabilities -/

/-- The fields of a capability (R200). -/
structure Cap where
  domain : Nat
  above : Nat
  below : Nat
  e : Nat
  perms : BitVec 12
  address : Nat
deriving DecidableEq, Repr

/-- Read the fields of 128 bits (R200). -/
def capOf (w : W128) : Cap :=
  ⟨bitsN w 127 122, bitsN w 121 102, bitsN w 101 82, bitsN w 81 76, w.extractLsb' 64 12, bitsN w 63 0⟩

/-- The 128 bits of a capability (R200). -/
def Cap.bits (c : Cap) : W128 :=
  BitVec.ofNat 6 c.domain ++ BitVec.ofNat 20 c.above ++ BitVec.ofNat 20 c.below ++ BitVec.ofNat 6 c.e ++ c.perms ++
    BitVec.ofNat 64 c.address

/-- The anchor: the address rounded down to a granule (R202). -/
def Cap.anchor (c : Cap) : Nat := c.address - c.address % 2 ^ c.e
/-- The base (R202). -/
def Cap.base (c : Cap) : Int := (c.anchor : Int) - (c.below * 2 ^ c.e : Nat)
/-- The top (R202). -/
def Cap.top (c : Cap) : Int := (c.anchor : Int) + (c.above * 2 ^ c.e : Nat)

/-- Permission bits (R201). -/
def permLoad : BitVec 12 := 0x001
def permStore : BitVec 12 := 0x002
def permExec : BitVec 12 := 0x004
def permTagLoad : BitVec 12 := 0x008
def permTagStore : BitVec 12 := 0x010
def permView : BitVec 12 := 0x020
def permConfined : BitVec 12 := 0x040
def permEngine : BitVec 12 := 0x080
def permKnot : BitVec 12 := 0x100
def permSystem : BitVec 12 := 0x200

/-- Every permission of a set is held. -/
def Cap.has (c : Cap) (need : BitVec 12) : Bool := c.perms &&& need == need

/-- The invariants of a tagged value (R202). -/
def Cap.ok (c : Cap) : Bool :=
  decide (c.e ≤ 44) && decide (c.below + c.above ≤ 2 ^ 20 - 1) && decide (0 ≤ c.base) && decide (c.top ≤ 2 ^ 64) &&
    c.perms &&& 0xE04#12 == 0

/-- A register holds a tagged value that keeps the invariants (R202, R311). -/
def GReg.tagged (r : GReg) : Bool := r.tag && (capOf r.bits).ok

/-- What encode_bounds answers (R203). -/
structure Enc where
  e : Nat
  above : Nat
  base : Nat
  top : Nat
  exact : Bool
deriving DecidableEq, Repr

/-- encode_bounds of R203: the smallest e whose granule span fits 20 bits. -/
def encodeBounds (base len : Nat) : Enc :=
  let lo := fun e => base / 2 ^ e
  let hi := fun e => (base + len + 2 ^ e - 1) / 2 ^ e
  let e := ((List.range 45).find? fun e => decide (hi e - lo e ≤ 2 ^ 20 - 1)).getD 44
  ⟨e, hi e - lo e, lo e * 2 ^ e, hi e * 2 ^ e, lo e * 2 ^ e == base && hi e * 2 ^ e == base + len⟩

/-- A capability with given bounds, address at the base (R172, R203). -/
def makeCap (domain : Nat) (perms : BitVec 12) (base len : Nat) : GReg :=
  let n := encodeBounds base len
  ⟨(Cap.mk domain n.above 0 n.e perms n.base).bits, true⟩

/-- A register with a new address (R314): below and above follow the anchor, the tag clears outside the window. -/
def moveCap (r : GReg) (addr : Nat) : GReg :=
  let c := capOf r.bits
  let plain : W128 := r.bits.extractLsb' 64 64 ++ BitVec.ofNat 64 addr
  if r.tagged then
    let k : Int := ((addr : Int) - (addr % 2 ^ c.e : Nat) - c.anchor) / (2 ^ c.e : Nat)
    let below := (c.below : Int) + k
    let above := (c.above : Int) - k
    if 0 ≤ below ∧ below < 2 ^ 20 ∧ 0 ≤ above ∧ above < 2 ^ 20 then
      ⟨({ c with below := below.toNat, above := above.toNat, address := addr } : Cap).bits, true⟩
    else ⟨plain, false⟩
  else ⟨plain, false⟩

/-! ### The address map -/

/-- What an address names (R173, R199). A scratchpad address gives the owning core, the view and the view offset. -/
inductive Place where
  | scratch (owner view off : Nat)
  | lane (off : Nat)
  | chip (x : Nat)
  | glob
  | high
  | hole
deriving DecidableEq, Repr

/-- A scratchpad window offset (R174). -/
def inWindow (owner w : Nat) : Place := .scratch owner (w / 2 ^ 24) (w % 2 ^ 24)

/-- The place of an address as core `n` names it (R199). -/
def placeOf (n a : Nat) : Place :=
  if 2 ^ 57 ≤ a then .high
  else if 0x10000000000 ≤ a then .glob
  else if a < 0x4000000 then inWindow n a
  else if 0x8000000 ≤ a ∧ a < 0x8010000 then .lane (0x30000 + (a - 0x8000000))
  else if 0x10000000 ≤ a ∧ a < 0x50000000 then
    inWindow (clusterOf n * 16 + (a - 0x10000000) / 2 ^ 26) ((a - 0x10000000) % 2 ^ 26)
  else if 0x100000000 ≤ a ∧ a < 0x2100000000 then inWindow ((a - 0x100000000) / 2 ^ 26) ((a - 0x100000000) % 2 ^ 26)
  else if 0x4000000000 ≤ a ∧ a < 0x4060000000 then .chip (a - 0x4000000000)
  else .hole

/-- The view of a place (R179). -/
def Place.view : Place → Nat
  | .scratch _ v _ => v
  | _ => 0

/-- View offsets below this are mapped (R179). -/
def viewSize (v : Nat) : Nat := if v = 0 then 0x40000 else if v = 3 then 0x80000 else 0x100000

/-- The raw offsets behind one byte of a view (R179). -/
def rawOf (v o : Nat) : List Nat :=
  if v = 0 then [o] else if v = 3 then [2 * (o / 4), 2 * (o / 4) + 1] else [o / 4]

/-- The bytes behind byte `i` of an access at `a` (R228). -/
def locsOf (n a i : Nat) : List Loc :=
  match placeOf n a with
  | .scratch owner v o => (rawOf v (o + i)).map (Loc.scratch owner)
  | .lane off => [.scratch n (off + i)]
  | .chip x => [.chip (x + i)]
  | _ => [.glob (a + i)]

/-- The format of a narrow view (R179). -/
def viewBytes (v : Nat) : Nat := if v = 3 then 2 else 1

/-! ### Owners (R174, R175, R182) -/

/-- Partition `p`'s node (R30). -/
def State.nodeOf (s : State) (p : Nat) : Nat := ((s.part p).map (·.node)).getD 0

/-- The core lies in a partition's node (R175). -/
def State.coreIn (s : State) (p n : Nat) : Bool := inNode (s.nodeOf p) (clusterOf n)

/-- The slice lies in a partition's set (R28). -/
def State.sliceIn (s : State) (p sl : Nat) : Bool :=
  match s.part p with
  | some x => decide (x.sliceBase ≤ sl) && decide (sl < x.sliceBase + 2 ^ x.sliceLog2)
  | none => false

/-- The eighths of the ways that a partition lends (R183). -/
def State.lendOf (s : State) (p : Nat) : Nat := ((s.part p).map (fun x => bitsN x.page.lend 2 0)).getD 0

/-- The saved context of core `n` that an agent of virtual device `v` reaches (R175): its own device's image, else the
image saved most recently there. -/
def State.savedAt (s : State) (p v n : Nat) : Option Saved :=
  match s.part p with
  | none => none
  | some x =>
    match x.saved.find? (fun y => y.core == n && y.vd == v) with
    | some y => some y
    | none => (x.saved.filter (fun y => y.core == n)).foldl (fun (o : Option Saved) y =>
        match o with
        | none => some y
        | some z => if z.order < y.order then some y else o) none

/-- The strand whose scratchpad a window of core `n` reaches for virtual device `v` (R175): the resident strand of the partition
once it has started, none where one is placed and has not, else a saved one. What a saved virtual device has issued keeps to
that device's bytes, so its image goes before another device's strand (R120, R121, R401). The flag says that it is saved. -/
def State.ownerAt (s : State) (p v n : Nat) : Option (Strand × Bool) :=
  let image := (s.savedAt p v n).map fun y => (y.strand, true)
  let mine := ((s.savedAt p v n).map fun y => y.vd == v).getD false
  match s.strand n with
  | some x =>
    if x.id.part == p && x.phase != .placed && (x.id.vd == v || !mine) then some (x, false)
    else if mine then image else none
  | none => image

/-! ### Range locks (R228, R229) -/

/-- Byte `l` lies in a lock's range. -/
def Lock.covers (k : Lock) (l : Loc) : Bool :=
  match k.loc, l with
  | .scratch c o, .scratch c' o' => c == c' && decide (o ≤ o') && decide (o' < o + k.len)
  | .chip o, .chip o' => decide (o ≤ o') && decide (o' < o + k.len)
  | .glob o, .glob o' => decide (o ≤ o') && decide (o' < o + k.len)
  | _, _ => false

/-- A lock of a saved context of another virtual device, which no access meets (R131). -/
def State.asleep (s : State) (vd : Nat) (k : Lock) : Bool :=
  s.copies.any fun c => c.cmd.id == k.cmd && c.cmd.vd != vd &&
    ((s.part c.cmd.part).map fun p => p.saved.any fun y => y.core == c.cmd.core && y.vd == c.cmd.vd).getD false

/-- An access to a byte by a strand of virtual device `vd` in the cluster meets a lock (R229). -/
def State.locked (s : State) (vd cluster : Nat) (write : Bool) (l : Loc) : Bool :=
  (s.cluster cluster).locks.any fun k => (k.dest || write) && k.covers l && !s.asleep vd k

/-- Release locks of a command in its issuer's cluster (R229). -/
def State.dropLocks (s : State) (n : Nat) (f : Lock → Bool) : State :=
  let c := s.cluster (clusterOf n)
  s.setCluster (clusterOf n) { c with locks := c.locks.filter fun k => !f k }

/-- The first i below `n` for which a condition holds. -/
def firstBad (n : Nat) (f : Nat → Bool) : Option Nat := (List.range n).find? f

/-- The 0x08 of an instruction's own access to `n` bytes at `off` of its scratchpad that no operand names (R229): the address in
the own scratchpad window, raw view. -/
def State.lockClash (s : State) (core : Nat) (x : Strand) (off n : Nat) (write : Bool) : Option Trap :=
  (firstBad n fun i => s.locked x.id.vd (clusterOf core) write (.scratch core (off + i))).map fun i =>
    .precise 0x08 (BitVec.ofNat 64 (off + i))

/-! ### The check of an access -/

/-- An access as an instruction names it: capability register, address, size, permissions, write, alignment, whether a
narrow view is allowed, a further ground for 0x04. -/
structure Ref where
  reg : BitVec 6
  addr : Nat
  size : Nat
  need : BitVec 12
  write : Bool
  align : Nat
  views : Bool
  deny : Bool
deriving DecidableEq, Repr

/-- TCAUSE detail of a translation fault: bit 0 fatal, bit 1 write (R135). -/
def transDetail (fatal write : Bool) : Nat := (if fatal then 1 else 0) + if write then 2 else 0

/-- 0x05 (R175, R182, R204). -/
def wrongDomain (s : State) (x : Strand) (c : Cap) (pl : Place) (a : Nat) : Bool :=
  c.domain != x.id.part ||
  match pl with
  | .glob => match s.regionSeen x a with
    | some d => bitsN d.r 63 58 != c.domain
    | none => false
  | .scratch owner _ _ => !s.coreIn x.id.part owner
  | .chip y => !s.sliceIn x.id.part (y / 0xC00000)
  | _ => false

/-- 0x04 (R165, R204, R328): the address to report. -/
def noPermission (s : State) (x : Strand) (n : Nat) (c : Cap) (pl : Place) (r : Ref) : Option Nat :=
  let need := if pl.view ≠ 0 then r.need ||| permView else r.need
  if !c.has need || c.has permExec || r.deny then some r.addr
  else match pl with
    | .glob => match s.regionSeen x r.addr with
      | some d => if r.write && !bit1 d.r 45 then some r.addr else none
      | none => none
    | .scratch owner v o =>
      match (if owner = n then some (x, false) else s.ownerAt x.id.part x.id.vd owner) with
      | some (y, _) => (firstBad r.size fun i => (rawOf v (o + i)).any (· < y.selv)).map (r.addr + ·)
      | none => none
    | .lane off => (firstBad r.size fun i => decide (off + i < x.selv)).map (r.addr + ·)
    | _ => none

/-- 0x06 (R180, R323). -/
def misaligned (pl : Place) (r : Ref) : Bool :=
  decide (r.addr % r.align ≠ 0) || (pl.view != 0 && (!r.views || decide (r.addr % 4 ≠ 0)))

/-- 0x09 before any translation (R173, R174, R175, R182, R199, R204): the address to report. -/
def unreachable (s : State) (x : Strand) (n : Nat) (pl : Place) (r : Ref) : Option Nat :=
  match pl with
  | .high => some r.addr
  | .hole => some r.addr
  | .glob => if (s.regionSeen x r.addr).isNone then some r.addr else none
  | .scratch owner v o =>
    match (if owner = n then some (x, false) else s.ownerAt x.id.part x.id.vd owner) with
    | some (y, _) => (firstBad r.size fun i =>
        decide (viewSize v ≤ o + i) || (rawOf v (o + i)).any (y.spanEnd ≤ ·)).map (r.addr + ·)
    | none => some r.addr
  | .lane off => (firstBad r.size fun i => decide (x.spanEnd ≤ off + i)).map (r.addr + ·)
  | .chip y => (firstBad r.size fun i =>
      decide (s.lendOf x.id.part * 0x300000 ≤ (y + i) % 0xC00000)).map (r.addr + ·)

/-- The check of a dereference (R204) in the order of R138: the trap, if any. -/
def checkRef (s : State) (n : Nat) (x : Strand) (r : Ref) : Option Trap :=
  let g := x.getG r.reg
  let c := capOf g.bits
  let pl := placeOf n r.addr
  let a64 := BitVec.ofNat 64
  if !g.tagged then some (.precise 0x02 (r.reg.setWidth 64))
  else if wrongDomain s x c pl r.addr then some (.precise 0x05 (a64 r.addr))
  else match noPermission s x n c pl r with
  | some a => some (.precise 0x04 (a64 a))
  | none =>
    if (r.addr : Int) < c.base ∨ c.top < r.addr + r.size then some (.precise 0x03 (a64 r.addr))
    else if misaligned pl r then some (.precise 0x06 (a64 r.addr))
    else match firstBad r.size (fun i => (locsOf n r.addr i).any (s.locked x.id.vd (clusterOf n) r.write)) with
    | some i => some (.precise 0x08 (a64 (r.addr + i)))
    | none =>
      match unreachable s x n pl r with
      | some a => some ⟨0x09, a64 a, transDetail false r.write, false⟩
      | none => none

/-- The address of a memory operand: the capability's address plus an offset (R204). -/
def Strand.addrOf (x : Strand) (r : BitVec 6) (off : Int) : Nat :=
  (((x.rd r).toNat + off) % (2 ^ 64 : Int)).toNat

end Sys2Proof.Machine
end

