-- ==== Sys2Proof/Machine/Records.lean ====
section
/-! DEFINITION. Host queues as the device keeps them (R39 to R41, R44): the fields of a record, the table, the slots' copies, the pending
bitmap, and where an address of a queue's packets lies (R48). -/
namespace Sys2Proof.Machine

/-- The unsigned number of bytes, the first least significant. -/
def numOf : List Byte → Nat
  | [] => 0
  | b :: t => b.toNat + 256 * numOf t

/-- `n` bytes of a number, the least significant first. -/
def bytesOf (v : Nat) : Nat → List Byte
  | 0 => []
  | n + 1 => BitVec.ofNat 8 v :: bytesOf (v / 256) n

/-- Numbers as a rising list, each once. -/
def rowsOf (ns : List Nat) : List Nat := ns.foldl (fun l k => insertNat k l) []

/-! ### Records (R40) -/

/-- Replace bits hi:lo of a 512-bit record. -/
def setField (w : W512) (hi lo v : Nat) : W512 :=
  let m : W512 := BitVec.ofNat 512 ((2 ^ (hi + 1 - lo) - 1) * 2 ^ lo)
  (w &&& ~~~m) ||| (BitVec.ofNat 512 (v * 2 ^ lo) &&& m)

/-- Ring address. -/
def qBase (r : W512) : Nat := bitsN r 511 448
/-- Notify word address. -/
def qNotify (r : W512) : Nat := bitsN r 447 384
/-- write_index. -/
def qWrite (r : W512) : Nat := bitsN r 383 352
/-- read_index. -/
def qRead (r : W512) : Nat := bitsN r 351 320
/-- Queue chain. -/
def qChain (r : W512) : Nat := bitsN r 303 256
/-- Virtual device. -/
def qVd (r : W512) : Nat := bitsN r 57 52
/-- Partition. -/
def qPart (r : W512) : Nat := bitsN r 51 46
/-- log2_entries. -/
def qLog2 (r : W512) : Nat := bitsN r 45 40
/-- Tier. -/
def qTier (r : W512) : Nat := bitsN r 39 38
/-- preemptible. -/
def qPreempt (r : W512) : Bool := bit1 r 37
/-- loc: device memory. -/
def qDev (r : W512) : Bool := bit1 r 36
/-- state: 0 off, 1 idle, 2 mapped, 3 error. -/
def qState (r : W512) : Nat := bitsN r 35 34
/-- Pending packets (R41). -/
def qPending (r : W512) : Nat := (qWrite r + 2 ^ 32 - qRead r) % 2 ^ 32
/-- The fields that must read as zero (R41). -/
def qZero (r : W512) : Bool :=
  bitsN r 319 304 == 0 && bitsN r 255 72 == 0 && bitsN r 63 58 == 0 && bitsN r 27 0 == 0

/-- The record in the table (R39). -/
def State.qTable (s : State) (q : Nat) : W512 := BitVec.ofNat 512 (numOf (s.hbm.readList (s.tableBase.toNat + 64 * q) 64))

/-- Write the record in the table. -/
def State.setTable (s : State) (q : Nat) (r : W512) : State :=
  { s with hbm := s.hbm.writeList (s.tableBase.toNat + 64 * q) (bytesOf r.toNat 64) }

/-- The slot that holds a queue, mapped or (from number 64 on) displaced with packets started (R45). -/
def State.slotOfQueue (s : State) (q : Nat) : Option (Nat × QSlot) := s.qslots.find? fun e => e.2.queue == q

/-- The fields of a record that the supervisor writes (R40). -/
def recordGiven : W512 := BitVec.ofNat 512 ((2 ^ 128 - 1) * 2 ^ 384 + (2 ^ 22 - 1) * 2 ^ 36)

/-- The queue's record as the device has it: its slot's copy, else the table's. Queue 0 stands in slot 0; once a write of table_base
has been accepted, the fields that the supervisor writes are the table's (R39, R40). -/
def State.qRecord (s : State) (q : Nat) : W512 :=
  match s.slotOfQueue q with
  | some (k, x) =>
    if k < 64 then
      (if q = 0 && s.tableSet then (s.qTable 0 &&& recordGiven) ||| (x.record &&& ~~~recordGiven) else x.record)
    else s.qTable q
  | none => s.qTable q

/-- Update the queue's record where the device has it. The table follows for every queue but queue 0 (R39, R45). -/
def State.setRecord (s : State) (q : Nat) (r : W512) : State :=
  match s.slotOfQueue q with
  | some (k, x) =>
    if k < 64 then
      let s1 : State := { s with qslots := s.qslots.put k { x with record := r } }
      if q = 0 && !s.tableSet then s1 else s1.setTable q r
    else s.setTable q r
  | none => s.setTable q r

/-- The pending-notify bit of a queue (R44). -/
def State.pendingBit (s : State) (q : Nat) : Bool := (s.hbm.read (s.bitmapBase.toNat + q / 8)).getLsbD (q % 8)

/-- Set or clear it. -/
def State.setPending (s : State) (q : Nat) (b : Bool) : State :=
  let a := s.bitmapBase.toNat + q / 8
  let old := s.hbm.read a
  let m : Byte := 1#8 <<< (q % 8)
  { s with hbm := s.hbm.write a (if b then old ||| m else old &&& ~~~m) }

/-- The one location of a byte address in the raw view, as core `n` names it. -/
def locOf (n a : Nat) : Loc :=
  match placeOf n a with
  | .scratch owner _ o => .scratch owner o
  | .lane off => .scratch n off
  | .chip x => .chip x
  | _ => .glob a

/-- The number that stands for no core: addresses of local windows name nothing (R48). -/
def noCore : Nat := 2048

/-- The location that an address in a packet of a queue names (R48). -/
def packetLoc (q a : Nat) : Loc := if q = 0 then .phys a else locOf noCore a

end Sys2Proof.Machine
end

