-- ==== Sys2Proof/Machine/Mem.lean ====
section
/-! DEFINITION. Homes (R216): translation (R206 to R211), the last-level cache (R191, R192, R196 to R198), memory behind
it with dirty bitmaps (R215), core scratchpads and the images that stand in for them (R121, R175), chip scratchpad
(R182). Every read and write that leaves a core ends in the operations of this file. -/
namespace Sys2Proof.Machine

/-- What a home answers. -/
inductive HomeR (α : Type) where
  /-- Done, in this state. -/
  | ok (a : α) (s : State)
  /-- A translation fault at this address (R210). -/
  | fault (fatal : Bool) (addr : Nat)
  /-- A write held by a migration (R214). -/
  | held

/-- For whom a home acts: partition, virtual device, cache policy of the access (R36, R196). -/
structure Who where
  part : Nat
  vd : Nat
  cpol : Nat
deriving DecidableEq, Repr

/-- Write a list of bytes raw, without touching tags or poison. -/
def writeRaw (m : Memory) (a : Nat) : List Byte → Memory
  | [] => m
  | x :: xs => writeRaw (m.write a x) (a + 1) xs

/-! ### Translation -/

/-- What the page walker answers (R210): a leaf word with its page size in bits. -/
inductive Walk where
  | leaf (t : W64) (plog : Nat)
  | fault (fatal : Bool)
deriving DecidableEq, Repr

/-- Bits 49:12 of a translation word as an address (R207). -/
def tAddr (t : W64) : Nat := bitsN t 49 12 * 2 ^ 12
/-- The state field (R207). -/
def tState (t : W64) : Nat := bitsN t 63 62
/-- mig (R207). -/
def tMig (t : W64) : Bool := bit1 t 61
/-- pin (R207). -/
def tPin (t : W64) : Bool := bit1 t 60
/-- leaf (R207). -/
def tLeaf (t : W64) : Bool := bit1 t 59
/-- w (R207). -/
def tW (t : W64) : Bool := bit1 t 58
/-- cattr (R207). -/
def tCattr (t : W64) : Nat := bitsN t 57 56

/-- A doubleword of HBM (R206: nodes). -/
def State.hbmWord (s : State) (pa : Nat) : W64 := BitVec.ofNat 64 (numOf (s.hbm.readList pa 8))

/-- The first byte of the reserve of a slice (R7, R206). -/
def reserveAt : Nat := 0xBF800000

/-- Directory node `k` of level 4, 3 or 2 as a number: the one of level 4, those of level 3 by bits 56:48, those of level 2 by bits
56:39 (R206). -/
def dirNodesOf (a : Nat) : List Nat := [0, 1 + a / 2 ^ 48 % 2 ^ 9, 513 + a / 2 ^ 39 % 2 ^ 18]

/-- The offset in the reserve of the n-th node that MAPR has made: 8 KiB apart, in the order of their making (log 52). -/
def dirNodeAt (n : Nat) : Nat := reserveAt + 0x2000 * n

/-- Write 8-byte words of the directory into both copies: slice 0 of stack 0 and slice 0 of stack 4 (R206). A node beyond the reserve has no
place. -/
def State.putDir (s : State) (node off : Nat) (ws : List W64) : State :=
  match s.dirNodes.findIdx? (· == node) with
  | none => s
  | some n =>
    if 1024 ≤ n then s
    else
      let bs := ws.flatMap fun w => bytesOf w.toNat 8
      { s with hbm := (s.hbm.writeList (dirNodeAt n + off) bs).writeList (64 * 2 ^ 32 + dirNodeAt n + off) bs }

/-- The non-leaf translation word of a directory node (R207): state 1, pinned, the address in the copy of stack 0. -/
def State.dirWord (s : State) (node : Nat) : W64 :=
  BitVec.ofNat 64 (2 ^ 62 + 2 ^ 60 + dirNodeAt ((s.dirNodes.findIdx? (· == node)).getD 0))

/-- Write a region's level-2 entry, in both copies of the directory, creating level-4 and level-3 nodes as needed (R206, R212); none makes it
absent. -/
def State.setDir (s : State) (g : Nat) (d : Option DirEntry) : State :=
  let a := g * 2 ^ 30
  let ns := dirNodesOf a
  let s1 : State := { s with dir := match d with
                                | some e => s.dir.put g e
                                | none => s.dir.del g
                             dirNodes := s.dirNodes ++ ns.filter fun k => !s.dirNodes.contains k }
  let e := d.getD ⟨0, 0⟩
  let l3 := ns.getD 1 0
  let l2 := ns.getD 2 0
  ((s1.putDir 0 (8 * (a / 2 ^ 48 % 2 ^ 9)) [s1.dirWord l3]).putDir l3 (8 * (a / 2 ^ 39 % 2 ^ 9)) [s1.dirWord l2]).putDir l2
    (16 * (a / 2 ^ 30 % 2 ^ 9)) [e.t, e.r]

/-- walk of R210, but for the hold of a migrating page. -/
def walk (s : State) (a : Nat) (write : Bool) : Walk :=
  match s.dir.find (a / 2 ^ 30) with
  | none => .fault false
  | some d =>
    let go := fun (t : W64) (plog : Nat) =>
      if tState t = 0 ∨ tState t = 3 then Walk.fault false
      else if write && !tW t then .fault false
      else .leaf t plog
    if tLeaf d.t then go d.t 30
    else if tState d.t = 0 then .fault false
    else if tState d.t ≠ 1 || tMig d.t || !tPin d.t then .fault true
    else go (s.hbmWord (tAddr d.t + 8 * (a / 2 ^ 21 % 2 ^ 9))) 21

/-- h of R209: seven 7-bit chunks of bits 56:8. -/
def lineHash (a : Nat) : Nat := (List.range 7).foldl (fun h k => h ^^^ (a / 2 ^ (8 + 7 * k) % 128)) 0

/-- The slice that homes a global address (R209). -/
def State.sliceOf (s : State) (a : Nat) : Nat :=
  match s.dir.find (a / 2 ^ 30) with
  | some d => bitsN d.r 57 51 + lineHash a % 2 ^ bitsN d.r 50 48
  | none => 0

/-- Where the line of an address lies under a leaf (R209): a device physical address, or a host physical address. -/
def State.frameOf (s : State) (a : Nat) (t : W64) (plog : Nat) : Nat :=
  let m := match s.dir.find (a / 2 ^ 30) with
    | some d => bitsN d.r 50 48
    | none => 0
  let j := a % 2 ^ plog / 2 ^ 15 * 2 ^ (7 - m) + lineHash a / 2 ^ m
  if tState t = 2 then tAddr t + a % 2 ^ plog / 256 * 256
  else s.sliceOf a * 2 ^ 32 + tAddr t + 256 * j

/-! ### Lines -/

/-- A line with nothing valid (R186). -/
def Line.empty (va : Nat) : Line := ⟨va, 0, 0, 0, 0, 0⟩
/-- Byte i of a line. -/
def Line.byte (l : Line) (i : Nat) : Byte := l.data.extractLsb' (8 * i) 8
/-- Byte i of a line is held: written, or its sector valid (R186). -/
def Line.has (l : Line) (i : Nat) : Bool := l.mask.getLsbD i || l.valid.getLsbD (i / 64)
/-- The tag of the granule of byte i. -/
def Line.tag (l : Line) (i : Nat) : Bool := l.tags.getLsbD (i / 16)

/-- 256 mask bits spread over the bytes of a line. -/
def maskBytes (m : BitVec 256) : BitVec 2048 :=
  BitVec.ofNat 2048 ((List.range 256).foldl (fun v i => if m.getLsbD i then v + 255 * 2 ^ (8 * i) else v) 0)

/-- The bytes that `n` bytes from `off` on cover. -/
def maskRange (off n : Nat) : BitVec 256 := BitVec.ofNat 256 ((2 ^ n - 1) * 2 ^ off)
/-- The sectors that a mask touches. -/
def maskSectors (m : BitVec 256) : BitVec 4 :=
  BitVec.ofNat 4 ((List.range 4).foldl (fun v i => if bitsN m (64 * i + 63) (64 * i) = 0 then v else v + 2 ^ i) 0)
/-- The sectors whose every byte a mask covers. -/
def fullSectors (m : BitVec 256) : BitVec 4 :=
  BitVec.ofNat 4 ((List.range 4).foldl (fun v i => if bitsN m (64 * i + 63) (64 * i) = 2 ^ 64 - 1 then v + 2 ^ i else v) 0)
/-- The granules that a mask touches. -/
def maskGranules (m : BitVec 256) : BitVec 16 :=
  BitVec.ofNat 16 ((List.range 16).foldl (fun v i => if bitsN m (16 * i + 15) (16 * i) = 0 then v else v + 2 ^ i) 0)
/-- The mask of whole sectors. -/
def sectorMask (v : BitVec 4) : BitVec 256 :=
  BitVec.ofNat 256 ((List.range 4).foldl (fun w i => if v.getLsbD i then w + (2 ^ 64 - 1) * 2 ^ (64 * i) else w) 0)

/-- Merge the written bytes of `w` into a line: data, mask, tags of the granules touched; a sector written as a whole
loses its poison, and poison that `w` carries comes along (R144, R186, R191, R200). -/
def Line.merge (l w : Line) : Line :=
  let mb := maskBytes w.mask
  let g := maskGranules w.mask
  let mask := l.mask ||| w.mask
  { l with
    data := (l.data &&& ~~~mb) ||| (w.data &&& mb)
    mask := mask
    tags := (l.tags &&& ~~~g) ||| (w.tags &&& g)
    poison := (l.poison &&& ~~~fullSectors mask) ||| (w.poison &&& maskSectors w.mask) }

/-- Fill sectors of a line from `m`, keeping written bytes (R186, R191). -/
def Line.fill (l m : Line) (sectors : BitVec 4) : Line :=
  let want := sectors &&& ~~~l.valid
  let mask := sectorMask want &&& ~~~l.mask
  let mb := maskBytes mask
  let g := maskGranules mask &&& ~~~maskGranules (l.mask)
  { l with
    data := (l.data &&& ~~~mb) ||| (m.data &&& mb)
    valid := l.valid ||| want
    tags := (l.tags &&& ~~~g) ||| (m.tags &&& g)
    poison := l.poison ||| (m.poison &&& want &&& ~~~fullSectors l.mask) }

/-- A line of written bytes. -/
def lineOfBytes (va off : Nat) (bs : List Byte) (tag : Bool) : Line :=
  let m := maskRange off bs.length
  { Line.empty va with
    data := BitVec.ofNat 2048 (numOf bs * 2 ^ (8 * off)), mask := m, tags := if tag then maskGranules m else 0 }

/-! ### Memory behind the last-level cache -/

/-- Read a whole line from HBM or host memory. -/
def State.memLine (s : State) (a : Nat) (t : W64) (plog : Nat) : Line :=
  let pa := s.frameOf a t plog
  let b := if tState t = 2 then s.host else s.hbm
  let bits := fun (n step : Nat) (f : Nat → Bool) =>
    (List.range n).foldl (fun v i => if f (pa + step * i) then v + 2 ^ i else v) 0
  { va := a / 256, data := BitVec.ofNat 2048 (numOf (b.readList pa 256)), valid := 15, mask := 0,
    tags := BitVec.ofNat 16 (bits 16 16 b.tag), poison := BitVec.ofNat 4 (bits 4 64 b.poisoned) }

/-- Write a line's written bytes into a bank. Tags are dropped in host memory (R328). -/
def Bank.writeLine (b : Bank) (pa : Nat) (l : Line) (tags : Bool) : Bank :=
  let b1 := (List.range 256).foldl (fun (b : Bank) i => if l.mask.getLsbD i then b.write (pa + i) (l.byte i) else b) b
  let g := maskGranules l.mask
  let b2 := (List.range 16).foldl (fun (b : Bank) i =>
    if tags && g.getLsbD i && l.tags.getLsbD i then b.setTag (pa + 16 * i) true else b) b1
  (List.range 4).foldl (fun (b : Bank) i => if l.poison.getLsbD i then b.setPoison (pa + 64 * i) else b) b2

/-- The address of the dirty bit of a page's 4 KiB unit: byte and bit (R215). -/
def State.dirtyBit (s : State) (a plog : Nat) : Nat × Nat :=
  match s.dir.find (a / 2 ^ 30) with
  | none => (0, 0)
  | some d =>
    let i := a % 2 ^ plog / 4096
    if plog = 30 then (bitsN d.r 38 12 * 4096 + i / 8, i % 8)
    else (tAddr d.t + 0x1000 + 64 * (a / 2 ^ 21 % 2 ^ 9) + i / 8, i % 8)

/-- Slices hold 3 GiB each (R7): a device physical address names a byte. -/
def physOk (pa : Nat) : Bool := decide (pa % 2 ^ 32 < 0xC0000000) && decide (pa / 2 ^ 32 < 128)

/-- Set the dirty bit of a line written to a local frame, where its address names a byte (R192, R215). -/
def State.markDirty (s : State) (a plog : Nat) : State :=
  let p := s.dirtyBit a plog
  if !physOk p.1 then s
  else { s with hbm := { s.hbm with bytes := s.hbm.bytes.write p.1 (s.hbm.read p.1 ||| (1#8 <<< p.2)) } }

/-- Write a line's written bytes to its frame, setting the dirty bit of a local one (R192, R198). -/
def State.memWrite (s : State) (a : Nat) (l : Line) (t : W64) (plog : Nat) : State :=
  let pa := s.frameOf a t plog
  if tState t = 2 then { s with host := s.host.writeLine pa l false }
  else ({ s with hbm := s.hbm.writeLine pa l true }).markDirty a plog

/-! ### The last-level cache -/

/-- The line in the last-level cache, by line number. -/
def State.llcLine (s : State) (line : Nat) : Option LlcLine := s.llc.find? (fun k => k.line.va == line)
/-- Drop a line. -/
def State.llcDrop (s : State) (line : Nat) : State := { s with llc := s.llc.filter (fun k => k.line.va != line) }

/-- Count for a virtual device (R35, R36). -/
def State.charge (s : State) (p v e : Nat) (k : Nat) : State :=
  if h : e < 16 then s.onVd p v fun d => { d with counts := d.counts.set e (d.counts[e] + BitVec.ofNat 64 k) h } else s

/-- The last-level fill that a virtual device asked for (R36): one line, its bytes, its energy (a free value; log 50). -/
def State.chargeFill (s : State) (p v sectors : Nat) : State :=
  let s1 := (s.charge p v 6 1).charge p v 8 (Config.fillNj s.freeCtr)
  { s1.onVd p v fun d => { d with fillBytes := d.fillBytes + 64 * sectors } with freeCtr := s.freeCtr + 1 }

/-- A line as it goes back to a local frame: every sector that is not valid is filled from memory, the written bytes stay, and
all 256 bytes are written (R192). -/
def Line.whole (l m : Line) : Line := { l.fill m 15 with mask := BitVec.allOnes 256 }

/-- Write a last-level line to its frame: the state, and the line as the cache then holds it (R192). To a local frame the whole line
goes, which then is valid; to a host frame the written bytes go. The frame is the one that a read finds: a write right was tested
when the bytes came (R210). -/
def State.writeFrame (s : State) (l : Line) : State × Line :=
  let a := l.va * 256
  match walk s a false with
  | .leaf t plog =>
    if tState t = 2 then (s.memWrite a l t plog, { l with mask := 0 })
    else (s.memWrite a (l.whole (s.memLine a t plog)) t plog, { l.whole (s.memLine a t plog) with mask := 0 })
  | .fault _ => (s, { l with mask := 0 })

/-- Write a last-level line back to memory and clear its mask (R192); a clean line does nothing. The write-back is charged to the last writer (R36). DESIGN CHOICE (log 50): the writer counts as deleted
where its number is not below the count asked at CREATE. -/
def State.llcClean (s : State) (k : LlcLine) : State :=
  if k.line.mask = 0 then s
  else
    let r := s.writeFrame k.line
    let s2 : State := { r.1 with llc := r.1.llc.map fun (j : LlcLine) =>
      if j.line.va = k.line.va then LlcLine.mk r.2 j.ctx j.part else j }
    match s2.part k.part with
    | some x => if k.ctx < x.vdsAsked then s2.charge k.part k.ctx 7 1
                else s2.setPart k.part { x with unattributed := x.unattributed + 1 }
    | none => s2

/-- Put a line into the cache. When its set is full a free choice of the lines there is evicted (R191, log 10). A set has 16 ways
less those that its slice lends, two an eighth (R182); a slice has 6,144 sets (R191). -/
def State.llcPut (s : State) (k : LlcLine) : State :=
  let others := s.llc.filter (fun j => j.line.va != k.line.va)
  let set := others.filter fun j => s.sliceOf (j.line.va * 256) == s.sliceOf (k.line.va * 256) &&
    Config.llcSet j.line.va % 6144 == Config.llcSet k.line.va % 6144
  if set.length < 16 - 2 * s.lendOf k.part then { s with llc := others ++ [k] }
  else
    let f := s.free set.length
    match set[f.1]? with
    | none => { s with llc := others ++ [k] }
    | some v =>
      let s1 := (f.2.llcClean v).llcDrop v.line.va
      { s1 with llc := s1.llc.filter (fun j => j.line.va != k.line.va) ++ [k] }

/-- The region's cache attribute (R196, R208). -/
def State.regionCattr (s : State) (a : Nat) : Nat :=
  match s.region a with
  | some d => bitsN d.r 47 46
  | none => 2

/-- Region, page and policy allow last-level allocation to an access (R197, R198). -/
def State.llcAllows (s : State) (a : Nat) (t : W64) (cpol : Nat) : Bool :=
  tState t != 2 && decide (tCattr t ≤ 1) && decide (s.regionCattr a ≤ 1) && cpol != 3

/-- The cache keeps one line of a frame: one that another virtual address brought in is evicted before the frame is read or
written (R189: what a release and an acquire at device scope have ordered is seen through the second address; log 10). -/
def State.llcUnalias (s : State) (line : Nat) (t : W64) (plog : Nat) : State :=
  let pa := s.frameOf (line * 256) t plog
  (s.llc.filter fun k => k.line.va != line &&
    match walk s (k.line.va * 256) false with
    | .leaf t' plog' => (tState t' == tState t) && (s.frameOf (k.line.va * 256) t' plog' == pa)
    | .fault _ => false).foldl (fun (z : State) k => (z.llcClean k).llcDrop k.line.va) s

/-- The number of sectors in a set of them. -/
def sectorCount (v : BitVec 4) : Nat := ((List.range 4).filter v.getLsbD).length

/-- The line at its home with the sectors asked for, filled from memory where they are missing (R191, R210). An access that may
not allocate leaves a line that is there as it is (R197). -/
def llcRead (s : State) (w : Who) (line : Nat) (sectors : BitVec 4) : HomeR Line :=
  let a := line * 256
  let cur := s.llcLine line
  let l := (cur.map (·.line)).getD (Line.empty line)
  if sectors &&& ~~~(l.valid ||| fullSectors l.mask) = 0 then .ok l s
  else match walk s a false with
  | .fault f => .fault f a
  | .leaf t plog =>
    let s := s.llcUnalias line t plog
    let l' := l.fill (s.memLine a t plog) sectors
    if s.llcAllows a t w.cpol then
      let s1 := s.chargeFill w.part w.vd (sectorCount (sectors &&& ~~~l.valid))
      .ok l' (s1.llcPut (match cur with
        | some k => { k with line := l' }
        | none => ⟨l', w.vd, w.part⟩))
    else .ok l' s

/-- The page of an address is under migration: its writes are held at their slice (R214). One that misses and has no write right faults
instead (R210). -/
def State.migrating (s : State) (a : Nat) : Bool :=
  match walk s a (s.llcLine (a / 256)).isNone with
  | .leaf t _ => tMig t
  | .fault _ => false

/-- Apply written bytes at their home (R191, R198, R214): only a write that misses is translated (R140, R210). -/
def llcWrite (s : State) (w : Who) (l : Line) : HomeR Unit :=
  let a := l.va * 256
  if s.migrating a then .held
  else match s.llcLine l.va with
  | some k => .ok () (s.llcPut { k with line := k.line.merge l, ctx := w.vd })
  | none =>
    match walk s a true with
    | .fault f => .fault f a
    | .leaf t plog =>
      let s := s.llcUnalias l.va t plog
      if s.llcAllows a t w.cpol then .ok () (s.llcPut ⟨(Line.empty l.va).merge l, w.vd, w.part⟩)
      else .ok () (s.memWrite a l t plog)

/-! ### Global memory by bytes -/

/-- A byte range cut at line boundaries: line, offset, length. -/
def lineRuns : Nat → Nat → Nat → List (Nat × Nat × Nat)
  | 0, _, _ => []
  | k + 1, a, n =>
    if n = 0 then []
    else
      let m := min n (256 - a % 256)
      (a / 256, a % 256, m) :: lineRuns k (a + m) (n - m)

/-- The runs of `n` bytes at `a`. -/
def runsOf (a n : Nat) : List (Nat × Nat × Nat) := lineRuns (n / 256 + 2) a n

/-- What a home read gives: the bytes, the tag of the first granule, the lowest poisoned address if any. -/
structure Got where
  bytes : List Byte
  tag : Bool
  poison : Option Nat
deriving DecidableEq, Repr

/-- The lowest byte of a run that lies in a poisoned sector of a line. -/
def Line.poisonAt (l : Line) (off n : Nat) : Option Nat :=
  (firstBad n fun i => l.poison.getLsbD ((off + i) / 64)).map fun i => l.va * 256 + off + i

/-- Read global bytes at their homes. -/
def globRead (w : Who) : List (Nat × Nat × Nat) → State → HomeR Got
  | [], s => .ok ⟨[], false, none⟩ s
  | (line, off, n) :: rs, s =>
    match llcRead s w line (maskSectors (maskRange off n)) with
    | .fault f _ => .fault f (line * 256 + off)
    | .held => .held
    | .ok l s1 =>
      match globRead w rs s1 with
      | .ok g s2 =>
        .ok ⟨(List.range n).map (fun i => l.byte (off + i)) ++ g.bytes, l.tag off,
          (match l.poisonAt off n with | some a => some a | none => g.poison)⟩ s2
      | r => r

/-- Write global bytes at their homes. -/
def globWrite (w : Who) (tag : Bool) : List (Nat × Nat × Nat) → List Byte → State → HomeR Unit
  | [], _, s => .ok () s
  | (line, off, n) :: rs, bs, s =>
    match llcWrite s w (lineOfBytes line off (bs.take n) tag) with
    | .ok _ s1 => globWrite w tag rs (bs.drop n) s1
    | .fault f _ => .fault f (line * 256 + off)
    | r => r

/-! ### Scratchpads and their images -/

/-- The base of the context image of core `n` for a virtual device (R123). -/
def State.imageBase (s : State) (p v n : Nat) : Nat :=
  match s.part p with
  | none => 0
  | some x => (x.vd v).saveBase.toNat + 2 ^ 20 * (n - 16 * nodeFirst x.node)

/-- Byte offset in the bank of all scratchpads. -/
def scratchAt (n off : Nat) : Nat := n * 2 ^ 18 + off

/-- Fill an absent scratchpad line of core `n` from its image (R129). -/
def State.fillLine (s : State) (n i : Nat) : State :=
  match s.strand n with
  | none => s
  | some x =>
    if x.lineAbsent.contains i then
      match globRead ⟨x.id.part, x.id.vd, 0⟩ (runsOf (s.imageBase x.id.part x.id.vd n + 0x4000 + 256 * i) 256) s with
      | .ok g s1 =>
        let a := s.imageBase x.id.part x.id.vd n + 0x4000 + 256 * i
        let psn := fun k => match globRead ⟨x.id.part, x.id.vd, 0⟩ (runsOf (a + 64 * k) 64) s1 with
          | .ok q _ => q.poison.isSome
          | _ => false
        let b := { s1.scratch with bytes := writeRaw s1.scratch.bytes (scratchAt n (256 * i)) g.bytes }
        let b := (List.range 4).foldl (fun (b : Bank) k => if psn k then b.setPoison (scratchAt n (256 * i + 64 * k)) else b) b
        ({ s1 with scratch := b }).setStrand n { x with lineAbsent := removeNat i x.lineAbsent }
      | _ => s.setStrand n { x with lineAbsent := removeNat i x.lineAbsent }
    else s

/-- Fill an absent granule from the image; its dirty bit stays clear (R129). -/
def State.fillGran (s : State) (n i : Nat) : State :=
  match s.strand n with
  | none => s
  | some x =>
    match globRead ⟨x.id.part, x.id.vd, 0⟩ (runsOf (s.imageBase x.id.part x.id.vd n + 0x2000 + 512 * i) 512) s with
    | .ok g s1 =>
      s1.setStrand n { x with
        granAbsent := x.granAbsent &&& ~~~(1#16 <<< i)
        v := Vector.ofFn fun r => if r.val / 8 = i then BitVec.ofNat 512 (numOf ((g.bytes.drop (64 * (r.val % 8))).take 64)) else x.v[r.val] }
    | _ => s.setStrand n { x with granAbsent := x.granAbsent &&& ~~~(1#16 <<< i) }

/-- Fill every absent line that a range of a scratchpad touches. -/
def State.fillRange (s : State) (n off len : Nat) : State :=
  ((s.strand n).map (·.lineAbsent)).getD [] |>.foldl
    (fun (s : State) i => if off / 256 ≤ i ∧ i ≤ (off + len - 1) / 256 ∧ 0 < len then s.fillLine n i else s) s

/-- Mark the lines of a range dirty (R127): they leave the list of clean lines. -/
def Strand.dirtyLines (x : Strand) (off len : Nat) : Strand :=
  if len = 0 then x
  else { x with lineClean := x.lineClean.filter fun i => i < off / 256 || (off + len - 1) / 256 < i }

/-- Read bytes of core `n`'s scratchpad bank. -/
def State.scratchGot (s : State) (n off len : Nat) : Got :=
  ⟨s.scratch.readList (scratchAt n off) len, s.scratch.tag (scratchAt n off),
   (firstBad len fun i => s.scratch.poisoned (scratchAt n (off + i))).map (off + ·)⟩

/-- Write bytes to core `n`'s scratchpad: tags of the granules touched clear, or the one granule takes a tag (R200). -/
def State.scratchPut (s : State) (n off : Nat) (bs : List Byte) (tag : Bool) : State :=
  let b := s.scratch.writeList (scratchAt n off) bs
  let b := if tag then b.setTag (scratchAt n off) true else b
  ({ s with scratch := b }).onStrand n fun x => x.dirtyLines off bs.length

/-! ### Writes noticed -/

/-- The monitors of a line wake at a write to it (R338): the flag of those armed there. -/
def Loc.lineKey : Loc → Nat × Nat
  | .scratch c o => (0, c * 2 ^ 18 / 64 + o / 64)
  | .chip x => (1, x / 64)
  | .glob a => (2, a / 64)
  | .phys a => (3, a / 64)

/-- A location some bytes on. -/
def Loc.plus (l : Loc) (k : Nat) : Loc :=
  match l with
  | .scratch c o => .scratch c (o + k)
  | .chip x => .chip (x + k)
  | .glob a => .glob (a + k)
  | .phys a => .phys (a + k)

/-- The 64-byte block of a location where it is stored: of a global address the block of its frame, in host memory (4) or the device's (3). -/
def State.blockOf (s : State) (l : Loc) : Nat × Nat :=
  match l with
  | .glob a =>
    match walk s a false with
    | .leaf t plog => (if tState t = 2 then 4 else 3, (s.frameOf a t plog + a % 256) / 64)
    | .fault _ => l.lineKey
  | _ => l.lineKey

/-- The queues whose notify words the device watches (R42): those of the slots, and those idle or mapped in the table. A record that reads as
zero is off. -/
def State.watched (s : State) : List Nat :=
  let table := s.hbm.bytes.filterMap fun c =>
    if s.tableSet ∧ s.tableBase.toNat ≤ c.1 ∧ c.1 < s.tableBase.toNat + 2 ^ 18 then some ((c.1 - s.tableBase.toNat) / 64) else none
  (rowsOf (s.qslots.map (fun e => e.2.queue) ++ table)).filter fun q => qState (s.qRecord q) == 1 || qState (s.qRecord q) == 2

/-- The block of a queue's notify word (R40, R42). -/
def State.notifyBlock (s : State) (q : Nat) : Nat × Nat :=
  let r := s.qRecord q
  if qDev r then s.blockOf (packetLoc q (qNotify r)) else (4, qNotify r / 64)

/-- The turns that a write of `n` bytes brings (R42): one notify for each queue whose notify word lies in a block that it touches. -/
def State.notifies (s : State) (l : Loc) (n : Nat) : List Turn :=
  if n = 0 then []
  else
    let ks := ((n - 1) :: (List.range ((n + 63) / 64)).map (64 * ·)).map fun i => s.blockOf (l.plus i)
    ((s.watched.filter fun q => ks.contains (s.notifyBlock q)).map fun q => Turn.device .notifyWrite { StepOp.none with a := q }).filter
      fun t => !s.agenda.contains t

/-- Note a write of `n` bytes at a home: the monitors armed there wake (R338), and the queues whose notify words it touches are to be
notified (R42). -/
def State.touch (s : State) (l : Loc) (n : Nat) : State :=
  let k := l.lineKey
  let e := (l.plus (n - 1)).lineKey
  { s with
    monitors := s.monitors.map fun m =>
      let j := m.1.knot.lineKey
      if k.1 = j.1 ∧ k.2 ≤ j.2 ∧ j.2 ≤ e.2 ∧ 0 < n then (m.1, true) else m
    agenda := s.agenda ++ s.notifies l n }

/-! ### Images at their base dies (R121, R125, R126) -/

/-- Fetch image bytes for virtual device `v`, whose fills these are (R36); where they cannot be read the answer is empty. -/
def State.imageFetch (s : State) (p v base off n : Nat) : List Byte × State :=
  match globRead ⟨p, v, 0⟩ (runsOf (base + off) n) s with
  | .ok g s1 => (g.bytes, s1)
  | _ => ([], s)

/-- The bytes that `imageFetch` gives. -/
def State.imageRead (s : State) (p v base off n : Nat) : List Byte := (s.imageFetch p v base off n).1

/-- Write image bytes. -/
def State.imageWrite (s : State) (p v base off : Nat) (bs : List Byte) : State :=
  match globWrite ⟨p, v, 0⟩ false (runsOf (base + off) bs.length) bs (s.touch (.glob (base + off)) bs.length) with
  | .ok _ s1 => s1
  | _ => s

/-- The integrity tag of an image as it stands: the first 32 bytes of SHAKE256 over the image key and the first 8 KiB,
with integ taken as zero (R126). -/
def State.imageTagOf (s : State) (p v base : Nat) : List Byte × State :=
  let key := ((s.part p).map (·.imageKey)).getD 0
  let b := s.imageFetch p v base 0 0x2000
  (bytesOf (Config.shake256 (bytesOf key.toNat 32 ++ b.1.take 32 ++ List.replicate 32 0 ++ b.1.drop 64)).toNat 32, b.2)

/-- Set integ (R126). -/
def State.reseal (s : State) (p v base : Nat) : State :=
  let t := s.imageTagOf p v base
  t.2.imageWrite p v base 32 t.1

/-- Set or clear bit `i` of a bit array in an image. -/
def State.imageBit (s : State) (p v base off i : Nat) (b : Bool) : State :=
  let r := s.imageFetch p v base (off + i / 8) 1
  let old := r.1.headD 0
  let m : Byte := 1#8 <<< (i % 8)
  r.2.imageWrite p v base (off + i / 8) [if b then old ||| m else old &&& ~~~m]

/-- What a base die does beside writing the bytes: the lines become current, the scratchpad tag bits follow, integ is set
again (R121). -/
def State.imageNote (s : State) (p v base off len : Nat) (tag : Bool) : State :=
  if len = 0 then s
  else
    let s1 := (List.range ((off + len - 1) / 256 - off / 256 + 1)).foldl
      (fun (s : State) i => s.imageBit p v base 128 (off / 256 + i) true) s
    let s2 := (List.range ((off + len - 1) / 16 - off / 16 + 1)).foldl
      (fun (s : State) i => s.imageBit p v base 0x1800 (off / 16 + i) tag) s1
    s2.reseal p v base

/-- Read bytes at their home. A scratchpad is that of the resident strand of the partition, else the image (R121, R175). -/
def homeRead (s : State) (w : Who) (l : Loc) (n : Nat) : HomeR Got :=
  match l with
  | .glob a => globRead w (runsOf a n) s
  | .chip x => .ok ⟨s.chip.readList x n, s.chip.tag x, (firstBad n fun i => s.chip.poisoned (x + i)).map (x + ·)⟩ s
  | .phys pa => .ok ⟨s.hbm.readList pa n, s.hbm.tag pa, (firstBad n fun i => s.hbm.poisoned (pa + i)).map (pa + ·)⟩ s
  | .scratch c off =>
    match s.ownerAt w.part w.vd c with
    | some (_, true) =>
      match s.savedAt w.part w.vd c with
      | some y =>
        match globRead w (runsOf (y.image + 0x4000 + off) n) s with
        | .ok g s1 =>
          let b := s1.imageFetch w.part w.vd y.image (0x1800 + off / 128) 1
          .ok { g with tag := (b.1.headD 0).getLsbD (off / 16 % 8) } b.2
        | r => r
      | none => .fault false off
    | _ => let s1 := s.fillRange c off n
           .ok (s1.scratchGot c off n) s1

/-- The fault of a request that reads and then writes `n` bytes: it is a write, and where it misses it needs the write right (R210). -/
def State.writeFault (s : State) (l : Loc) (n : Nat) : Option (Bool × Nat) :=
  match l with
  | .glob a => (runsOf a n).findSome? fun r =>
      let k := ((s.llcLine r.1).map (·.line)).getD (Line.empty r.1)
      if maskSectors (maskRange r.2.1 r.2.2) &&& ~~~(k.valid ||| fullSectors k.mask) = 0 then none
      else match walk s (r.1 * 256) true with
        | .fault f => some (f, r.1 * 256 + r.2.1)
        | .leaf _ _ => none
  | _ => none

/-- Read bytes at their home for a request that goes on to write them. -/
def homeReadW (s : State) (w : Who) (l : Loc) (n : Nat) : HomeR Got :=
  match s.writeFault l n with
  | some f => .fault f.1 f.2
  | none => homeRead s w l n

/-- Write bytes at their home; `tag` sets the tag of their one granule (R200, R328). -/
def homeWrite (s : State) (w : Who) (l : Loc) (bs : List Byte) (tag : Bool) : HomeR Unit :=
  let s0 := s.touch l bs.length
  match l with
  | .glob a => globWrite w tag (runsOf a bs.length) bs s0
  | .chip x =>
    let b := s0.chip.writeList x bs
    .ok () { s0 with chip := if tag then b.setTag x true else b }
  | .phys pa =>
    let b := s0.hbm.writeList pa bs
    .ok () { s0 with hbm := if tag then b.setTag pa true else b }
  | .scratch c off =>
    match s.ownerAt w.part w.vd c with
    | some (_, true) =>
      match s.savedAt w.part w.vd c with
      | some y =>
        match globWrite w false (runsOf (y.image + 0x4000 + off) bs.length) bs s0 with
        | .ok _ s1 => .ok () (s1.imageNote w.part y.vd y.image off bs.length tag)
        | r => r
      | none => .fault false off
    | _ => .ok () ((s0.fillRange c off bs.length).scratchPut c off bs tag)

/-- The site of a location for virtual device `v` (R83): of a saved scratchpad the base die of the slice of its image (R121). -/
def State.siteOf (s : State) (p v : Nat) (l : Loc) : Site :=
  match l with
  | .scratch c off =>
    match s.ownerAt p v c, s.savedAt p v c with
    | some (_, true), some y => .base (s.sliceOf (y.image + 0x4000 + off) / 16)
    | _, _ => .core c
  | .chip x => .base (x / 0xC00000 / 16)
  | .glob a => .base (s.sliceOf a / 16)
  | .phys pa => .base (pa / 2 ^ 32 / 16)

end Sys2Proof.Machine
end

