-- ==== Sys2Proof/Machine/Access.lean ====
section
/-! DEFINITION. A core's way to memory: its cache (R185 to R190), releases and acquires (R194, R195, R220), blocking
loads (R139), stores (R140, R186, R197), views (R179, R180), and accesses sent to homes (R178, R216). -/
namespace Sys2Proof.Machine

/-! ### The core cache -/

/-- The core cache's line, or an empty one. -/
def Strand.cached (x : Strand) (line : Nat) : Line := (x.cache.find? (·.va == line)).getD (Line.empty line)
/-- The core cache holds a line of this number. -/
def Strand.present (x : Strand) (line : Nat) : Bool := x.cache.any (·.va == line)
/-- Put a line in place of the one of its number. -/
def Strand.putLine (x : Strand) (l : Line) : Strand := { x with cache := x.cache.filter (·.va != l.va) ++ [l] }

/-- The line as the current instruction may read it: the cache's, with what has been filled for it (R139). -/
def Strand.view (x : Strand) (line : Nat) : Line :=
  match x.fillBuf.find? (·.va == line) with
  | some f => (x.cached line).fill f f.valid
  | none => x.cached line

/-- The sectors still to be filled for `n` bytes at `off` of a line. -/
def Line.lacks (l : Line) (off n : Nat) : BitVec 4 := maskSectors (maskRange off n &&& ~~~l.mask) &&& ~~~l.valid

/-- Send a line's written bytes to the last-level cache (R187). -/
def State.sendBack (s : State) (n : Nat) (l : Line) : State :=
  if l.mask = 0 then s
  else match s.strand n with
    | none => s
    | some x => (s.send (.writeback n x.id.part x.id.vd l 0 false)).setStrand n { x with unacked := x.unacked + 1 }

/-- After a write-back: W becomes I, M becomes V (R186); a line with nothing left goes. -/
def cleanLines (c : List Line) : List Line :=
  (c.map fun l => { l with mask := 0, tags := if l.valid = 0 then 0 else l.tags }).filter (·.valid != 0)

/-- Write the whole core cache back (R187, R194). -/
def State.writeBackAll (s : State) (n : Nat) : State :=
  match s.strand n with
  | none => s
  | some x => (x.cache.foldl (fun (z : State) l => z.sendBack n l) s).onStrand n fun y => { y with cache := cleanLines y.cache }

/-- Drop the unwritten bytes of every sector of a line: V becomes I, M becomes W (R187). -/
def Line.drop (l : Line) : Line :=
  { l with valid := 0, tags := l.tags &&& maskGranules l.mask, poison := l.poison &&& maskSectors l.mask }

/-- The cache action of an acquire above core scope (R187, R194). -/
def Strand.acquire (x : Strand) : Strand := { x with cache := (x.cache.map Line.drop).filter (·.mask != 0) }

/-- Put a line into the cache. When its set of four already holds four others a free choice of them is evicted whole (R185,
R187, log 10). -/
def State.cachePut (s : State) (n : Nat) (l : Line) : State :=
  match s.strand n with
  | none => s
  | some x =>
    let set := x.cache.filter fun j => j.va != l.va && j.va % 64 == l.va % 64
    if set.length < 4 then s.setStrand n (x.putLine l)
    else
      let f := s.free set.length
      match set[f.1]? with
      | none => s.setStrand n (x.putLine l)
      | some v => (f.2.sendBack n v).onStrand n fun y =>
          { y with cache := y.cache.filter (fun j => j.va != v.va && j.va != l.va) ++ [l] }

/-! ### Release and acquire -/

/-- A store translation fault waits to be taken at the instruction that releases (R141). -/
def Strand.faulted (x : Strand) : Bool := !x.active && x.async.any (fun t => t.1 == 0x0A)

/-- The address behind a location in global memory. -/
def Loc.global (l : Loc) : Option Nat :=
  match l with
  | .glob a => some a
  | _ => none

/-- The core that sent a request, and the location that the request goes to. -/
def Msg.target (m : Msg) : Option (Nat × Loc) :=
  match m with
  | .access a => some (a.core, a.loc)
  | .signal x => some (x.src, x.knot)
  | .wait q => some (q.core, q.knot)
  | .fill f => some (f.core, .glob (f.line * 256))
  | .writeback c _ _ l _ _ => some (c, .glob (l.va * 256))
  | _ => none

/-- A migration holds a message on its way to a migrating page (R214). -/
def State.holds (s : State) (m : Msg) : Bool :=
  match m.target with
  | some (_, .glob a) => s.migrating a
  | _ => false

/-- What a strand that waits for its writes is charged for: excluded ticks while a migration holds one of them (R93, R214). -/
def State.ackWait (s : State) (n : Nat) : WaitKind :=
  if s.heldWrites.any (·.core == n) || s.flight.any (fun m => (m.target.map (·.1)) == some n && s.holds m) then .excluded else .own

/-- A release above core scope: the first attempt writes the cache back; it is complete once every write of the strand has
been acknowledged (R194, R220). Where it waits on a held migration the wait is excluded (R93, R214). -/
def release (s : State) (n : Nat) (x : Strand) : Except (State × WaitKind) State :=
  let s1 := if x.released then s else (s.writeBackAll n).onStrand n fun y => { y with released := true }
  match s1.strand n with
  | none => .ok s1
  | some y =>
    if y.unacked = 0 && !y.faulted then .ok s1
    else .error (s1, s1.ackWait n)

/-- Scope 0 is core: nothing to do; the others act at device scope (R194, R219). -/
def releaseAt (scope : Nat) (s : State) (n : Nat) (x : Strand) : Except (State × WaitKind) State :=
  if scope = 0 then .ok s else release s n x

/-- A message that a release of core `n` has sent, a SIG or a QPUSH (R220). -/
def Msg.releaseOf (n : Nat) : Msg → Bool
  | .signal x => x.ack && x.src == n
  | .access a => a.core == n && (match a.op with
    | .qpush _ _ _ => true
    | _ => false)
  | _ => false

/-- A release of core `n` that has retired has not reached its home (R225, note a). -/
def State.releasing (s : State) (n : Nat) : Bool := s.flight.any (Msg.releaseOf n)

/-- An acquire above core scope does not issue before the strand's earlier releases have been performed (R225, note a): what it
waits for, if anything. -/
def acquireWait (s : State) (n : Nat) (scope : Nat) : Option WaitKind :=
  if scope ≠ 0 ∧ s.releasing n = true then some (s.ackWait n) else none

/-- An acquire at a scope (R194). -/
def Strand.acquireAt (x : Strand) (scope : Nat) : Strand := if scope = 0 then x else x.acquire

/-! ### Loads -/

/-- What a load finds. -/
inductive Ld where
  | got (g : Got)
  | block (s : State) (k : WaitKind)
  | trap (t : Trap)

/-- The bytes and missing sectors of global runs, as the core holds them. -/
def coreRead (x : Strand) : List (Nat × Nat × Nat) → Got × List (Nat × BitVec 4)
  | [] => (⟨[], false, none⟩, [])
  | (line, off, n) :: rs =>
    let l := x.view line
    let r := coreRead x rs
    let miss := l.lacks off n
    (⟨(List.range n).map (fun i => l.byte (off + i)) ++ r.1.bytes, l.tag off,
      (match l.poisonAt off n with | some a => some a | none => r.1.poison)⟩,
     if miss = 0 then r.2 else (line, miss) :: r.2)

/-- A translation fault that came back for the access of the strand (R139). -/
def replyFault (x : Strand) (write : Bool) : Option Trap :=
  match x.reply with
  | some r => match r.fault with
    | some f => some ⟨0x09, BitVec.ofNat 64 r.value, transDetail f write, false⟩
    | none => none
  | none => none

/-- The sectors of a set one by one: each fill brings one (R186). -/
def sectorsIn (v : BitVec 4) : List (BitVec 4) := ((List.range 4).filter v.getLsbD).map fun i => 1#4 <<< i

/-- Read global bytes through the core cache, or ask for the sectors that it lacks (R186). A fault names the lowest byte of the
access in the sector that faulted (R139). -/
def loadGlob (s : State) (n : Nat) (x : Strand) (a size cpol : Nat) : Ld :=
  match replyFault x false with
  | some t => .trap { t with tval := BitVec.ofNat 64 (max a t.tval.toNat) }
  | none =>
    let r := coreRead x (runsOf a size)
    if r.2.isEmpty then .got r.1
    else
      let fs := r.2.flatMap fun p => (sectorsIn p.2).map fun v => (p.1, v)
      .block (fs.foldl (fun (z : State) p => z.send (.fill ⟨n, x.id.part, x.id.vd, p.1, p.2, cpol, false⟩)) s) (.data fs.length)

/-- A line of a range of the own scratchpad is absent (R129). -/
def Strand.absentLine (x : Strand) (off len : Nat) : Bool :=
  decide (0 < len) && x.lineAbsent.any fun i => decide (off / 256 ≤ i) && decide (i ≤ (off + len - 1) / 256)

/-- The bytes at a location lie in the own scratchpad of core `n`, in a line that is absent (R129). -/
def Strand.absentAt (x : Strand) (n : Nat) (l : Loc) (size : Nat) : Bool :=
  match l with
  | .scratch c off => c == n && x.absentLine off size
  | _ => false

/-- A granule position is absent (R129). -/
def Strand.absentReg (x : Strand) (r : Nat) : Bool := x.granAbsent.getLsbD (r / 8)

/-- Ask a home for something and wait for its reply (R139). -/
def askHome (s : State) (n : Nat) (x : Strand) (op : AccOp) (l : Loc) (size value cmp cpol : Nat) : State :=
  s.send (.access ⟨n, x.id.part, x.id.vd, op, l, size, value, cmp, cpol, true⟩)

/-- Read raw bytes at a location: the own scratchpad at once, global memory through the core cache, other homes by a
request and its reply (R139, R178). -/
def loadRaw (s : State) (n : Nat) (x : Strand) (l : Loc) (size cpol : Nat) (op : AccOp) : Ld :=
  match l with
  | .glob a => loadGlob s n (x.seeRegion s a) a size cpol
  | .scratch c off =>
    if c = n then
      if x.absentLine off size then .block s .lazy else .got (s.scratchGot n off size)
    else match replyFault x false with
      | some t => .trap t
      | none =>
        match x.reply with
        | some r => .got ⟨bytesOf r.value size, r.flag, r.poison⟩
        | none => .block (askHome s n x op l size 0 0 cpol) (.data 1)
  | _ =>
    match replyFault x false with
    | some t => .trap t
    | none =>
      match x.reply with
      | some r => .got ⟨bytesOf r.value size, r.flag, r.poison⟩
      | none => .block (askHome s n x op l size 0 0 cpol) (.data 1)

/-- A filled narrow slot of a spool that a range of its strand's scratchpad touches and whose ftop differs from the
reader's FTOP: its offset (R241). -/
def narrowClash (s : State) (c : Nat) (y : Strand) (off len : Nat) (ftop : Bool) : Option Nat :=
  (List.range 16).findSome? fun h =>
    if hh : h < 16 then
      let sp := y.spools[h]
      if !sp.defined then none
      else (List.range sp.fill).findSome? fun k =>
        let j := (sp.cons + k) % (sp.slotsM1 + 1)
        let o := sp.base + j * 64 * sp.slotSize
        if sp.narrow.getLsbD j && decide (o < off + len) && decide (off < o + 64 * sp.slotSize) &&
            ((s.scratch.read (scratchAt c (sp.recs + 32 * j + 6))).getLsbD 1 != ftop) then some o else none
    else none

/-- The 0x0D of a load from a scratchpad that a strand of the partition owns (R241): the slot's address in the window that
the access uses. A slot that begins below the lane-private slices has none there, and is named in the own scratchpad window. -/
def slotClash (s : State) (n : Nat) (x : Strand) (a size : Nat) : Option Trap :=
  match placeOf n a with
  | .scratch owner v o =>
    match (if owner = n then some x else s.strand owner) with
    | some y =>
      let raws := rawOf v o ++ rawOf v (o + size - 1)
      let lo := raws.foldl min (raws.headD 0)
      let hi := raws.foldl max 0
      (narrowClash s owner y lo (hi + 1 - lo) x.ftop).map fun so =>
        .precise 0x0D (BitVec.ofNat 64 (a - o - v * 2 ^ 24 + so))
    | none => none
  | .lane o => (narrowClash s n x o size x.ftop).map fun so =>
      .precise 0x0D (BitVec.ofNat 64 (if so < 0x30000 then so else 0x8000000 + (so - 0x30000)))
  | _ => none

/-- The format that a view reads (R179). -/
def viewFmt (v : Nat) : Fmt := if v = 1 then .e4m3 else if v = 2 then .e5m2 else .bf16

/-- The raw location and length behind an access of `size` view bytes at `a`. -/
def rawRange (n a size : Nat) : Loc × Nat :=
  match placeOf n a with
  | .scratch owner v o => if v = 0 then (.scratch owner o, size) else (.scratch owner (o / 4 * viewBytes v), size / 4 * viewBytes v)
  | _ => (locOf n a, size)

/-- Widen the elements of a narrow view into FP32 bytes (R179); raw bytes stay. -/
def widenBytes (ftop : Bool) (v : Nat) (bs : List Byte) : List Byte :=
  if v = 0 then bs
  else if v = 3 then
    (List.range (bs.length / 2)).flatMap fun i =>
      bytesOf ((viewFmt v).widen ftop ((bs.getD (2 * i) 0).toNat + 256 * (bs.getD (2 * i + 1) 0).toNat)).toNat 4
  else bs.flatMap fun b => bytesOf ((viewFmt v).widen ftop b.toNat).toNat 4

/-- Narrow FP32 bytes for a view, with the FFLAGS bits of all elements (R179, R180). -/
def narrowBytes (ftop : Bool) (frnd v : Nat) (bs : List Byte) : List Byte × FFlags :=
  if v = 0 then (bs, 0)
  else (List.range (bs.length / 4)).foldl (fun (r : List Byte × FFlags) i =>
    let c := (viewFmt v).narrowW ftop false frnd (BitVec.ofNat 32 (numOf ((bs.drop (4 * i)).take 4)))
    (r.1 ++ bytesOf c.1 (viewBytes v), r.2 ||| c.2)) ([], 0)

/-- Read `size` bytes at an address that has passed its checks, widened through its view; a poisoned byte raises 0x0B at
its address (R144), a narrow slot of the other FTOP reading 0x0D (R241). -/
def loadAt (s : State) (n : Nat) (x : Strand) (a size cpol : Nat) (op : AccOp) : Ld :=
  let v := (placeOf n a).view
  let rr := rawRange n a size
  match loadRaw s n x rr.1 rr.2 cpol op with
  | .got g =>
    match g.poison with
    | some p =>
      let base := match rr.1 with
        | .scratch _ o => o
        | .chip y => y
        | .glob y => y
        | .phys y => y
      .trap (.precise 0x0B (BitVec.ofNat 64 (a + if v = 0 then p - base else (p - base) / viewBytes v * 4)))
    | none =>
      match slotClash s n x a size with
      | some t => .trap t
      | none => .got { g with bytes := widenBytes x.ftop v g.bytes }
  | r => r

/-! ### Stores -/

/-- The page of an address lies in host memory (R198). -/
def State.farPage (s : State) (a : Nat) : Bool :=
  match walk s a false with
  | .leaf t _ => tState t == 2
  | .fault _ => false

/-- The sectors of a line whose bytes a store leaves in the core cache: all four where region and policy allow it and the page is
none of the host's (R197, R198), else those that the cache holds. -/
def State.storeSectors (s : State) (x : Strand) (line cpol : Nat) : BitVec 4 :=
  if s.regionCattr (line * 256) == 0 && decide (cpol ≤ 1) && !s.farPage (line * 256) then 15
  else (x.cached line).valid ||| maskSectors (x.cached line).mask

/-- Store the written bytes of a line: into the core cache as far as it takes them, the rest as a masked write straight to the
slice (R186, R197). -/
def storeLine (s : State) (n : Nat) (w : Line) (cpol : Nat) : State :=
  match s.strand n with
  | none => s
  | some x =>
    let keep := w.mask &&& sectorMask (s.storeSectors x w.va cpol)
    let out := w.mask &&& ~~~keep
    let s1 := if keep = 0 then s else s.cachePut n ((x.cached w.va).merge { w with mask := keep })
    if out = 0 then s1
    else (s1.send (.writeback n x.id.part x.id.vd { w with mask := out } cpol true)).onStrand n fun y =>
      { y with unacked := y.unacked + 1 }

/-- Store global bytes (R186, R197). -/
def storeGlob (s : State) (n : Nat) (a : Nat) (bs : List Byte) (tag : Bool) (cpol : Nat) : State :=
  (runsOf a bs.length).foldl (fun (z : State × List Byte) r =>
    (storeLine z.1 n (lineOfBytes r.1 r.2.1 (z.2.take r.2.2) tag) cpol, z.2.drop r.2.2)) (s, bs) |>.1

/-- Store raw bytes at a location (R178): at once in the own scratchpad, through the cache in global memory, by a message
to another home. The flag of the error says that an absent line must be filled first (R129). -/
def storeRaw (s : State) (n : Nat) (x : Strand) (l : Loc) (bs : List Byte) (tag : Bool) (cpol : Nat) : Option State :=
  match l with
  | .glob a => some (storeGlob (s.onStrand n (·.seeRegion s a)) n a bs tag cpol)
  | .scratch c off =>
    if c = n then
      if x.absentLine off bs.length then none else some ((s.touch l bs.length).scratchPut n off bs tag)
    else some ((s.send (.access ⟨n, x.id.part, x.id.vd, .storec tag, l, bs.length, numOf bs, 0, cpol, false⟩)).onStrand n
      fun y => { y with unacked := y.unacked + 1 })
  | _ => some ((s.send (.access ⟨n, x.id.part, x.id.vd, .storec tag, l, bs.length, numOf bs, 0, cpol, false⟩)).onStrand n
      fun y => { y with unacked := y.unacked + 1 })

/-- Store `bs` at an address that has passed its checks, narrowed through its view with FFLAGS (R179, R326). -/
def storeAt (s : State) (n : Nat) (x : Strand) (a : Nat) (bs : List Byte) (tag : Bool) (cpol : Nat) : Option State :=
  let v := (placeOf n a).view
  let r := narrowBytes x.ftop x.frnd v bs
  match storeRaw s n x (rawRange n a bs.length).1 r.1 tag cpol with
  | some s1 => some (if v = 0 then s1 else s1.onStrand n (·.orFlags r.2))
  | none => none

/-! ### Order among a strand's requests (R178, R216, R218, R325) -/

/-- A location's line of 256 bytes: kind of memory and line number. -/
def Loc.line256 (l : Loc) : Nat × Nat :=
  match l with
  | .scratch c o => (0, c * 2 ^ 10 + o / 256)
  | .chip x => (1, x / 256)
  | .glob a => (2, a / 256)
  | .phys a => (3, a / 256)

/-- Two locations of windows with one home controller: one scratchpad, or the chip scratchpad of one base die (R173, R182). -/
def Loc.sameWindow (l m : Loc) : Bool :=
  match l, m with
  | .scratch c _, .scratch d _ => c == d
  | .chip x, .chip y => x / 0xC00000 / 16 == y / 0xC00000 / 16
  | _, _ => false

/-- A signal on its way to its knot (R85). -/
def Msg.signals (m : Msg) : Bool :=
  match m with
  | .signal _ => true
  | _ => false

/-- A masked write straight to its slice (R197). -/
def Msg.direct (m : Msg) : Bool :=
  match m with
  | .writeback _ _ _ _ _ d => d
  | _ => false

/-- A trace record on its way to its ring (R98). -/
def Msg.traces (m : Msg) : Bool :=
  match m with
  | .access a => (match a.op with
    | .trace _ => true
    | _ => false)
  | _ => false

/-- Message `j`, sent earlier, reaches its home before `m` does: requests of one core to one line (R218), to one window controller
(R178, R325), or masked writes to one slice (R197). A trace record is counted at its ring before the signal of its SIG takes effect (R428, R429;
log 55). -/
def State.goesFirst (s : State) (j m : Msg) : Bool :=
  match j.target, m.target with
  | some (c, l), some (d, k) =>
    c == d && (l.line256 == k.line256 || l.sameWindow k || (j.traces && m.signals) ||
      (j.direct && m.direct && (match l, k with
        | .glob a, .glob b => s.sliceOf a == s.sliceOf b
        | _, _ => false)))
  | _, _ => false

/-- A write of core `c` to a line waits at its slice for the end of a migration (R214). -/
def State.heldLine (s : State) (c : Nat) (l : Loc) : Bool :=
  s.heldWrites.any fun h => h.core == c && (2, h.line.va) == l.line256

/-- Message `k` may reach its home: none goes before it, and no write of its strand to its line is held. -/
def State.inOrder (s : State) (k : Nat) (m : Msg) : Bool :=
  !(s.flight.take k).any (fun j => s.goesFirst j m) &&
    !((m.target.map fun t => s.heldLine t.1 t.2).getD false)

/-- Core `n` has a request of its own on its way to the bytes at a location, or a write held there: a vector load or store of those
bytes waits for it (R218, R224). -/
def State.ownAhead (s : State) (n : Nat) (l : Loc) : Bool :=
  s.flight.any (fun m => match m.target with
    | some (c, k) => c == n && (k.line256 == l.line256 || k.sameWindow l)
    | none => false) || s.heldLine n l

/-! ### What every memory instruction waits for -/

/-- Vector entries that read or write memory are still queued: a later scalar access waits for them (R225). -/
def isVectorMemory : Instr → Bool
  | .vld _ _ _ _ => true
  | .vst _ _ _ _ => true
  | .vldl _ _ _ _ => true
  | .vstl _ _ _ _ => true
  | .vgath _ _ _ _ _ => true
  | .vscat _ _ _ _ _ => true
  | .vsift _ _ _ _ => true
  | _ => false

/-- A scalar memory instruction waits, as own work, for earlier vector memory instructions (R224, R225) and for its
operands. -/
def memReady (x : Strand) (rs : List (BitVec 6)) : Bool :=
  !x.pending rs && !x.vq.any fun q => q.fromBob.isNone && isVectorMemory q.ins

/-- Charge the cycles that pass before the operands are ready (R300). -/
def State.ready (s : State) (n : Nat) (x : Strand) (rs : List (BitVec 6)) : Strand :=
  x.cycles (x.readyCycles rs (s.divOf n)) (s.divOf n)

end Sys2Proof.Machine
end

