-- ==== Sys2Proof/Machine/Home.lean ====
section
/-! DEFINITION. What homes do with the requests that reach them (R178, R216, R323): loads and stores, atomics (R332), knots
(R85, R86, R333 to R337), monitors (R338), work queues (R340 to R343), tickets (R344) and launch entries (R345). -/
namespace Sys2Proof.Machine

/-! ### Knots (R333) -/

/-- The fields of a knot. -/
structure Knot where
  count : W64
  chain : Nat
  overflow : Bool
  error : Bool
  poisoned : Bool
  maxOrigin : W32
  lastOrigin : W32
  tick : W64
deriving DecidableEq, Repr

/-- Read a knot's 32 bytes. -/
def knotOf (bs : List Byte) : Knot :=
  let v := numOf bs
  let f := fun lo w : Nat => v / 2 ^ lo % 2 ^ w
  ⟨BitVec.ofNat 64 (f 0 64), f 64 48, f 112 1 == 1, f 113 1 == 1, f 114 1 == 1, BitVec.ofNat 32 (f 128 32),
   BitVec.ofNat 32 (f 160 32), BitVec.ofNat 64 (f 192 64)⟩

/-- 1 or 0. -/
def b2n (b : Bool) : Nat := if b then 1 else 0

/-- The flags field, bits 127:112 (R333). -/
def Knot.flags (k : Knot) : Nat := b2n k.overflow + 2 * b2n k.error + 4 * b2n k.poisoned

/-- The 32 bytes of a knot. -/
def Knot.bytes (k : Knot) : List Byte :=
  bytesOf (k.count.toNat + k.chain * 2 ^ 64 + k.flags * 2 ^ 112 + k.maxOrigin.toNat * 2 ^ 128 +
    k.lastOrigin.toNat * 2 ^ 160 + k.tick.toNat * 2 ^ 192) 32

/-- apply_signal of R85. -/
def Knot.apply (k : Knot) (x : Signal) (tick : Nat) : Knot :=
  { k with
    count := k.count + x.delta
    chain := max k.chain x.chain
    maxOrigin := if k.chain < x.chain then x.origin else k.maxOrigin
    lastOrigin := x.origin
    tick := BitVec.ofNat 64 tick
    overflow := k.overflow || x.ovf
    error := k.error || x.err
    poisoned := k.poisoned || x.psn }

/-- What a satisfied wait or KJOIN joins (R86). -/
def Knot.snap (k : Knot) (w : WaitReq) (st : Site) : Snapshot := ⟨w.core, k.chain, k.maxOrigin, k.lastOrigin, k.overflow, st⟩

/-- A wait is satisfied by a count, if its deadline has not passed (R336). -/
def WaitReq.met (w : WaitReq) (count : W64) (tick : Nat) : Bool :=
  w.target.sle count && match w.deadline with
    | some d => decide (tick ≤ d)
    | none => true

/-- The virtual device whose scratchpad a location names for virtual device `v` (R121, R175); 0 elsewhere. -/
def State.holderOf (s : State) (p v : Nat) (l : Loc) : Nat :=
  match l with
  | .scratch c _ => ((s.ownerAt p v c).map (·.1.id.vd)).getD 0
  | _ => 0

/-- Test the waits held at a knot against it (R86, R334, R336): each that is met gets a snapshot. -/
def State.testWaits (s : State) (knot : Loc) (part vd : Nat) (k : Knot) : State :=
  let hit := fun w : WaitReq => w.knot == knot && w.part == part && s.holderOf part w.vd knot == s.holderOf part vd knot &&
    w.met k.count s.tick
  let met := s.waits.filter hit
  { s with
    waits := s.waits.filter (fun w => !hit w)
    flight := s.flight ++ met.map fun w => Msg.snapshot (k.snap w (s.siteOf part vd knot)) }

/-- Apply a signal at its knot's home (R85, R86). -/
def applySignal (s : State) (x : Signal) : HomeR Unit :=
  let w : Who := ⟨x.part, x.vd, 0⟩
  match homeReadW s w x.knot 32 with
  | .fault f a => .fault f a
  | .held => .held
  | .ok g s1 =>
    let k := (knotOf g.bytes).apply x s.tick
    match homeWrite s1 w x.knot k.bytes false with
    | .ok _ s2 => .ok () (s2.testWaits x.knot x.part x.vd k)
    | r => r

/-- A wait reaches its knot's home (R86, R336, R337): kind 0 is WAIT, kind 1 KJOIN. A WAIT that finds count ≥ target at its arrival is
satisfied, whatever its deadline. -/
def applyWait (s : State) (q : WaitReq) : HomeR Unit :=
  match homeRead s ⟨q.part, q.vd, 0⟩ q.knot 32 with
  | .fault f a => .fault f a
  | .held => .held
  | .ok g s1 =>
    let k := knotOf g.bytes
    if q.kind = 1 || q.target.sle k.count then .ok () (s1.send (.snapshot (k.snap q (s.siteOf q.part q.vd q.knot))))
    else .ok () { s1 with waits := s1.waits ++ [q] }

/-- The signal that a strand sends (R85): its chain carries the transit to the knot's home. -/
def sigOf (s : State) (n : Nat) (x : Strand) (knot : Loc) (delta : W64) : Signal :=
  let c := satAdd x.chain (transitIn x.declared (.core n) (s.siteOf x.id.part x.id.vd knot))
  ⟨n, true, x.id.part, x.id.vd, knot, delta, c.1, x.wid, x.ovf || c.2, false, false⟩

/-! ### Work queues (R340 to R343) -/

/-- The header of a work queue: bits 511:0. -/
structure QHead where
  refused : Nat
  pops : Nat
  pushes : Nat
  ordered : Bool
  log2 : Nat
  zeroes : Bool
deriving DecidableEq, Repr

/-- Read a header (R340). -/
def qheadOf (bs : List Byte) : QHead :=
  let v := numOf bs
  let f := fun lo w : Nat => v / 2 ^ lo % 2 ^ w
  ⟨f 192 64, f 128 64, f 64 64, f 8 1 == 1, f 0 5, f 256 256 == 0 && f 9 55 == 0 && f 5 3 == 0⟩

/-- The header's bytes 8 to 31: the three counts. -/
def QHead.counts (h : QHead) : List Byte := bytesOf h.pushes 8 ++ bytesOf h.pops 8 ++ bytesOf h.refused 8

/-- Malformed (R341): `span` is top − s1.address. -/
def QHead.malformed (h : QHead) (span : Nat) : Bool :=
  !h.zeroes || decide (h.log2 = 0) || decide (20 < h.log2) || decide (span < 64 + 32 * 2 ^ h.log2)

/-- Entries held. -/
def QHead.live (h : QHead) : Nat := (h.pushes + 2 ^ 64 - h.pops) % 2 ^ 64

/-- Push an entry at the queue's home (R342). A chain-ordered queue keeps its live entries in slots 0 to count − 1 in push
order (R340 leaves the arrangement open; log 10). -/
def pushQueue (s : State) (w : Who) (q : Loc) (payload chain span : Nat) (ovf : Bool) : HomeR Unit :=
  match homeReadW s w q 64 with
  | .fault f a => .fault f a
  | .held => .held
  | .ok g s1 =>
    let h := qheadOf g.bytes
    if h.malformed span || h.live == 2 ^ h.log2 then
      homeWrite s1 w (q.plus 8) ({ h with refused := h.refused + 1 } : QHead).counts false
    else
      let slot := if h.ordered then h.live else h.pushes % 2 ^ h.log2
      let e := bytesOf (payload + chain * 2 ^ 64 + b2n ovf * 2 ^ 112 + h.pushes * 2 ^ 128) 32
      match homeWrite s1 w (q.plus (64 + 32 * slot)) e false with
      | .ok _ s2 => homeWrite s2 w (q.plus 8) ({ h with pushes := h.pushes + 1 } : QHead).counts false
      | r => r

/-- The slot that a pop of a chain-ordered queue takes: the greatest chain, then the earliest push (R72). -/
def bestEntry : List (Nat × List Byte) → Option (Nat × List Byte)
  | [] => none
  | e :: t =>
    match bestEntry t with
    | none => some e
    | some b =>
      let ch := fun x : Nat × List Byte => numOf (x.2.drop 8) % 2 ^ 48
      let sq := fun x : Nat × List Byte => numOf ((x.2.drop 16).take 8)
      if ch b < ch e || (ch b == ch e && decide (sq e < sq b)) then some e else some b

/-- Pop an entry at the queue's home (R343): bits 65:0 of the result. -/
def popQueue (s : State) (w : Who) (q : Loc) (span : Nat) : HomeR Nat :=
  match homeReadW s w q 64 with
  | .fault f a => .fault f a
  | .held => .held
  | .ok g s1 =>
    let h := qheadOf g.bytes
    if h.malformed span then .ok (2 ^ 65) s1
    else if h.live = 0 then .ok 0 s1
    else
      let first := if h.ordered then 0 else h.pops % 2 ^ h.log2
      let cnt := if h.ordered then h.live else 1
      match homeReadW s1 w (q.plus (64 + 32 * first)) (32 * cnt) with
      | .fault f a => .fault f a
      | .held => .held
      | .ok es s2 =>
        let ent := fun i : Nat => (es.bytes.drop (32 * i)).take 32
        let pick := (bestEntry ((List.range cnt).map fun i => (i, ent i))).getD (0, ent 0)
        let s3 := if h.ordered then
            homeWrite s2 w (q.plus (64 + 32 * pick.1)) ((es.bytes.drop (32 * (pick.1 + 1))).take (32 * (h.live - 1 - pick.1))) false
          else .ok () s2
        match s3 with
        | .fault f a => .fault f a
        | .held => .held
        | .ok _ s4 =>
          match homeWrite s4 w (q.plus 8) ({ h with pops := h.pops + 1 } : QHead).counts false with
          | .ok _ s5 => .ok (2 ^ 64 + numOf (pick.2.take 8)) s5
          | .fault f a => .fault f a
          | .held => .held

/-! ### Atomics (R332) -/

/-- What an atomic writes: none where a compare fails. -/
def atomicNew (op n old b c : Nat) : Option Nat :=
  let sg := fun v : Nat => if v < 2 ^ (n - 1) then (v : Int) else (v : Int) - 2 ^ n
  match op with
  | 0 => some ((old + b) % 2 ^ n)
  | 1 => some (old &&& b)
  | 2 => some (old ||| b)
  | 3 => some (old ^^^ b)
  | 4 => some (if sg old < sg b then old else b)
  | 5 => some (if sg old < sg b then b else old)
  | 6 => some b
  | _ => if old = c then some b else none

/-- A value-only reply. -/
def Reply.ofValue (v : Nat) : Reply := ⟨v, false, false, none, none⟩

/-- Write TKT at every core of a cluster that runs a strand of a launch (R73): one placed and not started does not run yet (R61). -/
def State.broadcastTicket (s : State) (n : Nat) (v : Nat) : State :=
  match s.strand n with
  | none => s
  | some x =>
    (List.range 16).foldl (fun (z : State) k => z.onStrand (clusterOf n * 16 + k) fun y =>
      if y.id.launch = x.id.launch && y.id.part = x.id.part && y.phase != .placed then y.setCsr 0x2B#7 (BitVec.ofNat 64 v) else y) s

/-- Append an entry to a record queue (R345): none while it is full. -/
def appendEntry (s : State) (w : Who) (q : Loc) (cap : Nat) (entry : Nat) : HomeR Bool :=
  match homeReadW s w q 8 with
  | .fault f a => .fault f a
  | .held => .held
  | .ok g s1 =>
    let app := numOf (g.bytes.take 4)
    let con := numOf (g.bytes.drop 4)
    if cap ≤ (app + 2 ^ 32 - con) % 2 ^ 32 then .ok false s1
    else
      match homeWrite s1 w (q.plus (64 + 32 * (app % cap))) (bytesOf (entry - entry / 2 ^ 31 % 2 * 2 ^ 31 + 2 ^ 31) 32) false with
      | .fault f a => .fault f a
      | .held => .held
      | .ok _ s2 =>
        match homeWrite s2 w q (bytesOf ((app + 1) % 2 ^ 32) 4) false with
        | .ok _ s3 => .ok true s3
        | .fault f a => .fault f a
        | .held => .held

/-- Append a trace record at its ring's home (R98, R99): the append count gives i and the tick, and the 32 bytes are on their way to their place;
the acknowledgement of that write is the record's (log 55). -/
def appendTrace (s : State) (r : Access) (ents : Nat) : HomeR Unit :=
  let w : Who := ⟨r.part, r.vd, r.cpol⟩
  match homeReadW s w r.loc 8 with
  | .fault f a => .fault f a
  | .held => .held
  | .ok g s1 =>
    let i := numOf g.bytes
    match homeWrite s1 w r.loc (bytesOf ((i + 1) % 2 ^ 64) 8) false with
    | .ok _ s2 => .ok () (s2.send (.access { r with
        op := .storec false
        loc := r.loc.plus (64 + 32 * (i % ents))
        value := r.value + i % 2 ^ 32 * 2 ^ 96 + s.tick % 2 ^ 64 * 2 ^ 192 }))
    | r => r

/-- A migration holds the request at its home (R214): an atomic or a ticket, whether or not it comes to write (R332). -/
def State.holdsRequest (s : State) (r : Access) : Bool :=
  match r.op, r.loc with
  | .atomic _, .glob a => s.migrating a
  | .ticket, .glob a => s.migrating a
  | _, _ => false

/-- Carry out a request at its home. -/
def applyAccess (s : State) (r : Access) : HomeR Reply :=
  let w : Who := ⟨r.part, r.vd, r.cpol⟩
  if s.holdsRequest r then .held
  else match r.op with
  | .load =>
    match homeRead s w r.loc r.size with
    | .ok g s1 => .ok ⟨numOf g.bytes, g.tag, false, g.poison, none⟩ s1
    | .fault f a => .fault f a
    | .held => .held
  | .storec tag =>
    match homeWrite s w r.loc (bytesOf r.value r.size) tag with
    | .ok _ s1 => .ok (.ofValue 0) s1
    | .fault f a => .fault f a
    | .held => .held
  | .atomic op =>
    match homeReadW s w r.loc r.size with
    | .fault f a => .fault f a
    | .held => .held
    | .ok g s1 =>
      match g.poison with
      | some p => .ok ⟨0, false, false, some p, none⟩ s1
      | none =>
        let old := numOf g.bytes
        match atomicNew op (8 * r.size) old r.value r.cmp with
        | none => .ok (.ofValue old) s1
        | some v =>
          match homeWrite s1 w r.loc (bytesOf v r.size) false with
          | .ok _ s2 => .ok (.ofValue old) s2
          | .fault f a => .fault f a
          | .held => .held
  | .ticket =>
    match homeReadW s w r.loc 8 with
    | .fault f a => .fault f a
    | .held => .held
    | .ok g s1 =>
      match g.poison with
      | some p => .ok ⟨0, false, false, some p, none⟩ s1
      | none =>
        let old := numOf g.bytes
        match homeWrite s1 w r.loc (bytesOf ((old + 1) % 2 ^ 64) 8) false with
        | .ok _ s2 => .ok (.ofValue old) (s2.broadcastTicket r.core old)
        | .fault f a => .fault f a
        | .held => .held
  | .kinit =>
    let k : Knot := ⟨BitVec.ofNat 64 r.value, 0, false, false, false, 0, 0, 0⟩
    match homeWrite s w r.loc k.bytes false with
    | .ok _ s1 => .ok (.ofValue 0) (s1.testWaits r.loc r.part r.vd k)
    | .fault f a => .fault f a
    | .held => .held
  | .kpeek =>
    match homeRead s w r.loc 16 with
    | .ok g s1 => .ok ⟨numOf g.bytes % 2 ^ 115, false, false, g.poison, none⟩ s1
    | .fault f a => .fault f a
    | .held => .held
  | .trace ents =>
    match appendTrace s r ents with
    | .ok _ s1 => .ok (.ofValue 0) s1
    | .fault f a => .fault f a
    | .held => .held
  | .qpush chain ovf span =>
    match pushQueue s w r.loc r.value chain span ovf with
    | .ok _ s1 => .ok (.ofValue 0) s1
    | .fault f a => .fault f a
    | .held => .held
  | .qpop span =>
    match popQueue s w r.loc span with
    | .ok v s1 => .ok (.ofValue v) s1
    | .fault f a => .fault f a
    | .held => .held
  | .launch cap =>
    match appendEntry s w r.loc cap r.value with
    | .ok b s1 => .ok ⟨0, b, false, none, none⟩ s1
    | .fault f a => .fault f a
    | .held => .held

/-- A request that nothing waits for is acknowledged as it is carried out; a trace record once its bytes are written (log 55). -/
def AccOp.acked : AccOp → Bool
  | .trace _ => false
  | _ => true

/-- The kind of a request writes at its home (R135: detail bit 17). -/
def AccOp.writes : AccOp → Bool
  | .load => false
  | .kpeek => false
  | _ => true

end Sys2Proof.Machine
end

