-- ==== Sys2Proof/Machine/Quilt.lean ====
section
/-! DEFINITION. Quilted FP8 (R265 to R268): the bit stream of a block and the container. -/
namespace Sys2Proof.Machine

/-- A byte from bit 7 down to bit 0. -/
def byteBits (b : Byte) : List Bool := (List.range 8).map fun i => b.getLsbD (7 - i)

/-- The bit stream of 16-bit little-endian units (R265). -/
def unitBits : List Byte → List Bool
  | b0 :: b1 :: t => byteBits b1 ++ byteBits b0 ++ unitBits t
  | _ => []

/-- The number that bits hold, the first most significant. -/
def bitsNum (l : List Bool) : Nat := l.foldl (fun v b => 2 * v + b2n b) 0

/-- Read `n` bits: none past the end. -/
def readBits (n : Nat) (l : List Bool) : Option (Nat × List Bool) :=
  if l.length < n then none else some (bitsNum (l.take n), l.drop n)

/-- Read `k` fields of `n` bits. -/
def readMany (n : Nat) : Nat → List Bool → Option (List Nat × List Bool)
  | 0, l => some ([], l)
  | k + 1, l =>
    match readBits n l with
    | none => none
    | some (v, r) => (readMany n k r).map fun q => (v :: q.1, q.2)

/-- One exponent token (R266). -/
def readToken (base : Int) (eb : Nat) (l : List Bool) : Option (Int × List Bool) :=
  match l with
  | false :: r => some (base, r)
  | true :: false :: b :: r => some (base + (if b then -1 else 1), r)
  | true :: true :: false :: b :: r => some (base + (if b then -2 else 2), r)
  | true :: true :: true :: r => (readBits eb r).map fun q => ((q.1 : Int), q.2)
  | _ => none

/-- `k` tokens; none where an exponent leaves its field. -/
def readTokens (base : Int) (eb : Nat) : Nat → List Bool → Option (List Nat × List Bool)
  | 0, l => some ([], l)
  | k + 1, l =>
    match readToken base eb l with
    | none => none
    | some (e, r) =>
      if e < 0 ∨ (2 : Int) ^ eb ≤ e then none
      else (readTokens base eb k r).map fun q => (e.toNat :: q.1, q.2)

/-- decode_block of R266: format bit, 32 element bytes, length in bytes. -/
def decodeBlock (bs : List Byte) : Option (Nat × List Nat × Nat) :=
  let l := unitBits bs
  match readBits 16 l with
  | none => none
  | some (h, r) =>
    let fmt := h / 2 ^ 10 % 2
    let mb := if fmt = 0 then 3 else 2
    let eb := if fmt = 0 then 4 else 5
    if h / 2 ^ 8 % 4 ≠ 0 then none
    else match readMany (mb + 1) 32 r with
    | none => none
    | some (sm, r1) =>
      match readTokens (h / 2 ^ 11 : Nat) eb 32 r1 with
      | none => none
      | some (es, r2) =>
        let used := l.length - r2.length
        let units := (used + 15) / 16
        if (r2.take (16 * units - used)).any id || units ≠ h % 2 ^ 8 then none
        else some (fmt, (List.range 32).map (fun i =>
          let v := sm.getD i 0
          v / 2 ^ mb * 2 ^ 7 + es.getD i 0 * 2 ^ mb + v % 2 ^ mb), 2 * units)

/-- Decode `k` blocks that follow one another. -/
def decodeBlocks (fmt : Nat) : Nat → List Byte → Option (List Nat)
  | 0, _ => some []
  | k + 1, bs =>
    match decodeBlock bs with
    | none => none
    | some (f, es, n) => if f = fmt then (decodeBlocks fmt k (bs.drop n)).map (es ++ ·) else none

/-- The bytes of `k` blocks that follow one another from byte `o` on: first byte and length. -/
def blockSpans : Nat → Nat → List Byte → List (Nat × Nat)
  | 0, _, _ => []
  | k + 1, o, bs =>
    match decodeBlock bs with
    | none => []
    | some (_, _, n) => (o, n) :: blockSpans k (o + n) (bs.drop n)

/-- What a quilt decodes to: FTOP, format, count, element bytes, the bytes of each block. -/
structure Quilt where
  ftop : Bool
  fmt : Nat
  count : Nat
  elems : List Nat
  spans : List (Nat × Nat)
deriving DecidableEq, Repr

/-- The bytes of a quilt that elements `lo` to `lo + n` are read from: the header, the offsets of their groups, their blocks. R387 speaks of the
bytes read for a row and names none; the choice is the model's (log 54). -/
def Quilt.reads (q : Quilt) (lo n : Nat) : List (Nat × Nat) :=
  let bl := (List.range q.spans.length).filter fun b => decide (32 * b < lo + n) && decide (lo < 32 * b + 32)
  (0, 8) :: bl.flatMap fun b => [(8 + 4 * (b / 16), 4), q.spans.getD b (0, 0)]

/-- Two byte ranges overlap. -/
def overlap (a b : Nat × Nat) : Bool := decide (a.1 < b.1 + b.2) && decide (b.1 < a.1 + a.2)

/-- Decode a quilt (R267): none where R268 calls it malformed. -/
def decodeQuilt (bs : List Byte) : Option Quilt :=
  let h := numOf (bs.take 8)
  let count := h / 2 ^ 32
  let nb := (count + 31) / 32
  let groups := (nb + 15) / 16
  if bs.length < 8 + 4 * groups ∨ h / 2 ^ 16 % 2 ^ 16 ≠ 0 ∨ h / 2 ^ 8 % 2 ^ 8 ≠ 1 ∨ h / 2 % 2 ^ 6 ≠ 0 ∨ count = 0 then none
  else
    let fmt := h % 2
    let part := fun g : Nat =>
      let off := numOf ((bs.drop (8 + 4 * g)).take 4)
      decodeBlocks fmt (min 16 (nb - 16 * g)) (bs.drop off)
    let rs := (List.range groups).map part
    let span := fun g : Nat =>
      let off := numOf ((bs.drop (8 + 4 * g)).take 4)
      blockSpans (min 16 (nb - 16 * g)) off (bs.drop off)
    if rs.any Option.isNone then none
    else some ⟨h / 2 ^ 7 % 2 == 1, fmt, count, (rs.filterMap id).flatten.take count, (List.range groups).flatMap span⟩

end Sys2Proof.Machine
end

