-- ==== Sys2Proof/Machine/MemInstr.lean ====
section
/-! DEFINITION. Loads, stores, capabilities in memory, prefetch, region write-back and invalidate, fences and atomics (R322
to R332). -/
namespace Sys2Proof.Machine

/-- An instruction whose replies have come does not check its operands again (R323: at issue). -/
def Strand.checked (x : Strand) : Bool :=
  match x.wait with
  | some (.data _) => true
  | some (.heldData _) => true
  | _ => false

/-- The checks of an access, unless they were made when it issued. -/
def checkOnce (s : State) (n : Nat) (x : Strand) (r : Ref) : Option Trap := if x.checked then none else checkRef s n x r

/-- The strand once its access at `a` through register `reg` has looked the region up, if it is global: whatever the check then finds (R204,
R208). -/
def Strand.looks (x : Strand) (s : State) (n : Nat) (reg : BitVec 6) (a : Nat) : Strand :=
  match placeOf n a with
  | .glob => if (x.getG reg).tagged && (capOf (x.getG reg).bits).domain == x.id.part then x.seeRegion s a else x
  | _ => x

/-! ### Loads (R324, R327) -/

/-- A loaded value extended to 64 bits. -/
def extendTo64 (size : Nat) (signed : Bool) (v : Nat) : W64 :=
  if signed && decide (2 ^ (8 * size - 1) ≤ v) then BitVec.ofInt 64 ((v : Int) - 2 ^ (8 * size)) else BitVec.ofNat 64 v

/-- The load forms of R324. -/
def loadInstr (size : Nat) (signed : Bool) (d a : BitVec 6) (c : BitVec 2) (o : BitVec 9) (s : State) : Out :=
  word s fun s n x =>
    if !memReady x [d, a] then .block s .own
    else
      let x := s.ready n x [a]
      let addr := x.addrOf a (o.toInt * size)
      let x := x.looks s n a addr
      match checkOnce s n x ⟨a, addr, size, permLoad, false, size, signed && size == 4 || size == 8, false⟩ with
      | some t => .trap x t
      | none =>
        match loadAt s n x addr size c.toNat .load with
        | .trap t => .trap x t
        | .block s' k => .block s' k
        | .got g => .done (s.retire n ((x.setW d (extendTo64 size signed (numOf g.bytes))).later d 1 1) 1)

/-- LDB (R324). -/
def execLdb (d a : BitVec 6) (c : BitVec 2) (o : BitVec 9) (s : State) : Out := loadInstr 1 true d a c o s
/-- LDBN (R324). -/
def execLdbn (d a : BitVec 6) (c : BitVec 2) (o : BitVec 9) (s : State) : Out := loadInstr 1 false d a c o s
/-- LDH (R324). -/
def execLdh (d a : BitVec 6) (c : BitVec 2) (o : BitVec 9) (s : State) : Out := loadInstr 2 true d a c o s
/-- LDHN (R324). -/
def execLdhn (d a : BitVec 6) (c : BitVec 2) (o : BitVec 9) (s : State) : Out := loadInstr 2 false d a c o s
/-- LDW (R324). -/
def execLdw (d a : BitVec 6) (c : BitVec 2) (o : BitVec 9) (s : State) : Out := loadInstr 4 true d a c o s
/-- LDWN (R324). -/
def execLdwn (d a : BitVec 6) (c : BitVec 2) (o : BitVec 9) (s : State) : Out := loadInstr 4 false d a c o s
/-- LDD (R324). -/
def execLdd (d a : BitVec 6) (c : BitVec 2) (o : BitVec 9) (s : State) : Out := loadInstr 8 true d a c o s

/-- A global region may hold tags (R208); an absent region is reported later (R204), and other places always may. -/
def tagsAllowed (s : State) (x : Strand) (n a : Nat) : Bool :=
  match placeOf n a with
  | .glob => match s.regionSeen x a with
    | some d => bit1 d.r 44
    | none => true
  | _ => true

/-- LDC (R327). -/
def execLdc (d a : BitVec 6) (c : BitVec 2) (o : BitVec 9) (s : State) : Out :=
  word s fun s n x =>
    if !memReady x [d, a] then .block s .own
    else
      let x := s.ready n x [a]
      let addr := x.addrOf a (o.toInt * 16)
      let x := x.looks s n a addr
      match checkOnce s n x ⟨a, addr, 16, permLoad, false, 16, false, false⟩ with
      | some t => .trap x t
      | none =>
        match loadAt s n x addr 16 c.toNat .load with
        | .trap t => .trap x t
        | .block s' k => .block s' k
        | .got g =>
          let tag := g.tag && (capOf (x.getG a).bits).has permTagLoad && tagsAllowed s x n addr
          .done (s.retire n ((x.setG d ⟨BitVec.ofNat 128 (numOf g.bytes), tag⟩).later d 1 1) 1)

/-! ### Stores (R325, R326, R328) -/

/-- A checked store, then retirement; an absent line is filled first (R129). -/
def storeStep (s : State) (n : Nat) (x : Strand) (addr : Nat) (bs : List Byte) (tag : Bool) (cpol : Nat) : Eff :=
  match storeAt (s.setStrand n x) n x addr bs tag cpol with
  | none => .block s .lazy
  | some s1 => withStrand s1 n fun y => .done (s1.retire n y 1)

/-- The store forms of R325. -/
def storeInstr (size : Nat) (a b : BitVec 6) (c : BitVec 2) (o : BitVec 9) (s : State) : Out :=
  word s fun s n x =>
    if !memReady x [a, b] then .block s .own
    else
      let x := s.ready n x [a, b]
      let addr := x.addrOf a (o.toInt * size)
      let x := x.looks s n a addr
      match checkOnce s n x ⟨a, addr, size, permStore, true, size, decide (4 ≤ size), false⟩ with
      | some t => .trap x t
      | none => storeStep s n x addr (bytesOf (x.rd b).toNat size) false c.toNat

/-- STB (R325). -/
def execStb (a b : BitVec 6) (c : BitVec 2) (o : BitVec 9) (s : State) : Out := storeInstr 1 a b c o s
/-- STH (R325). -/
def execSth (a b : BitVec 6) (c : BitVec 2) (o : BitVec 9) (s : State) : Out := storeInstr 2 a b c o s
/-- STW (R325, R326). -/
def execStw (a b : BitVec 6) (c : BitVec 2) (o : BitVec 9) (s : State) : Out := storeInstr 4 a b c o s
/-- STD (R325, R326). -/
def execStd (a b : BitVec 6) (c : BitVec 2) (o : BitVec 9) (s : State) : Out := storeInstr 8 a b c o s

/-- A confined capability may be stored only through the own scratchpad window in the raw view or the lane-private window
(R205). -/
def confinedOk (n a : Nat) : Bool :=
  match placeOf n a with
  | .scratch _ v _ => v == 0 && decide (a < 0x4000000)
  | .lane _ => true
  | _ => false

/-- STC (R328). -/
def execStc (a b : BitVec 6) (c : BitVec 2) (o : BitVec 9) (s : State) : Out :=
  word s fun s n x =>
    if !memReady x [a, b] then .block s .own
    else
      let x := s.ready n x [a, b]
      let v := x.getG b
      let addr := x.addrOf a (o.toInt * 16)
      let x := x.looks s n a addr
      let deny := v.tag && (!(capOf (x.getG a).bits).has permTagStore ||
        ((capOf v.bits).has permConfined && !confinedOk n addr) || !tagsAllowed s x n addr)
      match checkOnce s n x ⟨a, addr, 16, permStore, true, 16, false, deny⟩ with
      | some t => .trap x t
      | none => storeStep s n x addr (bytesOf v.bits.toNat 16) v.tag c.toNat

/-! ### PREF, WBR, INVR, FENCE (R329 to R331) -/

/-- PREF (R329): it asks for the sectors of the line that the cache lacks, or does nothing. With policy none one request walks the
translation. -/
def execPref (a : BitVec 6) (c : BitVec 2) (s : State) : Out :=
  word s fun s n x =>
    if x.pending [a] then .block s .own
    else
      let x := s.ready n x [a]
      let addr := x.addrOf a 0
      let x := x.looks s n a addr
      let go := match checkRef s n x ⟨a, addr, 1, permLoad, false, 1, true, false⟩, placeOf n addr with
        | none, .glob => true
        | _, _ => false
      let vs := if !go then [] else if c = 3 then [15#4] else sectorsIn (~~~(x.cached (addr / 256)).valid)
      let s1 := vs.foldl (fun (z : State) v => z.send (.fill ⟨n, x.id.part, x.id.vd, addr / 256, v, c.toNat, true⟩)) s
      .done (s1.retire n x 1)

/-- The check of a named range (R323, R330) at its first address, in the order of R138, with bounds over the whole range. The
range is not read, so no lock is met (R229), and bytes below SELV are none of its own (R165). -/
def checkRange (s : State) (x : Strand) (n : Nat) (a : BitVec 6) (len : Nat) : Option Trap :=
  let g := x.getG a
  let c := capOf g.bits
  let a64 := BitVec.ofNat 64
  let pl := placeOf n c.address
  let r : Ref := ⟨a, c.address, 1, permLoad, false, 1, false, false⟩
  if !g.tagged then some (.precise 0x02 (a.setWidth 64))
  else if wrongDomain s x c pl c.address then some (.precise 0x05 (a64 c.address))
  else if !c.has (if pl.view ≠ 0 then permLoad ||| permView else permLoad) || c.has permExec then some (.precise 0x04 (a64 c.address))
  else if (c.address : Int) < c.base ∨ c.top < c.address + len then some (.precise 0x03 (a64 c.address))
  else if misaligned pl r then some (.precise 0x06 (a64 c.address))
  else (unreachable s x n pl r).map fun t => ⟨0x09, a64 t, transDetail false false, false⟩

/-- A line overlaps a range of global addresses. -/
def Line.overlaps (l : Line) (lo len : Nat) : Bool := decide (l.va * 256 < lo + len) && decide (lo < l.va * 256 + 256)

/-- The write-back pass of R195 over a range. -/
def State.writeBackRange (s : State) (n lo len : Nat) : State :=
  match s.strand n with
  | none => s
  | some x =>
    let hit := x.cache.filter (·.overlaps lo len)
    (hit.foldl (fun (z : State) l => z.sendBack n l) s).onStrand n fun y =>
      { y with cache := y.cache.filter (fun l => !l.overlaps lo len) ++ cleanLines (y.cache.filter (·.overlaps lo len)) }

/-- The invalidate pass of R195 over a range: the unwritten bytes of each sector that it meets go. -/
def Strand.invalRange (x : Strand) (lo len : Nat) : Strand :=
  { x with cache := (x.cache.map fun l =>
      if l.overlaps lo len then
        let b := l.va * 256
        let hit : BitVec 4 := BitVec.ofNat 4 ((List.range 4).foldl (fun v i =>
          if b + 64 * i < lo + len ∧ lo < b + 64 * i + 64 then v + 2 ^ i else v) 0)
        let keep := ~~~(sectorMask hit) ||| l.mask
        { l with valid := l.valid &&& ~~~hit, tags := l.tags &&& maskGranules keep, poison := l.poison &&& maskSectors keep }
      else l).filter fun l => l.mask != 0 || l.valid != 0 }

/-- Wait until every write of the strand has been acknowledged (R330). -/
def waitAcked (s : State) (n : Nat) (f : Strand → Eff) : Eff :=
  withStrand s n fun y =>
    if y.unacked = 0 && !y.faulted then f y
    else .block s (s.ackWait n)

/-- WBR (R330). -/
def execWbr (a b : BitVec 6) (s : State) : Out :=
  word s fun s n x =>
    if !memReady x [a, b] then .block s .own
    else
      let x := s.ready n x [a, b]
      let len := (x.rd b).toNat
      if 2 ^ 32 < len then illegal s n x
      else if len = 0 then .done (s.retire n x 1)
      else
      let x := x.looks s n a (x.rd a).toNat
      match checkRange s x n a len with
      | some t => .trap x t
      | none =>
        let s0 := s.setStrand n x
        let s1 := if x.released then s0
          else (s0.writeBackRange n (x.rd a).toNat len).onStrand n fun y => { y with released := true }
        waitAcked s1 n fun y => .done (s1.retire n y 1)

/-- INVR (R330). -/
def execInvr (a b : BitVec 6) (s : State) : Out :=
  word s fun s n x =>
    if !memReady x [a, b] then .block s .own
    else
      let x := s.ready n x [a, b]
      let len := (x.rd b).toNat
      if 2 ^ 32 < len then illegal s n x
      else if len = 0 then .done (s.retire n x 1)
      else
      let x := x.looks s n a (x.rd a).toNat
      match checkRange s x n a len with
      | some t => .trap x t
      | none => .done (s.retire n (x.invalRange (x.rd a).toNat len) 1)

/-- The bobbin is idle and none of its words waits in the vector queue (R162). -/
def Strand.bobIdle (x : Strand) : Bool := !x.bobbin.active && !x.vq.any (·.fromBob.isSome)

/-- FENCE (R331): waits for the bobbin, releases, then acquires at its scope. -/
def execFence (sc : BitVec 2) (s : State) : Out :=
  word s fun s n x =>
    if !x.bobIdle || !memReady x [] then .block s .own
    else match releaseAt sc.toNat s n x with
    | .error (s1, k) => .block s1 k
    | .ok s1 => withStrand s1 n fun y => .done (s1.retire n (y.acquireAt sc.toNat) 1)

/-! ### Requests to homes -/

/-- A location in core `n`'s own scratchpad. -/
def Loc.ownedBy (l : Loc) (n : Nat) : Bool :=
  match l with
  | .scratch c _ => c == n
  | _ => false

/-- What a blocking request finds. -/
inductive Ask where
  | got (r : Reply) (s : State)
  | block (s : State) (k : WaitKind)
  | trap (t : Trap)

/-- A blocking request to a home: carried out at once in the own scratchpad, else sent and waited for (R139, R178). `addr`
is the address in the instruction's terms, for faults and poison. -/
def ask (s : State) (n : Nat) (x : Strand) (op : AccOp) (l : Loc) (addr size value cmp : Nat) : Ask :=
  let fin := fun (r : Reply) (s1 : State) =>
    match r.fault, r.poison with
    | some f, _ => Ask.trap ⟨0x09, BitVec.ofNat 64 addr, transDetail f op.writes, false⟩
    | none, some _ => .trap (.precise 0x0B (BitVec.ofNat 64 addr))
    | none, none => .got r s1
  match x.reply with
  | some r => fin r s
  | none =>
    if x.absentAt n l size then .block s .lazy
    else if l.ownedBy n then
      match applyAccess s ⟨n, x.id.part, x.id.vd, op, l, size, value, cmp, 0, true⟩ with
      | .ok r s1 => fin r s1
      | .fault f _ => .trap ⟨0x09, BitVec.ofNat 64 addr, transDetail f op.writes, false⟩
      | .held => .block s .excluded
    else .block (askHome s n x op l size value cmp 0) (.data 1)

/-- Before an atomic on global memory its line is written back and dropped (R188). -/
def dropLine (s : State) (n : Nat) (l : Loc) : State :=
  match l with
  | .glob a =>
    match s.strand n with
    | none => s
    | some x => (s.sendBack n (x.cached (a / 256))).onStrand n fun y => { y with cache := y.cache.filter (·.va != a / 256) }
  | _ => s

/-- The atomics of R332: size .w or .d, scope, order (bit 0 acquire, bit 1 release). -/
def atomicInstr (op : Nat) (d a b : BitVec 6) (z : BitVec 1) (sc c : BitVec 2) (s : State) : Out :=
  word s fun s n x =>
    if !memReady x [d, a, b] then .block s .own
    else
      let x := s.ready n x [a, b, d]
      let size := if z = 1 then 8 else 4
      let addr := x.addrOf a 0
      let x := x.looks s n a addr
      match checkOnce s n x ⟨a, addr, size, permLoad ||| permStore, true, size, false, false⟩ with
      | some t => .trap x t
      | none =>
        let s0 := s.setStrand n x
        let rel : Except (State × WaitKind) State := if x.checked then .ok s0
          else match (if c.getLsbD 0 then acquireWait s n sc.toNat else none) with
          | some k => .error (s0, k)
          | none => if c.getLsbD 1 then releaseAt sc.toNat s0 n x else .ok s0
        match rel with
        | .error (s1, k) => .block s1 k
        | .ok s1 =>
          withStrand s1 n fun y =>
            let l := locOf n addr
            let s2 := if y.reply.isNone then dropLine s1 n l else s1
            match ask s2 n y (.atomic op) l addr size ((y.rd b).toNat % 2 ^ (8 * size)) ((y.rd d).toNat % 2 ^ (8 * size)) with
            | .trap t => .trap x t
            | .block s3 k => .block s3 k
            | .got r s3 =>
              withStrand s3 n fun w =>
                let w := w.setW d (BitVec.ofNat 64 r.value)
                .done (s3.retire n ((if c.getLsbD 0 then w.acquireAt sc.toNat else w).later d 1 1) 1)

/-- AADD (R332). -/
def execAadd (d a b : BitVec 6) (z : BitVec 1) (sc c : BitVec 2) (s : State) : Out := atomicInstr 0 d a b z sc c s
/-- AAND (R332). -/
def execAand (d a b : BitVec 6) (z : BitVec 1) (sc c : BitVec 2) (s : State) : Out := atomicInstr 1 d a b z sc c s
/-- AOR (R332). -/
def execAor (d a b : BitVec 6) (z : BitVec 1) (sc c : BitVec 2) (s : State) : Out := atomicInstr 2 d a b z sc c s
/-- AXOR (R332). -/
def execAxor (d a b : BitVec 6) (z : BitVec 1) (sc c : BitVec 2) (s : State) : Out := atomicInstr 3 d a b z sc c s
/-- AMIN (R332). -/
def execAmin (d a b : BitVec 6) (z : BitVec 1) (sc c : BitVec 2) (s : State) : Out := atomicInstr 4 d a b z sc c s
/-- AMAX (R332). -/
def execAmax (d a b : BitVec 6) (z : BitVec 1) (sc c : BitVec 2) (s : State) : Out := atomicInstr 5 d a b z sc c s
/-- AXCHG (R332). -/
def execAxchg (d a b : BitVec 6) (z : BitVec 1) (sc c : BitVec 2) (s : State) : Out := atomicInstr 6 d a b z sc c s
/-- ACAS (R332). -/
def execAcas (d a b : BitVec 6) (z : BitVec 1) (sc c : BitVec 2) (s : State) : Out := atomicInstr 7 d a b z sc c s

end Sys2Proof.Machine
end

