-- ==== Sys2Proof/Machine/Sync.lean ====
section
/-! DEFINITION. Knots, monitors, CHADD, tickets, work queues and LAUNCH (R333 to R345), traced signals (R98). -/
namespace Sys2Proof.Machine

/-- A launch of a partition by number. -/
def State.launchOf (s : State) (p id : Nat) : Option Launch := s.launches.find? fun l => l.part == p && l.id == id

/-- Replace a launch. -/
def State.setLaunch (s : State) (l : Launch) : State :=
  { s with launches := s.launches.map fun k => if k.part = l.part ∧ k.id = l.id then l else k }

/-- Send a request that nothing waits for (R334, R335, R342): the own scratchpad carries it out at once. -/
def State.post (s : State) (n : Nat) (x : Strand) (op : AccOp) (l : Loc) (size value : Nat) : State :=
  let r : Access := ⟨n, x.id.part, x.id.vd, op, l, size, value, 0, 0, false⟩
  if l.ownedBy n then
    match applyAccess s r with
    | .ok _ s1 => s1
    | _ => s
  else (s.send (.access r)).onStrand n fun y => { y with unacked := y.unacked + 1 }

/-- Send a signal from core `n` (R85). -/
def State.postSignal (s : State) (n : Nat) (g : Signal) : State :=
  if g.knot.ownedBy n then
    match applySignal s g with
    | .ok _ s1 => s1
    | _ => s
  else (s.send (.signal g)).onStrand n fun y => { y with unacked := y.unacked + 1 }

/-- A knot operand (R323): 32 bytes, 32-aligned, in the raw view. -/
def knotRef (s : State) (n : Nat) (x : Strand) (a : BitVec 6) (need : BitVec 12) (write : Bool) : Option Trap :=
  checkOnce s n x ⟨a, x.addrOf a 0, 32, need, write, 32, false, false⟩

/-- KINIT (R334). -/
def execKinit (a b : BitVec 6) (s : State) : Out :=
  word s fun s n x =>
    if !memReady x [a, b] then .block s .own
    else
      let x := (s.ready n x [a, b]).looks s n a (x.addrOf a 0)
      match knotRef s n x a (permKnot ||| permStore) true with
      | some t => .trap x t
      | none =>
        if x.absentAt n (locOf n (x.addrOf a 0)) 32 then .block s .lazy else
        let s1 := (s.setStrand n x).post n x .kinit (locOf n (x.addrOf a 0)) 32 (x.rd b).toNat
        withStrand s1 n fun y => .done (s1.retire n y 1)

/-- Append a trace record (R98, R99): it is posted to the home of its ring. From a ring in the own scratchpad the write of the record is under way at
once (log 55). -/
def State.trace (s : State) (n : Nat) (x : Strand) : State :=
  match s.launchOf x.id.part x.id.launch with
  | none => s
  | some l =>
    let ring := locOf n (bitsN l.record 447 384)
    let r := x.wid.toNat + (x.csrAt 0x11#7).toNat % 2 ^ 32 * 2 ^ 32 + (x.csrAt 0x12#7).toNat % 2 ^ 32 * 2 ^ 64 +
      x.chain * 2 ^ 128 + b2n x.ovf * 2 ^ 176
    let z := s.post n x (.trace (bitsN l.record 383 352)) ring 32 r
    if ring.ownedBy n then z.onStrand n fun y => { y with unacked := y.unacked + 1 } else z

/-- SIG (R335): release, signal with the chain after its own issue cycle, trace record, which is counted at its ring before the signal takes
effect (R428, R429; log 55). -/
def execSig (a b : BitVec 6) (t : BitVec 1) (sc : BitVec 2) (s : State) : Out :=
  word s fun s n x =>
    if !memReady x [a, b] then .block s .own
    else
      let x := (s.ready n x [a, b]).looks s n a (x.addrOf a 0)
      match knotRef s n x a permKnot true with
      | some t => .trap x t
      | none =>
        if x.absentAt n (locOf n (x.addrOf a 0)) 32 then .block s .lazy else
        match releaseAt sc.toNat (s.setStrand n x) n x with
        | .error (s1, k) => .block s1 k
        | .ok s1 =>
          withStrand s1 n fun y =>
            let s2 := s1.retire n y 1
            withStrand s2 n fun z =>
              let s3 := if t = 1 && z.traced then s2.trace n z else s2
              .done (s3.postSignal n (sigOf s2 n z (locOf n (x.addrOf a 0)) (x.rd b)))

/-- WAIT (R336). A device step that ends the wait leaves the mark [1], and the WAIT retires at the strand's next turn; the request goes to the knot's home and the strand waits for a snapshot, its deadline or a stop. -/
def execWait (d a b : BitVec 6) (sc : BitVec 2) (s : State) : Out :=
  word s fun s n x =>
    if x.stash = [1] then .done (s.retire n x 1)
    else if !memReady x [d, a, b] then .block s .own
    else
      match replyFault x false with
      | some t => .trap x t
      | none =>
        let x := (s.ready n x [a, b, d]).looks s n a (x.addrOf a 0)
        match checkRef s n x ⟨a, x.addrOf a 0, 32, permKnot, false, 32, false, false⟩ with
        | some t => .trap x t
        | none =>
          if x.absentAt n (locOf n (x.addrOf a 0)) 32 then .block s .lazy else
          let dl := if x.rd d = 0 then none else some (x.now + (x.rd d).toNat)
          let q : WaitReq := ⟨n, x.id.part, x.id.vd, locOf n (x.addrOf a 0), 0, x.rd b, dl⟩
          let s1 := s.setStrand n x
          match acquireWait s n sc.toNat with
          | some k => .block s1 k
          | none =>
          let s2 := if q.knot.ownedBy n then
              match applyWait s1 q with
              | .ok _ z => z
              | _ => s1
            else s1.send (.wait q)
          .block s2 (.knot d dl sc (x.now + if x.begun then 0 else s.divOf n))

/-- KPEEK (R337). -/
def execKpeek (d a : BitVec 6) (s : State) : Out :=
  word s fun s n x =>
    if !memReady x [d, a] then .block s .own
    else
      let x := (s.ready n x [a]).looks s n a (x.addrOf a 0)
      match knotRef s n x a permKnot false with
      | some t => .trap x t
      | none =>
        match ask (s.setStrand n x) n x .kpeek (locOf n (x.addrOf a 0)) (x.addrOf a 0) 16 0 0 with
        | .trap t => .trap x t
        | .block s1 k => .block s1 k
        | .got r s1 =>
          withStrand s1 n fun y => .done (s1.retire n ((y.setG d ⟨BitVec.ofNat 128 r.value, false⟩).later d 1 1) 1)

/-- KJOIN (R337): a snapshot at arrival, whatever the count. -/
def execKjoin (a : BitVec 6) (s : State) : Out :=
  word s fun s n x =>
    if x.stash = [1] then .done (s.retire n x 1)
    else if !memReady x [a] then .block s .own
    else
      match replyFault x false with
      | some t => .trap x t
      | none =>
        let x := (s.ready n x [a]).looks s n a (x.addrOf a 0)
        match checkRef s n x ⟨a, x.addrOf a 0, 32, permKnot, false, 32, false, false⟩ with
        | some t => .trap x t
        | none =>
          if x.absentAt n (locOf n (x.addrOf a 0)) 32 then .block s .lazy else
          let q : WaitReq := ⟨n, x.id.part, x.id.vd, locOf n (x.addrOf a 0), 1, 0, none⟩
          let s1 := s.setStrand n x
          let s2 := if q.knot.ownedBy n then
              match applyWait s1 q with
              | .ok _ z => z
              | _ => s1
            else s1.send (.wait q)
          .block s2 .kjoin

/-- A monitor request at its line's home (R338): it arms, or answers 4 where the doubleword differs. -/
def applyMonitor (s : State) (q : WaitReq) : HomeR Unit :=
  match homeRead s ⟨q.part, q.vd, 0⟩ q.knot 8 with
  | .fault f a => .fault f a
  | .held => .held
  | .ok g s1 =>
    if BitVec.ofNat 64 (numOf g.bytes) ≠ q.target then .ok () (s1.send (.reply q.core (.ofValue 4)))
    else .ok () { s1 with monitors := s1.monitors ++ [(q, false)] }

/-- WAITM (R338): result 4 comes as a reply, the others by WAITM_WAKE or a stop. -/
def execWaitm (d a b : BitVec 6) (s : State) : Out :=
  word s fun s n x =>
    if x.stash = [1] then .done (s.retire n x 1)
    else if !memReady x [d, a, b] then .block s .own
    else
      match replyFault x false with
      | some t => .trap x t
      | none =>
        match x.reply with
        | some r => .done (s.retire n ((x.setW d (BitVec.ofNat 64 r.value)).later d 1 1) 1)
        | none =>
          let x := (s.ready n x [a, b, d]).looks s n a (x.addrOf a 0)
          match checkRef s n x ⟨a, x.addrOf a 0, 8, permLoad, false, 8, false, false⟩ with
          | some t => .trap x t
          | none =>
            if x.absentAt n (locOf n (x.addrOf a 0)) 8 then .block s .lazy else
            let dl := if x.rd b = 0 then none else some (x.now + (x.rd b).toNat)
            let q : WaitReq := ⟨n, x.id.part, x.id.vd, locOf n (x.addrOf a 0), 2, x.rd d, dl⟩
            let s1 := s.setStrand n x
            let s2 := if q.knot.ownedBy n then
                match applyMonitor s1 q with
                | .ok _ z => z
                | _ => s1
              else s1.send (.wait q)
            .block s2 (.monitor d dl)

/-- CHADD (R80, R339): in both modes. -/
def execChadd (a : BitVec 6) (s : State) : Out :=
  word s (compute [a] 0 1 1 fun x => x.addChain (x.rd a).toNat)

/-- TICKET (R344); the home broadcasts TKT (R73). -/
def execTicket (d a : BitVec 6) (s : State) : Out :=
  word s fun s n x =>
    if !memReady x [d, a] then .block s .own
    else
      let x := s.ready n x [a]
      let addr := x.addrOf a 0
      let x := x.looks s n a addr
      match checkOnce s n x ⟨a, addr, 8, permLoad ||| permStore, true, 8, false, false⟩ with
      | some t => .trap x t
      | none =>
        let s1 := s.setStrand n x
        let s2 := if x.reply.isNone then dropLine s1 n (locOf n addr) else s1
        match ask s2 n x .ticket (locOf n addr) addr 8 0 0 with
        | .trap t => .trap x t
        | .block s3 k => .block s3 k
        | .got r s3 => withStrand s3 n fun y => .done (s3.retire n ((y.setW d (BitVec.ofNat 64 r.value)).later d 1 1) 1)

/-! ### Work queues (R341 to R343) -/

/-- A {address, length} pair of a region list in a descriptor (R341). -/
def regionPair (bs : List Byte) (i : Nat) : Nat × Nat :=
  (numOf ((bs.drop (8 + 16 * i)).take 8), numOf ((bs.drop (16 + 16 * i)).take 8))

/-- top − s1.address, which the core sends along (R341). -/
def Strand.spanOf (x : Strand) (a : BitVec 6) : Nat := ((capOf (x.getG a).bits).top - (x.rd a).toNat).toNat

/-- The checks of a queue header and its descriptor (R323). -/
def queueRefs (s : State) (n : Nat) (x : Strand) (a b : BitVec 6) : Option Trap :=
  match checkOnce s n x ⟨a, x.addrOf a 0, 64, permKnot, true, 64, false, false⟩ with
  | some t => some t
  | none => checkOnce s n x ⟨b, x.addrOf b 0, 72, permLoad, false, 8, false, false⟩

/-- The regions that those checks look up: the descriptor's once the header's has passed (R208). -/
def Strand.looksQueue (x : Strand) (s : State) (n : Nat) (a b : BitVec 6) : Strand :=
  if x.stash.isEmpty then
    let y := x.looks s n a (x.addrOf a 0)
    match checkOnce s n y ⟨a, y.addrOf a 0, 64, permKnot, true, 64, false, false⟩ with
    | some _ => y
    | none => y.looks s n b (y.addrOf b 0)
  else x

/-- Read the 72 bytes of a descriptor once, and keep them for the rest of the instruction. -/
def readDescriptor (s : State) (n : Nat) (x : Strand) (b : BitVec 6) (f : State → Strand → Eff) : Eff :=
  if x.stash.isEmpty then
    match loadAt s n x (x.addrOf b 0) 72 0 .load with
    | .trap t => .trap x t
    | .block s1 k => .block s1 k
    | .got g =>
      let y := { x with stash := g.bytes, reply := none }
      f (s.setStrand n y) y
  else f s x

/-- QPUSH (R342): the region list is written back before the entry becomes visible. R72 does not say whether the chain at the push counts the
QPUSH's own issue cycle: here it does, with what the QPUSH has waited, as a SIG's does (R335; log 51). -/
def execQpush (a b : BitVec 6) (s : State) : Out :=
  word s fun s n x =>
    if !memReady x [a, b] then .block s .own
    else
      let x := (s.ready n x [a, b]).looksQueue s n a b
      match (if x.stash.isEmpty then queueRefs s n x a b else none) with
      | some t => .trap x t
      | none =>
        readDescriptor (s.setStrand n x) n x b fun s1 y =>
          let s2 := if y.released then s1
            else ((List.range 4).foldl (fun (z : State) i =>
              let p := regionPair y.stash i
              if p.2 = 0 then z else z.writeBackRange n p.1 p.2) s1).onStrand n fun w => { w with released := true }
          waitAcked s2 n fun w =>
            let z := w.issued (s2.divOf n)
            let s3 := (s2.setStrand n z).post n z (.qpush z.chain z.ovf (z.spanOf a)) (locOf n (z.addrOf a 0)) 64 (numOf (z.stash.take 8))
            withStrand s3 n fun v => .done (s3.retire n v 1)

/-- QPOP (R343): the home removes an entry, then the region list is invalidated and d written. It acquires, and so does not issue before the
strand's earlier releases have been performed (R220, R225). -/
def execQpop (d a b : BitVec 6) (s : State) : Out :=
  word s fun s n x =>
    if !memReady x [d, a, b] then .block s .own
    else
      let x := (s.ready n x [a, b]).looksQueue s n a b
      match (if x.stash.isEmpty then queueRefs s n x a b else none) with
      | some t => .trap x t
      | none =>
        readDescriptor (s.setStrand n x) n x b fun s1 y =>
          match (if y.reply.isNone then acquireWait s1 n 1 else none) with
          | some k => .block s1 k
          | none =>
          match ask s1 n y (.qpop (y.spanOf a)) (locOf n (y.addrOf a 0)) (y.addrOf a 0) 64 0 0 with
          | .trap t => .trap x t
          | .block s2 k => .block s2 k
          | .got r s2 =>
            withStrand s2 n fun w =>
              let v := (List.range 4).foldl (fun (z : Strand) i =>
                let p := regionPair w.stash i
                if p.2 = 0 then z else z.invalRange p.1 p.2) w
              .done (s2.retire n ((v.setG d ⟨BitVec.ofNat 128 r.value, false⟩).later d 1 1) 1)

/-- cap of R345: the largest power of two no greater than (top − address − 64) / 32. -/
def recordCap (span : Nat) : Nat := if span < 96 then 0 else 2 ^ Nat.log2 ((span - 64) / 32)

/-- LAUNCH (R345): the entry's chain is CHN.chain at issue; it waits, as own work, while the record queue is full. -/
def execLaunch (a b : BitVec 6) (s : State) : Out :=
  word s fun s n x =>
    if !memReady x [a, b, b + 1] then .block s .own
    else
      let x := s.ready n x [a, b, b + 1]
      if b = 0 || b.getLsbD 0 then illegal s n x
      else
        let x := x.looks s n a (x.addrOf a 0)
        match (if x.stash.isEmpty then checkOnce s n x ⟨a, x.addrOf a 0, 64, permKnot ||| permStore, true, 64, false, false⟩
               else none) with
        | some t => .trap x t
        | none =>
          let cap := recordCap (x.spanOf a)
          if cap < 16 then .trap x (.precise 0x03 (x.rd a))
          else
            let pair := (x.getG b).bits.toNat + (x.getG (b + 1)).bits.toNat * 2 ^ 128
            let entry := pair - pair / 2 ^ 80 % 2 ^ 48 * 2 ^ 80 + x.chain * 2 ^ 80
            let y := if x.stash.isEmpty then { x with stash := bytesOf entry 32 } else x
            let s1 := s.setStrand n y
            match ask s1 n y (.launch cap) (locOf n (y.addrOf a 0)) (y.addrOf a 0) 64 (numOf y.stash) 0 with
            | .trap t => .trap x t
            | .block s2 k => .block s2 k
            | .got r s2 =>
              withStrand s2 n fun w =>
                if r.flag then .done (s2.retire n w 1)
                else .block (s2.setStrand n { w with reply := none }) .own

end Sys2Proof.Machine
end

