-- ==== Sys2Proof/Machine/Landing.lean ====
section
/-! DEFINITION. What engines and spool instructions share: reads and writes at homes with poison (R144), spools at their
homes (R157, R158, R239, R240), reservations, counting and freeing of slots (R92, R239, R390), knot completions (R85,
R245). -/
namespace Sys2Proof.Machine

/-- An engine command or a saved context has gone: as far as it goes, its cores are idle from now (R109). -/
def State.idleFrom (s : State) (ns : List Nat) : State := ns.foldl (fun (z : State) n => z.setCore n { z.coreCfg n with idle := z.tick }) s

/-! ### Poison that travels with data (R144) -/

/-- A byte range cut where 64-byte sectors end: offset in the range, length. -/
def sectorCuts (a : Nat) : Nat → Nat → Nat → List (Nat × Nat)
  | 0, _, _ => []
  | k + 1, o, n =>
    if n = 0 then []
    else
      let m := min n (64 - (a + o) % 64)
      (o, m) :: sectorCuts a k (o + m) (n - m)

/-- The byte number of a location within its home. -/
def Loc.offset (l : Loc) : Nat :=
  match l with
  | .scratch _ o => o
  | .chip x => x
  | .glob a => a
  | .phys a => a

/-- Read `n` bytes at their homes, sector by sector, with the ranges of them that are poisoned. -/
def readCuts (w : Who) (l : Loc) : List (Nat × Nat) → State → HomeR (List Byte × List (Nat × Nat))
  | [], s => .ok ([], []) s
  | (o, m) :: t, s =>
    match homeRead s w (l.plus o) m with
    | .fault f a => .fault f a
    | .held => .held
    | .ok g s1 =>
      match readCuts w l t s1 with
      | .ok r s2 => .ok (g.bytes ++ r.1, if g.poison.isSome then (o, m) :: r.2 else r.2) s2
      | r => r

/-- Read bytes with their poison (R144). -/
def homeReadBad (s : State) (w : Who) (l : Loc) (n : Nat) : HomeR (List Byte × List (Nat × Nat)) :=
  readCuts w l (sectorCuts l.offset (n / 64 + 2) 0 n) s

/-- Mark the sector of a location poisoned at its home. -/
def markPoison (s : State) (w : Who) (l : Loc) : State :=
  let glob := fun (s : State) (a : Nat) =>
    match s.llcLine (a / 256) with
    | some k => s.llcPut { k with line := { k.line with poison := k.line.poison ||| (1#4 <<< (a % 256 / 64)) } }
    | none =>
      match walk s a true with
      | .fault _ => s
      | .leaf t plog =>
        let pa := s.frameOf a t plog + a % 256
        if tState t = 2 then { s with host := s.host.setPoison pa } else { s with hbm := s.hbm.setPoison pa }
  match l with
  | .glob a => glob s a
  | .chip x => { s with chip := s.chip.setPoison x }
  | .phys pa => { s with hbm := s.hbm.setPoison pa }
  | .scratch c off =>
    match s.ownerAt w.part w.vd c with
    | some (_, true) =>
      match s.savedAt w.part w.vd c with
      | some y => glob s (y.image + 0x4000 + off)
      | none => s
    | _ => { s with scratch := s.scratch.setPoison (scratchAt c off) }

/-- Write bytes at their homes, and poison the sectors that poisoned bytes land in (R144). -/
def homeWriteBad (s : State) (w : Who) (l : Loc) (bs : List Byte) (bad : List (Nat × Nat)) : HomeR Unit :=
  match homeWrite s w l bs false with
  | .ok _ s1 =>
    .ok () (bad.foldl (fun (z : State) r =>
      (sectorCuts l.offset (r.2 / 64 + 2) r.1 r.2).foldl (fun (z : State) c => markPoison z w (l.plus c.1)) z) s1)
  | r => r

/-- The poisoned ranges of a part of the data, from `lo` on, `n` bytes long. -/
def cutBad (bad : List (Nat × Nat)) (lo n : Nat) : List (Nat × Nat) :=
  bad.filterMap fun r =>
    let a := max r.1 lo
    let b := min (r.1 + r.2) (lo + n)
    if a < b then some (a - lo, b - a) else none

/-! ### Spools at their homes -/

/-- The 64 bytes of a descriptor (R158). -/
def Spool.bits (x : Spool) : W512 :=
  BitVec.ofNat 512 (b2n x.defined + x.slotsM1 * 2 ^ 8 + x.slotSize * 2 ^ 16 + x.base * 2 ^ 32 + x.recs * 2 ^ 96 +
    x.narrow.toNat * 2 ^ 128 + x.resv * 2 ^ 405 + x.free * 2 ^ 414 + x.fill * 2 ^ 423 + x.prod * 2 ^ 432 +
    x.cons * 2 ^ 440 + x.chain * 2 ^ 464)

/-- Slot count. -/
def Spool.count (x : Spool) : Nat := x.slotsM1 + 1
/-- Slot size in bytes. -/
def Spool.bytes (x : Spool) : Nat := 64 * x.slotSize
/-- The reserve index (R158). -/
def Spool.reserve (x : Spool) : Nat := (x.prod + x.resv) % x.count
/-- Slot `j` is counted filled (R239). -/
def Spool.filled (x : Spool) (j : Nat) : Bool := decide ((j + x.count - x.cons) % x.count < x.fill)

/-- Whom a spool's home acts for. -/
def SpoolId.who (k : SpoolId) : Who := ⟨k.part, k.vd, 0⟩

/-- A defined spool at its home, of a resident or saved strand (R121). -/
def State.spool (s : State) (k : SpoolId) : Option Spool :=
  match s.ownerAt k.part k.vd k.core with
  | some (x, _) => if h : k.handle < 16 then (if x.spools[k.handle].defined then some x.spools[k.handle] else none) else none
  | none => none

/-- Change the saved context that `savedAt` gives. -/
def State.onSaved (s : State) (p v c : Nat) (f : Saved → Saved) : State :=
  match s.savedAt p v c with
  | none => s
  | some y => s.onPart p fun x =>
      { x with saved := x.saved.map fun z => if z.core = y.core ∧ z.vd = y.vd ∧ z.order = y.order then f z else z }

/-- Replace a spool's descriptor, in the image too where the strand is saved (R121). -/
def State.setSpool (s : State) (k : SpoolId) (sp : Spool) : State :=
  if h : k.handle < 16 then
    match s.ownerAt k.part k.vd k.core with
    | some (_, false) => s.onStrand k.core fun x => { x with spools := x.spools.set k.handle sp h }
    | some (_, true) =>
      let s1 := s.onSaved k.part k.vd k.core fun y =>
        { y with strand := { y.strand with spools := y.strand.spools.set k.handle sp h } }
      match s.savedAt k.part k.vd k.core with
      | some y => (s1.imageWrite k.part y.vd y.image (0xB00 + 64 * k.handle) (bytesOf sp.bits.toNat 64)).reseal k.part y.vd y.image
      | none => s1
    | none => s
  else s

/-- A slot record (R240). -/
structure SlotRec where
  fill : Nat
  ovf : Bool
  ftop : Bool
  psn : Bool
  error : Bool
  fillOrigin : W32
  free : Nat
  freeOrigin : W32
deriving DecidableEq, Repr

/-- Read a record (R240). -/
def slotRecOf (bs : List Byte) : SlotRec :=
  let v := numOf bs
  let f := fun lo w : Nat => v / 2 ^ lo % 2 ^ w
  ⟨f 0 48, f 48 1 == 1, f 49 1 == 1, f 50 1 == 1, f 51 1 == 1, BitVec.ofNat 32 (f 64 32), f 96 48, BitVec.ofNat 32 (f 160 32)⟩

/-- The 32 bytes of a record (R240). -/
def SlotRec.bytes (r : SlotRec) : List Byte :=
  bytesOf (r.fill + b2n r.ovf * 2 ^ 48 + b2n r.ftop * 2 ^ 49 + b2n r.psn * 2 ^ 50 + b2n r.error * 2 ^ 51 +
    r.fillOrigin.toNat * 2 ^ 64 + r.free * 2 ^ 96 + r.freeOrigin.toNat * 2 ^ 160) 32

/-- The record of slot `j`. -/
def State.slotRec (s : State) (k : SpoolId) (sp : Spool) (j : Nat) : SlotRec :=
  match homeRead s k.who (.scratch k.core (sp.recs + 32 * j)) 32 with
  | .ok g _ => slotRecOf g.bytes
  | _ => slotRecOf []

/-- Replace the record of slot `j`. -/
def State.setSlotRec (s : State) (k : SpoolId) (sp : Spool) (j : Nat) (r : SlotRec) : State :=
  match homeWrite s k.who (.scratch k.core (sp.recs + 32 * j)) r.bytes false with
  | .ok _ s1 => s1
  | _ => s

/-- The largest fill chain over the filled slots (R92). -/
def State.spoolChain (s : State) (k : SpoolId) (sp : Spool) : Nat :=
  ((List.range sp.fill).map fun i => (s.slotRec k sp ((sp.cons + i) % sp.count)).fill).foldl max 0

/-- Free `n` slots from the consumer index, with free records (R92, R347). -/
def freeSlots (k : SpoolId) (chain : Nat) (origin : W32) : Nat → State → State
  | 0, s => s
  | n + 1, s =>
    match s.spool k with
    | none => s
    | some sp =>
      if sp.fill = 0 then s
      else
        let r := s.slotRec k sp sp.cons
        let s1 := s.setSlotRec k sp sp.cons { r with free := chain, freeOrigin := origin }
        let sp1 := { sp with cons := (sp.cons + 1) % sp.count, fill := sp.fill - 1, free := sp.free + 1 }
        freeSlots k chain origin n (s1.setSpool k { sp1 with chain := s1.spoolChain k sp1 })

/-- The spool of a matrix command's source. -/
def Cmd.srcSpool (c : Cmd) : SpoolId := ⟨c.part, c.vd, c.core, (decMat c.word).handle.toNat⟩

/-- The commands running at a cell's ports. -/
def Cell.runs (u : Cell) : List Running := u.load.running.toList ++ u.array.running.toList

/-- Every command that a cell's unit runs or is to run as a forwarded tile. -/
def Cell.commands (u : Cell) : List Cmd := (u.runs ++ u.forwards.map (·.1)).map (·.cmd)

/-- The running commands that consume slots of a spool (R384). -/
def State.consumers (s : State) (k : SpoolId) : List Running :=
  (s.cell (cellOf k.core)).runs.filter fun r => decide (0 < r.taken) && r.cmd.srcSpool == k

/-- A consumer that came before the place `o` still holds slots of a spool; slots are freed in ring order (R92, R384). -/
def State.takenBefore (s : State) (k : SpoolId) (o : Nat) : Bool := (s.consumers k).any fun r => decide (r.order < o)

/-- Slots of a spool that consumers and discards have taken and not freed yet. -/
def State.taken (s : State) (k : SpoolId) : Nat :=
  ((s.consumers k).map (·.taken) ++ (s.discards.filter (·.spool == k)).map (·.slots)).foldl (· + ·) 0

/-- A slot starts below its strand's selvage (R165). -/
def State.slotBelow (s : State) (k : SpoolId) (sp : Spool) (j : Nat) : Bool :=
  match s.ownerAt k.part k.vd k.core with
  | some (x, _) => decide (sp.base + j * sp.bytes < x.selv)
  | none => false

/-- Free the filled slots that pending discards have taken, at most `n`, once the consumers before them are done (R390). -/
def drainDiscards (k : SpoolId) : Nat → State → State
  | 0, s => s
  | n + 1, s =>
    match s.discards.find? (fun d => d.spool == k), s.spool k with
    | some d, some sp =>
      if sp.fill = 0 || s.takenBefore k d.order then s
      else
        let s1 := freeSlots k d.chain d.origin 1 s
        let rest := if d.slots ≤ 1 then s1.discards.erase d
                    else s1.discards.map fun e => if e = d then { d with slots := d.slots - 1 } else e
        drainDiscards k n { s1 with discards := rest }
    | _, _ => s

/-- The first landing that a spool still owes slots to: granted, not all counted (R239). -/
def State.headLanding (s : State) (k : SpoolId) : Option Landing :=
  s.landings.find? fun l => l.spool == k && l.granted && decide (l.counted < l.slots)

/-- Replace a landing, or drop it once an SPADVP's slots are all counted. -/
def State.setLanding (s : State) (i : Nat) (l : Landing) : State :=
  if l.cmd.isNone && decide (l.slots ≤ l.counted) then { s with landings := s.landings.eraseIdx i }
  else { s with landings := s.landings.set i l }

/-- The fill record that a landing gives (R92, R240, R241). -/
def Landing.record (l : Landing) (old : SlotRec) (psn : Bool) : SlotRec :=
  { old with fill := l.chain, ovf := l.ovf, ftop := l.narrow && l.ftop, psn := psn, error := l.error, fillOrigin := l.origin }

/-- Mark copies as failed with class 5 (R143). -/
def State.failCopies (s : State) (p : CopyCmd → Bool) : State := { s with copies := s.copies.map fun c => if p c then { c with fail := some 5 } else c }

/-- Count the next slot of landing `i` filled (R239): its bytes land, its record is set, prod and fill grow, the narrow bit
follows the landing (R241), and pending discards take the slot if they are due it. A slot below the selvage takes no bytes and fails its
command with class 5 (R165). -/
def State.countSlot (s : State) (i : Nat) (l : Landing) : State :=
  match s.spool l.spool with
  | none => s
  | some sp =>
    let k := l.spool
    let n := sp.bytes
    let bs := l.data.take n
    let low := l.cmd.isSome && s.slotBelow k sp sp.prod
    let l := { l with error := l.error || low }
    let s := if low then s.failCopies (fun c => l.cmd == some c.cmd.id) else s
    let s1 := if l.data.isEmpty || l.error then s
      else match homeWriteBad s k.who (.scratch k.core (sp.base + sp.prod * n)) bs (cutBad l.bad 0 n) with
        | .ok _ z => z
        | _ => s
    let s2 := s1.setSlotRec k sp sp.prod (l.record (s1.slotRec k sp sp.prod) !(cutBad l.bad 0 n).isEmpty)
    let bit : BitVec 256 := 1#256 <<< sp.prod
    let sp1 := { sp with
      prod := (sp.prod + 1) % sp.count, fill := sp.fill + 1, resv := sp.resv - 1
      narrow := if l.narrow then sp.narrow ||| bit else sp.narrow &&& ~~~bit }
    let s3 := s2.setSpool k { sp1 with chain := s2.spoolChain k sp1 }
    let s4 := s3.setLanding i { l with counted := l.counted + 1, data := l.data.drop n, bad := cutBad l.bad n (l.data.length) }
    drainDiscards k (sp.fill + 1) s4

/-- Count an SPADVP's slots at once while they head their spool (R347). -/
def countOwn (k : SpoolId) : Nat → State → State
  | 0, s => s
  | n + 1, s =>
    match s.landings.findIdx? (fun l => l.spool == k && l.granted && decide (l.counted < l.slots)) with
    | none => s
    | some i =>
      match s.landings[i]? with
      | none => s
      | some l => if l.cmd.isNone && l.ready then countOwn k n (s.countSlot i l) else s

/-- The landings of a command. -/
def isOf (id : Nat) (l : Landing) : Bool := l.cmd == some id

/-- The landings of a command that fails (R239, R245): those not granted go, the slots reserved are counted with the error mark and the
chain that `f` gives for their core. -/
def State.failReserved (s : State) (id : Nat) (ks : List SpoolId) (f : Nat → Nat × Bool) : State :=
  let mark := fun l : Landing =>
    if isOf id l then
      let c := f l.spool.core
      { l with error := true, ready := true, data := [], bad := [], cmd := none, chain := c.1, ovf := c.2 }
    else l
  let s1 : State := { s with landings := (s.landings.filter fun l => !(isOf id l && (!l.granted || decide (l.slots ≤ l.counted)))).map mark }
  ks.foldl (fun (z : State) k => countOwn k 256 z) s1

/-- The landing heads the spool's reservations and its slots are free (R239). -/
def State.grantable (s : State) (l : Landing) : Bool :=
  match s.landings.find? (fun m => m.spool == l.spool && !m.granted), s.spool l.spool with
  | some m, some sp => m == l && decide (l.slots ≤ sp.free)
  | _, _ => false

/-- The free records of the next `n` slots from the reserve index. -/
def State.freeRecs (s : State) (k : SpoolId) (sp : Spool) (n : Nat) : List SlotRec :=
  (List.range n).map fun i => s.slotRec k sp ((sp.reserve + i) % sp.count)

/-- Grant landing `i`: free falls, resv rises (R239). -/
def State.grant (s : State) (i : Nat) (l : Landing) : State :=
  match s.spool l.spool with
  | none => s
  | some sp =>
    { s.setSpool l.spool { sp with free := sp.free - l.slots, resv := sp.resv + l.slots } with
      landings := s.landings.set i { l with granted := true } }

end Sys2Proof.Machine
end

