-- ==== Sys2Proof/Machine/Spool.lean ====
section
/-! DEFINITION. Spool and stream instructions (R346 to R349). -/
namespace Sys2Proof.Machine

/-- The spool of the strand itself. -/
def Strand.spoolId (x : Strand) (n : Nat) (h : BitVec 6) : SpoolId := ⟨x.id.part, x.id.vd, n, h.toNat⟩

/-- A matrix command of core `n` names handle `h` of that core (R346): as a spool source, or as the destination of an
MM.ACCST there. -/
def Cmd.namesSpool (c : Cmd) (n h : Nat) : Bool :=
  let m := decMat c.word
  match c.op with
  | .ldw => m.src == 1 && m.handle.toNat == h
  | .mma => m.src == 1 && m.handle.toNat == h
  | .mmac => m.src == 1 && m.handle.toNat == h
  | .accst => m.src == 1 && m.handle.toNat == h && bitsN m.bound 15 5 == n
  | .accstSat => m.src == 1 && m.handle.toNat == h && bitsN m.bound 15 5 == n
  | _ => false

/-- The commands of core `n` that matrix units run (R69), chained tiles among them. -/
def State.runningOf (s : State) (n : Nat) : List Cmd := (s.cells.flatMap fun e => e.2.commands).filter (·.core == n)

/-- Every matrix command of core `n` that is queued or running. -/
def State.matrixOf (s : State) (n : Nat) (x : Strand) : List Cmd := x.mq ++ s.runningOf n

/-- SPDEF's operand (R346). -/
structure SpDef where
  recs : Nat
  slotsM1 : Nat
  slotSize : Nat
  base : Nat
  zeroes : Bool
deriving DecidableEq, Repr

/-- Read SPDEF's operand. -/
def spDefOf (w : W128) : SpDef :=
  ⟨bitsN w 95 64, bitsN w 55 48, bitsN w 47 32, bitsN w 31 0, bitsN w 127 96 == 0 && bitsN w 63 56 == 0⟩

/-- The limits of R346. -/
def SpDef.ok (p : SpDef) (x : Strand) : Bool :=
  let slots := 64 * p.slotSize * (p.slotsM1 + 1)
  let recs := 32 * (p.slotsM1 + 1)
  p.zeroes && decide (1 ≤ p.slotsM1) && decide (1 ≤ p.slotSize) && decide (p.slotSize ≤ 256) &&
  decide (p.base % 64 = 0) && decide (p.recs % 32 = 0) && decide (x.selv ≤ p.base) && decide (x.selv ≤ p.recs) &&
  decide (p.base + slots ≤ x.spanEnd) && decide (p.recs + recs ≤ x.spanEnd) &&
  (decide (p.base + slots ≤ p.recs) || decide (p.recs + recs ≤ p.base))

/-- Fail the landings of a spool (R239, R346): each command that holds or waits for a reservation there is marked; one whose
slots are all counted holds none any more and goes on. The other landings leave. -/
def State.failLandings (s : State) (k : SpoolId) : State :=
  { s.failCopies (fun c => s.landings.any fun l => l.spool == k && l.cmd == some c.cmd.id && decide (l.counted < l.slots)) with
    landings := s.landings.filter fun l => l.spool != k || (l.cmd.isSome && decide (l.slots ≤ l.counted))
    discards := s.discards.filter (·.spool != k) }

/-- SPDEF (R346). -/
def execSpdef (h : BitVec 6) (a : BitVec 6) (s : State) : Out :=
  word s fun s n x =>
    if x.pending [a] then .block s .own
    else
      let x := s.ready n x [a]
      let p := spDefOf (x.getG a).bits
      if !p.ok x then illegal s n x
      else if !memReady x [] || (s.matrixOf n x).any (·.namesSpool n h.toNat) then .block (s.setStrand n x) .own
      else match s.lockClash n x p.recs (32 * (p.slotsM1 + 1)) true with
      | some t => .trap x t
      | none =>
        let k := x.spoolId n h
        let y := { x with streams := x.streams.map fun t => if t.bound && t.handle == h.toNat then Stream.unbound else t }
        let s1 := (s.setStrand n y).failLandings k
        let s2 := match homeWrite s1 k.who (.scratch n p.recs) (List.replicate (32 * (p.slotsM1 + 1)) 0) false with
          | .ok _ z => z
          | _ => s1
        let s3 := s2.setSpool k ⟨0, 0, 0, 0, p.slotsM1 + 1, 0, 0, p.recs, p.base, p.slotSize, p.slotsM1, true⟩
        withStrand s3 n fun z => .done (s3.retire n z 1)

/-- The spool operand of an advance or a wait (R347): the spool and the count, if both are legal. -/
def spoolArgs (s : State) (n : Nat) (x : Strand) (h a : BitVec 6) : Option (Spool × Nat) :=
  match s.spool (x.spoolId n h) with
  | some sp => if 1 ≤ (x.rd a).toNat ∧ (x.rd a).toNat ≤ sp.count then some (sp, (x.rd a).toNat) else none
  | none => none

/-- The 0x08 of a spool instruction that reads or writes the records of `c` slots from slot `j` on (R229). -/
def recordClash (s : State) (n : Nat) (x : Strand) (sp : Spool) (j c : Nat) (write : Bool) : Option Trap :=
  (List.range c).findSome? fun i => s.lockClash n x (sp.recs + 32 * ((j + i) % sp.count)) 32 write

/-- SPADVP (R347): release, then a reservation in arrival order; the chain is taken at the grant. -/
def execSpadvp (h : BitVec 6) (a : BitVec 6) (s : State) : Out :=
  word s fun s n x =>
    if !memReady x [a] then .block s .own
    else
      let x := s.ready n x [a]
      let k := x.spoolId n h
      match spoolArgs s n x h a with
      | none => illegal s n x
      | some (sp, c) =>
        match (if x.released then none else recordClash s n x sp sp.reserve c true) with
        | some t => .trap x t
        | none =>
        match releaseAt 1 (s.setStrand n x) n x with
        | .error (s1, w) => .block s1 w
        | .ok s1 =>
          let own := fun l : Landing => l.spool == k && l.cmd.isNone && !l.granted
          let s2 := if s1.landings.any own then s1
            else { s1 with landings := s1.landings ++ [⟨k, c, false, 0, [], [], false, false, false, 0, false, 0, true, none⟩] }
          match s2.landings.findIdx? own with
          | none => .block s2 .own
          | some i =>
            match s2.landings[i]? with
            | none => .block s2 .own
            | some l =>
              if s2.grantable l then
                withStrand s2 n fun y =>
                  let y := y.issued (s2.divOf n)
                  let s3 := (s2.setStrand n y).grant i { l with chain := y.chain, ovf := y.ovf, origin := y.wid }
                  let s4 := countOwn k (c + 1) s3
                  withStrand s4 n fun z => .done (s4.retire n z 1)
              else .block s2 .own

/-- A stream register is bound to a handle. -/
def Strand.boundTo (x : Strand) (h : Nat) : Bool := x.streams.any fun t => t.bound && t.handle == h

/-- SPADVC (R347): release, then the slots are freed with the consumer's chain. -/
def execSpadvc (h : BitVec 6) (a : BitVec 6) (s : State) : Out :=
  word s fun s n x =>
    if !memReady x [a] then .block s .own
    else
      let x := s.ready n x [a]
      match spoolArgs s n x h a with
      | none => illegal s n x
      | some (sp, c) =>
        if (!x.released && decide (sp.fill < c)) || x.boundTo h.toNat then illegal s n x
        else match (if x.released then none else recordClash s n x sp sp.cons c true) with
        | some t => .trap x t
        | none =>
          match releaseAt 1 (s.setStrand n x) n x with
          | .error (s1, w) => .block s1 w
          | .ok s1 =>
            withStrand s1 n fun y =>
              let y := y.issued (s1.divOf n)
              let s2 := freeSlots (y.spoolId n h) y.chain y.wid c (s1.setStrand n y)
              withStrand s2 n fun z => .done (s2.retire n z 1)

/-- SPWAITP (R347, R92): the free record with the largest chain is joined, and CHLAST is the origin of the last slot. -/
def execSpwaitp (h : BitVec 6) (a : BitVec 6) (s : State) : Out :=
  word s fun s n x =>
    if x.pending [a] then .block s .own
    else
      let x := s.ready n x [a]
      match spoolArgs s n x h a with
      | none => illegal s n x
      | some (sp, c) =>
        match recordClash s n x sp sp.reserve c false with
        | some t => .trap x t
        | none =>
        if sp.free < c then .block (s.setStrand n x) .join
        else match acquireWait s n 1 with
        | some w => .block (s.setStrand n x) w
        | none =>
          let rs := s.freeRecs (x.spoolId n h) sp c
          let best := rs.foldl (fun (b : SlotRec) r => if b.free < r.free then r else b) (rs.headD (slotRecOf []))
          let last := (rs.getLast?.map (·.freeOrigin)).getD 0
          let y := (x.issued (s.divOf n)).join n ⟨best.free, best.freeOrigin, last, false, .core n⟩
          .done (s.retire n (y.acquireAt 1) 1)

/-- SPWAITC (R347): the fill records of the next slots from the consumer index are joined in slot order. -/
def execSpwaitc (h : BitVec 6) (a : BitVec 6) (s : State) : Out :=
  word s fun s n x =>
    if x.pending [a] then .block s .own
    else
      let x := s.ready n x [a]
      match spoolArgs s n x h a with
      | none => illegal s n x
      | some (sp, c) =>
        match recordClash s n x sp sp.cons c false with
        | some t => .trap x t
        | none =>
        if sp.fill < c then .block (s.setStrand n x) .join
        else match acquireWait s n 1 with
        | some w => .block (s.setStrand n x) w
        | none =>
          let k := x.spoolId n h
          let y := (List.range c).foldl (fun (z : Strand) i =>
            let r := s.slotRec k sp ((sp.cons + i) % sp.count)
            z.join n ⟨r.fill, r.fillOrigin, r.fillOrigin, r.ovf, .core n⟩) (x.issued (s.divOf n))
          .done (s.retire n (y.acquireAt 1) 1)

/-- Stream register `i` of a strand. -/
def Strand.stream (x : Strand) (i : Nat) : Stream := if h : i < 8 then x.streams[i] else Stream.unbound
/-- Replace it. -/
def Strand.setStream (x : Strand) (i : Nat) (t : Stream) : Strand :=
  if h : i < 8 then { x with streams := x.streams.set i t h } else x

/-- SBIND (R348). -/
def execSbind (t : BitVec 6) (h : BitVec 6) (ty : BitVec 6) (s : State) : Out :=
  word s fun s n x =>
    match s.spool (x.spoolId n h) with
    | none => illegal s n x
    | some sp =>
      if x.boundTo h.toNat || (x.stream t.toNat).bound then illegal s n x
      else .done (s.retire n (x.setStream t.toNat ⟨0, sp.cons, ty.toNat, h.toNat, true⟩) 1)

/-- SUNBIND (R348). -/
def execSunbind (t : BitVec 6) (s : State) : Out :=
  word s fun s n x => .done (s.retire n (x.setStream t.toNat Stream.unbound) 1)

/-- What a read of a bound stream finds. -/
inductive Pop where
  /-- The slot's bytes are not counted filled, or must be filled from the image first (R129, R239). -/
  | wait (k : WaitKind)
  | trap (t : Trap)
  /-- The bytes, the slot's record, the spool. -/
  | got (bs : List Byte) (r : SlotRec) (sp : Spool)

/-- The next `n` bytes of a stream (R349, R376), in the order of R138: range locks on them and on the slot's record, which this read reads, and
writes where it frees the slot (R229), poison (R144), the FTOP of a narrow slot (R241). -/
def popBytes (s : State) (n : Nat) (x : Strand) (t : Stream) (len : Nat) (ftop : Bool) : Pop :=
  let k : SpoolId := ⟨x.id.part, x.id.vd, n, t.handle⟩
  match s.spool k with
  | none => .wait .join
  | some sp =>
    if !sp.filled t.slot then .wait .join
    else
      let o := sp.base + t.slot * sp.bytes + t.offset
      if x.absentLine o len || x.absentLine (sp.recs + 32 * t.slot) 32 then .wait .lazy
      else match (match s.lockClash n x o len false with
          | some e => some e
          | none => s.lockClash n x (sp.recs + 32 * t.slot) 32 (decide (sp.bytes ≤ t.offset + len))) with
      | some e => .trap e
      | none =>
        let g := s.scratchGot n o len
        let r := s.slotRec k sp t.slot
        match g.poison with
        | some p => .trap (.precise 0x0B (BitVec.ofNat 64 p))
        | none =>
          if sp.narrow.getLsbD t.slot && r.ftop != ftop then
            .trap (.precise 0x0D (BitVec.ofNat 64 (sp.base + t.slot * sp.bytes)))
          else .got g.bytes r sp

/-- After `len` bytes: within the slot the offset moves on; at its end the slot is freed as an SPADVC of 1 would, and the
binding goes to the next slot (R349). -/
def advanceStream (s : State) (n i : Nat) (t : Stream) (sp : Spool) (len : Nat) : State :=
  match s.strand n with
  | none => s
  | some x =>
    if t.offset + len < sp.bytes then s.setStrand n (x.setStream i { t with offset := t.offset + len })
    else freeSlots ⟨x.id.part, x.id.vd, n, t.handle⟩ x.chain x.wid 1
      (s.setStrand n (x.setStream i { t with offset := 0, slot := (t.slot + 1) % sp.count }))

/-- Bytes that one SRD pops (R349). -/
def srdBytes (ty : Nat) : Nat := if ty = 3 then 4 else if ty = 1 ∨ ty = 2 then 2 else 8

/-- The output bytes of popped elements: widened by type 1 to 3, as they are for raw and f32 (R349). -/
def streamOut (ftop : Bool) (ty : Nat) (bs : List Byte) : List Byte := if ty = 4 then bs else widenBytes ftop ty bs

/-- SRD (R349). -/
def execSrd (d : BitVec 6) (t : BitVec 6) (s : State) : Out :=
  word s fun s n x =>
    let b := x.stream t.toNat
    if !memReady x [d] then .block s .own
    else if !b.bound then illegal s n x
    else match acquireWait s n 1 with
    | some w => .block s w
    | none =>
      match popBytes s n x b (srdBytes b.typ) x.ftop with
      | .trap e => .trap x e
      | .wait k => .block s k
      | .got bs r sp =>
        let y := (x.issued (s.divOf n)).join n ⟨r.fill, r.fillOrigin, r.fillOrigin, r.ovf, .core n⟩
        let y := ((y.acquireAt 1).setW d (BitVec.ofNat 64 (numOf (streamOut x.ftop b.typ bs)))).later d 1 1
        let s1 := advanceStream (s.setStrand n y) n t.toNat b sp (srdBytes b.typ)
        withStrand s1 n fun z => .done (s1.retire n z 1)

end Sys2Proof.Machine
end

