-- ==== Sys2Proof/Machine/Barrier.lean ====
section
/-! DEFINITION. Barriers: arrival, completion, the release window (R100 to R108), step-start boundaries (R115, R116),
exchange mode (R246), and the instructions BARA, BARW, BAR, EXCH (R350, R411). -/
namespace Sys2Proof.Machine

/-- A device step whose condition does not hold. -/
def notEnabled (m : String) : Out := .refused (.notEnabled m)

/-- The barrier that an instruction names: form .t a team barrier, form .d a domain (R285). -/
def barIdOf (n : BitVec 6) (t : BitVec 1) : BarId := ⟨t == 0, n.toNat⟩

/-- The cores of an entry's cluster that its mask lists (R101). -/
def entryCores (e : Nat × BitVec 16) : List Nat :=
  (List.range 16).filterMap fun i => if e.2.getLsbD i then some (e.1 * 16 + i) else none

/-- The participants of a domain. -/
def Domain.cores (d : Domain) : List Nat := d.entries.flatMap entryCores

/-- The barrier's record, as the strand of core `n` names it: none where R103 makes the use illegal. -/
def State.barOf (s : State) (n : Nat) (x : Strand) (b : BarId) : Option Bar :=
  if b.team then
    match x.id.bslots[b.num]? with
    | some j => (s.cluster (clusterOf n)).bars.find j
    | none => none
  else
    match s.part x.id.part with
    | none => none
    | some p =>
      match p.domains.find b.num with
      | some d => if d.cores.contains n then some d.bar else none
      | none => none

/-- Replace it. -/
def State.setBar (s : State) (n : Nat) (x : Strand) (b : BarId) (r : Bar) : State :=
  if b.team then
    match x.id.bslots[b.num]? with
    | some j => let c := s.cluster (clusterOf n)
                s.setCluster (clusterOf n) { c with bars := c.bars.put j r }
    | none => s
  else s.onPart x.id.part fun p =>
    match p.domains.find b.num with
    | some d => { p with domains := p.domains.put b.num { d with bar := r } }
    | none => p

/-- The domain that a barrier name means, if it is one. -/
def State.domainOf (s : State) (p : Nat) (b : BarId) : Option Domain :=
  if b.team then none else (s.part p).bind (·.domains.find b.num)

/-- The site of a barrier's home (R83, R102). -/
def State.barSite (s : State) (n p : Nat) (b : BarId) : Site :=
  match s.domainOf p b with
  | some d => .barrier ((d.entries.head?.map (·.1)).getD 0)
  | none => .barrier (clusterOf n)

/-! ### Release windows (R105) and step-start boundaries (R115) -/

/-- The distinct rows of a domain that hold participants, ascending (R105). -/
def Domain.rows (d : Domain) : List Nat := rowsOf ((d.entries.filter (·.2 != 0)).map fun e => e.1 % 64 / 8)

/-- The window W of a barrier (R105). -/
def windowOf : Option Domain → Nat
  | some d => (d.pleats - 1) * d.offset + 16
  | none => 16

/-- The pleat offset of a participant after T (R105). -/
def pleatTicks (d : Option Domain) (core : Nat) : Nat :=
  match d with
  | none => 0
  | some d => (d.rows.findIdx (· == clusterOf core % 64 / 8)) * d.pleats / max 1 d.rows.length * d.offset

/-- pod(k) of R115. DESIGN CHOICE (log 51): before the first latch since reset, which R115 does not speak of, it is formed from the registers
as reset leaves them, all zero. -/
def TimeRegs.pod (t : TimeRegs) (k : Nat) : Int :=
  (((t.ptpSec.toNat * 10 ^ 9 + t.ptpNs.toNat) * 19 / 10 : Nat) : Int) + ((k : Int) - t.syncTick)

/-- The first step-start boundary at or after tick `k`; `k` itself when deferral is disabled (R115, R116). -/
def State.boundary (s : State) (k : Nat) : Nat :=
  if s.time.stepPeriod = 0 then k
  else k + (((s.time.stepOffset : Int) - s.time.pod k) % (s.time.stepPeriod : Int)).toNat

/-- A number of cells makes a large step (R116). -/
def State.large (s : State) (cores : List Nat) : Bool := decide (s.time.stepCells < (rowsOf (cores.map cellOf)).length)

/-! ### Arrival and completion (R94, R104) -/

/-- What a BARW keeps of the generation that it waits for: it waits for the same one again when it is reissued (R119). -/
def barStash (b : BarId) (gen : Nat) : List Byte := 2 :: (bytesOf gen 8 ++ [BitVec.ofNat 8 (b2n b.team), BitVec.ofNat 8 b.num])

/-- The strand waits for a generation of a barrier, or has been stopped in a BARW that does (R104, R119). -/
def Strand.awaits (x : Strand) (b : BarId) (gen : Nat) : Bool := x.wait == some (.barrier b gen) || x.stash == barStash b gen

/-- The strands that a completion delivers a release to at core `c`: those whose latest arrival was in the generation, or
that wait for it. -/
def receivers (s : State) (p c : Nat) (b : BarId) (gen : Nat) : List Ident :=
  let due := fun y : Strand => y.id.part == p &&
    (y.arrivals.any (fun a => a.bar == b && a.gen == gen) || y.awaits b gen)
  let live := match s.strand c with
    | some y => if due y then [y.id] else []
    | none => []
  let kept := match s.part p with
    | some q => (q.saved.filter fun z => z.core == c && due z.strand).map (·.strand.id)
    | none => []
  live ++ kept

/-- Complete a generation at the barrier's home (R104, R105), at the tick at which every arriver's issue cycle has passed. -/
def State.complete (s : State) (n : Nat) (x : Strand) (b : BarId) (r : Bar) : State :=
  let p := x.id.part
  let d := s.domainOf p b
  let k := max (max s.tick x.now) r.ready
  let t := match d with
    | some d => if s.large d.cores then s.boundary k else k
    | none => k
  let h : Held := ⟨b, r.gen, r.chain, r.max, r.last, r.ovf, if r.xflag then some (t + windowOf d) else none⟩
  let rel := r.members.flatMap fun c =>
    let same := fun i : Ident => !b.team || (i.launch == x.id.launch && i.index == x.id.index && i.stage == x.id.stage)
    ((receivers s p c b r.gen).filter same).map fun i => (⟨c, i, h, k, t + pleatTicks d c⟩ : Release)
  let s1 : State := { s with releases := s.releases ++ rel }
  s1.setBar n x b { r with arrived := [], chain := 0, max := 0, last := 0, ovf := false, xflag := false, gen := r.gen + 1 }

/-- Every participant has arrived. A domain without a participant never completes (R101). -/
def Bar.full (r : Bar) : Bool := !r.members.isEmpty && r.members.all r.arrived.contains

/-- The arrival of the strand of core `n` (R94, R104). The strand leaves exchange mode (R246). -/
def State.arrive (s : State) (n : Nat) (x : Strand) (b : BarId) (xf : Bool) (r : Bar) : State :=
  let c := satAdd x.chain (transitIn x.declared (.core n) (s.barSite n x.id.part b))
  let first := r.arrived.isEmpty
  let r1 := { r with
    arrived := insertNat n r.arrived
    max := if first || decide (r.chain < c.1) then x.wid else r.max
    chain := max r.chain c.1
    last := x.wid
    ovf := r.ovf || x.ovf || c.2
    xflag := r.xflag || xf }
  let y := { x with
    arrivals := x.arrivals.filter (·.bar != b) ++ [⟨b, r.gen, false⟩]
    exch := { x.exch with origin := none } }
  if r1.full then ((s.setStrand n y).setBar n y b r1).complete n y b r1
  else (s.setStrand n y).setBar n y b { r1 with ready := max r.ready x.now }

/-- The arrival part of BARA, BAR and EXCH: it waits for its queued vector stores, its sends, its release and its own earlier arrival,
then arrives after its issue cycle (R94, R104, R220, R225, R246). -/
def arriveStep (s : State) (n : Nat) (x : Strand) (b : BarId) (xf : Bool) (f : State → Strand → Eff) : Eff :=
  match s.barOf n x b with
  | none => illegal s n x
  | some _ =>
    if !memReady x [] then .block s .own
    else if x.exch.origin.isSome && decide (0 < x.exch.inFlight) then .block s .own
    else
      match releaseAt 1 s n x with
      | .error (s1, k) => .block s1 k
      | .ok s1 =>
        withStrand s1 n fun y =>
          match s1.barOf n y b with
          | none => illegal s n x
          | some r =>
            if y.arrivals.any (fun a => a.bar == b && a.gen == r.gen) then .block s1 .own
            else
              let s2 := s1.arrive n (y.issued (s1.divOf n)) b xf r
              withStrand s2 n fun z => f s2 z

/-- A strand resumes with a release: it joins, acquires, and enters exchange mode where the generation had the flag (R94,
R104, R246). -/
def Strand.takeRelease (x : Strand) (n : Nat) (site : Site) (h : Held) : Strand :=
  let y := (x.join n ⟨h.chain, h.max, h.last, h.ovf, site⟩).acquireAt 1
  { y with
    held := y.held.filter (· != h)
    arrivals := y.arrivals.map fun a => if a.bar = h.bar then { a with waited := true } else a
    exch := match h.origin with
      | some o => { y.exch with origin := some o, next := 0, sent := false, xlate := false }
      | none => y.exch }

/-- The generation that a BARW waits for (R104): the one that it has begun to wait for, else that of the strand's latest arrival,
else the present one. -/
def Strand.barGen (x : Strand) (b : BarId) (r : Bar) : Nat :=
  match x.stash with
  | 2 :: g => numOf (g.take 8)
  | _ =>
    match x.arrivals.find? (·.bar == b) with
    | some a => if a.waited then r.gen else a.gen
    | none => r.gen

/-- The waiting part of BARW, BAR and EXCH. A BARW keeps the generation that it waits for. -/
def awaitStep (s : State) (n : Nat) (x : Strand) (b : BarId) : Eff :=
  match s.barOf n x b with
  | none => illegal s n x
  | some r =>
    let g := x.barGen b r
    match x.held.find? (fun h => h.bar == b && h.gen == g) with
    | some h =>
      let y := (x.issued (s.divOf n)).takeRelease n (s.barSite n x.id.part b) h
      .done (s.retire n y 1)
    | none =>
      .block (s.setStrand n (if x.stash.isEmpty then { x with stash := barStash b g } else x)) (.barrier b g)

/-- BARA and its .x form. -/
def baraInstr (n : BitVec 6) (t : BitVec 1) (xf : Bool) (s : State) : Out :=
  word s fun s c x => arriveStep s c x (barIdOf n t) xf fun s1 y => .done (s1.retire c y 1)

/-- BAR and EXCH: the arrival is made once, then the strand waits for its generation. -/
def barInstr (n : BitVec 6) (t : BitVec 1) (xf : Bool) (s : State) : Out :=
  word s fun s c x =>
    if x.stash.isEmpty then
      arriveStep s c x (barIdOf n t) xf fun s1 y =>
        let z := { y with stash := [1], released := false }
        awaitStep (s1.setStrand c z) c z (barIdOf n t)
    else awaitStep s c x (barIdOf n t)

/-- BARA (R350). -/
def execBara (n : BitVec 6) (t : BitVec 1) (s : State) : Out := baraInstr n t false s
/-- BARA.x (R350). -/
def execBaraX (n : BitVec 6) (t : BitVec 1) (s : State) : Out := baraInstr n t true s
/-- BARW (R104). -/
def execBarw (n : BitVec 6) (t : BitVec 1) (s : State) : Out :=
  word s fun s c x =>
    match (if x.stash.isEmpty then acquireWait s c 1 else none) with
    | some k => .block s k
    | none => awaitStep s c x (barIdOf n t)
/-- BAR (R350). -/
def execBar (n : BitVec 6) (t : BitVec 1) (s : State) : Out := barInstr n t false s
/-- EXCH (R411). -/
def execExch (n : BitVec 6) (t : BitVec 1) (s : State) : Out := barInstr n t true s

/-! ### Device steps -/

/-- The image bytes of a held release (R124). -/
def Held.bytes (h : Held) : List Byte :=
  bytesOf (h.chain + b2n h.ovf * 2 ^ 48 + 2 ^ 63 + h.max.toNat * 2 ^ 64 + h.last.toNat * 2 ^ 96) 16

/-- Where a held release stands in the image (R124). -/
def Held.slotOf (b : BarId) : Nat := 0x94000 + 16 * (if b.team then b.num else 16 + b.num)

/-- Keep a release for the strand that waits for it. -/
def Strand.take (x : Strand) (h : Held) : Strand := { x with held := x.held.filter (·.bar != h.bar) ++ [h] }

/-- Keep a release as the strand's held release for its barrier: a newer one replaces an older one, and an older one that comes later is
dropped (R104). -/
def Strand.hold (x : Strand) (h : Held) : Strand := if x.held.any fun k => k.bar == h.bar && decide (h.gen < k.gen) then x else x.take h

/-- The ticks of whole local cycles from `now` to a resumption at tick `u` in [t, t + 16]: up to `u`, or one cycle less where that
would pass the window (R105). -/
def resumeTicks (now t u d : Nat) : Nat :=
  let g := gapTicks now u d
  if t + 16 < now + g then g - d else g

/-- A release falls due at its participant. A strand that waits for it is charged a join up to the completion and excluded
ticks from there to its release (R93, R94), and goes on from there; in a gang it does so with the others, and what it waits for them is own work
(R65, R79). -/
def State.deliver (s : State) (r : Release) : State :=
  match (s.strand r.core).filter (fun x => x.id.same r.id) with
  | some x =>
    if x.wait = some (.barrier r.held.bar r.held.gen) then
      let d := s.divOf r.core
      let y := (x.spend 1 (gapTicks x.now r.comp d))
      let z := (y.spend 2 (resumeTicks y.now r.tick (min s.tick (r.tick + 16)) d))
      if z.gang.tacked then s.setStrand r.core { z.take r.held with wait := some (.data 0) }
      else s.retire r.core ((z.take r.held).takeRelease r.core (s.barSite r.core x.id.part r.held.bar) r.held) 1
    else s.setStrand r.core (x.hold r.held)
  | none => s

/-- The participant is saved: its release waits for the restore (R108). -/
def State.isAway (s : State) (r : Release) : Bool :=
  ((s.part r.id.part).map fun p => p.saved.any fun z => z.core == r.core && z.strand.id.same r.id).getD false

/-- BARRIER_RELEASE (R105): release number op.a falls due, once its participant is there (R108). -/
def execBarrierRelease (s : State) : Out :=
  match s.releases[s.op.a]? with
  | none => notEnabled "BARRIER_RELEASE"
  | some r =>
    if r.tick ≤ s.tick && !s.isAway r then .next (({ s with releases := s.releases.eraseIdx s.op.a } : State).deliver r)
    else notEnabled "BARRIER_RELEASE"

/-- A domain record (R101): none where R102 calls it invalid. DESIGN CHOICE (log 51): only the first `count` entries are checked, and what
stands behind them is not read. -/
def domainRecord (node : Nat) (bs : List Byte) : Option Domain :=
  let h := numOf (bs.take 8)
  let f := fun (v lo w : Nat) => v / 2 ^ lo % 2 ^ w
  let cnt := f h 0 8
  let es := (List.range cnt).map fun i =>
    let e := numOf ((bs.drop (32 + 4 * i)).take 4)
    (f e 23 9, f e 16 7, BitVec.ofNat 16 e)
  let pairs := es.map fun e => (e.2.1, e.2.2)
  if f h 28 36 = 0 ∧ f h 8 4 = 0 ∧ (bs.drop 8).take 24 = List.replicate 24 0 ∧ 1 ≤ cnt ∧ cnt ≤ 128 ∧
      1 ≤ f h 12 4 ∧ f h 12 4 ≤ 8 ∧ es.all (fun e => e.1 == 0) ∧ pairs.all (fun e => inNode node e.1) ∧
      (rowsOf (pairs.map (·.1))).length = cnt then
    let members := pairs.flatMap entryCores
    some ⟨f h 16 12, f h 12 4, pairs, ⟨members, [], 0, 0, 0, false, 0, false, 0⟩⟩
  else none

/-- A strand that waits for the next completion of domain `d` goes on waiting where a load gives the domain a new generation. -/
def Strand.reloaded (d old new : Nat) (x : Strand) : Strand :=
  if x.stash = barStash ⟨false, d⟩ old then
    { x with
      stash := barStash ⟨false, d⟩ new
      wait := if x.wait = some (.barrier ⟨false, d⟩ old) then some (.barrier ⟨false, d⟩ new) else x.wait }
  else x

/-- Load a domain's record (R102). Its generation is cleared to one of even parity (phase 0) that no release of the domain has had. -/
def State.loadDomain (s : State) (p d : Nat) (r : Domain) : State :=
  let old := (((s.part p).bind (·.domains.find d)).map (·.bar.gen)).getD 0
  let new := old + old % 2
  let s1 := s.onPart p fun q => { q with
    domains := q.domains.put d { r with bar := { r.bar with gen := new } }
    saved := q.saved.map fun y => if y.strand.awaits ⟨false, d⟩ old then { y with strand := y.strand.reloaded d old new } else y }
  { s1 with strands := s1.strands.map fun e =>
      (e.1, if e.2.id.part = p ∧ e.2.awaits ⟨false, d⟩ old then e.2.reloaded d old new else e.2) }

/-- DOMLOAD (R102): the write of op.b to DOMLOAD of partition op.a. -/
def execDomload (s : State) : Out :=
  onLink s <| match s.part s.op.a with
  | none => notEnabled "DOMLOAD"
  | some p =>
    let d := s.op.b
    let put := fun (code : Nat) (s : State) (f : Partition → Partition) => s.onPart s.op.a fun q =>
      f { q with page := { q.page with domload := BitVec.ofNat 32 d, domStat := BitVec.ofNat 32 code } }
    if 64 ≤ d then .next (put 2 s id)
    else
      match homeRead s ⟨s.op.a, 0, 0⟩ (.glob (p.page.domBase.toNat + 1024 * d)) 544 with
      | .ok g s1 =>
        match (if g.poison.isSome then none else domainRecord p.node g.bytes) with
        | none => .next (put 2 s1 id)
        | some r =>
          if ((p.domains.find d).map (fun k => !k.bar.arrived.isEmpty)).getD false then .next (put 1 s1 id)
          else .next (put 0 (s1.loadDomain s.op.a d r) id)
      | _ => .next (put 2 s id)

end Sys2Proof.Machine
end

