-- ==== Sys2Proof/Machine/Lanes.lean ====
section
/-! DEFINITION. What a vector instruction without memory access computes (R359 to R371, R379): lanes, masks, flags,
reductions, and the registers and latencies of every vector instruction (R356, R357). -/
namespace Sys2Proof.Machine

/-- Lane i of a vector register (R150). -/
def lane (w : W512) (i : Nat) : W32 := w.extractLsb' (32 * i) 32

/-- A vector register from its lanes. -/
def ofLanes (f : Nat → W32) : W512 :=
  (List.range 16).foldl (fun (w : W512) i => w ||| ((f i).setWidth 512 <<< (32 * i))) 0

/-- Write the unmasked lanes (R156). -/
def maskLanes (p : BitVec 16) (old : W512) (f : Nat → W32) : W512 :=
  ofLanes fun i => if p.getLsbD i then f i else lane old i

/-- The union of the flags of the unmasked lanes (R358). -/
def laneFlags (p : BitVec 16) (f : Nat → FFlags) : FFlags :=
  (List.range 16).foldl (fun (w : FFlags) i => if p.getLsbD i then w ||| f i else w) 0

/-- A strand as a queued instruction sees it: FRND and FTOP as captured at entry (R356). -/
def VqEntry.env (q : VqEntry) (x : Strand) : Strand :=
  (x.setCsr 0x19#7 (BitVec.ofNat 64 q.frnd)).setCsr 0x18#7 (if q.ftop then 1 else 0)

/-! ### Fields -/

/-- The v registers that an instruction reads (R287, R288). VFMA, VFMS and VFNMA read vd too, as do stores and VSIFT. -/
def vReads : Instr → List (BitVec 7)
  | .vadd _ a b _ => [a, b] | .vsub _ a b _ => [a, b] | .vmul _ a b _ => [a, b]
  | .vfma d a b _ => [d, a, b] | .vfms d a b _ => [d, a, b] | .vfnma d a b _ => [d, a, b]
  | .vmin _ a b _ => [a, b] | .vmax _ a b _ => [a, b]
  | .vabs _ a _ => [a] | .vneg _ a _ => [a] | .vrsqe _ a _ => [a] | .vrcpe _ a _ => [a]
  | .vcmp _ _ a b _ => [a, b] | .vsel _ a b _ => [a, b] | .vext _ a _ _ => [a]
  | .vand _ a b _ => [a, b] | .vor _ a b _ => [a, b] | .vxor _ a b _ => [a, b] | .vperm _ a b _ => [a, b]
  | .vshl _ a b _ => [a, b] | .vshr _ a b _ => [a, b] | .vsra _ a b _ => [a, b]
  | .viadd _ a b _ => [a, b] | .visub _ a b _ => [a, b] | .vimul _ a b _ => [a, b]
  | .vimin _ a b _ => [a, b] | .vimax _ a b _ => [a, b]
  | .vcvt _ a _ _ => [a] | .vpack _ a b _ => [a, b] | .vunpk _ a b _ => [a, b]
  | .vreda _ a _ => [a] | .vredx _ a _ => [a] | .vsift d a b _ => [d, a, b]
  | .vgath _ a _ _ _ => [a] | .vscat d a _ _ _ => [d, a]
  | .vst d _ _ _ => [d] | .vstl d _ _ _ => [d]
  | _ => []

/-- The v register that an instruction writes. -/
def vWrite : Instr → Option (BitVec 7)
  | .vadd d _ _ _ => some d | .vsub d _ _ _ => some d | .vmul d _ _ _ => some d
  | .vfma d _ _ _ => some d | .vfms d _ _ _ => some d | .vfnma d _ _ _ => some d
  | .vmin d _ _ _ => some d | .vmax d _ _ _ => some d
  | .vabs d _ _ => some d | .vneg d _ _ => some d | .vrsqe d _ _ => some d | .vrcpe d _ _ => some d
  | .vsel d _ _ _ => some d | .vbcst d _ _ => some d
  | .vand d _ _ _ => some d | .vor d _ _ _ => some d | .vxor d _ _ _ => some d | .vperm d _ _ _ => some d
  | .vshl d _ _ _ => some d | .vshr d _ _ _ => some d | .vsra d _ _ _ => some d
  | .viadd d _ _ _ => some d | .visub d _ _ _ => some d | .vimul d _ _ _ => some d
  | .vimin d _ _ _ => some d | .vimax d _ _ _ => some d
  | .vcvt d _ _ _ => some d | .vpack d _ _ _ => some d | .vunpk d _ _ _ => some d | .vsrd d _ _ => some d
  | .vreda d _ _ => some d | .vredx d _ _ => some d
  | .vgath d _ _ _ _ => some d | .vld d _ _ _ => some d | .vldl d _ _ _ => some d
  | _ => none

/-- The v registers that an instruction names (R150, R288). -/
def vNames (i : Instr) : List (BitVec 7) := (vWrite i).toList ++ vReads i

/-- The predicates that an instruction reads (R156, R379). -/
def pReads : Instr → List (BitVec 3)
  | .vadd _ _ _ p => [p] | .vsub _ _ _ p => [p] | .vmul _ _ _ p => [p]
  | .vfma _ _ _ p => [p] | .vfms _ _ _ p => [p] | .vfnma _ _ _ p => [p] | .vmin _ _ _ p => [p] | .vmax _ _ _ p => [p]
  | .vabs _ _ p => [p] | .vneg _ _ p => [p] | .vrsqe _ _ p => [p] | .vrcpe _ _ p => [p]
  | .vcmp _ d _ _ p => [d, p] | .vsel _ _ _ p => [p] | .vbcst _ _ p => [p] | .vext _ _ _ p => [p]
  | .vand _ _ _ p => [p] | .vor _ _ _ p => [p] | .vxor _ _ _ p => [p] | .vperm _ _ _ p => [p]
  | .vshl _ _ _ p => [p] | .vshr _ _ _ p => [p] | .vsra _ _ _ p => [p]
  | .viadd _ _ _ p => [p] | .visub _ _ _ p => [p] | .vimul _ _ _ p => [p] | .vimin _ _ _ p => [p] | .vimax _ _ _ p => [p]
  | .vcvt _ _ _ p => [p] | .vpack _ _ _ p => [p] | .vunpk _ _ _ p => [p] | .vsrd _ _ p => [p]
  | .vreda _ _ p => [p] | .vredx _ _ p => [p] | .vsift _ _ _ p => [p]
  | .vgath _ _ _ p _ => [p] | .vscat _ _ _ p _ => [p] | .vldl _ _ p _ => [p] | .vstl _ _ p _ => [p]
  | .pand _ a b => [a, b] | .por _ a b => [a, b] | .pnot _ a => [a]
  | _ => []

/-- The predicate that an instruction writes (R363, R379). -/
def pWrite : Instr → Option (BitVec 3)
  | .vcmp _ d _ _ _ => some d | .pset d _ => some d | .pand d _ _ => some d | .por d _ _ => some d | .pnot d _ => some d
  | _ => none

/-- The latency of R357: vector cycles from the bind to a later reader. Loads and stream reads are read from the next cycle
on, since their data has arrived when they are carried out. -/
def vLatency : Instr → Nat
  | .vimul _ _ _ _ => 3
  | .vadd _ _ _ _ => 4 | .vsub _ _ _ _ => 4 | .vmul _ _ _ _ => 4 | .vfma _ _ _ _ => 4 | .vfms _ _ _ _ => 4
  | .vfnma _ _ _ _ => 4 | .vrsqe _ _ _ => 4 | .vrcpe _ _ _ => 4
  | .vcvt _ _ _ _ => 2 | .vext _ _ _ _ => 2
  | .vredx _ _ _ => 4 | .vreda _ _ _ => 16 | .vsift _ _ _ _ => 14
  | _ => 1

/-! ### Lane results -/

/-- Integer and bitwise lanes (R362). -/
def intLane : Instr → W32 → W32 → W32
  | .vand _ _ _ _, a, b => a &&& b
  | .vor _ _ _ _, a, b => a ||| b
  | .vxor _ _ _ _, a, b => a ^^^ b
  | .vshl _ _ _ _, a, b => a <<< (bitsN b 4 0)
  | .vshr _ _ _ _, a, b => a >>> (bitsN b 4 0)
  | .vsra _ _ _ _, a, b => a.sshiftRight (bitsN b 4 0)
  | .viadd _ _ _ _, a, b => a + b
  | .visub _ _ _ _, a, b => a - b
  | .vimul _ _ _ _, a, b => a * b
  | .vimin _ _ _ _, a, b => if a.slt b then a else b
  | _, a, b => if a.slt b then b else a

/-- Floating-point lanes (R359): the lane's old value is `d`. -/
def fpLane (mode : Nat) : Instr → W32 → W32 → W32 → W32 × FFlags
  | .vadd _ _ _ _, _, a, b => fadd32 mode a b
  | .vsub _ _ _ _, _, a, b => fsub32 mode a b
  | .vmul _ _ _ _, _, a, b => fmul32 mode a b
  | .vfma _ _ _ _, d, a, b => ffma32 mode false false a b d
  | .vfms _ _ _ _, d, a, b => ffma32 mode false true a b d
  | .vfnma _ _ _ _, d, a, b => ffma32 mode true false a b d
  | .vmin _ _ _ _, _, a, b => (fmin32 a b, 0)
  | _, _, a, b => (fmax32 a b, 0)

/-- A NaN gives the canonical NaN, else `w` (R360). -/
def nanOr (a w : W32) : W32 := if isNan32 a then nan32 else w

/-- Unary lanes (R360, R361). -/
def unLane : Instr → W32 → W32 × FFlags
  | .vabs _ _ _, a => (nanOr a (a &&& 0x7FFFFFFF#32), 0)
  | .vneg _ _ _, a => (nanOr a (a ^^^ 0x80000000#32), 0)
  | .vrsqe _ _ _, a => rsqe32 a
  | _, a => rcpe32 a

/-- The bit of VCMP (R363). -/
def cmpLane (c : BitVec 3) (a b : W32) : Bool :=
  match c.toNat with
  | 0 => feq32 a b
  | 1 => flt32 a b
  | 2 => fle32 a b
  | 3 => fun32 a b
  | 4 => a == b
  | 5 => a != b
  | 6 => a.slt b
  | _ => a.ult b

/-- VCVT (R368). -/
def cvtLane (k : BitVec 7) (frnd : Nat) (ftop : Bool) (a : W32) : W32 × FFlags :=
  let nar := fun (f : Fmt) (sat : Bool) => let r := f.narrowW ftop sat frnd a; (BitVec.ofNat 32 r.1, r.2)
  match k.toNat with
  | 0x00 => fcvti32 frnd (-(2 ^ 31 : Int)) (2 ^ 31 - 1) a
  | 0x01 => fcvti32 frnd 0 (2 ^ 32 - 1) a
  | 0x02 => fcvtf32 frnd a.toInt
  | 0x03 => fcvtf32 frnd a.toNat
  | 0x04 => nar .bf16 false
  | 0x05 => nar .fp16 false
  | 0x06 => nar .e4m3 false
  | 0x07 => nar .e5m2 false
  | 0x08 => (Fmt.bf16.widen ftop (bitsN a 15 0), 0)
  | 0x09 => (Fmt.fp16.widen ftop (bitsN a 15 0), 0)
  | 0x0A => (Fmt.e4m3.widen ftop (bitsN a 7 0), 0)
  | 0x0B => (Fmt.e5m2.widen ftop (bitsN a 7 0), 0)
  | 0x14 => nar .bf16 true
  | 0x15 => nar .fp16 true
  | 0x16 => nar .e4m3 true
  | _ => nar .e5m2 true

/-- VPACK's lane (R369). -/
def packLane (va vb : W512) (i : Nat) : W32 :=
  let src := if i < 8 then va else vb
  let j := 2 * (i % 8)
  ((lane src (j + 1)).extractLsb' 0 16 : BitVec 16) ++ ((lane src j).extractLsb' 0 16 : BitVec 16)

/-- VUNPK's lane (R370). -/
def unpackLane (va : W512) (c : W32) : W32 :=
  let v := lane va (bitsN c 3 0)
  BitVec.ofNat 32 (if bit1 c 4 then bitsN v 31 16 else bitsN v 15 0)

/-- One level of the reduction tree (R261): a node with one absent child passes the other. -/
def treeLevel (f : W32 → W32 → W32 × FFlags) : List (Option W32) → List (Option W32) × FFlags
  | some a :: some b :: t => let r := treeLevel f t
                             let v := f a b
                             (some v.1 :: r.1, v.2 ||| r.2)
  | some a :: none :: t => let r := treeLevel f t
                           (some a :: r.1, r.2)
  | none :: b :: t => let r := treeLevel f t
                      (b :: r.1, r.2)
  | [a] => ([a], 0)
  | [] => ([], 0)

/-- The whole tree: four levels (R261). -/
def treeReduce (f : W32 → W32 → W32 × FFlags) : Nat → List (Option W32) → Option W32 × FFlags
  | 0, l => ((l.head?.join), 0)
  | n + 1, l =>
    let r := treeLevel f l
    let q := treeReduce f n r.1
    (q.1, r.2 ||| q.2)

/-- The lanes that take part in a reduction. -/
def reduceLanes (p : BitVec 16) (v : W512) : List (Option W32) :=
  (List.range 16).map fun i => if p.getLsbD i then some (lane v i) else none

/-- Write a v register, ready for a later reader after the instruction's latency (R357). -/
def Strand.putV (x : Strand) (d : BitVec 7) (w : W512) (ready : Nat) : Strand :=
  { x.setV d w with vRdy := x.vRdy.put d.toNat ready }

/-- Write a predicate, with its ready tick kept behind those of the v registers. -/
def Strand.putP (x : Strand) (d : BitVec 3) (w : BitVec 16) (ready : Nat) : Strand :=
  { x.setP d w with vRdy := x.vRdy.put (128 + d.toNat) ready }

/-- The effect on the strand of an instruction without memory access that a lane group carries out at tick `t`. -/
def vecEffect (q : VqEntry) (t : Nat) (x : Strand) : Strand :=
  let i := q.ins
  let r := t + vLatency i
  let two := fun (d a b : BitVec 7) (p : BitVec 3) (f : W32 → W32 → W32) =>
    x.putV d (maskLanes (x.getP p) (x.getV d) fun k => f (lane (x.getV a) k) (lane (x.getV b) k)) r
  let fp := fun (d a b : BitVec 7) (p : BitVec 3) =>
    let f := fun k => fpLane q.frnd i (lane (x.getV d) k) (lane (x.getV a) k) (lane (x.getV b) k)
    (x.putV d (maskLanes (x.getP p) (x.getV d) fun k => (f k).1) r).orFlags (laneFlags (x.getP p) fun k => (f k).2)
  let un := fun (d a : BitVec 7) (p : BitVec 3) (g : W32 → W32 × FFlags) =>
    let f := fun k => g (lane (x.getV a) k)
    (x.putV d (maskLanes (x.getP p) (x.getV d) fun k => (f k).1) r).orFlags (laneFlags (x.getP p) fun k => (f k).2)
  match i with
  | .vadd d a b p => fp d a b p | .vsub d a b p => fp d a b p | .vmul d a b p => fp d a b p
  | .vfma d a b p => fp d a b p | .vfms d a b p => fp d a b p | .vfnma d a b p => fp d a b p
  | .vmin d a b p => fp d a b p | .vmax d a b p => fp d a b p
  | .vabs d a p => un d a p (unLane i) | .vneg d a p => un d a p (unLane i)
  | .vrsqe d a p => un d a p (unLane i) | .vrcpe d a p => un d a p (unLane i)
  | .vcvt d a k p => un d a p (cvtLane k q.frnd q.ftop)
  | .vand d a b p => two d a b p (intLane i) | .vor d a b p => two d a b p (intLane i)
  | .vxor d a b p => two d a b p (intLane i) | .vshl d a b p => two d a b p (intLane i)
  | .vshr d a b p => two d a b p (intLane i) | .vsra d a b p => two d a b p (intLane i)
  | .viadd d a b p => two d a b p (intLane i) | .visub d a b p => two d a b p (intLane i)
  | .vimul d a b p => two d a b p (intLane i) | .vimin d a b p => two d a b p (intLane i)
  | .vimax d a b p => two d a b p (intLane i)
  | .vcmp c d a b p =>
    let old := x.getP d
    let bit := fun k => if (x.getP p).getLsbD k then cmpLane c (lane (x.getV a) k) (lane (x.getV b) k) else old.getLsbD k
    x.putP d (BitVec.ofNat 16 ((List.range 16).foldl (fun v k => if bit k then v + 2 ^ k else v) 0)) r
  | .vsel d a b p =>
    x.putV d (ofLanes fun k => if (x.getP p).getLsbD k then lane (x.getV a) k else lane (x.getV b) k) r
  | .vbcst d _ p => x.putV d (maskLanes (x.getP p) (x.getV d) fun _ => q.scalar.bits.setWidth 32) r
  | .vext d a l p =>
    let y := { x with gPend := x.gPend.erase d.toNat }
    if (x.getP p).getLsbD l.toNat then
      { y.setG d ⟨(lane (x.getV a) l.toNat).setWidth 128, false⟩ with
        gRdy := if d = 0 then y.gRdy else y.gRdy.put d.toNat r }
    else y
  | .vperm d a b p =>
    x.putV d (maskLanes (x.getP p) (x.getV d) fun k => lane (x.getV a) (bitsN (lane (x.getV b) k) 3 0)) r
  | .vpack d a b p => x.putV d (maskLanes (x.getP p) (x.getV d) (packLane (x.getV a) (x.getV b))) r
  | .vunpk d a b p => x.putV d (maskLanes (x.getP p) (x.getV d) fun k => unpackLane (x.getV a) (lane (x.getV b) k)) r
  | .vreda d a p =>
    let v := treeReduce (fadd32 q.frnd) 4 (reduceLanes (x.getP p) (x.getV a))
    (x.putV d (maskLanes 1 (x.getV d) fun _ => v.1.getD 0) r).orFlags v.2
  | .vredx d a p =>
    let v := treeReduce (fun u w => (fmax32 u w, 0)) 4 (reduceLanes (x.getP p) (x.getV a))
    x.putV d (maskLanes 1 (x.getV d) fun _ => v.1.getD nan32) r
  | .pset d _ => x.putP d (q.scalar.bits.setWidth 16) r
  | .pand d a b => x.putP d (x.getP a &&& x.getP b) r
  | .por d a b => x.putP d (x.getP a ||| x.getP b) r
  | .pnot d a => x.putP d (~~~x.getP a) r
  | _ => x

end Sys2Proof.Machine
end

