-- ==== Sys2Proof/Machine/Vector.lean ====
section
/-! DEFINITION. Vector instructions in the queue: entry with its checks and captures (R356), vector memory (R372 to R375),
stream reads (R376), heap sifts (R377, R378), and what the head of a queue does when a lane group takes it (R68). The
meanings of the vector instructions put them into the queue; VECTOR_ARBITRATE carries them out. -/
namespace Sys2Proof.Machine

/-! ### Entry (R356) -/

/-- Every v register named lies in a held position (R150). -/
def Strand.holdsAll (x : Strand) (i : Instr) : Bool := (vNames i).all fun r => x.holds r.toNat

/-- An entry still queued will write one of these registers or predicates. -/
def Strand.vqWrites (x : Strand) (rs : List (BitVec 7)) (ps : List (BitVec 3)) : Bool :=
  x.vq.any fun q => (match vWrite q.ins with | some d => rs.contains d | none => false) ||
    match pWrite q.ins with | some d => ps.contains d | none => false

/-- At tick `t` the latency of a result in one of these registers or predicates has not passed (R357). -/
def Strand.vLate (x : Strand) (rs : List (BitVec 7)) (ps : List (BitVec 3)) (t : Nat) : Bool :=
  rs.any (fun r => decide (t < x.vRdy.getD r.toNat 0)) || ps.any fun p => decide (t < x.vRdy.getD (128 + p.toNat) 0)

/-- The queue takes no entry now: it is full (R356), or passes of the bobbin come first (R162). -/
def Strand.vqFull (x : Strand) : Bool := decide (16 ≤ x.vq.length) || x.bobbin.active

/-- The entry that the strand makes now: captured scalar operand, FRND, FTOP (R356). -/
def Strand.entry (x : Strand) (i : Instr) (g : BitVec 6) : VqEntry := ⟨i, x.pc, x.getG g, x.frnd, x.ftop, none⟩

/-! ### Checks of vector memory (R177, R372 to R374) -/

/-- The raw offset of lane i's slice at window offset o (R177). -/
def laneRaw (i o : Nat) : Nat := 0x30000 + 0x1000 * i + o

/-- The check of one lane of a lane-private access at window address `a`; `tv` is the address that faults of the lane's own
bytes report (R177, R374). -/
def laneCheck (s : State) (n : Nat) (x : Strand) (g : GReg) (reg : BitVec 6) (a i tv : Nat) (write : Bool) : Option Trap :=
  let c := capOf g.bits
  let o := a - 0x8000000
  let need := if write then permStore else permLoad
  let a64 := BitVec.ofNat 64
  let bytes := (List.range 4).map fun b => laneRaw i o + b
  if !g.tagged then some (.precise 0x02 (reg.setWidth 64))
  else if c.domain ≠ x.id.part then some (.precise 0x05 (a64 a))
  else if !c.has need || c.has permExec then some (.precise 0x04 (a64 a))
  else if decide (o < 0x1000) && bytes.any (· < x.selv) then some (.precise 0x04 (a64 tv))
  else if (a : Int) < c.base ∨ c.top < a + 4 then some (.precise 0x03 (a64 a))
  else if o % 4 ≠ 0 then some (.precise 0x06 (a64 a))
  else if 0x1000 ≤ o then some ⟨0x09, a64 a, transDetail false write, false⟩
  else if bytes.any (fun r => s.locked x.id.vd (clusterOf n) write (.scratch n r)) then some (.precise 0x08 (a64 tv))
  else if bytes.any (x.spanEnd ≤ ·) then some ⟨0x09, a64 tv, transDetail false write, false⟩
  else none

/-- An address lies in the lane-private window. -/
def inLanes (a : Nat) : Bool := decide (0x8000000 ≤ a) && decide (a < 0x8010000)

/-- The unmasked lanes. -/
def lanesOf (p : BitVec 16) : List Nat := (List.range 16).filter p.getLsbD

/-- The scalar lane address of lane i (R177). -/
def laneAddr (i o : Nat) : Nat := 0x8000000 + 0x1000 * i + o

/-- The check of VLD and VST at an address: lane-private for every lane, else 64 bytes (R372); of VLDL and VSTL for the unmasked
lanes. -/
def spanCheck (s : State) (n : Nat) (x : Strand) (reg : BitVec 6) (a : Nat) (p : BitVec 16) (write : Bool) : Option Trap :=
  if inLanes a then
    (lanesOf p).findSome? fun i => laneCheck s n x (x.getG reg) reg a i (laneAddr i (a - 0x8000000)) write
  else checkRef s n x ⟨reg, a, 64, if write then permStore else permLoad, write, 64, true, false⟩

/-- The address of one lane of VGATH and VSCAT (R374). -/
def gatherAddr (base : W64) (off : W32) : Nat := (base + off.signExtend 64).toNat

/-- The check of VGATH and VSCAT: lanes in ascending order, the first that fails raises its first cause (R374). -/
def gatherCheck (s : State) (n : Nat) (x : Strand) (reg : BitVec 6) (va : W512) (p : BitVec 16) (write : Bool) : Option Trap :=
  (lanesOf p).findSome? fun i =>
    let a := gatherAddr (x.rd reg) (lane va i)
    if inLanes a then laneCheck s n x (x.getG reg) reg a i a write
    else checkRef s n x ⟨reg, a, 4, if write then permStore else permLoad, write, 4, true, false⟩

/-- The addresses whose regions the entry of a vector memory instruction looks up through `reg` (R204, R208): of VGATH and VSCAT those of the lanes up to
the first that fails. -/
def lookedUp (s : State) (n : Nat) (x : Strand) (i : Instr) : List Nat :=
  let lanes := fun (reg : BitVec 6) (va : W512) (p : BitVec 16) (write : Bool) =>
    ((lanesOf p).take ((lanesOf p).findIdx (fun k => (gatherCheck s n x reg va (1#16 <<< k) write).isSome) + 1)).map fun k =>
      gatherAddr (x.rd reg) (lane va k)
  match i with
  | .vld _ g _ o => [x.addrOf g (64 * o.toInt)]
  | .vst _ g _ o => [x.addrOf g (64 * o.toInt)]
  | .vldl _ g p o => if x.getP p = 0 then [] else [x.addrOf g (4 * o.toNat)]
  | .vstl _ g p o => if x.getP p = 0 then [] else [x.addrOf g (4 * o.toNat)]
  | .vgath _ a g p _ => lanes g (x.getV a) (x.getP p) false
  | .vscat _ a g p _ => lanes g (x.getV a) (x.getP p) true
  | _ => []

/-- The strand once the entry of a vector memory instruction has looked its regions up through `reg`. -/
def Strand.looksUp (x : Strand) (s : State) (n : Nat) (reg : BitVec 6) (i : Instr) : Strand :=
  (lookedUp s n x i).foldl (fun (y : Strand) a => y.looks s n reg a) x

/-- VLDL and VSTL reach the lane-private window only; elsewhere the check of 4 bytes at `a` comes before the 0x09 in the order of
R138, and with every lane masked no check is made (R177, R373). -/
def privateCheck (s : State) (n : Nat) (x : Strand) (reg : BitVec 6) (a : Nat) (p : BitVec 16) (write : Bool) : Option Trap :=
  if p = 0 then none
  else if inLanes a then spanCheck s n x reg a p write
  else
    let window : Trap := ⟨0x09, BitVec.ofNat 64 a, transDetail false write, false⟩
    match checkRef s n x ⟨reg, a, 4, if write then permStore else permLoad, write, 4, true, false⟩ with
    | some t => some (if t.cause = 0x08 ∨ t.cause = 0x09 then window else t)
    | none => some window

/-! ### Data of vector memory -/

/-- What a vector memory access finds. -/
inductive VGot where
  | ok (bs : List Byte) (s : State)
  | trap (t : Trap)

/-- A fill for core `n` (R186, R197): the sectors come from the last-level cache and are kept where every cache attribute
allows it, counted one by one (R35). A PREF with policy none walks the translation and does no more (R329). -/
def fillCore (s : State) (f : Fill) : HomeR Line :=
  if f.pref && f.cpol == 3 then .ok (Line.empty f.line) s
  else match llcRead s ⟨f.part, f.vd, f.cpol⟩ f.line f.sectors with
  | .fault g a => .fault g a
  | .held => .held
  | .ok l s1 =>
    let wb := match walk s (f.line * 256) false with
      | .leaf t _ => tState t != 2 && tCattr t == 0
      | .fault _ => false
    match s1.strand f.core with
    | some x =>
      if wb && s1.regionCattr (f.line * 256) == 0 && decide (f.cpol ≤ 1) then
        let old := x.cached f.line
        .ok l ((s1.setStrand f.core (x.count 5#4 (sectorCount (f.sectors &&& ~~~old.valid)))).cachePut f.core (old.fill l f.sectors))
      else .ok l s1
    | none => .ok l s1

/-- Read global bytes through the core cache, filling what it lacks in the same step (R186; log 9). -/
def globNow (n : Nat) (part vd cpol : Nat) : List (Nat × Nat × Nat) → State → HomeR Got
  | [], s => .ok ⟨[], false, none⟩ s
  | (line, off, len) :: rs, s =>
    let l := ((s.strand n).map (·.cached line)).getD (Line.empty line)
    let miss := l.lacks off len
    let r : HomeR Line := if miss = 0 then .ok l s
      else match fillCore s ⟨n, part, vd, line, miss, cpol, false⟩ with
        | .ok m s1 => .ok (l.fill m miss) s1
        | q => q
    match r with
    | .fault f _ => .fault f (line * 256 + off)
    | .held => .held
    | .ok l s1 =>
      match globNow n part vd cpol rs s1 with
      | .ok g s2 => .ok ⟨(List.range len).map (fun i => l.byte (off + i)) ++ g.bytes, false,
          (match l.poisonAt off len with | some a => some a | none => g.poison)⟩ s2
      | q => q

/-- Load `size` bytes at a checked address, widened through its view under the environment of `x` (R179, R372). -/
def vLoad (s : State) (n : Nat) (x : Strand) (a size cpol : Nat) : VGot :=
  let v := (placeOf n a).view
  let rr := rawRange n a size
  let base := rr.1.offset
  let got := match rr.1 with
    | .glob g => globNow n x.id.part x.id.vd cpol (runsOf g rr.2) s
    | l => homeRead s ⟨x.id.part, x.id.vd, cpol⟩ l rr.2
  match got with
  | .fault f b => .trap ⟨0x09, BitVec.ofNat 64 (a + (b - base)), transDetail f false, false⟩
  | .held => .ok [] s
  | .ok g s1 =>
    match g.poison with
    | some p => .trap (.precise 0x0B (BitVec.ofNat 64 (a + if v = 0 then p - base else (p - base) / viewBytes v * 4)))
    | none =>
      match slotClash s1 n x a size with
      | some t => .trap t
      | none => .ok (widenBytes x.ftop v g.bytes) s1

/-- The bytes of lane i of a loaded register. -/
def lane4 (bs : List Byte) (i : Nat) : W32 := BitVec.ofNat 32 (numOf ((bs.drop (4 * i)).take 4))

/-- Load lanes one after another, each from its own address; poison is reported at the address `own` that the lane formed (R177,
R374). -/
def loadLanes (n : Nat) (x : Strand) (cpol : Nat) (own : Nat → Nat) :
    List (Nat × Nat) → State → Except Trap (List (Nat × W32) × State)
  | [], s => .ok ([], s)
  | (i, a) :: t, s =>
    match vLoad s n x a 4 cpol with
    | .trap e => .error (if e.cause = 0x0B then { e with tval := BitVec.ofNat 64 (own i) } else e)
    | .ok bs s1 =>
      match loadLanes n x cpol own t s1 with
      | .ok r => .ok ((i, lane4 bs 0) :: r.1, r.2)
      | .error e => .error e

/-- The lane-private address of lane i as a scalar address (R176). -/
def lanePairs (p : BitVec 16) (o : Nat) : List (Nat × Nat) := (lanesOf p).map fun i => (i, laneAddr i o)

/-- Lane values by lane number, the old ones where a lane has none. -/
def withLanes (old : W512) (vs : List (Nat × W32)) : W512 :=
  ofLanes fun i => match vs.find? (·.1 == i) with
    | some v => v.2
    | none => lane old i

/-- A store of a queued instruction: checked already; its own scratchpad lines are present. -/
def vStore (s : State) (n : Nat) (x : Strand) (a : Nat) (bs : List Byte) (cpol : Nat) : State :=
  (storeAt s n x a bs false cpol).getD s

/-- The addresses of the lanes of VGATH and VSCAT: a lane in the lane-private window reaches its own slice (R374). -/
def gatherPairs (base : W64) (va : W512) (p : BitVec 16) : List (Nat × Nat) :=
  (lanesOf p).map fun i =>
    let a := gatherAddr base (lane va i)
    (i, if inLanes a then laneAddr i (a - 0x8000000) else a)

/-! ### VSIFT (R377, R378) -/

/-- A heap entry: value and index. -/
abbrev Pair := W32 × W32

/-- Pair a ranks below pair b (R377). -/
def ranksBelow (a b : Pair) : Bool := precedes b a

/-- Exchange two entries. -/
def swapAt (l : List Pair) (i j : Nat) : List Pair := (l.set i (l.getD j (0, 0))).set j (l.getD i (0, 0))

/-- The insertion of R378: the entry moves up while it ranks below its parent. -/
def siftUp : Nat → Nat → List Pair → List Pair
  | 0, _, l => l
  | f + 1, j, l =>
    if j = 0 then l
    else if ranksBelow (l.getD j (0, 0)) (l.getD ((j - 1) / 2) (0, 0)) then siftUp f ((j - 1) / 2) (swapAt l j ((j - 1) / 2))
    else l

/-- The displacement of R378: entry 0 moves down while its weaker child ranks below it. -/
def siftDown : Nat → Nat → List Pair → List Pair
  | 0, _, l => l
  | f + 1, j, l =>
    let a := 2 * j + 1
    if l.length ≤ a then l
    else
      let c := if a + 1 < l.length && ranksBelow (l.getD (a + 1) (0, 0)) (l.getD a (0, 0)) then a + 1 else a
      if ranksBelow (l.getD c (0, 0)) (l.getD j (0, 0)) then siftDown f c (swapAt l c j) else l

/-- One heap sift: the entries and whether a NaN was refused (R378). -/
def heapSift (k : Nat) (l : List Pair) (c : Pair) : List Pair × Bool :=
  if isNan32 c.1 then (l, true)
  else if l.length < k then (siftUp 64 l.length (l ++ [c]), false)
  else if precedes c (l.getD 0 (0, 0)) then (siftDown 64 0 (l.set 0 c), false)
  else (l, false)

/-- The check of one lane's heap (R378). -/
def siftCheck (s : State) (n : Nat) (x : Strand) (i o : Nat) : Option Trap :=
  let tv := BitVec.ofNat 64 (laneAddr i o)
  let h := numOf (s.scratchGot n (laneRaw i o) 8).bytes
  let k := h % 256
  let valid := h / 256 % 256
  let bytes := (List.range (8 + 8 * min k 64)).map fun b => laneRaw i o + b
  if laneRaw i o < x.selv then some (.precise 0x04 tv)
  else if o % 8 ≠ 0 then some (.precise 0x06 tv)
  else if bytes.any (fun r => s.locked x.id.vd (clusterOf n) true (.scratch n r)) then some (.precise 0x08 tv)
  else if 0x1000 ≤ o + 8 ∨ x.spanEnd < laneRaw i o + 8 then some ⟨0x09, tv, 0, false⟩
  else if k = 0 ∨ 64 < k ∨ k < valid ∨ 0x1000 < o + 8 + 8 * k then some ⟨0x09, tv, 0, false⟩
  else if x.spanEnd < laneRaw i o + 8 + 8 * k then some ⟨0x09, tv, 0, false⟩
  else if (s.scratchGot n (laneRaw i o) (8 + 8 * k)).poison.isSome then some (.precise 0x0B tv)
  else none

/-- Carry out one lane of VSIFT. -/
def siftLane (s : State) (n i o : Nat) (c : Pair) : State × Bool :=
  let r := laneRaw i o
  let h := numOf (s.scratchGot n r 8).bytes
  let k := h % 256
  let valid := h / 256 % 256
  let bs := (s.scratchGot n (r + 8) (8 * valid)).bytes
  let l : List Pair := (List.range valid).map fun j => (lane4 bs (2 * j), lane4 bs (2 * j + 1))
  let f := heapSift k l c
  let h' := h - valid * 256 + f.1.length * 256 + if f.2 && h / 2 ^ 16 % 2 = 0 then 2 ^ 16 else 0
  let out := bytesOf h' 8 ++ f.1.flatMap fun p => bytesOf p.1.toNat 4 ++ bytesOf p.2.toNat 4
  ((s.touch (.scratch n r) out.length).scratchPut n r out false, f.2)

/-! ### The head of a queue -/

/-- The scratchpad lines of core `n` that an access touches are absent under lazy restore (R68, R129). -/
def Strand.linesAbsent (x : Strand) (n : Nat) (as : List (Nat × Nat)) : Bool :=
  as.any fun p => match (rawRange n p.1 p.2).1 with
    | .scratch c o => c == n && x.absentLine o (rawRange n p.1 p.2).2
    | _ => false

/-- The accesses of a head: address and size. -/
def vAccesses (x : Strand) (q : VqEntry) : List (Nat × Nat) :=
  let base : W64 := q.scalar.bits.setWidth 64
  let span := fun (a : Nat) (p : BitVec 16) =>
    if inLanes a then (lanePairs p (a - 0x8000000)).map fun r => (r.2, 4) else [(a, 64)]
  match q.ins with
  | .vld _ _ _ o => span (base + (o.signExtend 64 <<< 6)).toNat 0xFFFF
  | .vst _ _ _ o => span (base + (o.signExtend 64 <<< 6)).toNat 0xFFFF
  | .vldl _ _ p o => span (base + (o.setWidth 64 <<< 2)).toNat (x.getP p)
  | .vstl _ _ p o => span (base + (o.setWidth 64 <<< 2)).toNat (x.getP p)
  | .vgath _ a _ p _ => (gatherPairs base (x.getV a) (x.getP p)).map fun r => (r.2, 4)
  | .vscat _ a _ p _ => (gatherPairs base (x.getV a) (x.getP p)).map fun r => (r.2, 4)
  | .vsift d _ _ p => (lanesOf (x.getP p)).map fun i => (laneAddr i (lane (x.getV d) i).toNat, 520)
  | _ => []

/-- Bytes that a VSRD pops (R376). -/
def vsrdBytes (ty : Nat) : Nat := if ty = 3 then 32 else if ty = 1 ∨ ty = 2 then 16 else 64

/-- The spool that a VSRD reads from, where its stream register is bound. -/
def headSpool (s : State) (n : Nat) (x : Strand) (q : VqEntry) : Option (Stream × Option Spool) :=
  match q.ins with
  | .vsrd _ r _ =>
    let b := x.stream r.toNat
    if b.bound then some (b, s.spool ⟨x.id.part, x.id.vd, n, b.handle⟩) else none
  | _ => none

/-- A granule or a scratchpad line that the head of a queue names is absent under lazy restore (R68, R129). -/
def headLazy (s : State) (n : Nat) (x : Strand) (q : VqEntry) : Bool :=
  (vNames q.ins).any (fun r => x.absentReg r.toNat) || x.linesAbsent n (vAccesses x q) ||
  match headSpool s n x q with
  | some (b, some sp) => sp.filled b.slot &&
      (x.absentLine (sp.base + b.slot * sp.bytes) sp.bytes || x.absentLine (sp.recs + 32 * b.slot) 32)
  | _ => false

/-- A head that reads memory waits while a request of its own strand is on its way to the bytes, or held there (R218, R224). -/
def headBehind (s : State) (n : Nat) (x : Strand) (q : VqEntry) : Bool :=
  match vWrite q.ins with
  | some _ => (vAccesses x q).any fun p =>
      let r := rawRange n p.1 p.2
      s.ownAhead n r.1 || s.ownAhead n (r.1.plus (r.2 - 1))
  | none => false

/-- Where `vRdy` keeps the tick at which the heaps of the latest VSIFT are ready for a later reader (R357). -/
def siftKey : Nat := 136

/-- The head of a queue is ready at tick `t` (R68): operands ready, the heaps of an earlier VSIFT where it reads or writes memory, its stream
element counted, nothing of it absent, the strand's earlier writes to its bytes performed. -/
def headReady (s : State) (n : Nat) (x : Strand) (q : VqEntry) (t : Nat) : Bool :=
  (vReads q.ins).all (fun r => decide (x.vRdy.getD r.toNat 0 ≤ t)) &&
  (pReads q.ins).all (fun p => decide (x.vRdy.getD (128 + p.toNat) 0 ≤ t)) &&
  (!isVectorMemory q.ins || decide (x.vRdy.getD siftKey 0 ≤ t)) &&
  !headLazy s n x q && !headBehind s n x q &&
  match headSpool s n x q with
  | some (b, o) => ((o.map fun sp => sp.filled b.slot).getD false) && (acquireWait s n 1).isNone
  | none => true

/-- How a strand's wait for its queue counts (R78, R93): excluded while the head waits for a lazy fill or for a write that a
migration holds, else as the instruction says. -/
def queueWait (s : State) (n : Nat) (x : Strand) (k : WaitKind) : WaitKind :=
  match x.vq.head? with
  | some q =>
    if headLazy s n x q then .lazy
    else if headBehind s n x q && s.ackWait n == .excluded then .excluded
    else k
  | none => k

/-- A vector instruction without memory access retires at entry; `g` is its scalar operand, `d` a g register that it will
write (R356). -/
def enterVec (i : Instr) (g d : BitVec 6) (s : State) : Out :=
  word s fun s n x =>
    if !x.holdsAll i then illegal s n x
    else if x.pending [g, d] || x.vqFull then .block s (queueWait s n x .own)
    else
      let x := s.ready n x [g, d]
      let y := { x with vq := x.vq ++ [x.entry i g], gPend := if d = 0 then x.gPend else x.gPend ++ [d.toNat] }
      .done (s.retire n y 1)

/-- What the checks at an entry read, v registers and predicates (R356): they wait for the queued writers of those, until their latency has
passed, and for the granules of those that lazy restore has still to fill (R129). -/
def entryWait (s : State) (n : Nat) (x : Strand) (rs : List (BitVec 7)) (ps : List (BitVec 3)) : Option WaitKind :=
  if x.vqWrites rs ps || x.vLate rs ps x.now then some (queueWait s n x .own)
  else if rs.any fun r => x.absentReg r.toNat then some .lazy
  else none

/-- A vector store retires at entry, after its checks, which read the registers `rs` and the predicates `ps` (R356). -/
def enterStore (i : Instr) (g : BitVec 6) (check : State → Nat → Strand → Option Trap) (rs : List (BitVec 7)) (ps : List (BitVec 3))
    (s : State) : Out :=
  word s fun s n x =>
    if !x.holdsAll i then illegal s n x
    else if x.pending [g] || x.vqFull then .block s (queueWait s n x .own)
    else match entryWait s n x rs ps with
    | some k => .block s k
    | none =>
      let x := (s.ready n x [g]).looksUp s n g i
      match check s n x with
      | some t => .trap x t
      | none => .done (s.retire n { x with vq := x.vq ++ [x.entry i g] } 1)

/-- A vector instruction that retires only when it has completed: `check` is made at entry; the queue's bind sets `stash`
to [1] (R356). `k` is how its wait counts; the check reads the registers `rs` and the predicates `ps`. -/
def enterBlocking (i : Instr) (g : BitVec 6) (k : WaitKind) (check : State → Nat → Strand → Option Trap) (rs : List (BitVec 7))
    (ps : List (BitVec 3)) (s : State) : Out :=
  word s fun s n x =>
    if x.stash = [1] then .done (s.retire n x 1)
    else if x.stash = [0] then .block s (queueWait s n x k)
    else if !x.holdsAll i then illegal s n x
    else if x.pending [g] || x.vqFull then .block s (queueWait s n x .own)
    else match entryWait s n x rs ps with
    | some w => .block s w
    | none =>
      let x := (s.ready n x [g]).looksUp s n g i
      match check s n x with
      | some t => .trap x t
      | none =>
        let y := { x with vq := x.vq ++ [x.entry i g], stash := [0] }
        .block (s.setStrand n y) (queueWait s n y k)

/-- What a head does. -/
inductive VOut where
  | done (s : State)
  | trap (t : Trap)

/-- Write a loaded register. -/
def loadDone (s : State) (n : Nat) (d : BitVec 7) (w : W512) : VOut := .done (s.onStrand n fun y => y.putV d w (s.tick + 1))

/-- The head of core `n`'s queue is carried out (R356, R372 to R378). `x` is its strand. -/
def vecRun (s : State) (n : Nat) (x : Strand) (q : VqEntry) : VOut :=
  let e := q.env x
  let base : W64 := q.scalar.bits.setWidth 64
  let lanesLoad := fun (d : BitVec 7) (cpol : Nat) (own : Nat → Nat) (ps : List (Nat × Nat)) =>
    match loadLanes n e cpol own ps s with
    | .error t => VOut.trap t
    | .ok r => loadDone r.2 n d (withLanes (x.getV d) r.1)
  let lanesStore := fun (d : BitVec 7) (cpol : Nat) (ps : List (Nat × Nat)) =>
    VOut.done (ps.foldl (fun (z : State) p => vStore z n e p.2 (bytesOf (lane (x.getV d) p.1).toNat 4) cpol) s)
  match q.ins with
  | .vld d _ c o =>
    let a := (base + (o.signExtend 64 <<< 6)).toNat
    if inLanes a then lanesLoad d c.toNat (laneAddr · (a - 0x8000000)) (lanePairs 0xFFFF (a - 0x8000000))
    else match vLoad s n e a 64 c.toNat with
      | .trap t => .trap t
      | .ok bs s1 => loadDone s1 n d (ofLanes (lane4 bs))
  | .vst d _ c o =>
    let a := (base + (o.signExtend 64 <<< 6)).toNat
    if inLanes a then lanesStore d c.toNat (lanePairs 0xFFFF (a - 0x8000000))
    else .done (vStore s n e a (bytesOf (x.getV d).toNat 64) c.toNat)
  | .vldl d _ p o =>
    let w := (base + (o.setWidth 64 <<< 2)).toNat - 0x8000000
    lanesLoad d 0 (laneAddr · w) (lanePairs (x.getP p) w)
  | .vstl d _ p o => lanesStore d 0 (lanePairs (x.getP p) ((base + (o.setWidth 64 <<< 2)).toNat - 0x8000000))
  | .vgath d a _ p c => lanesLoad d c.toNat (fun i => gatherAddr base (lane (x.getV a) i)) (gatherPairs base (x.getV a) (x.getP p))
  | .vscat d a _ p c => lanesStore d c.toNat (gatherPairs base (x.getV a) (x.getP p))
  | .vsrd d r p =>
    let b := x.stream r.toNat
    let len := vsrdBytes b.typ
    if !b.bound then .trap (.precise 0x01 (((encodeWord q.ins).getD 0).setWidth 64)) else
    match s.spool ⟨x.id.part, x.id.vd, n, b.handle⟩ with
    | none => .trap (.precise 0x01 (((encodeWord q.ins).getD 0).setWidth 64))
    | some sp =>
      if sp.bytes < b.offset + len then .trap (.precise 0x06 (BitVec.ofNat 64 (sp.base + b.slot * sp.bytes + b.offset)))
      else match popBytes s n x b len q.ftop with
        | .trap t => .trap t
        | .wait _ => .done s
        | .got bs rec sp =>
          let out := streamOut q.ftop b.typ bs
          let y := x.join n ⟨rec.fill, rec.fillOrigin, rec.fillOrigin, rec.ovf, .core n⟩
          let z := (y.acquireAt 1).putV d (maskLanes (x.getP p) (x.getV d) (lane4 out)) (s.tick + 1)
          .done (advanceStream (s.setStrand n z) n r.toNat b sp len)
  | .vsift d a b p =>
    let ls := lanesOf (x.getP p)
    match ls.findSome? (fun i => siftCheck s n x i (lane (x.getV d) i).toNat) with
    | some t => .trap t
    | none =>
      let r := ls.foldl (fun (z : State × Bool) i =>
        let q := siftLane z.1 n i (lane (x.getV d) i).toNat (lane (x.getV a) i, lane (x.getV b) i)
        (q.1, z.2 || q.2)) (s, false)
      .done (r.1.onStrand n fun y => { y.orFlags (flagIf r.2 flRlnan) with vRdy := y.vRdy.put siftKey (s.tick + vLatency q.ins) })
  | _ => .done (s.setStrand n (vecEffect q s.tick x))

/-- The 64-byte sectors that accesses of core `n` touch. -/
def sectorsOf (n : Nat) (as : List (Nat × Nat)) : List (Nat × Nat) :=
  (as.map fun a => let l := (rawRange n a.1 a.2).1
                   (l.line256.1, l.offset / 64 + 2 ^ 60 * l.line256.2)).eraseDups

/-- Issue cycles at the lane group (R357). -/
def issueCycles (n : Nat) (x : Strand) (q : VqEntry) : Nat :=
  match q.ins with
  | .vsift _ _ _ _ => 14
  | .vgath _ _ _ _ _ => max 1 (sectorsOf n (vAccesses x q)).length
  | .vscat _ _ _ _ _ => max 1 (sectorsOf n (vAccesses x q)).length
  | _ => 1

/-- A blocking instruction whose strand waits at it in the queue (R356). -/
def isBlocking : Instr → Bool
  | .vld _ _ _ _ => true
  | .vldl _ _ _ _ => true
  | .vgath _ _ _ _ _ => true
  | .vsrd _ _ _ => true
  | .vsift _ _ _ _ => true
  | _ => false

/-- A queued command is a later replay of the bobbin than its word `w` (R163). -/
def Cmd.laterThan (c : Cmd) (w : Nat × Nat) : Bool :=
  match c.fromBob with
  | some v => decide (w.1 < v.1) || (v.1 == w.1 && decide (w.2 < v.2))
  | none => false

/-- A word of the bobbin faults in a queue (R163): the trap is imprecise, and the word and every later replay leave their queues, with
the g registers that they would have written. -/
def Strand.discardReplays (x : Strand) (w : Nat × Nat) (t : Trap) : Strand :=
  let gone := x.vq.filter (·.fromBob.isSome)
  let dead := gone.filterMap fun q => match q.ins with
    | .vext d _ _ _ => some d.toNat
    | _ => none
  let b := x.bobbin
  let fewer := fun c : Cmd => { c with after := ((x.vq.take c.after).filter (·.fromBob.isNone)).length }
  { x.addAsync t.cause t.tval t.detail with
    vq := x.vq.filter (·.fromBob.isNone)
    mq := (x.mq.filter fun c => !c.laterThan w).map fewer
    cq := x.cq.map fewer
    gPend := dead.foldl (fun (l : List Nat) d => l.erase d) x.gPend
    bobbin := { b with active := false, fault := true, pass := w.1, word := w.2 } }

/-- An instruction that its strand waits for has completed: it retires at the strand's next turn, a VSIFT once its latency has passed, own work
like the wait before it (R78, R356, R357). -/
def State.ripen (s : State) (n : Nat) (i : Instr) : State :=
  s.onStrand n fun y =>
    let z := match i with
      | .vsift _ _ _ _ => y.settleAs 0 (s.tick + vLatency i) (s.divOf n)
      | _ => y
    { z with stash := [1] }

/-- A head whose source value joins its strand's chain (R84). -/
def joinsChain : Instr → Bool
  | .vsrd _ _ _ => true
  | _ => false

/-- Bind the head of core `n`'s queue: it leaves the queue and is carried out. What the strand has waited so far is in its chain before a join
(R84). A trap is precise at the waiting strand, with its gang
(R67), or imprecise where the bobbin issued the word, whose replays end (R163). -/
def bindHead (s : State) (n : Nat) : State :=
  match s.strand n with
  | none => s
  | some x0 =>
    match x0.vq with
    | [] => s
    | q :: rest =>
      let blk := q.fromBob.isNone && isBlocking q.ins
      let x := (if blk || joinsChain q.ins then s.settleMember (x0.members n) s.tick n x0 else x0).count 2#4 1
      let pass := fun c : Cmd => { c with after := c.after - 1 }
      let x := { x with vq := rest, mq := x.mq.map pass, cq := x.cq.map pass }
      let s1 := s.setStrand n x
      match vecRun s1 n x q with
      | .done s2 => if blk then s2.ripen n q.ins else s2
      | .trap t =>
        match q.fromBob with
        | some w =>
          (x.mq.filter (·.laterThan w)).foldl (fun (z : State) c => z.dropLocks n (·.cmd == c.id))
            (s1.setStrand n (x.discardReplays w t))
        | none => s1.trapAt n x t

/-! ### Meanings: entry to the queue -/

/-- VADD (R359). -/
def execVadd (d a b : BitVec 7) (p : BitVec 3) (s : State) : Out := enterVec (.vadd d a b p) 0 0 s
/-- VSUB (R359). -/
def execVsub (d a b : BitVec 7) (p : BitVec 3) (s : State) : Out := enterVec (.vsub d a b p) 0 0 s
/-- VMUL (R359). -/
def execVmul (d a b : BitVec 7) (p : BitVec 3) (s : State) : Out := enterVec (.vmul d a b p) 0 0 s
/-- VFMA (R359). -/
def execVfma (d a b : BitVec 7) (p : BitVec 3) (s : State) : Out := enterVec (.vfma d a b p) 0 0 s
/-- VFMS (R359). -/
def execVfms (d a b : BitVec 7) (p : BitVec 3) (s : State) : Out := enterVec (.vfms d a b p) 0 0 s
/-- VFNMA (R359). -/
def execVfnma (d a b : BitVec 7) (p : BitVec 3) (s : State) : Out := enterVec (.vfnma d a b p) 0 0 s
/-- VMIN (R258, R359). -/
def execVmin (d a b : BitVec 7) (p : BitVec 3) (s : State) : Out := enterVec (.vmin d a b p) 0 0 s
/-- VMAX (R258, R359). -/
def execVmax (d a b : BitVec 7) (p : BitVec 3) (s : State) : Out := enterVec (.vmax d a b p) 0 0 s
/-- VABS (R360). -/
def execVabs (d a : BitVec 7) (p : BitVec 3) (s : State) : Out := enterVec (.vabs d a p) 0 0 s
/-- VNEG (R360). -/
def execVneg (d a : BitVec 7) (p : BitVec 3) (s : State) : Out := enterVec (.vneg d a p) 0 0 s
/-- VRSQE (R361). -/
def execVrsqe (d a : BitVec 7) (p : BitVec 3) (s : State) : Out := enterVec (.vrsqe d a p) 0 0 s
/-- VRCPE (R361). -/
def execVrcpe (d a : BitVec 7) (p : BitVec 3) (s : State) : Out := enterVec (.vrcpe d a p) 0 0 s
/-- VCMP (R363). -/
def execVcmp (c d : BitVec 3) (a b : BitVec 7) (p : BitVec 3) (s : State) : Out := enterVec (.vcmp c d a b p) 0 0 s
/-- VSEL (R364). -/
def execVsel (d a b : BitVec 7) (p : BitVec 3) (s : State) : Out := enterVec (.vsel d a b p) 0 0 s
/-- VBCST (R365). -/
def execVbcst (d : BitVec 7) (g : BitVec 6) (p : BitVec 3) (s : State) : Out := enterVec (.vbcst d g p) g 0 s
/-- VEXT (R366): its g register is pending until the result is written. -/
def execVext (d : BitVec 6) (a l : BitVec 7) (p : BitVec 3) (s : State) : Out := enterVec (.vext d a l p) 0 d s
/-- VAND (R362). -/
def execVand (d a b : BitVec 7) (p : BitVec 3) (s : State) : Out := enterVec (.vand d a b p) 0 0 s
/-- VOR (R362). -/
def execVor (d a b : BitVec 7) (p : BitVec 3) (s : State) : Out := enterVec (.vor d a b p) 0 0 s
/-- VXOR (R362). -/
def execVxor (d a b : BitVec 7) (p : BitVec 3) (s : State) : Out := enterVec (.vxor d a b p) 0 0 s
/-- VPERM (R367). -/
def execVperm (d a b : BitVec 7) (p : BitVec 3) (s : State) : Out := enterVec (.vperm d a b p) 0 0 s
/-- VSHL (R362). -/
def execVshl (d a b : BitVec 7) (p : BitVec 3) (s : State) : Out := enterVec (.vshl d a b p) 0 0 s
/-- VSHR (R362). -/
def execVshr (d a b : BitVec 7) (p : BitVec 3) (s : State) : Out := enterVec (.vshr d a b p) 0 0 s
/-- VSRA (R362). -/
def execVsra (d a b : BitVec 7) (p : BitVec 3) (s : State) : Out := enterVec (.vsra d a b p) 0 0 s
/-- VIADD (R362). -/
def execViadd (d a b : BitVec 7) (p : BitVec 3) (s : State) : Out := enterVec (.viadd d a b p) 0 0 s
/-- VISUB (R362). -/
def execVisub (d a b : BitVec 7) (p : BitVec 3) (s : State) : Out := enterVec (.visub d a b p) 0 0 s
/-- VIMUL (R362). -/
def execVimul (d a b : BitVec 7) (p : BitVec 3) (s : State) : Out := enterVec (.vimul d a b p) 0 0 s
/-- VIMIN (R362). -/
def execVimin (d a b : BitVec 7) (p : BitVec 3) (s : State) : Out := enterVec (.vimin d a b p) 0 0 s
/-- VIMAX (R362). -/
def execVimax (d a b : BitVec 7) (p : BitVec 3) (s : State) : Out := enterVec (.vimax d a b p) 0 0 s
/-- VCVT (R368). -/
def execVcvt (d a k : BitVec 7) (p : BitVec 3) (s : State) : Out := enterVec (.vcvt d a k p) 0 0 s
/-- VPACK (R369). -/
def execVpack (d a b : BitVec 7) (p : BitVec 3) (s : State) : Out := enterVec (.vpack d a b p) 0 0 s
/-- VUNPK (R370). -/
def execVunpk (d a b : BitVec 7) (p : BitVec 3) (s : State) : Out := enterVec (.vunpk d a b p) 0 0 s
/-- VREDA (R371). -/
def execVreda (d a : BitVec 7) (p : BitVec 3) (s : State) : Out := enterVec (.vreda d a p) 0 0 s
/-- VREDX (R371). -/
def execVredx (d a : BitVec 7) (p : BitVec 3) (s : State) : Out := enterVec (.vredx d a p) 0 0 s
/-- PSET (R379). -/
def execPset (d : BitVec 3) (g : BitVec 6) (s : State) : Out := enterVec (.pset d g) g 0 s
/-- PAND (R379). -/
def execPand (d a b : BitVec 3) (s : State) : Out := enterVec (.pand d a b) 0 0 s
/-- POR (R379). -/
def execPor (d a b : BitVec 3) (s : State) : Out := enterVec (.por d a b) 0 0 s
/-- PNOT (R379). -/
def execPnot (d a : BitVec 3) (s : State) : Out := enterVec (.pnot d a) 0 0 s

/-- VSRD (R376): blocked in a join until its element has come (R84). An unbound stream register is illegal (R157). -/
def execVsrd (d r : BitVec 7) (p : BitVec 3) (s : State) : Out :=
  enterBlocking (.vsrd d r p) 0 .join (fun s n x =>
    if (x.stream r.toNat).bound then none else some (.precise 0x01 (s.wordAt n x))) [] [] s

/-- VSIFT (R378). -/
def execVsift (d a b : BitVec 7) (p : BitVec 3) (s : State) : Out :=
  enterBlocking (.vsift d a b p) 0 .own (fun _ _ _ => none) [] [] s

/-- VLD (R372). -/
def execVld (d : BitVec 7) (g : BitVec 6) (c : BitVec 2) (o : BitVec 11) (s : State) : Out :=
  enterBlocking (.vld d g c o) g .own (fun s n x => spanCheck s n x g (x.addrOf g (64 * o.toInt)) 0xFFFF false) [] [] s

/-- VST (R372). -/
def execVst (d : BitVec 7) (g : BitVec 6) (c : BitVec 2) (o : BitVec 11) (s : State) : Out :=
  enterStore (.vst d g c o) g (fun s n x => spanCheck s n x g (x.addrOf g (64 * o.toInt)) 0xFFFF true) [] [] s

/-- VLDL (R373). -/
def execVldl (d : BitVec 7) (g : BitVec 6) (p : BitVec 3) (o : BitVec 10) (s : State) : Out :=
  enterBlocking (.vldl d g p o) g .own (fun s n x => privateCheck s n x g (x.addrOf g (4 * o.toNat)) (x.getP p) false)
    [] [p] s

/-- VSTL (R373). -/
def execVstl (d : BitVec 7) (g : BitVec 6) (p : BitVec 3) (o : BitVec 10) (s : State) : Out :=
  enterStore (.vstl d g p o) g (fun s n x => privateCheck s n x g (x.addrOf g (4 * o.toNat)) (x.getP p) true)
    [] [p] s

/-- VGATH (R374). -/
def execVgath (d a : BitVec 7) (g : BitVec 6) (p : BitVec 3) (c : BitVec 2) (s : State) : Out :=
  enterBlocking (.vgath d a g p c) g .own (fun s n x => gatherCheck s n x g (x.getV a) (x.getP p) false) [a] [p] s

/-- VSCAT (R374). -/
def execVscat (d a : BitVec 7) (g : BitVec 6) (p : BitVec 3) (c : BitVec 2) (s : State) : Out :=
  enterStore (.vscat d a g p c) g (fun s n x => gatherCheck s n x g (x.getV a) (x.getP p) true) [a] [p] s

end Sys2Proof.Machine
end

