-- ==== Sys2Proof/Machine/Engine.lean ====
section
/-! DEFINITION. ENQ.M, ENQ.C and ENQ.X (R401, R402, R410): decode (R293), body checks (R291, R382, R409), authority checks
(R292), range locks (R228), capture, and the queues. -/
namespace Sys2Proof.Machine

/-! ### Bodies -/

/-- Element size in bytes of a format code (R381, R384). -/
def fmtBytes (f : BitVec 2) : Nat := if f.toNat < 2 then 1 else if f = 2 then 2 else 4

/-- Variant .q of an operation (R294). -/
def isQ : CmdOp → Bool
  | .ldwQ => true
  | .mmaQ => true
  | .mmacQ => true
  | _ => false

/-- The short names LDW, MMA and ACCST of R381. -/
def isLdw : CmdOp → Bool
  | .ldw => true
  | .ldwQ => true
  | _ => false
/-- MM.MMA and MM.MMAC with their variants. -/
def isMma : CmdOp → Bool
  | .mma => true
  | .mmaQ => true
  | .mmac => true
  | .mmacQ => true
  | _ => false
/-- MM.ACCST with its variant. -/
def isAccst : CmdOp → Bool
  | .accst => true
  | .accstSat => true
  | _ => false

/-- The fields that R381 lists for a command, the others zero. -/
def matKeep (o : CmdOp) (m : MatBody) : MatBody :=
  let rows := o != .swap && o != .rldef
  let mem := isLdw o || isMma o || isAccst o || o == .rlst || o == .rlmrg
  { com := m.com
    addr := if mem then m.addr else 0
    aux := if isMma o || o == .rldef || o == .rlmrg then m.aux else 0
    pitch := if mem then m.pitch else if o == .accv then m.pitch &&& 0xFFFC else 0
    bound := if isMma o then m.bound else if isAccst o then m.bound &&& 0xFFE0 else 0
    handle := if isLdw o || isMma o || isAccst o then m.handle else 0
    row0 := if rows then m.row0 else 0
    nrowsM1 := if rows && o != .accv then m.nrowsM1 else 0
    kdimM1 := if isMma o || o == .rldef then m.kdimM1 else 0
    vcols := if o == .rldef || isAccst o || o == .rlmrg then m.vcols else 0
    src := if mem then m.src else 0
    fmt := if isLdw o || isMma o || isAccst o then m.fmt else 0
    chain := if isMma o then m.chain else 0
    slot2 := if o == .rlmrg then m.slot2 else 0
    slot := if isLdw o || o == .swap then 0 else m.slot
    link := o == .swap && m.link
    relslot := m.relslot && !(isLdw o || o == .swap || o == .rldef)
    relplane := m.relplane && isMma o }

/-- MM.ACCV's fields (R381): first register, registers, first segment of the slot. -/
def accvVd (m : MatBody) : Nat := bitsN m.pitch 15 9
/-- Registers written. -/
def accvRegs (m : MatBody) : Nat := bitsN m.pitch 8 5 + 1
/-- The first segment (R394). -/
def accvSeg (m : MatBody) : Nat := 8 * m.row0.toNat + bitsN m.pitch 4 2

/-- Rows of a command. -/
def matRows (m : MatBody) : Nat := m.nrowsM1.toNat + 1

/-- Elements of one row of the memory operand (R384, R387, R389, R393). -/
def rowElems (o : CmdOp) (m : MatBody) : Nat :=
  if isLdw o then 128 else if isMma o then m.kdimM1.toNat + 1 else m.vcols.toNat

/-- The cell number of R391 and the eastern units of a chained tile exist. -/
def eastExists (cell : Nat) (l : Nat) : Bool := decide (cell / 2 % 8 * 2 + cell % 2 + l ≤ 15)

/-- The checks of R382 on a matrix body of core `n`. -/
def matBodyOk (o : CmdOp) (m : MatBody) (n : Nat) (x : Strand) : Bool :=
  let rows := matRows m
  decide (matKeep o m = m) &&
  (o == .swap || o == .rldef || o == .accv || decide (m.row0.toNat + rows ≤ 128)) &&
  (m.fmt != 3 || isAccst o) &&
  (if isLdw o || isMma o || isAccst o then m.src.toNat ≤ 1 else if o == .rlst then m.src == 0
   else if o == .rlmrg then m.src == 0 || m.src == 3 else true) &&
  (!isQ o || (m.src == 0 && m.fmt.toNat ≤ 1)) &&
  (!m.com.narrow || (isAccst o && m.fmt.toNat ≤ 1)) &&
  (!(isAccst o || o == .rlmrg) || (m.vcols != 0 && decide (m.vcols.toNat ≤ 128))) &&
  (o != .rldef || (decide (m.kdimM1.toNat ≤ 63) && decide (m.vcols.toNat ≤ 128))) &&
  (isQ o || !(isLdw o || isMma o || isAccst o) || m.src != 0 || rows ≤ 1 ||
    decide (rowElems o m * fmtBytes m.fmt ≤ 8 * m.pitch.toNat)) &&
  (m.chain == 0 || eastExists (cellOf n) m.chain.toNat) &&
  (o != .accv || (decide (accvVd m + accvRegs m ≤ 128) && decide (accvSeg m + accvRegs m ≤ 1024) &&
    (List.range (accvRegs m)).all fun i => x.holds (accvVd m + i)))

/-- Set bits of a mask. -/
def bitCount (m : BitVec 16) : Nat := ((List.range 16).filter m.getLsbD).length

/-- The checks of R409 on a copy body. -/
def copyBodyOk (o : CmdOp) (w : W256) : Bool :=
  match o with
  | .copy => let b := decCopy w; b.len != 0 && b.dkind.toNat ≤ 1 && (b.dkind == 0 || bitsN b.dst 63 15 == 0)
  | .fill => let b := decCopy w; b.len != 0 && b.dkind.toNat ≤ 1 && (b.dkind == 0 || bitsN b.dst 63 15 == 0)
  | .mcast => let b := decMcast w
              b.len != 0 && b.dkind.toNat ≤ 1 && decide (1 ≤ bitCount b.mask) && decide (bitCount b.mask ≤ 12) &&
              (b.rk || b.koff == 0) && decide (b.koff.toNat % 32 = 0)
  | .peer => let b := decPeer w; b.len != 0 && (b.rk || b.rkOff == 0)
  | .gath => let b := decStride w; b.dkind.toNat ≤ 1 && (b.dkind == 0 || bitsN b.dst 56 15 == 0)
  | .scat => let b := decStride w; b.dkind == 0 && decide (b.rlenM1.toNat + 1 ≤ b.pitch.toNat)
  | _ => true

/-! ### Authority checks (R292) -/

/-- What a command names: a source, a destination or a knot; its address; for a range named by core a further address in the
cluster window; length; the raw bytes to lock; a 0x06 of the operand (R384). -/
structure Item where
  dest : Bool
  knot : Bool
  addr : Nat
  also : Option Nat
  len : Nat
  lock : Option (Loc × Nat)
  misaligned : Bool
deriving DecidableEq, Repr

/-- One authority against one range: tag, domain, permission, bounds (R204, R292). -/
def authFault (n : Nat) (x : Strand) (reg : BitVec 6) (g : GReg) (need : BitVec 12) (a len : Nat) : Option Trap :=
  let c := capOf g.bits
  let need := if (placeOf n a).view ≠ 0 then need ||| permView else need
  let a64 := BitVec.ofNat 64 a
  if reg = 0 then some (.precise 0x02 0)
  else if !g.tagged then some (.precise 0x02 (reg.setWidth 64))
  else if c.domain ≠ x.id.part then some (.precise 0x05 a64)
  else if !c.has need || c.has permExec then some (.precise 0x04 a64)
  else if (a : Int) < c.base ∨ c.top < a + len then some (.precise 0x03 a64)
  else none

/-- An authority: its register number and contents. -/
abbrev Auth := BitVec 6 × GReg

/-- An authority covers a range: it is tagged, of the strand's domain, and its bounds hold the range. -/
def authCovers (x : Strand) (q : Auth) (a len : Nat) : Bool :=
  let c := capOf q.2.bits
  q.1 != 0 && q.2.tagged && c.domain == x.id.part && decide (c.base ≤ (a : Int)) && decide ((a + len : Nat) ≤ c.top)

/-- The order of R138 among the causes of these checks. -/
def causeRank (c : Nat) : Nat :=
  if c = 0x02 then 0 else if c = 0x05 then 1 else if c = 0x04 then 2 else if c = 0x03 then 3 else if c = 0x06 then 4 else 5

/-- The first fault of a command in the order of R138. -/
def firstFault (ts : List Trap) : Option Trap :=
  ts.foldl (fun (o : Option Trap) t =>
    match o with
    | none => some t
    | some u => if causeRank t.cause < causeRank u.cause then some t else some u) none

/-- The fault of a knot that neither authority lets pass (R292): that of the one that covers it, else the first in the order of R138
of those that are given. -/
def knotFault (x : Strand) (src dst : Auth) (i : Item) (t u : Trap) : Option Trap :=
  match authCovers x src i.addr i.len, authCovers x dst i.addr i.len with
  | true, false => some t
  | false, true => some u
  | _, _ => if src.1 = 0 then some u else if dst.1 = 0 then some t else firstFault [t, u]

/-- The fault of an item: a range against its own authority, a knot against either. -/
def itemFault (n : Nat) (x : Strand) (src dst : Auth) (i : Item) : Option Trap :=
  let try1 := fun (q : Auth) (need : BitVec 12) =>
    match authFault n x q.1 q.2 need i.addr i.len, i.also with
    | none, _ => none
    | some t, none => some t
    | some t, some b => if (authFault n x q.1 q.2 need b i.len).isNone then none else some t
  let f := if i.knot then
      match try1 src permKnot, try1 dst permKnot with
      | none, _ => none
      | _, none => none
      | some t, some u => knotFault x src dst i t u
    else if i.dest then try1 dst (permStore ||| permEngine) else try1 src (permLoad ||| permEngine)
  match f with
  | some t => some t
  | none => if i.misaligned then some (.precise 0x06 (BitVec.ofNat 64 i.addr)) else none

/-- A core's device window at an offset (R173). -/
def deviceAddr (c off : Nat) : Nat := 0x100000000 + c * 2 ^ 26 + off

/-- The cluster window of a core of the issuer's cluster (R173, R292). -/
def clusterAddr (n c off : Nat) : Option Nat :=
  if clusterOf n = clusterOf c then some (0x10000000 + c % 16 * 2 ^ 26 + off) else none

/-- A range named by core. -/
def coreItem (n c off len : Nat) (dest knot : Bool) (lock : Option (Loc × Nat)) : Item :=
  ⟨dest, knot, deviceAddr c off, clusterAddr n c off, len, lock, false⟩

/-- A range named by address. -/
def addrItem (n a len : Nat) (dest misaligned : Bool) : Item := ⟨dest, false, a, none, len, some (rawRange n a len), misaligned⟩

/-- The range of a spool of core `c`. -/
def spoolItem (s : State) (n : Nat) (x : Strand) (c h : Nat) (dest : Bool) : Item :=
  match s.spool ⟨x.id.part, x.id.vd, c, h⟩ with
  | some sp => coreItem n c sp.base (sp.count * sp.bytes) dest false none
  | none => coreItem n c 0 1 dest false none

/-- Knot addresses of a command (R291): k0, then k0 + 32·k1_off modulo 2^64. -/
def knotAddrs (c : CmdCommon) : List Nat :=
  let k0 := c.k0.toNat * 32
  if c.knots = 0 then [] else if c.knots = 1 then [k0]
  else [k0, (((k0 : Int) + 32 * c.k1Off.toInt) % 2 ^ 64).toNat]

/-- The operands of a matrix command (R384, R398, R399). -/
def matItems (s : State) (n : Nat) (x : Strand) (o : CmdOp) (m : MatBody) : List Item :=
  let a := m.addr.toNat
  let v := (placeOf n a).view
  let bad := decide (a % 64 ≠ 0) || (v != 0 && v != m.fmt.toNat + 1)
  let step := (matRows m - 1) * (8 * m.pitch.toNat)
  if isLdw o || isMma o || isAccst o then
    if m.src = 1 then
      [if isAccst o then spoolItem s n x (bitsN m.bound 15 5) m.handle.toNat true else spoolItem s n x n m.handle.toNat false]
    else
      let row := rowElems o m * if v ≠ 0 then 4 else fmtBytes m.fmt
      [addrItem n a (if isQ o then 8 * m.pitch.toNat else step + row) (isAccst o) bad]
  else if o == .rlst || (o == .rlmrg && m.src == 0) then
    [addrItem n a (step + 520) (o == .rlst) (decide (a % 64 ≠ 0) || v != 0)]
  else []

/-- The MCBASE of a receiver (R242): the resident strand's, else the saved one's. -/
def State.mcbaseOf (s : State) (p v c : Nat) : Nat :=
  match s.ownerAt p v c with
  | some (x, _) => (x.csrAt 0x2A#7).toNat
  | none => 0

/-- The cores of a multicast. -/
def mcastCores (b : McastBody) : List Nat := entryCores (b.cluster.toNat, b.mask)

/-- The operands of a copy command (R403 to R406). -/
def copyItems (s : State) (n : Nat) (x : Strand) (o : CmdOp) (w : W256) : List Item :=
  let dst := fun (k : BitVec 2) (d len : Nat) =>
    if k = 1 then spoolItem s n x (d % 2 ^ 11) (d / 2 ^ 11 % 16) true else addrItem n d len true false
  match o with
  | .copy => let b := decCopy w
             [addrItem n b.src.toNat b.len.toNat false false, dst b.dkind b.dst.toNat b.len.toNat]
  | .fill => let b := decCopy w
             [dst b.dkind b.dst.toNat b.len.toNat]
  | .peer => let b := decPeer w
             [addrItem n b.src.toNat b.len.toNat false false]
  | .gath => let b := decStride w
             let rows := b.rowsM1.toNat + 1
             let rlen := b.rlenM1.toNat + 1
             [addrItem n b.src.toNat ((rows - 1) * b.pitch.toNat + rlen) false false,
              dst b.dkind b.dst.toNat (rows * rlen)]
  | .scat => let b := decStride w
             let rows := b.rowsM1.toNat + 1
             let rlen := b.rlenM1.toNat + 1
             [addrItem n b.src.toNat (rows * rlen) false false,
              addrItem n b.dst.toNat ((rows - 1) * b.pitch.toNat + rlen) true false]
  | .mcast =>
    let b := decMcast w
    addrItem n b.src.toNat b.len.toNat false false :: (mcastCores b).flatMap fun c =>
      let base := s.mcbaseOf x.id.part x.id.vd c
      (if b.dkind = 1 then [spoolItem s n x c b.handle.toNat true]
       else [coreItem n c (b.off.toNat + base) b.len.toNat true false (some (.scratch c (b.off.toNat + base), b.len.toNat))]) ++
      (if b.rk then [coreItem n c (b.koff.toNat + base) 32 false true none] else [])
  | _ => []

/-- A peer table entry (R243). -/
structure PeerEntry where
  base : Nat
  pages : Nat
  port : Nat
  inbound : Bool
  wrapped : Bool
  valid : Bool
deriving DecidableEq, Repr

/-- Read a peer table entry (R243). -/
def peerEntryOf (w : W256) : PeerEntry :=
  ⟨bitsN w 255 192, bitsN w 191 160, bitsN w 15 12, bit1 w 2, bit1 w 1, bit1 w 0⟩

/-- Entry `i` of a partition's peer table. -/
def State.peerEntry (s : State) (p i : Nat) : PeerEntry :=
  match s.part p with
  | some x => if h : i < 16 then peerEntryOf x.peers[i] else peerEntryOf 0
  | none => peerEntryOf 0

/-- The precise 0x04 of a CP.PEER (R409). -/
def peerFault (s : State) (x : Strand) (o : CmdOp) (w : W256) : List Trap :=
  if o == .peer then
    let e := s.peerEntry x.id.part (decPeer w).entry.toNat
    if !e.valid || e.inbound then [.precise 0x04 ((decPeer w).entry.setWidth 64)] else []
  else []

/-! ### ENQ (R401) -/

/-- The decode table of a strand's context (R297). -/
def State.tableOf (s : State) (x : Strand) : DecodeTable :=
  match s.launchOf x.id.part x.id.launch with
  | some l => l.tables.getD x.id.tmpl []
  | none => []

/-- What the checks of an ENQ give. -/
structure EnqPlan where
  op : CmdOp
  items : List Item
deriving DecidableEq, Repr

/-- Every check of R401 before the waits. `iw` is the ENQ word for TVAL. -/
def enqCheck (s : State) (n : Nat) (x : Strand) (qu : CmdQueue) (w : W256) (src dst : Auth) (iw : W64) : Except Trap EnqPlan :=
  let opc := bitsN w 9 0
  let e := tableEntry (s.tableOf x) opc
  let bad : Trap := .precise 0x10 (BitVec.ofNat 64 (opc + e.toNat * 2 ^ 16))
  match (if e.getLsbD 15 then cmdOpOf e else none) with
  | none => .error bad
  | some o =>
    if o.queue ≠ qu then .error bad
    else
      let bodyOk := match qu with
        | .matrix => matBodyOk o (decMat w) n x
        | .copy => copyBodyOk o w
        | .exchange => true
      if !(cmdZeroOk o w && (cmdInstr o w).wf && bodyOk) then .error (.precise 0x01 iw)
      else
        let items := match qu with
          | .matrix => matItems s n x o (decMat w)
          | .copy => copyItems s n x o w
          | .exchange => []
        let knots := (knotAddrs (decCommon w)).map fun a => (⟨false, true, a, none, 32, none, false⟩ : Item)
        match firstFault (peerFault s x o w ++ (items ++ knots).filterMap (itemFault n x src dst)) with
        | some t => .error t
        | none => .ok ⟨o, items⟩

/-- The ranges that an ENQ registers (R228). -/
def EnqPlan.locks (p : EnqPlan) (id : Nat) : List Lock :=
  p.items.filterMap fun i => i.lock.map fun l => ⟨id, i.dest, l.1, l.2⟩

/-- The range-lock table has room (R74: 32 entries). -/
def State.lockRoom (s : State) (n k : Nat) : Bool := decide ((s.cluster (clusterOf n)).locks.length + k ≤ 32)

/-- Register locks. -/
def State.addLocks (s : State) (n : Nat) (ls : List Lock) : State :=
  let c := s.cluster (clusterOf n)
  s.setCluster (clusterOf n) { c with locks := c.locks ++ ls }

/-- How many entries of the vector queue stand up to the last vector memory instruction that the program issued (R224). -/
def vecBefore (x : Strand) : Nat :=
  x.vq.length - (x.vq.reverse.takeWhile fun q => q.fromBob.isSome || !isVectorMemory q.ins).length

/-- The command that an ENQ captures at retirement (R89, R401). -/
def State.capture (s : State) (n : Nat) (x : Strand) (o : CmdOp) (w : W256) : Cmd :=
  let samples := if o == .mcast then (mcastCores (decMcast w)).map fun c => (c, s.mcbaseOf x.id.part x.id.vd c) else []
  ⟨o, w, x.pc, n, x.id.part, x.id.vd, x.id.launch, x.ftop, x.frnd, x.chain, x.ovf, x.wid, x.declared, samples, s.cmdCtr,
   o == .accv, vecBefore x, (x.id.index, x.id.stage, x.id.strand), none, s.flight.filter (Msg.releaseOf n)⟩

/-- A register pair as a command word (R291). -/
def pairWord (lo hi : GReg) : W256 := hi.bits ++ lo.bits

/-- The retirement part of ENQ.M and ENQ.C: the locks are registered and the command is placed (R401), with its place in the
bobbin's passes where the bobbin issues it. -/
def State.place (s : State) (n : Nat) (x : Strand) (p : EnqPlan) (w : W256) (bob : Option (Nat × Nat)) : State :=
  let c := { s.capture n x p.op w with fromBob := bob }
  let y := if p.op.queue = .matrix then { x with mq := x.mq ++ [c] } else { x with cq := x.cq ++ [c] }
  let s1 : State := { s with cmdCtr := s.cmdCtr + 1 }
  (s1.setStrand n y).addLocks n (p.locks c.id)

/-- A granule of the registers that an MM.ACCV writes is absent (R129, R394). -/
def Strand.accvAbsent (x : Strand) (m : MatBody) : Bool :=
  (List.range 16).any fun i => decide (accvVd m / 8 ≤ i) && decide (8 * i < accvVd m + accvRegs m) && x.granAbsent.getLsbD i

/-- The entries of core `n`'s copy queue that the commands of ended strands hold (R402, R418). -/
def State.orphansOf (s : State) (n : Nat) : Nat := (s.orphans.filter (·.core == n)).length

/-- ENQ.M and ENQ.C (R401, R402). An ENQ.M of MM.ACCV first waits until the vector queue is empty, and retires when its
command has completed (R394); from the tick at which the command finds a granule absent until that is filled its ticks are excluded (R93, R129). DESIGN CHOICE (log 51): the e0 of an MM.ACCV is CHN when the command enters the queue, since R89's value, CHN at
the ENQ's retirement, does not exist before the command that needs it has completed. -/
def enqInstr (qu : CmdQueue) (d a b : BitVec 6) (s : State) : Out :=
  word s fun s n x =>
    if x.stash = [1] then .done (s.retire n x 1)
    else if x.stash = [0] then
      .block s (if x.wait = some .lazy ∧ x.accvAbsent (decMat (pairWord (x.getG a) (x.getG (a + 1)))) = true then .lazy else .own)
    else if x.pending [d, a, a + 1, b] then .block s .own
    else
      let x := s.ready n x [d, a, a + 1, b]
      if a = 0 || a.getLsbD 0 then illegal s n x
      else
        let w := pairWord (x.getG a) (x.getG (a + 1))
        match enqCheck s n x qu w (b, x.getG b) (d, x.getG d) (s.wordAt n x) with
        | .error t => .trap x t
        | .ok p =>
          let full := if qu = .matrix then decide (8 ≤ x.mq.length) || !x.bobIdle || (p.op == .accv && !x.vq.isEmpty)
                      else decide (8 ≤ s.orphansOf n + x.cq.length)
          if full || !s.lockRoom n (p.locks 0).length then .block (s.setStrand n x) .own
          else
            let s1 := s.place n (x.issued (s.divOf n)) p w none
            withStrand s1 n fun y =>
              if p.op == .accv then .block (s1.setStrand n { y with stash := [0] }) .own
              else .done (s1.retire n y 1)

/-- ENQ.M (R401). -/
def execEnqM (d a b : BitVec 6) (s : State) : Out := enqInstr .matrix d a b s
/-- ENQ.C (R401). -/
def execEnqC (d a b : BitVec 6) (s : State) : Out := enqInstr .copy d a b s

/-! ### Exchange plans (R247, R410) -/

/-- A plan entry (R247). -/
structure PlanEntry where
  fromOff : Nat
  start : Nat
  width : Nat
  dest : Nat
  handle : Nat
  beats : Nat
  valid : Bool
  zeroes : Bool
deriving DecidableEq, Repr

/-- Read a plan entry (R247). -/
def planEntryOf (bs : List Byte) : PlanEntry :=
  let v := numOf bs
  let f := fun lo w : Nat => v / 2 ^ lo % 2 ^ w
  ⟨f 64 18, f 40 24, f 32 8, f 21 11, f 17 4, f 15 2 + 1, f 0 1 == 1, f 82 46 == 0 && f 1 14 == 0⟩

/-- Entry `i` of a plan table at an offset of core `n`'s scratchpad. -/
def State.planEntry (s : State) (n off i : Nat) : PlanEntry := planEntryOf (s.scratchGot n (off + 16 * i) 16).bytes

/-- The entries up to the first whose valid bit is 0, at most `k` more; none where one breaks R410 or leaves the span. -/
def countPlan (s : State) (n : Nat) (x : Strand) (off : Nat) : Nat → Nat → Option Nat
  | 0, i => some i
  | k + 1, i =>
    if x.spanEnd < off + 16 * i + 16 then none
    else
      let e := s.planEntry n off i
      if !e.valid then some i else if !e.zeroes then none else countPlan s n x off k (i + 1)

/-- The lock number of a strand's plan table. -/
def planLock (n : Nat) : Nat := 2 ^ 64 + n

/-- The effect of an XC.PLAN whose body and authority have been checked (R410): `need` checks its range. -/
def planStep (off : Nat) (need : Item → Option Trap) (s : State) (n : Nat) (x : Strand) : Eff :=
  if off % 16 ≠ 0 || decide (off < x.selv) || x.exch.origin.isSome then illegal s n x
  else if x.absentLine off (min 1024 (x.spanEnd - off)) then .block s .lazy
  else if !memReady x [] then .block s .own
  else match countPlan s n x off 64 0 with
  | none => illegal s n x
  | some 0 => illegal s n x
  | some (k + 1) =>
    match need (coreItem n n off (16 * (k + 1)) false false none) with
    | some t => .trap x t
    | none =>
      match s.lockClash n x off (16 * (k + 1)) false with
      | some t => .trap x t
      | none =>
      match (s.scratchGot n off (16 * (k + 1))).poison with
      | some p => .trap x (.precise 0x0B (BitVec.ofNat 64 p))
      | none =>
        let s1 := (s.setStrand n x).dropLocks n (·.cmd == planLock n)
        if !s1.lockRoom n 1 then .block (s.setStrand n x) .own
        else
          let y := { x with exch := { x.exch with planOff := off, planCount := k + 1, next := 0 } }
          let s2 := s1.addLocks n [⟨planLock n, false, .scratch n off, 16 * (k + 1)⟩]
          .done (s2.retire n y 1)

/-- ENQ.X (R410). -/
def execEnqX (d a b : BitVec 6) (s : State) : Out :=
  word s fun s n x =>
    if x.pending [a, a + 1, b] then .block s .own
    else
      let x := s.ready n x [a, a + 1, b]
      if a = 0 || a.getLsbD 0 then illegal s n x
      else
        let w := pairWord (x.getG a) (x.getG (a + 1))
        match enqCheck s n x .exchange w (b, x.getG b) (d, x.getG d) (s.wordAt n x) with
        | .error t => .trap x t
        | .ok _ =>
          planStep (decPlan w).planOff.toNat (itemFault n x (b, x.getG b) (0, ⟨0, false⟩)) s n x

/-- XC.PLAN as a command of the current core (R410): its authority has been checked by the ENQ.X that sends it. -/
def execXcPlan (c : PlanBody) (s : State) : Out := word s (planStep c.planOff.toNat fun _ => none)

end Sys2Proof.Machine
end

