-- ==== Sys2Proof/Machine/Granule.lean ====
section
/-! DEFINITION. Granules (R151 to R155, R351), tacked gangs (R352, R353) and the bobbin (R160 to R164, R354). -/
namespace Sys2Proof.Machine

/-! ### Granules -/

/-- Positions that a resident strand takes from its cell's pool: its base alone while its claimed holding waits again
(R130, R151). -/
def Strand.taken (x : Strand) : Nat := if x.wait = some .reclaim then x.baseGran else x.holding

/-- The cell whose pool holds the granules of core `n`: that of its physical site, since a thermal move copies the granules to
the target's cell (R113, R114). -/
def State.poolOf (s : State) (n : Nat) : Nat := cellOf (s.coreCfg n).site

/-- Core `n` draws on a cell's pool; during a move so does the cell it moves to. -/
def State.draws (s : State) (c n : Nat) : Bool := s.poolOf n == c || ((s.coreCfg n).moveTo.map s.poolOf) == some c

/-- The free granules of a cell (R151). -/
def State.freeGran (s : State) (c : Nat) : Nat :=
  96 - (((List.range 16).map (c / 2 * 16 + ·)).map fun n =>
    if s.draws c n then ((s.strand n).map Strand.taken).getD 0 else 0).foldl (· + ·) 0

/-- Set bits lo to hi − 1 of a granule mark. -/
def granBits (lo hi : Nat) : BitVec 16 :=
  BitVec.ofNat 16 (((List.range 16).filter fun i => lo ≤ i ∧ i < hi).foldl (fun v i => v + 2 ^ i) 0)

/-- Positions lo to hi − 1 read as zero, are dirty and present (R127, R151). -/
def Strand.zeroPositions (x : Strand) (lo hi : Nat) : Strand :=
  { x with
    v := Vector.ofFn fun i => if lo ≤ i.val / 8 ∧ i.val / 8 < hi then 0 else x.v[i.val]
    granDirty := x.granDirty ||| granBits lo hi
    granAbsent := x.granAbsent &&& ~~~granBits lo hi }

/-- A claim is granted (R152): the positions are zeroed and the core is released. A restored strand's claim brings back
its image contents instead (R130). -/
def Strand.granted (x : Strand) (k : Nat) : Strand :=
  match x.wait with
  | some (.claim _) => { (x.zeroPositions x.holding (x.holding + k)) with holding := x.holding + k, wait := some .excluded, stash := [1] }
  | some .reclaim => { x with wait := x.after, after := none }
  | _ => x

/-- Enter a claim of core `n` for `k` granules at tick `t`: at the tail, before those of the same tick from higher cores (R151). -/
def enterClaim (n k t : Nat) : List (Nat × Nat × Nat) → List (Nat × Nat × Nat)
  | [] => [(n, k, t)]
  | c :: cs => if c.2.2 = t ∧ n < c.1 ∧ 0 < t then (n, k, t) :: c :: cs else c :: enterClaim n k t cs

/-- serve of R152: at most `fuel` claims. -/
def serve (c : Nat) : Nat → State → State
  | 0, s => s
  | fuel + 1, s =>
    match (s.cell c).claims with
    | [] => s
    | (n, k, _) :: rest =>
      if s.freeGran c < k then s
      else
        let s1 := s.setCell c { s.cell c with claims := rest }
        serve c fuel (s1.onStrand n fun x => (x.settle s.tick (s.divOf n)).granted k)

/-- Run serve for a cell. -/
def State.serve (s : State) (c : Nat) : State := Machine.serve c ((s.cell c).claims.length + 1) s

/-- VCLAIM (R152, R351). -/
def execVclaim (n : BitVec 6) (s : State) : Out :=
  word s fun s c x =>
    if x.stash = [1] then .done (s.retire c x 1)
    else if 16 < x.holding + n.toNat then illegal s c x
    else if !x.bobIdle then .block s .own
    else
      let k := s.poolOf c
      let y := { x.issued (s.divOf c) with wait := some (.claim n.toNat) }
      let s1 := s.setStrand c y
      let s2 := (s1.setCell k { s1.cell k with claims := enterClaim c n.toNat s.tick (s1.cell k).claims }).serve k
      withStrand s2 c fun z => if z.stash = [1] then .done (s2.retire c z 1) else .block s2 (.claim n.toNat)

/-- A matrix command of the core names a v register: MM.ACCV (R153). -/
def State.accvBusy (s : State) (n : Nat) (x : Strand) : Bool := (s.matrixOf n x).any fun c => c.op == .accv

/-- VGIVE (R153, R351). -/
def execVgive (n : BitVec 6) (s : State) : Out :=
  word s fun s c x =>
    if x.holding < x.baseGran + n.toNat then illegal s c x
    else if !x.vq.isEmpty || !x.bobIdle || s.accvBusy c x then .block s .own
    else
      let h := x.holding - n.toNat
      let y := { x with holding := h, granAbsent := x.granAbsent &&& ~~~granBits h 16, granDirty := x.granDirty &&& ~~~granBits h 16 }
      .done ((s.retire c y 1).serve (s.poolOf c))

/-! ### Gangs -/

/-- Strand numbers that a mask names. -/
def maskStrands (m : W64) : List Nat := (List.range 16).filter m.getLsbD

/-- The cores of the strands that a TACK names: none where R352 makes the mask illegal. -/
def tackCores (x : Strand) (m : W64) : Option (List Nat) :=
  let cs := (maskStrands m).map fun k => x.id.team[k]?
  if cs.any Option.isNone then none
  else
    let cs := cs.filterMap id
    if 2 ≤ cs.length ∧ m.getLsbD x.id.strand ∧
        (List.range cs.length).all (fun i => cs.getD i 0 == cs.headD 0 + i) then some cs else none

/-- No gang. -/
def Gang.none : Gang := ⟨0, [], Option.none, false, false⟩

/-- The last of the named strands has issued its TACK (R352): the gang forms, or every member takes 0x0F. -/
def State.tack (s : State) (cs : List Nat) : State :=
  let xs := cs.filterMap s.strand
  match xs.head? with
  | Option.none => s
  | some lead =>
    let same := fun y : Strand => y.gang.tacking == lead.gang.tacking && y.pc == lead.pc && y.selv == lead.selv
    let s1 := s.settleAll cs
    if xs.all same then
      let s2 := cs.foldl (fun (z : State) c => z.onStrand c fun y =>
        { (y.finish 1 (z.divOf c) (y.pcPlus 4)) with gang := ⟨cs.headD 0, cs, Option.none, true, false⟩ }) s1
      s2.gangSync cs 0
    else
      let agree := (xs.filter same).foldl (fun v y => v + 2 ^ y.id.strand) 0
      cs.foldl (fun (z : State) c =>
        match z.strand c with
        | some y => z.trapOn c { y with gang := Gang.none } (.precise 0x0F (BitVec.ofNat 64 agree))
        | Option.none => z) s1

/-- TACK (R352). -/
def execTack (a : BitVec 6) (s : State) : Out :=
  word s fun s c x =>
    if x.gang.tacked then illegal s c x
    else if x.pending [a] then .block s .own
    else
      let x := s.ready c x [a]
      match tackCores x (x.rd a) with
      | Option.none => illegal s c x
      | some cs =>
        if !x.bobIdle then .block (s.setStrand c x) .own
        else
          let y := { x.issued (s.divOf c) with gang := { x.gang with tacking := some (x.rd a &&& 0xFFFF) } }
          let s1 := s.setStrand c y
          if cs.all (fun k => match s1.strand k with
              | some z => z.gang.tacking.isSome && z.id.launch == x.id.launch && z.id.index == x.id.index && z.id.stage == x.id.stage
              | Option.none => false)
          then .done (s1.tack cs)
          else .block s1 .own

/-- Copy the leader's bytes [0, SELV) into a follower's scratchpad, with their poison (R144, R353). -/
def State.copyCode (s : State) (x : Strand) (lead c n : Nat) : State :=
  let w : Who := ⟨x.id.part, x.id.vd, 0⟩
  match homeReadBad s w (.scratch lead 0) n with
  | .ok g s1 =>
    match homeWriteBad s1 w (.scratch c 0) g.1 g.2 with
    | .ok _ s2 => s2
    | _ => s1
  | _ => s

/-- UNTACK (R353). The copy's own-work ticks are a free value (log 7). -/
def execUntack (s : State) : Out :=
  word s fun s c x =>
    if !x.gang.tacked then illegal s c x
    else if !x.bobIdle then .block s .own
    else
      let g := x.gang
      let copying := g.members.any fun k => ((s.strand k).map (·.gang.noCode)).getD false
      let t := if copying then Config.freeNat s.freeCtr else 0
      let selv := ((s.strand g.leader).map Strand.selv).getD 0
      let s1 := if g.noCode then s.copyCode x g.leader c selv else s
      withStrand s1 c fun y =>
        let y := if g.noCode then y.setCsr 0x20#7 (BitVec.ofNat 64 selv) else y
        let z := (y.finish 1 (s.divOf c) (y.pcPlus 4)).own t
        let s2 := s1.setStrand c { z with now := z.now + t, gang := Gang.none }
        .done (if copying && g.members.getLast? == some c then { s2 with freeCtr := s2.freeCtr + 1 } else s2)

/-! ### The bobbin -/

/-- What a field of a V-format word is (R287, R288): a v register that a stride changes, a field whose stride must be 0, a
field not used. -/
inductive Field where
  | reg | fixed | unused
deriving DecidableEq, Repr

/-- The fields vd, va, vb of a V-format word. -/
def vFields : Instr → Field × Field × Field
  | .vabs _ _ _ => (.reg, .reg, .unused)
  | .vneg _ _ _ => (.reg, .reg, .unused)
  | .vrsqe _ _ _ => (.reg, .reg, .unused)
  | .vrcpe _ _ _ => (.reg, .reg, .unused)
  | .vreda _ _ _ => (.reg, .reg, .unused)
  | .vredx _ _ _ => (.reg, .reg, .unused)
  | .vcmp _ _ _ _ _ => (.fixed, .reg, .reg)
  | .vbcst _ _ _ => (.reg, .fixed, .unused)
  | .vext _ _ _ _ => (.fixed, .reg, .fixed)
  | .vcvt _ _ _ _ => (.reg, .reg, .fixed)
  | .vsrd _ _ _ => (.reg, .fixed, .fixed)
  | .vgath _ _ _ _ _ => (.reg, .reg, .fixed)
  | .vscat _ _ _ _ _ => (.reg, .reg, .fixed)
  | .pset _ _ => (.fixed, .fixed, .fixed)
  | .pand _ _ _ => (.fixed, .fixed, .fixed)
  | .por _ _ _ => (.fixed, .fixed, .fixed)
  | .pnot _ _ => (.fixed, .fixed, .fixed)
  | _ => (.reg, .reg, .reg)

/-- A register number moved by a stride: none outside 0 to 127 (R161). -/
def moveReg (r : BitVec 7) (k : Int) : Option (BitVec 7) :=
  let v := (r.toNat : Int) + k
  if 0 ≤ v ∧ v ≤ 127 then some (BitVec.ofNat 7 v.toNat) else none

/-- A field in a pass. -/
def moveField (f : Field) (r : BitVec 7) (k : Int) : Option (BitVec 7) :=
  match f with
  | .reg => moveReg r k
  | _ => some r

/-- A word of the body in pass j (R161, R289). -/
def passWord (b : Bobbin) (j : Nat) (i : Instr) : Option Instr :=
  match i with
  | .vld d g c o =>
    let v := o.toInt + j * b.si
    if -1024 ≤ v ∧ v ≤ 1023 then (moveReg d (j * b.sd)).map fun d => .vld d g c (BitVec.ofInt 11 v) else none
  | .vst d g c o =>
    let v := o.toInt + j * b.si
    if -1024 ≤ v ∧ v ≤ 1023 then (moveReg d (j * b.sd)).map fun d => .vst d g c (BitVec.ofInt 11 v) else none
  | .vldl d g p o =>
    let v := (o.toNat : Int) + j * b.si
    if 0 ≤ v ∧ v ≤ 1023 then (moveReg d (j * b.sd)).map fun d => .vldl d g p (BitVec.ofInt 10 v) else none
  | .vstl d g p o =>
    let v := (o.toNat : Int) + j * b.si
    if 0 ≤ v ∧ v ≤ 1023 then (moveReg d (j * b.sd)).map fun d => .vstl d g p (BitVec.ofInt 10 v) else none
  | .enqM _ _ _ => some i
  | _ =>
    match encodeWord i with
    | none => none
    | some w =>
      let f := vFields i
      match moveField f.1 (w.extractLsb' 19 7) (j * b.sd), moveField f.2.1 (w.extractLsb' 12 7) (j * b.sa),
          moveField f.2.2 (w.extractLsb' 5 7) (j * b.sb) with
      | some d, some a, some c => decodeWord (w.extractLsb' 26 6 ++ d ++ a ++ c ++ w.extractLsb' 0 5 : BitVec 32)
      | _, _, _ => none

/-- The strides of a word's fixed fields are 0 (R288). -/
def stridesOk (b : Bobbin) (i : Instr) : Bool :=
  let ok := fun (f : Field) (k : Int) => f != .fixed || k == 0
  match i with
  | .vld _ _ _ _ => true
  | .vst _ _ _ _ => true
  | .vldl _ _ _ _ => true
  | .vstl _ _ _ _ => true
  | .enqM _ _ _ => true
  | _ => let f := vFields i
         ok f.1 b.sd && ok f.2.1 b.sa && ok f.2.2 b.sb

/-- A body word: a vector instruction or an ENQ.M (R160). -/
def bodyWord (w : W32) : Option Instr :=
  match decodeWord w with
  | some i => if 0x30 ≤ bitsN w 31 26 then some i else match i with
    | .enqM _ _ _ => some i
    | _ => none
  | none => none

/-- The g registers that a body word captures (R162, R288): a base or a source, or the four of an ENQ.M. -/
def bodyRegs : Instr → List (BitVec 6)
  | .vld _ g _ _ => [g]
  | .vst _ g _ _ => [g]
  | .vldl _ g _ _ => [g]
  | .vstl _ g _ _ => [g]
  | .vgath _ _ g _ _ => [g]
  | .vscat _ _ g _ _ => [g]
  | .vbcst _ g _ => [g]
  | .enqM d a b => [a, a + 1, b, d]
  | _ => []

/-- A body word with what it captures. -/
def captureWord (x : Strand) (i : Instr) : BobWord :=
  let r := fun k : Nat => x.getG ((bodyRegs i).getD k 0)
  ⟨i, r 0, r 1, r 2, r 3⟩

/-- Read the body: the words, or the trap of the first that is none (R160, R165). -/
def readBody (s : State) (c : Nat) (x : Strand) : Nat → Nat → Except Trap (List Instr)
  | 0, _ => .ok []
  | k + 1, pc =>
    let home := x.codeCore c
    let a64 := BitVec.ofNat 64 pc
    if x.selv ≤ pc then .error (.precise 0x07 a64)
    else if (s.scratchGot home pc 4).poison.isSome then .error (.precise 0x0B a64)
    else
      let w := s.fetchWord home pc
      match bodyWord w with
      | none => .error (.precise 0x01 (w.setWidth 64))
      | some i => (readBody s c x k (pc + 4)).map (i :: ·)

/-- Every pass of a word names registers held and immediates that fit (R161). -/
def passesOk (x : Strand) (b : Bobbin) (i : Instr) : Bool :=
  (List.range b.passes).all fun j => match passWord b j i with
    | some k => x.holdsAll k
    | none => false

/-- An ENQ.M of the body would send MM.ACCV (R394). -/
def sendsAccv (s : State) (x : Strand) (i : Instr) : Bool :=
  match i with
  | .enqM _ a _ => tableEntry (s.tableOf x) (bitsN (x.rd a) 9 0) |> fun e => e.getLsbD 15 && cmdOpOf e == some .accv
  | _ => false

/-- BOB (R160 to R162, R354). The lines of its body below the selvage are there before it reads them (R129). -/
def execBob (n : BitVec 6) (a : BitVec 6) (s : State) : Out :=
  word s fun s c x =>
    let k := n.toNat + 1
    if x.pending [a] then .block s .own
    else
      let v := x.rd a
      if bitsN v 63 37 ≠ 0 then illegal s c x
      else if !x.bobIdle then .block s .own
      else if ((s.strand (x.codeCore c)).map (·.absentLine (x.pc + 4) (min (4 * k) (x.selv - (x.pc + 4))))).getD false then .block s .lazy
      else match readBody s c x k (x.pc + 4) with
      | .error t => .trap x t
      | .ok is =>
        let rs := a :: is.flatMap bodyRegs
        if x.pending rs then .block s .own
        else
          let x := s.ready c x rs
          let b : Bobbin := ⟨is.map (captureWord x), (v.extractLsb' 12 4).toInt, (v.extractLsb' 16 4).toInt,
            (v.extractLsb' 20 4).toInt, (v.extractLsb' 24 13).toInt, bitsN v 11 0 + 1, 0, 0, x.pc, true, false, s.tick⟩
          if is.all (stridesOk b) && is.all (passesOk x b) && !is.any (sendsAccv s x) then
            .done (s.setStrand c (({ x with bobbin := b } : Strand).finish 1 (s.divOf c) (x.pcPlus (4 + 4 * k))))
          else illegal s c x

/-- BOBST (R164). -/
def Bobbin.status (b : Bobbin) : W64 :=
  BitVec.ofNat 64 ((if b.active then 2 ^ 31 else 0) + (if b.fault then 2 ^ 30 else 0) + b.pass % 2 ^ 12 * 2 ^ 16 + b.word % 16 * 2 ^ 8 +
    b.words.length)

end Sys2Proof.Machine
end

