-- ==== Sys2Proof/Machine/Csr.lean ====
section
/-! DEFINITION. CSR access (R169 to R172, R413, R414): the four instructions and the rows that single out CSRs with rules of
their own (R34, R77, R96, R166, R172, R358, R400). -/
namespace Sys2Proof.Machine

/-- How R169 lists a CSR: not at all, marked R, marked RW. -/
inductive CsrKind where
  | absent | r | rw
deriving DecidableEq, Repr

/-- The CSRs of R169. -/
def csrKind (c : BitVec 7) : CsrKind :=
  let n := c.toNat
  if n ≤ 0x07 ∨ n = 0x15 ∨ (0x2B ≤ n ∧ n ≤ 0x2E) ∨ (0x30 ≤ n ∧ n ≤ 0x32) ∨ n = 0x39 then .r
  else if n = 0x08 ∨ (0x10 ≤ n ∧ n ≤ 0x14) ∨ (0x18 ≤ n ∧ n ≤ 0x1A) ∨ (0x20 ≤ n ∧ n ≤ 0x25) ∨ (0x28 ≤ n ∧ n ≤ 0x2A) ∨ n = 0x38 then .rw
  else .absent

/-- The bits that a write to a CSR may change (R75, R169): the others keep their value, which is zero where the table names
none. -/
def csrMask (c : BitVec 7) : W64 :=
  match c.toNat with
  | 0x08 => 0xFFFFFFFF
  | 0x10 => 0xFFFFFFFFFFFF
  | 0x11 => 0xFFFFFFFF
  | 0x12 => 0xFFFFFFFF
  | 0x13 => 0xFFFFFFFFFFFF
  | 0x14 => 0xFFFFFFFFFFFF
  | 0x18 => 0x1
  | 0x19 => 0x3
  | 0x1A => 0x7F
  | 0x20 => 0x7FFFF
  | 0x21 => 0x3FFFC
  | 0x22 => 0xFF12FF
  | 0x25 => 0x7FFFE
  | 0x28 => 0xF
  | 0x29 => 0xF
  | 0x2A => 0x3FFC0
  | 0x38 => 0xFF
  | 0x23 => 0xFFFFFFFFFFFFFFFF
  | 0x24 => 0xFFFFFFFFFFFFFFFF
  | _ => 0

/-- The capabilities of R172. -/
def capCsr (domain : Nat) (c : BitVec 7) : GReg :=
  if c = 0x30#7 then makeCap domain (permLoad ||| permStore ||| permTagLoad ||| permTagStore ||| permView ||| permConfined) 0 0x4000000
  else if c = 0x31#7 then makeCap domain (permLoad ||| permStore ||| permTagLoad ||| permTagStore ||| permConfined) 0x8000000 0x10000
  else makeCap domain (permLoad ||| permStore ||| permTagLoad ||| permTagStore ||| permView ||| permEngine ||| permKnot) 0x10000000 0x40000000

/-- GRAN (R171): a restored strand whose claimed holding waits again (R130) holds its base alone. -/
def granCsr (s : State) (n : Nat) (x : Strand) : W64 :=
  let want := match x.wait with
    | some (.claim k) => k
    | some .reclaim => x.holding - x.baseGran
    | _ => 0
  BitVec.ofNat 64 (x.taken + x.baseGran * 2 ^ 8 + want * 2 ^ 16 + (if want ≠ 0 then 2 ^ 20 else 0) + s.freeGran (s.poolOf n) * 2 ^ 24)

/-- The count of event e for a virtual device, those of its resident strands not yet added included (R35). -/
def State.eventCount (s : State) (p v e : Nat) : W64 :=
  if h : e < 16 then
    match s.part p with
    | none => 0
    | some q =>
      if e = 0 then BitVec.ofNat 64 s.tick
      else if e = 15 then q.unattributed
      else
        let own := s.strands.foldl (fun k y => if y.2.id.part = p ∧ y.2.id.vd = v then k + y.2.evts[e] else k) 0
        (q.vd v).counts[e] + BitVec.ofNat 64 own
  else 0

/-- EVCNT (R34): the value, and whether the read marks the virtual device in hidden_events. -/
def State.readEvent (s : State) (x : Strand) : W64 × Bool :=
  let e := bitsN (x.csrAt 0x38#7) 7 0
  let allow := match s.part x.id.part with
    | some q => (q.vd x.id.vd).allow.getLsbD e
    | none => false
  if e = 0 || allow then (s.eventCount x.id.part x.id.vd e, false) else (0, true)

/-- The value that a CSR reads as (R169, R414). A tacked follower reads TICK as many local cycles after its leader as it runs behind it
(R65). -/
def readCsr (s : State) (n : Nat) (x : Strand) (c : BitVec 7) : GReg :=
  let plain := fun v : W64 => (⟨v.setWidth 128, false⟩ : GReg)
  match c.toNat with
  | 0x00 => plain (BitVec.ofNat 64 (s.tick + if x.gang.tacked then x.gang.members.idxOf n * s.divOf n else 0))
  | 0x2C => plain (granCsr s n x)
  | 0x2E => plain x.bobbin.status
  | 0x30 => capCsr x.id.part c
  | 0x31 => capCsr x.id.part c
  | 0x32 => capCsr x.id.part c
  | 0x39 => plain (s.readEvent x).1
  | _ => plain (x.csrAt c)

/-- What an access waits for, as own work (R166, R358, R400, R414). -/
def csrWaits (s : State) (n : Nat) (x : Strand) (c : BitVec 7) (write : Bool) : Bool :=
  match c.toNat with
  | 0x18 => !x.vq.isEmpty || !x.bobIdle
  | 0x19 => !x.vq.isEmpty || !x.bobIdle
  | 0x1A => !x.vq.isEmpty || !x.bobIdle
  | 0x20 => write && (!memReady x [] || !x.bobIdle)
  | 0x2D => (s.matrixOf n x).any fun k => k.op == .thr
  | _ => false

/-- Write a CSR, with the limit check of R96 for CHN and CHLIM and the sticky bit 63 of CHN and CHSTALL (R77). -/
def writeCsr (x : Strand) (c : BitVec 7) (v : W64) : Strand :=
  let old := x.csrAt c
  let m := csrMask c
  let new := (old &&& ~~~m) ||| (v &&& m)
  match c.toNat with
  | 0x10 => (x.setCsr c (new &&& (v ||| 0x7FFFFFFFFFFFFFFF#64))).limitCheck x.chain x.chlim
  | 0x13 => (x.setCsr c new).limitCheck x.chain x.chlim
  | 0x14 => x.setCsr c (new &&& (v ||| 0x7FFFFFFFFFFFFFFF#64))
  | _ => x.setCsr c new

/-- The lowest raw offset of [lo, hi) of core n's scratchpad that a range of the lock table meets (R166). -/
def State.lockMeets (s : State) (vd n lo hi : Nat) : Option Nat :=
  (s.cluster (clusterOf n)).locks.foldl (fun (o : Option Nat) k =>
    match k.loc with
    | .scratch c off =>
      if c = n ∧ max lo off < min hi (off + k.len) ∧ s.asleep vd k = false then
        match o with
        | some a => some (min a (max lo off))
        | none => some (max lo off)
      else o
    | _ => o) none

/-- What stops a write (R166, R168). -/
def selvFault (s : State) (n : Nat) (x : Strand) (v : Nat) : Option Trap :=
  if x.gang.tacked || v % 256 ≠ 0 || decide (v < 256) || decide (x.spanEnd < v) then some (.precise 0x01 (s.wordAt n x))
  else if x.selv < v then (s.lockMeets x.id.vd n x.selv v).map fun o => .precise 0x08 (BitVec.ofNat 64 o)
  else none

/-- A CSRR of CHN or CHSTALL that waits for its register keeps the value that it found, which holds none of its own ticks
(R77). -/
def Strand.holdChain (x : Strand) (c : BitVec 7) : Strand :=
  if (c = 0x10#7 ∨ c = 0x14#7) ∧ x.stash.isEmpty then { x with stash := 3 :: bytesOf (x.csrAt c).toNat 8 } else x

/-- What such a CSRR reads: the value it kept, where it waited. -/
def Strand.readHeld (x : Strand) (c : BitVec 7) (v : GReg) : GReg :=
  match x.stash with
  | 3 :: bs => if c = 0x10#7 ∨ c = 0x14#7 then ⟨BitVec.ofNat 128 (numOf bs), false⟩ else v
  | _ => v

/-- A CSR access (R413): op 0 reads, 1 writes, 2 sets bits, 3 clears bits. -/
def csrAccess (op : BitVec 2) (d a : BitVec 6) (c : BitVec 7) (s : State) : Out :=
  word s fun s n x =>
    let write := op == 1 || (op != 0 && a != 0)
    let kind := csrKind c
    if kind == .absent || (kind == .r && write) || (op != 0 && decide (0x30 ≤ c.toNat) && decide (c.toNat ≤ 0x32)) then illegal s n x
    else if gangPending s n x [d, a] || csrWaits s n x c write then .block (if op = 0 then s.setStrand n (x.holdChain c) else s) .own
    else
      let r := x.cycles (x.readyCycles [a] (s.divOf n)) (s.divOf n)
      let old := if op = 0 then r.readHeld c (readCsr s n r c) else readCsr s n r c
      let o64 : W64 := old.bits.setWidth 64
      let b := x.rd a
      let v := if op = 1 then b else if op = 2 then o64 ||| b else o64 &&& ~~~b
      match (if write && c == 0x20#7 then selvFault s n x (bitsN v 18 0) else none) with
      | some t => .trap r t
      | none =>
        let y := if write then writeCsr r c v else r
        let z := (y.setG d old).later d 1 1
        let s1 := if c = 0x39#7 && (s.readEvent x).2 then
            s.onPart x.id.part fun q => { q with hidden := q.hidden ||| (1#64 <<< x.id.vd) }
          else s
        .done (s1.retire n z 1)

/-- CSRR (R413). -/
def execCsrr (d : BitVec 6) (c : BitVec 7) (s : State) : Out := csrAccess 0 d 0 c s
/-- CSRW (R413). -/
def execCsrw (d a : BitVec 6) (c : BitVec 7) (s : State) : Out := csrAccess 1 d a c s
/-- CSRS (R413). -/
def execCsrs (d a : BitVec 6) (c : BitVec 7) (s : State) : Out := csrAccess 2 d a c s
/-- CSRC (R413). -/
def execCsrc (d a : BitVec 6) (c : BitVec 7) (s : State) : Out := csrAccess 3 d a c s
/-- SELV_WRITE (R166): an access to SELV. -/
def execSelvWrite (op : BitVec 2) (d a : BitVec 6) (s : State) : Out := csrAccess op d a 0x20 s
/-- CHN_WRITE (R77): an access to CHN, or to CHSTALL. -/
def execChnWrite (op : BitVec 2) (d a : BitVec 6) (stall : Bool) (s : State) : Out := csrAccess op d a (if stall then 0x14 else 0x10) s
/-- CHLIM_WRITE (R96): an access to CHLIM. -/
def execChlimWrite (op : BitVec 2) (d a : BitVec 6) (s : State) : Out := csrAccess op d a 0x13 s
/-- CHMODE_WRITE (R77): an access to CHMODE. -/
def execChmodeWrite (op : BitVec 2) (d a : BitVec 6) (s : State) : Out := csrAccess op d a 0x15 s
/-- FP_CSR_ACCESS (R358): an access to FTOP, FRND or FFLAGS. -/
def execFpCsrAccess (op : BitVec 2) (d a : BitVec 6) (c : BitVec 7) (s : State) : Out := csrAccess op d a c s
/-- RLTHR_READ (R400). -/
def execRlthrRead (d : BitVec 6) (s : State) : Out := csrAccess 0 d 0 0x2D s
/-- EVCNT_READ (R34). -/
def execEvcntRead (d : BitVec 6) (s : State) : Out := csrAccess 0 d 0 0x39 s
/-- CAP_CSR_READ (R172). -/
def execCapCsrRead (d : BitVec 6) (c : BitVec 7) (s : State) : Out := csrAccess 0 d 0 c s
/-- TCAUSE_WRITE (R169). -/
def execTcauseWrite (op : BitVec 2) (d a : BitVec 6) (s : State) : Out := csrAccess op d a 0x22 s

end Sys2Proof.Machine
end

