-- ==== Sys2Proof/Machine/System.lean ====
section
/-! DEFINITION. System instructions (R415 to R419), illegal words (R290), SENDX with its router (R246 to R249, R412). -/
namespace Sys2Proof.Machine

/-- TRAP (R415). -/
def execTrap (i : BitVec 20) (s : State) : Out := word s fun _ _ x => .trap x (.precise 0x12 (i.signExtend 64))

/-- NOP (R419). -/
def execNop (s : State) : Out := word s fun s n x => .done (s.retire n x 1)

/-- TRET (R416). -/
def execTret (s : State) : Out :=
  word s fun s n x =>
    if !x.active then illegal s n x
    else
      let y := x.trapReturn
      .done (s.setStrand n (y.finish 1 (s.divOf n) y.pc))

/-- A word that names no instruction (R290): precise 0x01 with the word in TVAL. -/
def execIllegalInstruction (w : W32) (s : State) : Out := word s fun _ _ x => .trap x (.precise 0x01 (w.setWidth 64))

/-- In exchange mode a send of the strand has not landed (R246). -/
def Strand.sending (x : Strand) : Bool := x.exch.origin.isSome && decide (0 < x.exch.inFlight)

/-- A stop request is pending for the strand's virtual device (R117). -/
def State.stopping (s : State) (x : Strand) : Bool := ((s.part x.id.part).map fun p => (p.vd x.id.vd).stop.isSome).getD false

/-- YIELD (R417). -/
def execYield (s : State) : Out :=
  word s fun s n x =>
    if !x.bobIdle || x.sending then .block s .own
    else if s.stopping x then .block s .yield
    else .done (s.retire n x 1)

/-- DONE (R418): it waits, releases, and leaves the strand to STRAND_END. -/
def execDone (s : State) : Out :=
  word s fun s n x =>
    if !x.bobIdle || !x.vq.isEmpty || x.vRdy.any (fun r => decide (s.tick < r.2)) || !(s.matrixOf n x).isEmpty || x.sending then
      .block s .own
    else
      match release s n x with
      | .error (s1, k) => .block s1 k
      | .ok s1 => .block s1 .ending

/-! ### Exchange messages -/

/-- A router output that a message uses: router, output port, input port, ticks after the first router. -/
structure Hop where
  router : Nat
  output : Nat
  input : Nat
  off : Nat
deriving DecidableEq, Repr

/-- The row of a cluster, and its column counted over both dies. -/
def routeRow (c : Nat) : Nat := c % 64 / 8
/-- Column 0 to 15: die 1 lies east of die 0 (R82). -/
def routeCol (c : Nat) : Nat := c / 64 * 8 + c % 8
/-- The cluster at a row and a column. -/
def routerAt (row col : Nat) : Nat := col / 8 * 64 + row * 8 + col % 8

/-- The east or west leg: outputs 0 west, 2 east; inputs 0 local, 1 west, 2 north, 3 east, 4 south (R249). -/
def legX (row : Nat) : Nat → Nat → Nat → Nat → Nat → List Hop × Nat × Nat
  | 0, _, _, inp, t => ([], inp, t)
  | k + 1, col, dst, inp, t =>
    if col = dst then ([], inp, t)
    else
      let east := decide (col < dst)
      let next := if east then col + 1 else col - 1
      let dt := if col / 8 = next / 8 then 2 else 20
      let r := legX row k next dst (if east then 1 else 3) (t + dt)
      (⟨routerAt row col, if east then 2 else 0, inp, t⟩ :: r.1, r.2)

/-- The north or south leg: outputs 1 north, 3 south. -/
def legY (col : Nat) : Nat → Nat → Nat → Nat → Nat → List Hop × Nat × Nat
  | 0, _, _, inp, t => ([], inp, t)
  | k + 1, row, dst, inp, t =>
    if row = dst then ([], inp, t)
    else
      let south := decide (row < dst)
      let next := if south then row + 1 else row - 1
      let r := legY col k next dst (if south then 2 else 4) (t + 2)
      (⟨routerAt row col, if south then 3 else 1, inp, t⟩ :: r.1, r.2)

/-- The outputs that a message from core a to core b uses (R249): along the row, along the column, then the local output of
its core (4 + i). -/
def hops (a b : Nat) : List Hop :=
  let ca := clusterOf a
  let cb := clusterOf b
  let x := legX (routeRow ca) 16 (routeCol ca) (routeCol cb) 0 0
  let y := legY (routeCol cb) 8 (routeRow ca) (routeRow cb) x.2.1 x.2.2
  x.1 ++ y.1 ++ [⟨cb, 4 + b % 16, y.2.1, y.2.2⟩]

/-- Beats of a message. -/
def Xmsg.beats (m : Xmsg) : Nat := m.data.length / 64
/-- The arrival tick where no other message is in the way (R249). -/
def Xmsg.exact (m : Xmsg) : Nat := m.sent + 6 + meshTicks (clusterOf m.src) (clusterOf m.dst) + m.beats
/-- How late the message is so far. -/
def Xmsg.shift (m : Xmsg) : Nat := m.at_ - m.exact

/-- Make a message late by the beats of the one ahead of it. -/
def Xmsg.delay (m : Xmsg) (k : Nat) : Xmsg := { m with at_ := m.at_ + k, late := true }

/-- A timed message on its way: the outputs that it has still to use. -/
structure Course where
  msg : Xmsg
  left : List Hop
deriving DecidableEq, Repr

/-- The tick at which a message needs an output, as late as it is so far (log 20). -/
def Xmsg.needs (m : Xmsg) (h : Hop) : Nat := m.sent + m.shift + h.off

/-- Of two messages at their next outputs, `a` goes first: by tick, then by input, then by sender (R249). -/
def goesBefore (a b : Xmsg × Hop) : Bool :=
  let ta := a.1.needs a.2
  let tb := b.1.needs b.2
  decide (ta < tb) || (decide (ta = tb) && (decide (a.2.input < b.2.input) || (a.2.input == b.2.input && decide (a.1.src < b.1.src))))

/-- The message that needs its next output first, with its place in the list. -/
def firstCourse (cs : List Course) : Option (Nat × Xmsg × Hop) :=
  cs.zipIdx.foldl (fun (o : Option (Nat × Xmsg × Hop)) c =>
    match c.1.left, o with
    | [], _ => o
    | h :: _, none => some (c.2, c.1.msg, h)
    | h :: _, some b => if goesBefore (c.1.msg, h) b.2 then some (c.2, c.1.msg, h) else o) none

/-- An output that a message holds: router, output, first tick, beats. -/
structure HeldOutput where
  router : Nat
  output : Nat
  start : Nat
  beats : Nat
deriving DecidableEq, Repr

/-- Take the messages through their outputs in the order of time: one that finds an output held follows, late by the beats of the
holder, and tries again (R249). -/
def runCourses : Nat → List HeldOutput → List Course → List Xmsg
  | 0, _, cs => cs.map (·.msg)
  | fuel + 1, held, cs =>
    match firstCourse cs with
    | none => cs.map (·.msg)
    | some (i, m, h) =>
      let t := m.needs h
      match held.find? fun o => o.router == h.router && o.output == h.output && decide (o.start ≤ t) && decide (t < o.start + o.beats) with
      | some o => runCourses fuel held (cs.modify i fun c => { c with msg := m.delay o.beats })
      | none => runCourses fuel (⟨h.router, h.output, t, m.beats⟩ :: held) (cs.modify i fun c => { c with left := c.left.drop 1 })

/-- The timed exchange messages in flight. -/
def timedOf (l : List Msg) : List Xmsg :=
  l.filterMap fun q => match q with
    | .exchange f => if f.timed then some f else none
    | _ => none

/-- Put the rescheduled timed messages back in their places. -/
def putTimed : List Xmsg → List Msg → List Msg
  | m :: ms, .exchange f :: l => if f.timed then .exchange m :: putTimed ms l else .exchange f :: putTimed (m :: ms) l
  | ms, q :: l => q :: putTimed ms l
  | _, [] => []

/-- The timed messages, each taken through its outputs as if sent anew. -/
def routed (ms : List Xmsg) : List Xmsg :=
  let cs := ms.map fun f => (⟨{ f with at_ := f.exact, late := false }, hops f.src f.dst⟩ : Course)
  runCourses (32 * (cs.length + 1) * (cs.length + 1)) [] cs

/-- Put an exchange message in flight. Where it keeps exchange timing, the timed ones pass their outputs as if each were sent anew, so
that all that need one output in one tick give way in turn; what has passed its outputs already passes them at the same ticks. -/
def State.sendExchange (s : State) (m : Xmsg) : State :=
  let l := s.flight ++ [.exchange m]
  if m.timed then { s with flight := putTimed ((routed (s.passed ++ timedOf l)).drop s.passed.length) l } else { s with flight := l }

/-- Take message `i` of those in flight, an exchange message that lands. While others with exchange timing are on their way, what it held
still delays them (R249). -/
def State.takeExchange (s : State) (i : Nat) (m : Xmsg) : State :=
  let l := s.flight.eraseIdx i
  { s with flight := l, passed := if (timedOf l).isEmpty then [] else if m.timed then s.passed ++ [m] else s.passed }

/-- The next entry of the strand's plan, if it has one (R412). -/
def nextEntry (s : State) (n : Nat) (x : Strand) : Option PlanEntry :=
  if x.exch.next < x.exch.planCount then some (s.planEntry n x.exch.planOff x.exch.next) else none

/-- The payload of a plan entry. Outside exchange mode nothing keeps it in the scratchpad (R246): what would lie beyond is a free value, of
which the spec says nothing (DESIGN CHOICE, log 32). -/
def State.payload (s : State) (n : Nat) (e : PlanEntry) : Got × State :=
  let k := min (64 * e.beats) (2 ^ 18 - e.fromOff)
  let g := s.scratchGot n e.fromOff k
  ({ g with bytes := g.bytes ++ (List.range (64 * e.beats - k)).map fun i => BitVec.ofNat 8 (Config.freeNat (s.freeCtr + i)) },
   { s with freeCtr := s.freeCtr + (64 * e.beats - k) })

/-- SENDX once it may send (R229, R412): the payload is read, the message leaves, the strand goes on. -/
def sendNow (s : State) (n : Nat) (x : Strand) (e : PlanEntry) : Eff :=
  let g := (s.payload n e).1
  match s.lockClash n x e.fromOff (64 * e.beats) false, g.poison with
  | some t, _ => .trap x t
  | none, some p => .trap x (.precise 0x0B (BitVec.ofNat 64 p))
  | none, none =>
    let y := x.issued (s.divOf n)
    let c := satAdd y.chain (transitIn y.declared (.core n) (.core e.dest))
    let m : Xmsg := ⟨x.id.part, x.id.vd, n, e.dest, e.handle, g.bytes, c.1, y.ovf || c.2, y.wid, s.tick,
      s.tick + 6 + meshTicks (clusterOf n) (clusterOf e.dest) + e.beats, x.exch.origin.isSome, false⟩
    let z := { y with exch := { y.exch with next := y.exch.next + 1, inFlight := y.exch.inFlight + 1, sent := true } }
    .done ((((s.payload n e).2.setStrand n z).sendExchange m).retire n z 1)

/-- SENDX (R248, R412). Outside exchange mode the message keeps to no slot and no check of its entry is made (R246). -/
def sendx (s : State) (n : Nat) (x : Strand) : Eff :=
  let late : Trap := .precise 0x0E (BitVec.ofNat 64 s.tick)
  if !memReady x [] then .block s .own
  else if x.absentLine (x.exch.planOff + 16 * x.exch.next) 16 then .block s .lazy
  else match nextEntry s n x with
  | none => .trap x late
  | some e =>
    let bad := !s.coreIn x.id.part e.dest || decide (e.fromOff < x.selv) || decide (x.spanEnd < e.fromOff + 64 * e.beats)
    match x.exch.origin with
    | some o =>
      if s.tick < o + e.start then .block s .own
      else if o + e.start + e.width ≤ s.tick || bad || e.width = 0 then .trap x late
      else if x.absentLine e.fromOff (64 * e.beats) then .block s .lazy
      else sendNow s n x e
    | none =>
      if x.absentLine e.fromOff (64 * e.beats) then .block s .lazy
      else sendNow s n x e

/-- SENDX (R412). -/
def execSendx (s : State) : Out := word s sendx

/-- The tick at which a strand that waits at SENDX may send (R248). -/
def slotStart (s : State) (n : Nat) (x : Strand) : Option Nat :=
  match x.exch.origin, decodeWord (s.fetchWord (x.codeCore n) x.pc) with
  | some o, some .sendx => (nextEntry s n x).map fun e => o + e.start
  | _, _ => none

/-- EXCHANGE_SEND (R248): the strand of core op.a, which waits at SENDX in exchange mode, reaches its slot and sends. -/
def execExchangeSend (s : State) : Out :=
  match s.strand s.op.a with
  | some x =>
    match slotStart s s.op.a x with
    | some k => if x.wait.isSome && decide (k ≤ s.tick) then word { s with cur := s.op.a } sendx else notEnabled "EXCHANGE_SEND"
    | none => notEnabled "EXCHANGE_SEND"
  | none => notEnabled "EXCHANGE_SEND"

/-- Change the strand of a partition's context at a core, resident or saved. -/
def State.onContext (s : State) (p v n : Nat) (f : Strand → Strand) : State :=
  match s.ownerAt p v n with
  | some (_, false) => s.onStrand n f
  | some (_, true) => s.onSaved p v n fun y => { y with strand := f y.strand }
  | none => s

/-- pend_cause and pend_tval: the held fault that the restore takes first (R125, R138). -/
def Strand.pendOf (x : Strand) : Nat × W64 :=
  match x.async.find? (·.1 == 0x0A) with
  | some t => (0x0A, t.2.1)
  | none => match x.async.find? (·.1 == 0x11) with
    | some t => (0x11, t.2.1)
    | none => (0, 0)

/-- Write pend_cause and pend_tval of a saved context into its image (R125, R143). -/
def State.imagePend (s : State) (p : Nat) (y : Saved) : State :=
  let f := y.strand.pendOf
  ((s.imageWrite p y.vd y.image 7 (bytesOf f.1 1)).imageWrite p y.vd y.image 16 (bytesOf f.2.toNat 8)).reseal p y.vd y.image

/-- A held fault of a strand, resident or saved, that a message of virtual device `v` to core `n` reports (R143): where the strand is saved,
its image shows it (R125). -/
def State.holdFault (s : State) (p v n cause detail : Nat) : State :=
  let s1 := s.onContext p v n (·.addAsync cause 0 detail)
  match s1.ownerAt p v n, s1.savedAt p v n with
  | some (_, true), some y => s1.imagePend p y
  | _, _ => s1

/-- Place a landing that is granted already, ahead of those of its spool that still wait for their grant. -/
def State.addGranted (s : State) (l : Landing) : State :=
  let i := (s.landings.findIdx? fun m => m.spool == l.spool && !m.granted).getD s.landings.length
  { s with landings := s.landings.take i ++ [l] ++ s.landings.drop i }

/-- An exchange message lands as one slot, or is dropped (R249). -/
def landExchange (s : State) (m : Xmsg) : State :=
  let k : SpoolId := ⟨m.part, m.vd, m.dst, m.handle⟩
  let s1 := s.onContext m.part m.vd m.src fun x => { x with exch := { x.exch with inFlight := x.exch.inFlight - 1 } }
  let s2 := if m.late then s1.charge m.part m.vd 11 1 else s1
  match s2.spool k with
  | some sp =>
    if sp.bytes = m.data.length ∧ 1 ≤ sp.free then
      let l : Landing := ⟨k, 1, true, 0, m.data, [], false, false, false, m.chain, m.ovf, m.origin, true, none⟩
      let s3 := (s2.setSpool k { sp with free := sp.free - 1, resv := sp.resv + 1 }).addGranted l
      countOwn k 2 s3
    else s2.holdFault m.part m.vd m.src 0x11 5
  | none => s2.holdFault m.part m.vd m.src 0x11 5

/-- EXCHANGE_LANDING (R249): message op.a of those in flight arrives, at exactly its arrival tick where it keeps exchange timing
(`State.advance` lets no tick pass it by). -/
def execExchangeLanding (s : State) : Out :=
  match s.flight[s.op.a]? with
  | some (.exchange m) =>
    if m.at_ ≤ s.tick then .next (landExchange (s.takeExchange s.op.a m) m) else notEnabled "EXCHANGE_LANDING"
  | _ => notEnabled "EXCHANGE_LANDING"

end Sys2Proof.Machine
end

