-- ==== Sys2Proof/Machine/Matrix.lean ====
section
/-! DEFINITION. The matrix unit (R380 to R400): operands, planes and slots, eligibility and skipping (R70, R397), what
each command does, completion (R385), chained tiles (R71, R391). -/
namespace Sys2Proof.Machine

/-! ### Elements -/

/-- A format code (R381). -/
def fmtOf (f : Nat) : Fmt := if f = 0 then .e4m3 else if f = 1 then .e5m2 else if f = 2 then .bf16 else .fp32

/-- Codes of a row of bytes. -/
def rowCodes (size : Nat) (n : Nat) (bs : List Byte) : List Nat :=
  (List.range n).map fun i => numOf ((bs.drop (size * i)).take size)

/-- Cell (k, n) of a plane (R383). -/
def Plane.code (p : Plane) (k n : Nat) : Nat := bitsN (p.rows.getD k 0) (16 * n + 15) (16 * n)
/-- Element (i, j) of a plain slot (R383). -/
def Slot.elem (t : Slot) (i j : Nat) : W32 := (t.rows.getD i 0).extractLsb' (32 * j) 32

/-- A row of cells from numbers. -/
def packRow (w bits : Nat) (l : List Nat) : BitVec w := BitVec.ofNat w (l.reverse.foldl (fun v c => v * 2 ^ bits + c % 2 ^ bits) 0)

/-- Slot number `i` of a cell. -/
def Cell.slot (c : Cell) (i : BitVec 2) : Slot := c.slots[i.toNat]'i.isLt
/-- Replace it. -/
def Cell.setSlot (c : Cell) (i : BitVec 2) (t : Slot) : Cell := { c with slots := c.slots.set i.toNat t i.isLt }

/-- An operation names its slot (R381). -/
def namesSlot (o : CmdOp) : Bool := !(isLdw o || o == .swap)
/-- The operation is .q, MMAC or MMA. -/
def isMmac : CmdOp → Bool
  | .mmac => true
  | .mmacQ => true
  | _ => false

/-! ### Where engines may act -/

/-- The bytes of an engine's range exist for it (R165, R175, R182, R208, R237): none, or the engine class of the failure. -/
def engineFault (s : State) (p v : Nat) (l : Loc) (len : Nat) (write : Bool) : Option Nat :=
  match l with
  | .scratch c off =>
    match (if s.coreIn p c then s.ownerAt p v c else none) with
    | some (y, _) => if y.selv ≤ off ∧ off + len ≤ y.spanEnd then none else some 5
    | none => some 5
  | .chip x =>
    if (List.range (len / 0xC00000 + 2)).all fun i =>
        let k := x / 0xC00000 + i
        decide (x + len ≤ k * 0xC00000) || (s.sliceIn p k && decide (min (x + len) ((k + 1) * 0xC00000) ≤ k * 0xC00000 + s.lendOf p * 0x300000))
    then none else some 5
  | .glob a =>
    if (List.range (len / 2 ^ 30 + 2)).all fun i =>
        let b := min (a + i * 2 ^ 30) (a + len - 1)
        match s.region b with
        | some d => bitsN d.r 63 58 == p && (!write || bit1 d.r 45)
        | none => false
    then none else some 1
  | .phys pa => if physOk pa && physOk (pa + len - 1) then none else some 1

/-- Whom a command acts for at homes. -/
def Cmd.who (c : Cmd) : Who := ⟨c.part, c.vd, 0⟩

/-- A window read touches a filled narrow slot whose ftop is not the command's (R241); a packet's copy has none. -/
def narrowRead (s : State) (w : Who) (l : Loc) (len : Nat) (ftop : Option Bool) : Bool :=
  match l, ftop with
  | .scratch c off, some f =>
    match s.ownerAt w.part w.vd c with
    | none => false
    | some (y, _) => (List.range 16).any fun h => if hh : h < 16 then
        let sp := y.spools[h]
        sp.defined && (List.range sp.fill).any fun i =>
          let j := (sp.cons + i) % sp.count
          let o := sp.base + j * sp.bytes
          sp.narrow.getLsbD j && decide (o < off + len) && decide (off < o + sp.bytes) && (s.slotRec ⟨w.part, w.vd, c, h⟩ sp j).ftop != f
      else false
  | _, _ => false

/-- Read a range for an engine command: bytes and poisoned ranges, or the class of its failure. -/
def engineRead (s : State) (w : Who) (l : Loc) (len : Nat) (ftop : Option Bool) : Except Nat (List Byte × List (Nat × Nat) × State) :=
  match engineFault s w.part w.vd l len false with
  | some k => .error k
  | none =>
    if narrowRead s w l len ftop then .error 4
    else match homeReadBad s w l len with
    | .ok g s1 => .ok (g.1, g.2, s1)
    | _ => .error 1

/-- Write a range for an engine command. -/
def engineWrite (s : State) (w : Who) (l : Loc) (bs : List Byte) (bad : List (Nat × Nat)) : Except Nat State :=
  match engineFault s w.part w.vd l bs.length true with
  | some k => .error k
  | none =>
    match homeWriteBad s w l bs bad with
    | .ok _ s1 => .ok s1
    | _ => .error 1

/-! ### Memory operands (R384) -/

/-- Row r of a window operand: its raw location and length. -/
def rowRange (c : Cmd) (m : MatBody) (n r : Nat) : Loc × Nat :=
  let a := m.addr.toNat
  let v := (placeOf c.core a).view
  rawRange c.core (a + r * (8 * m.pitch.toNat)) (n * if v ≠ 0 then 4 else fmtBytes m.fmt)

/-- Bytes of a row in a spool slot. -/
def spoolRow (n size : Nat) : Nat := (n * size + 63) / 64 * 64
/-- Rows per slot. -/
def rowsPerSlot (sp : Spool) (n size : Nat) : Nat := sp.bytes / spoolRow n size
/-- Slots of a command of `rows` rows (R384); 0 where a row does not fit. -/
def slotsOf (sp : Spool) (rows n size : Nat) : Nat :=
  let p := rowsPerSlot sp n size
  if p = 0 then 0 else (rows + p - 1) / p

/-- Why a command fails (R385): its class, the state that it leaves, the flags of what it has stored, whether it has met poison. -/
structure MatFail where
  cls : Nat
  state : State
  flags : FFlags
  psn : Bool

/-- A failure before anything is read or stored. -/
def MatFail.plain (cls : Nat) (s : State) : MatFail := ⟨cls, s, 0, false⟩

/-- A failure after reading, with poison met or not; the unit and memory stay as they were. -/
def MatFail.after (e : Nat × Bool) (s : State) : MatFail := ⟨e.1, s, 0, e.2⟩

/-- Read rows from a window, row by row; a failure has its class and whether poison was read before it. -/
def windowRows (c : Cmd) (m : MatBody) (n : Nat) : List Nat → State → Except (Nat × Bool) (List (List Nat × Bool) × State)
  | [], s => .ok ([], s)
  | r :: rs, s =>
    let q := rowRange c m n r
    match engineRead s c.who q.1 q.2 (some c.ftop) with
    | .error k => .error (k, false)
    | .ok (bs, bad, s1) =>
      match windowRows c m n rs s1 with
      | .error e => .error (e.1, e.2 || !bad.isEmpty)
      | .ok (l, s2) => .ok ((rowCodes (fmtBytes m.fmt) n bs, !bad.isEmpty) :: l, s2)

/-- Read rows from the spool slots that the command has taken, from slot `pos` on. -/
def spoolRows (s : State) (c : Cmd) (pos : Nat) (m : MatBody) (n : Nat) : Except Nat (List (List Nat × Bool) × Nat) :=
  let k := c.srcSpool
  match s.spool k with
  | none => .error 5
  | some sp =>
    let size := fmtBytes m.fmt
    let p := rowsPerSlot sp n size
    let cnt := slotsOf sp (matRows m) n size
    if cnt = 0 || decide (sp.count < cnt) then .error 5
    else if (List.range cnt).any (fun i => s.slotBelow k sp ((pos + i) % sp.count)) then .error 5
    else if (List.range cnt).any (fun i =>
        let j := (pos + i) % sp.count
        sp.narrow.getLsbD j && (s.slotRec k sp j).ftop != c.ftop) then .error 4
    else
      .ok ((List.range (matRows m)).map (fun r =>
        let off := sp.base + (pos + r / p) % sp.count * sp.bytes + r % p * spoolRow n size
        match homeReadBad s c.who (.scratch c.core off) (n * size) with
        | .ok g _ => (rowCodes size n g.1, !g.2.isEmpty)
        | _ => (rowCodes size n [], false)), cnt)

/-- Read rows of `n` elements from a quilt (R387, R389). A row is poisoned where a byte read for it is. -/
def quiltRows (s : State) (c : Cmd) (m : MatBody) (n : Nat) : Except (Nat × Bool) (List (List Nat × Bool) × State) :=
  let q := rawRange c.core m.addr.toNat (8 * m.pitch.toNat)
  match engineRead s c.who q.1 q.2 (some c.ftop) with
  | .error k => .error (k, false)
  | .ok (bs, bad, s1) =>
    match decodeQuilt bs with
    | none => .error (3, !bad.isEmpty)
    | some u =>
      if u.ftop ≠ c.ftop then .error (4, !bad.isEmpty)
      else if u.fmt ≠ m.fmt.toNat ∨ u.count < matRows m * n then .error (3, !bad.isEmpty)
      else .ok ((List.range (matRows m)).map (fun r =>
        ((u.elems.drop (r * n)).take n, (u.reads (r * n) n).any fun a => bad.any (overlap a))), s1)

/-- The rows of LDW and MMA. -/
def sourceRows (s : State) (c : Cmd) (pos : Nat) (m : MatBody) (n : Nat) : Except (Nat × Bool) (Rows × State) :=
  let fin := fun (l : List (List Nat × Bool)) (k : Nat) (z : State) => ((⟨l.map (·.1), l.map (·.2), k⟩ : Rows), z)
  if isQ c.op then
    match quiltRows s c m n with
    | .ok (l, z) => .ok (fin l 0 z)
    | .error k => .error k
  else if m.src = 1 then
    match spoolRows s c pos m n with
    | .ok (l, k) => .ok (fin l k s)
    | .error k => .error (k, false)
  else
    match windowRows c m n (List.range (matRows m)) s with
    | .ok (l, z) => .ok (fin l 0 z)
    | .error k => .error k

/-! ### What a command does to its unit -/

/-- The result of a command before it is put into effect: the state, its flags, poison, an MM.ACCV's registers, a threshold,
and the rows that a chained command's next tile takes. -/
structure MatDone where
  state : State
  flags : FFlags
  psn : Bool
  regs : List W512
  thr : Option W32
  rows : Rows

/-- A plain result. -/
def MatDone.plain (s : State) : MatDone := ⟨s, 0, false, [], none, ⟨[], [], 0⟩⟩

/-- Change cell `k`. -/
def State.onCell (s : State) (k : Nat) (f : Cell → Cell) : State := s.setCell k (f (s.cell k))

/-- Free the consumer's slots, then those of discards behind it (R92, R384, R390). -/
def freeSource (s : State) (c : Cmd) (chain slots : Nat) : State :=
  let u := satAdd chain (transitIn c.declared (.unit (cellOf c.core)) (.core c.core))
  drainDiscards c.srcSpool 256 (freeSlots c.srcSpool u.1 c.wid slots s)

/-- The ticks that a chained command's last tile adds to its chain (R89, R391). -/
def chainLag (c : Cmd) : Nat := if c.declared || !isMma c.op then 0 else 2 * (decMat c.word).chain.toNat

/-- MM.LDW (R387). -/
def doLdw (s : State) (c : Cmd) (m : MatBody) (pos chain : Nat) (ovf : Bool) : Except MatFail MatDone :=
  match sourceRows s c pos m 128 with
  | .error e => .error (.after e s)
  | .ok (r, s1) =>
    let s2 := freeSource s1 c chain r.slots
    .ok ⟨s2.onCell (cellOf c.core) fun u =>
      let p := u.shadow
      let keep := p.fmt = m.fmt.toNat
      let rows := (List.range (matRows m)).foldl (fun (t : Tbl (BitVec 2048)) i =>
        t.put (m.row0.toNat + i) (packRow 2048 16 (r.codes.getD i []))) (if keep then p.rows else [])
      let bad := (List.range (matRows m)).foldl (fun (b : BitVec 128) i =>
        let bit : BitVec 128 := 1#128 <<< (m.row0.toNat + i)
        if r.bad.getD i false then b ||| bit else b &&& ~~~bit) (if keep then p.poison else 0)
      { u with shadow := { p with fmt := m.fmt.toNat, ftop := c.ftop, link := false, rows := rows, poison := bad,
                                  chain := ⟨chain, ovf, c.wid⟩ } },
      0, r.bad.any id, [], none, r⟩

/-- MM.SWAP (R90, R388). -/
def doSwap (s : State) (c : Cmd) (m : MatBody) (chain : Nat) (ovf : Bool) : MatDone :=
  .plain (s.onCell (cellOf c.core) fun u =>
    let ch := u.shadow.chain
    { u with
      active := { u.shadow with owner := some c.core, link := m.link,
                                chain := if ch.val < chain then ⟨chain, ovf || ch.ovf, c.wid⟩ else { ch with ovf := ovf || ch.ovf } }
      shadow := { u.active with owner := none } })

/-- The products' operands of row `a` and column j of a plane. -/
def column (p : Plane) (a : List Num) (j : Nat) : List (Num × Num) :=
  a.zipIdx.map fun q => (q.1, (fmtOf p.fmt).read p.ftop (p.code q.2 j))

/-- One tile in one unit (R389, R396): the new slot, flags, poison met, NaN refused. -/
def tile (c : Cmd) (m : MatBody) (p : Plane) (t : Slot) (rs : Rows) (chain : Nat) (ovf : Bool) : Slot × FFlags × Bool × Bool :=
  let k := m.kdimM1.toNat + 1
  let planeBad := (List.range k).any p.poison.getLsbD
  let step := fun (r : Slot × FFlags × Bool × Bool) (i : Nat) =>
    let row := m.row0.toNat + i
    let a := (rs.codes.getD i []).map fun x => (fmtOf m.fmt.toNat).read c.ftop x
    let out := (List.range 128).map fun j =>
      dotFp32 c.frnd (if isMmac c.op then r.1.elem row j else 0) (column p a j)
    let fl := out.foldl (fun f o => f ||| o.2) r.2.1
    let bad := planeBad || rs.bad.getD i false || (isMmac c.op && r.1.poison.getLsbD row)
    let pz := if bad then r.1.poison ||| (1#128 <<< row) else r.1.poison
    if t.ranked then
      let l := r.1.lists.getD row default
      let q := (out.take t.vcols).zipIdx.foldl (fun (q : List (W32 × W32) × Bool) o =>
        let z := rankOffer t.k q.1 (o.1.1, t.base + m.aux + BitVec.ofNat 32 o.2)
        (z.1, q.2 || z.2)) (l.pairs, false)
      ({ r.1 with lists := r.1.lists.put row ⟨q.1, l.nan || q.2⟩, poison := pz }, fl, r.2.2.1 || bad, r.2.2.2 || q.2)
    else
      ({ r.1 with rows := r.1.rows.put row (packRow 4096 32 (out.map fun o => o.1.toNat)), poison := pz }, fl, r.2.2.1 || bad, r.2.2.2)
  let z := (List.range (matRows m)).foldl step (t, 0, false, false)
  ({ z.1 with chain := ⟨chain, ovf, c.wid⟩ }, z.2)

/-- The cells that a command runs in, west to east (R391). -/
def tileCells (c : Cmd) (m : MatBody) : List Nat := (List.range (m.chain.toNat + 1)).map (cellOf c.core + ·)

/-- MM.MMA and MM.MMAC in the westmost unit (R389, R391): its tile, or none of the command where a unit of it cannot run its own. -/
def doMma (s : State) (c : Cmd) (m : MatBody) (pos chain : Nat) (ovf : Bool) : Except MatFail MatDone :=
  let cells := tileCells c m
  if cells.any (fun k => (s.cell k).active.ftop != c.ftop) then .error (.plain 4 s)
  else if isMmac c.op && cells.any (fun k => ((s.cell k).slot m.slot).ranked) then .error (.plain 5 s)
  else
    match sourceRows s c pos m (m.kdimM1.toNat + 1) with
    | .error e => .error (.after e s)
    | .ok (rs, s1) =>
      let s2 := freeSource s1 c (satAdd chain (chainLag c)).1 rs.slots
      let u := s2.cell (cellOf c.core)
      let z := tile c m u.active (u.slot m.slot) rs chain ovf
      .ok ⟨s2.setCell (cellOf c.core) (u.setSlot m.slot z.1), z.2.1 ||| flagIf z.2.2.2 flRlnan, z.2.2.1, [], none, rs⟩

/-- Rows named by a command. -/
def namedRows (m : MatBody) : List Nat := (List.range (matRows m)).map (m.row0.toNat + ·)

/-- MM.ZERO (R392). -/
def doZero (s : State) (c : Cmd) (m : MatBody) (chain : Nat) (ovf : Bool) : MatDone :=
  .plain (s.onCell (cellOf c.core) fun u =>
    let t := u.slot m.slot
    u.setSlot m.slot ((namedRows m).foldl (fun (t : Slot) i =>
      { t with rows := t.rows.del i, lists := t.lists.del i, poison := t.poison &&& ~~~(1#128 <<< i) })
      { t with chain := ⟨chain, ovf, c.wid⟩ }))

/-- MM.RLDEF (R395). -/
def doRldef (s : State) (c : Cmd) (m : MatBody) (chain : Nat) (ovf : Bool) : MatDone :=
  .plain (s.onCell (cellOf c.core) fun u =>
    u.setSlot m.slot { Slot.zero with
      owner := (u.slot m.slot).owner, ranked := true, k := m.kdimM1.toNat + 1, base := m.aux, vcols := m.vcols.toNat,
      chain := ⟨chain, ovf, c.wid⟩ })

/-- Convert one row of a plain slot for a store (R253 to R256, R393). -/
def storeRow (c : Cmd) (m : MatBody) (t : Slot) (row : Nat) : List Byte × FFlags :=
  (List.range m.vcols.toNat).foldl (fun (r : List Byte × FFlags) j =>
    let w := t.elem row j
    if m.fmt = 3 then (r.1 ++ bytesOf w.toNat 4, r.2)
    else
      let z := (fmtOf m.fmt.toNat).narrowW c.ftop (c.op == .accstSat) c.frnd w
      (r.1 ++ bytesOf z.1 (fmtBytes m.fmt), r.2 ||| z.2)) ([], 0)

/-- The destination spool of an MM.ACCST. -/
def Cmd.dstSpool (c : Cmd) : SpoolId :=
  let m := decMat c.word
  ⟨c.part, c.vd, bitsN m.bound 15 5, m.handle.toNat⟩

/-- Store rows to the window one by one; memory already written stays written (R385). -/
def storeRows (c : Cmd) (m : MatBody) (t : Slot) : List Nat → State × FFlags × Bool → Except MatFail (State × FFlags × Bool)
  | [], d => .ok d
  | i :: is, d =>
    let row := m.row0.toNat + i
    let z := storeRow c m t row
    let bad := t.poison.getLsbD row
    let q := rowRange c m m.vcols.toNat i
    match engineWrite d.1 c.who q.1 z.1 (if bad then [(0, z.1.length)] else []) with
    | .error k => .error ⟨k, d.1, d.2.1, d.2.2⟩
    | .ok s1 => storeRows c m t is (s1, d.2.1 ||| z.2, d.2.2 || bad)

/-- Landing bytes of a spool store: rows padded to their places in the slots. -/
def spoolBytes (sp : Spool) (n size : Nat) (rows : List (List Byte × Bool)) : List Byte × List (Nat × Nat) :=
  let rb := spoolRow n size
  let p := max 1 (rowsPerSlot sp n size)
  let cnt := (rows.length + p - 1) / p
  let bs := (List.range cnt).flatMap fun j =>
    let part := (List.range p).flatMap fun i => let b := (rows.getD (j * p + i) ([], false)).1
                                                b ++ List.replicate (rb - b.length) 0
    part ++ List.replicate (sp.bytes - part.length) 0
  (bs, (List.range rows.length).filterMap fun r =>
    if (rows.getD r ([], false)).2 then some (r / p * sp.bytes + r % p * rb, n * size) else none)

/-- MM.ACCST (R393). A failure after some rows leaves them written. -/
def doAccst (s : State) (c : Cmd) (m : MatBody) : Except MatFail MatDone :=
  let t := (s.cell (cellOf c.core)).slot m.slot
  if t.ranked then .error (.plain 5 s)
  else if m.src = 1 then
    match s.spool c.dstSpool, s.landings.findIdx? (fun l => l.cmd == some c.id && l.granted) with
    | some sp, some i =>
      match s.landings[i]? with
      | none => .error (.plain 5 s)
      | some l =>
        if (List.range l.slots).any fun j => s.slotBelow c.dstSpool sp ((sp.prod + j) % sp.count) then .error (.plain 5 s) else
        let rows := (List.range (matRows m)).map fun r =>
          ((storeRow c m t (m.row0.toNat + r)).1, t.poison.getLsbD (m.row0.toNat + r))
        let fl := (List.range (matRows m)).foldl (fun f r => f ||| (storeRow c m t (m.row0.toNat + r)).2) 0
        let d := spoolBytes sp m.vcols.toNat (fmtBytes m.fmt) rows
        let s1 := (List.range l.slots).foldl (fun (z : State) k =>
          z.countSlot i { l with data := d.1.drop (k * sp.bytes), bad := cutBad d.2 (k * sp.bytes) d.1.length, counted := k }) s
        .ok ⟨{ s1 with landings := s1.landings.filter (·.cmd != some c.id) }, fl, rows.any (·.2), [], none, ⟨[], [], 0⟩⟩
    | _, _ => .error (.plain 5 s)
  else
    match storeRows c m t (List.range (matRows m)) (s, 0, false) with
    | .error e => .error e
    | .ok r => .ok ⟨r.1, r.2.1, r.2.2, [], none, ⟨[], [], 0⟩⟩

/-- Word w of a row of a slot: an element, or a word of its list (R394). -/
def Slot.word (t : Slot) (row w : Nat) : W32 :=
  if t.ranked then
    match (t.lists.getD row default).pairs[w / 2]? with
    | some p => if w % 2 = 0 then p.1 else p.2
    | none => 0
  else t.elem row w

/-- MM.ACCV (R394): the registers read, and whether a row read is poisoned. -/
def doAccv (s : State) (c : Cmd) (m : MatBody) : MatDone :=
  let t := (s.cell (cellOf c.core)).slot m.slot
  let segs := (List.range (accvRegs m)).map (accvSeg m + ·)
  ⟨s, 0, segs.any (fun g => t.poison.getLsbD (g / 8)),
    segs.map fun g => ofLanes fun l => t.word (g / 8) (16 * (g % 8) + l), none, ⟨[], [], 0⟩⟩

/-- A list in memory (R271). -/
def listBytes (k : Nat) (l : RList) (psn : Bool) : List Byte :=
  bytesOf (k + l.pairs.length * 2 ^ 8 + b2n l.nan * 2 ^ 16 + b2n psn * 2 ^ 17) 8 ++
    (List.range k).flatMap fun j => match l.pairs[j]? with
      | some p => bytesOf p.1.toNat 4 ++ bytesOf p.2.toNat 4
      | none => bytesOf 0 8

/-- Store lists one by one. -/
def storeLists (c : Cmd) (m : MatBody) (t : Slot) : List Nat → State × Bool → Except MatFail (State × Bool)
  | [], d => .ok d
  | i :: is, d =>
    let row := m.row0.toNat + i
    let bad := t.poison.getLsbD row
    let bs := listBytes t.k (t.lists.getD row default) bad
    let l := locOf c.core (m.addr.toNat + i * (8 * m.pitch.toNat))
    match engineWrite d.1 c.who l bs (if bad then [(0, bs.length)] else []) with
    | .error k => .error ⟨k, d.1, 0, d.2⟩
    | .ok s1 => storeLists c m t is (s1, d.2 || bad)

/-- MM.RLST (R398). -/
def doRlst (s : State) (c : Cmd) (m : MatBody) : Except MatFail MatDone :=
  let t := (s.cell (cellOf c.core)).slot m.slot
  if !t.ranked || (1 < matRows m && decide (8 * m.pitch.toNat < 8 + 8 * t.k)) then .error (.plain 5 s)
  else
    match storeLists c m t (List.range (matRows m)) (s, false) with
    | .error e => .error e
    | .ok r => .ok ⟨r.1, 0, r.2, [], none, ⟨[], [], 0⟩⟩

/-- A candidate source of MM.RLMRG for one row: candidates, nan, poison. -/
structure Offers where
  pairs : List (W32 × W32)
  nan : Bool
  psn : Bool
deriving DecidableEq, Repr, Inhabited

/-- A stored list (R271, R399): none where class 5 applies. -/
def readList (hd : List Byte) (body : List Byte) (bad : Bool) : Option Offers :=
  let h := numOf hd
  let k := h % 256
  let v := h / 256 % 256
  if k = 0 ∨ 64 < k ∨ k < v ∨ h / 2 ^ 18 ≠ 0 then none
  else some ⟨(List.range v).map (fun j => (BitVec.ofNat 32 (numOf ((body.drop (8 * j)).take 4)),
      BitVec.ofNat 32 (numOf ((body.drop (8 * j + 4)).take 4)))), h / 2 ^ 16 % 2 == 1, bad || h / 2 ^ 17 % 2 == 1⟩

/-- The offers of lists in a window. -/
def windowOffers (c : Cmd) (m : MatBody) : List Nat → State → Except (Nat × Bool) (List Offers × State)
  | [], s => .ok ([], s)
  | i :: is, s =>
    let a := m.addr.toNat + i * (8 * m.pitch.toNat)
    match engineRead s c.who (locOf c.core a) 8 (some c.ftop) with
    | .error k => .error (k, false)
    | .ok (hd, b1, s1) =>
      let k := numOf hd % 256
      if k = 0 ∨ 64 < k then .error (5, !b1.isEmpty)
      else match engineRead s1 c.who (locOf c.core (a + 8)) (8 * k) (some c.ftop) with
      | .error k => .error (k, !b1.isEmpty)
      | .ok (body, b2, s2) =>
        match readList hd body (!b1.isEmpty || !b2.isEmpty) with
        | none => .error (5, !b1.isEmpty || !b2.isEmpty)
        | some o =>
          match windowOffers c m is s2 with
          | .error e => .error (e.1, e.2 || o.psn)
          | .ok (l, s3) => .ok (o :: l, s3)

/-- The offers of a slot (R399). -/
def slotOffers (t : Slot) (m : MatBody) : List Offers :=
  (namedRows m).map fun i =>
    if t.ranked then
      let l := t.lists.getD i default
      ⟨l.pairs, l.nan, t.poison.getLsbD i⟩
    else ⟨(List.range (min 128 m.vcols.toNat)).map (fun j => (t.elem i j, m.aux + BitVec.ofNat 32 j)), false, t.poison.getLsbD i⟩

/-- MM.RLMRG (R399). -/
def doRlmrg (s : State) (c : Cmd) (m : MatBody) (chain : Nat) (ovf : Bool) : Except MatFail MatDone :=
  let k := cellOf c.core
  let t := (s.cell k).slot m.slot
  if !t.ranked || (m.src == 3 && m.slot2 == m.slot) then .error (.plain 5 s)
  else
    match (if m.src = 3 then .ok (slotOffers ((s.cell k).slot m.slot2) m, s) else windowOffers c m (List.range (matRows m)) s) with
    | .error e => .error (.after e s)
    | .ok (os, s1) =>
      let z := (namedRows m).zipIdx.foldl (fun (r : Slot × Bool × Bool) q =>
        let o := os.getD q.2 default
        let l := r.1.lists.getD q.1 default
        let w := o.pairs.foldl (fun (w : List (W32 × W32) × Bool) p =>
          let y := rankOffer t.k w.1 p
          (y.1, w.2 || y.2)) (l.pairs, false)
        ({ r.1 with lists := r.1.lists.put q.1 ⟨w.1, l.nan || o.nan || w.2⟩,
                    poison := if o.psn then r.1.poison ||| (1#128 <<< q.1) else r.1.poison }, r.2.1 || w.2, r.2.2 || o.psn))
        (t, false, false)
      .ok ⟨s1.onCell k fun u => u.setSlot m.slot { z.1 with chain := ⟨chain, ovf, c.wid⟩ }, flagIf z.2.1 flRlnan, z.2.2, [], none, ⟨[], [], 0⟩⟩

/-- The minimum of two thresholds, −0 below +0 except that zeros of both signs give +0 (R400). -/
def thrMin (a b : W32) : W32 := if feq32 a b then (if a = b then a else 0) else if flt32 b a then b else a

/-- MM.THR (R400). -/
def doThr (s : State) (c : Cmd) (m : MatBody) : Except MatFail MatDone :=
  let t := (s.cell (cellOf c.core)).slot m.slot
  if !t.ranked then .error (.plain 5 s)
  else
    let v := fun i => match (t.lists.getD i default).pairs[t.k - 1]? with
      | some p => p.1
      | none => 0xFF800000#32
    let vs := (namedRows m).map v
    .ok ⟨s, 0, (namedRows m).any t.poison.getLsbD, [], some (vs.foldl thrMin (vs.headD 0)), ⟨[], [], 0⟩⟩

/-- The data effect of a command that has run, in its own unit (R387 to R400). -/
def matRun (s : State) (r : Running) : Except MatFail MatDone :=
  let c := r.cmd
  let chain := r.chain
  let ovf := r.ovf
  let m := decMat c.word
  match c.op with
  | .ldw => doLdw s c m r.pos chain ovf
  | .ldwQ => doLdw s c m r.pos chain ovf
  | .swap => .ok (doSwap s c m chain ovf)
  | .zero => .ok (doZero s c m chain ovf)
  | .rldef => .ok (doRldef s c m chain ovf)
  | .accst => doAccst s c m
  | .accstSat => doAccst s c m
  | .accv => .ok (doAccv s c m)
  | .rlst => doRlst s c m
  | .rlmrg => doRlmrg s c m chain ovf
  | .thr => doThr s c m
  | _ => doMma s c m r.pos chain ovf

/-! ### Start (R69, R70, R89) -/

/-- The port of a command: 0 load, 1 array. -/
def portOf (o : CmdOp) : Nat := if isLdw o then 0 else 1

/-- The head of a core's matrix queue at a port. -/
def Strand.headAt (x : Strand) (port : Nat) : Option Cmd := x.mq.find? fun c => portOf c.op == port

/-- Slots of a spool that a matrix command consumes: none for another source. -/
def consumes (s : State) (c : Cmd) : Option (SpoolId × Nat) :=
  let m := decMat c.word
  if (isLdw c.op || isMma c.op) && m.src == 1 then
    match s.spool c.srcSpool with
    | some sp => some (c.srcSpool, slotsOf sp (matRows m) (if isLdw c.op then 128 else m.kdimM1.toNat + 1) (fmtBytes m.fmt))
    | none => some (c.srcSpool, 0)
  else none

/-- The source of a command is there (R70): its slots, beyond those that earlier consumers have taken, are filled. A command whose
spool cannot serve it runs and fails. -/
def sourceReady (s : State) (c : Cmd) : Bool :=
  match consumes s c with
  | none => true
  | some (k, n) =>
    match s.spool k with
    | some sp => n == 0 || decide (sp.count < n) || decide (s.taken k + n ≤ sp.fill)
    | none => true

/-- The first slot that a consumer command takes (R384). -/
def takesFrom (s : State) (c : Cmd) : Nat :=
  match consumes s c with
  | none => 0
  | some (k, _) => match s.spool k with
    | some sp => (sp.cons + s.taken k) % sp.count
    | none => 0

/-- The destination spool of an MM.ACCST has its free slots, and no earlier reservation waits there (R70, R239). -/
def destReady (s : State) (c : Cmd) : Bool :=
  let m := decMat c.word
  if isAccst c.op && m.src == 1 then
    match s.spool c.dstSpool with
    | none => true
    | some sp =>
      let n := slotsOf sp (matRows m) m.vcols.toNat (fmtBytes m.fmt)
      n == 0 || decide (sp.count < n) || (decide (n ≤ sp.free) && !s.landings.any fun l => l.spool == c.dstSpool && !l.granted)
  else true

/-- A slot is unowned or owned by a core. -/
def Slot.open_ (t : Slot) (n : Nat) : Bool := t.owner.isNone || t.owner == some n

/-- Eligible at its port (R70, R391). An MM.LDW does not start while an MM.SWAP exchanges the planes (log 34). -/
def eligible (s : State) (c : Cmd) : Bool :=
  let m := decMat c.word
  let n := c.core
  let u := s.cell (cellOf n)
  let slotOk := (u.slot m.slot).open_ n
  if isLdw c.op then (u.shadow.owner.isNone || u.shadow.owner == some n) && sourceReady s c &&
    !u.array.running.any fun r => r.cmd.op == .swap
  else if c.op == .swap then
    u.shadow.owner == some n && u.load.running.isNone && u.forwards.isEmpty &&
      !(((s.strand n).map (·.mq)).getD []).any fun k => isLdw k.op && decide (k.id < c.id)
  else if isMma c.op then
    u.active.owner == some n && slotOk && sourceReady s c &&
      (tileCells c m).tail.all fun k =>
        let e := s.cell k
        e.active.link && match e.active.owner with
          | some o => (e.slot m.slot).open_ o
          | none => false
  else slotOk && (c.op != .rlmrg || m.src != 3 || (u.slot m.slot2).open_ n) && destReady s c

/-- The skip test (R397). A bound of +infinity or NaN never skips. -/
def skips (s : State) (c : Cmd) : Bool :=
  let m := decMat c.word
  let t := (s.cell (cellOf c.core)).slot m.slot
  let b := Fmt.bf16.widen false m.bound.toNat
  (c.op == .mma || c.op == .mmaQ) && m.chain == 0 && t.ranked && !isNan32 b && b != 0x7F800000#32 &&
  (namedRows m).all fun i =>
    match (t.lists.getD i default).pairs[t.k - 1]? with
    | none => false
    | some p => flt32 b p.1 || (feq32 b p.1 && (List.range t.vcols).all fun j =>
        decide (p.2.toNat ≤ (t.base + m.aux + BitVec.ofNat 32 j).toNat))

/-- Busy ticks (R386). -/
def busyTicks (s : State) (c : Cmd) : Nat :=
  let m := decMat c.word
  let rows := matRows m
  let u := s.cell (cellOf c.core)
  let fp8 := fun f : Nat => decide (f < 2)
  let up := fun (a b : Nat) => (a + b - 1) / b
  match c.op with
  | .ldw => 8 + rows * (if fp8 m.fmt.toNat then 1 else 2)
  | .ldwQ => 8 + rows * (if fp8 m.fmt.toNat then 1 else 2)
  | .swap => 1
  | .zero => 4 + rows
  | .rldef => 4
  | .accst => 8 + rows * up (m.vcols.toNat * fmtBytes m.fmt) 256
  | .accstSat => 8 + rows * up (m.vcols.toNat * fmtBytes m.fmt) 256
  | .accv => 4 + accvRegs m
  | .rlst => 8 + rows * up (8 + 8 * (u.slot m.slot).k) 256
  | .rlmrg => 8 + rows * up (if m.src = 3 ∧ !(u.slot m.slot2).ranked then m.vcols.toNat else 64) 16
  | .thr => 4 + up rows 16
  | _ =>
    let r := if fp8 m.fmt.toNat && (tileCells c m).all (fun k => fp8 (s.cell k).active.fmt) then 1 else 2
    16 + rows * (if (u.slot m.slot).ranked then r + 4 else r)

/-- The largest of some chains, each with its overflow flag. -/
def maxChain (l : List (Nat × Bool)) : Nat × Bool := (l.foldl (fun a b => max a b.1) 0, l.any (·.2))

/-- The chains that a command joins before it runs (R89, R391), each with its transit to the unit. R89 does not say whether a command that names
but does not read an accumulator slot (MM.ZERO, MM.RLDEF) joins that slot's chain: the model joins every slot named (log 51). -/
def inputChains (s : State) (c : Cmd) : List (Nat × Bool) :=
  let m := decMat c.word
  let here := Site.unit (cellOf c.core)
  let u := s.cell (cellOf c.core)
  let via := fun (ch : Chain) (site : Site) => let r := satAdd ch.val (transitIn c.declared site here)
                                               (r.1, r.2 || ch.ovf)
  let slots := if namesSlot c.op then (tileCells c m).map fun k => via ((s.cell k).slot m.slot).chain (.unit k) else []
  let planes := if isMma c.op then (tileCells c m).map fun k => via (s.cell k).active.chain (.unit k) else []
  let second := if c.op == .rlmrg && m.src == 3 then [via (u.slot m.slot2).chain here] else []
  let fills := match consumes s c with
    | none => []
    | some (k, n) => match s.spool k with
      | none => []
      | some sp => (List.range (min n sp.count)).map fun i =>
          let r := s.slotRec k sp ((takesFrom s c + i) % sp.count)
          via ⟨r.fill, r.ovf, 0⟩ (.core k.core)
  let frees := if isAccst c.op && m.src == 1 then
      match s.spool c.dstSpool with
      | none => []
      | some sp => (s.freeRecs c.dstSpool sp (min sp.count (slotsOf sp (matRows m) m.vcols.toNat (fmtBytes m.fmt)))).map fun r =>
          via ⟨r.free, false, 0⟩ (.core c.dstSpool.core)
    else []
  slots ++ planes ++ second ++ fills ++ frees

/-- Reserve the slots of an MM.ACCST's destination spool (R239, R393). -/
def reserveAccst (s : State) (c : Cmd) (chain : Nat) (ovf : Bool) : State :=
  let m := decMat c.word
  if isAccst c.op && m.src == 1 then
    match s.spool c.dstSpool with
    | none => s
    | some sp =>
      let n := slotsOf sp (matRows m) m.vcols.toNat (fmtBytes m.fmt)
      if n = 0 ∨ sp.count < n ∨ ((s.cell (cellOf c.core)).slot m.slot).ranked then s
      else
        let t := satAdd chain (transitIn c.declared (.unit (cellOf c.core)) (.core c.dstSpool.core))
        (s.setSpool c.dstSpool { sp with free := sp.free - n, resv := sp.resv + n }).addGranted
          ⟨c.dstSpool, n, true, 0, [], [], false, m.com.narrow, c.ftop, t.1, ovf || t.2, c.wid, false, some c.id⟩
  else s

/-- Take the ownership that a command takes when it starts (R70, R391). -/
def takeOwner (s : State) (c : Cmd) : State :=
  let m := decMat c.word
  let own := fun (t : Slot) (o : Nat) => if t.owner.isNone then { t with owner := some o } else t
  let s1 := s.onCell (cellOf c.core) fun u =>
    if isLdw c.op then { u with shadow := { u.shadow with owner := some c.core } }
    else if c.op == .swap then u
    else
      let u1 := u.setSlot m.slot (own (u.slot m.slot) c.core)
      if c.op == .rlmrg && m.src == 3 then u1.setSlot m.slot2 (own (u1.slot m.slot2) c.core) else u1
  if isMma c.op then
    (tileCells c m).tail.foldl (fun (z : State) k => z.onCell k fun e =>
      match e.active.owner with
      | some o => e.setSlot m.slot (own (e.slot m.slot) o)
      | none => e) s1
  else s1

/-- Replace a port's running command. -/
def Cell.setPort (u : Cell) (port : Nat) (p : Port) : Cell := if port = 0 then { u with load := p } else { u with array := p }
/-- A port. -/
def Cell.port (u : Cell) (port : Nat) : Port := if port = 0 then u.load else u.array

/-- Start a command at its port (R69 to R71, R89): the chain is fixed, ownership and source slots taken, tiles forwarded. The tile of the
first unit to the east is due 2 ticks on, the others when their neighbours have started. -/
def startMatrix (s : State) (c : Cmd) (ptr credit : Nat) : State :=
  let m := decMat c.word
  let k := cellOf c.core
  let busy := busyTicks s c
  let ins := maxChain ((c.e0, c.ovf) :: inputChains s c)
  let ch := satAdd ins.1 (if c.declared then 0 else busy)
  let run : Running := ⟨c, ch.1, ins.2 || ch.2, busy, s.tick + busy, 0, s.cmdCtr, ((consumes s c).map (·.2)).getD 0, takesFrom s c, none, ins.1, ins.2⟩
  let s1 := (reserveAccst (takeOwner s c) c ch.1 run.ovf).onStrand c.core fun x => { x with mq := x.mq.erase c }
  let s2 := s1.onCell k fun u => u.setPort (portOf c.op) ⟨ptr, credit, some run⟩
  let s3 : State := { s2 with cmdCtr := s2.cmdCtr + 1 }
  let s4 := if portOf c.op = 1 then s3.charge c.part c.vd 3 busy else s3
  (List.range m.chain.toNat).foldl (fun (z : State) i =>
    if isMma c.op then z.onCell (k + i + 1) fun e =>
      { e with forwards := e.forwards ++ [({ run with lag := i + 1, taken := 0 }, if i = 0 then some (s.tick + 2) else none)] }
    else z) s4

/-- A tile of a chained command has started: that of the next unit to the east is due 2 ticks on (R71). -/
def State.dueTile (s : State) (r : Running) : State :=
  s.onCell (cellOf r.cmd.core + r.lag + 1) fun e =>
    { e with forwards := e.forwards.map fun q => if q.1.cmd.id = r.cmd.id then (q.1, some (s.tick + 2)) else q }

/-- Hand the rows of a chained command to its tile in the unit `u` to the east (R391). -/
def State.feedTile (s : State) (c : Cmd) (u : Nat) (f : Feed) : State :=
  let put := fun r : Running => if r.cmd.id = c.id then { r with feed := some f } else r
  s.onCell (cellOf c.core + u) fun e =>
    { e with forwards := e.forwards.map fun q => (put q.1, q.2), array := { e.array with running := e.array.running.map put } }

/-- A chained command has failed: its tiles in the units to the east do not run. -/
def State.dropTiles (s : State) (c : Cmd) : State :=
  (tileCells c (decMat c.word)).tail.foldl (fun (z : State) k => z.onCell k fun e =>
    { e with
      forwards := e.forwards.filter fun q => q.1.cmd.id != c.id
      array := { e.array with running := e.array.running.filter fun r => r.cmd.id != c.id } }) s

/-! ### Completion (R385) -/

/-- The completion signal of a command to a knot (R85, R245). -/
def engineSignal (s : State) (c : Cmd) (from_ : Site) (chain : Nat) (ovf err psn : Bool) (a : Nat) : State :=
  let l := locOf c.core a
  let t := satAdd chain (transitIn c.declared from_ (s.siteOf c.part c.vd l))
  s.send (.signal ⟨c.core, false, c.part, c.vd, l, 1, t.1, c.wid, ovf || t.2, err, psn⟩)

/-- A strand is the one that issued a command (R143). -/
def Cmd.byStrand (c : Cmd) (x : Strand) : Bool :=
  x.id.part == c.part && x.id.vd == c.vd && x.id.launch == c.launch && (x.id.index, x.id.stage, x.id.strand) == c.issuer

/-- The strand that issued a command is resident, or its context is saved (R143). -/
def State.issuerOf (s : State) (c : Cmd) : Option Bool :=
  if ((s.strand c.core).map c.byStrand).getD false then some false
  else if ((s.part c.part).map fun q => q.saved.any fun y => y.core == c.core && c.byStrand y.strand).getD false then some true
  else none

/-- Change the strand that issued a command, resident or saved (R385). -/
def State.onIssuer (s : State) (c : Cmd) (f : Strand → Strand) : State :=
  match s.issuerOf c with
  | some false => s.onStrand c.core f
  | some true => s.onPart c.part fun q =>
      { q with saved := q.saved.map fun y => if y.core == c.core && c.byStrand y.strand then { y with strand := f y.strand } else y }
  | none => s

/-- A failed command's trap at its issuer, its pend_cause where it is saved, or its mark in the launch's completion (R143). -/
def failTrap (s : State) (c : Cmd) (cls knot : Nat) : State :=
  match s.issuerOf c with
  | some saved =>
    let s1 := s.onIssuer c (·.addAsync 0x11 (BitVec.ofNat 64 knot) cls)
    match (if saved then (s1.part c.part).bind fun q => q.saved.find? fun y => y.core == c.core && c.byStrand y.strand else none) with
    | some y => s1.imagePend c.part y
    | none => s1
  | none => match s.launchOf c.part c.launch with
    | some l => s.setLaunch { l with err := true }
    | none => s

/-- The first knot address of a command, 0 for none. -/
def Cmd.knot (c : Cmd) : Nat := ((knotAddrs (decCommon c.word)).head?).getD 0

/-- The relslot and relplane bits (R383): the issuer gives up what it owns in its own unit. A skipped command may name what another core
owns (R70); that stays. -/
def release_ (s : State) (c : Cmd) : State :=
  let m := decMat c.word
  s.onCell (cellOf c.core) fun u =>
    let u1 := if m.relslot && (u.slot m.slot).open_ c.core then u.setSlot m.slot Slot.zero else u
    if m.relplane && u.active.owner == some c.core then { u1 with active := Plane.zero } else u1

/-- The cores whose scratchpads a matrix command writes to. -/
def matTargets (c : Cmd) : List Nat :=
  let m := decMat c.word
  if !(isAccst c.op || c.op == .rlst) then []
  else if m.src = 1 then [c.dstSpool.core]
  else match locOf c.core m.addr.toNat with
  | .scratch k _ => [k]
  | _ => []

/-- The end of a matrix command: locks, knot, flags, registers, RLTHR, ownership (R385, R394, R400). -/
def finishMatrix (c : Cmd) (chain : Nat) (ovf : Bool) (d : MatDone) (err : Option Nat) : State :=
  let m := decMat c.word
  let ch := satAdd chain (if err.isSome then 0 else chainLag c)
  let s0 := if d.psn then d.state.notePsn c.part c.launch else d.state
  let s1 := (s0.onIssuer c (·.orFlags d.flags)).dropLocks c.core (·.cmd == c.id)
  let s2 := match d.thr with
    | some w => s1.onIssuer c (·.setCsr 0x2D#7 (w.setWidth 64))
    | none => s1
  let s3 := if c.knot = 0 then s2
    else engineSignal s2 c (.unit (cellOf c.core)) ch.1 (ovf || ch.2) err.isSome d.psn c.knot
  let s4 := (release_ s3 c).idleFrom (matTargets c)
  let s5 := match err with
    | some k => failTrap s4 c k c.knot
    | none => s4
  if c.op == .accv then
    if d.psn then
      let s6 := s5.settleCore c.core
      match s6.strand c.core with
      | some x => if c.waited then s6.trapAt c.core x (.precise 0x0B (BitVec.ofNat 64 m.slot.toNat)) else s5
      | none => s5
    else
      let s6 := (List.range 16).foldl (fun (z : State) i =>
        if accvVd m / 8 ≤ i ∧ 8 * i < accvVd m + d.regs.length ∧ ((z.strand c.core).map (·.granAbsent.getLsbD i)).getD false
        then z.fillGran c.core i else z) s5
      s6.onStrand c.core fun x =>
      let y := d.regs.zipIdx.foldl (fun (y : Strand) q => y.setV (BitVec.ofNat 7 (accvVd m + q.2)) q.1) x
      if c.waited then { y with stash := [1] } else y
  else s5

/-- The run of a command ends in its own unit: it is carried out there and ends, or goes on in the units to the east. A failed one carries
its start and the busy ticks spent up to its failure, a free value up to its busy ticks (R97, log 7). -/
def completeMatrix (s : State) (r : Running) : State :=
  let c := r.cmd
  match matRun s r with
  | .ok d =>
    if isMma c.op && (decMat c.word).chain != 0 then d.state.feedTile c 1 ⟨d.rows, d.flags, d.psn⟩ else finishMatrix c r.chain r.ovf d none
  | .error e =>
    let b := if c.declared then 0 else r.busy
    let f := (e.state.dropTiles c).free (b + 1)
    let ch := satAdd r.start f.1
    let ovf := r.startOvf || ch.2
    let s2 := f.2.failReserved c.id [c.dstSpool] fun n =>
      let t := satAdd ch.1 (transitIn c.declared (.unit (cellOf c.core)) (.core n))
      (t.1, ovf || t.2)
    finishMatrix c ch.1 ovf { MatDone.plain s2 with flags := e.flags, psn := e.psn } (some e.cls)

/-- The tile of a chained command in unit `k` to the east ends (R391): its slot takes the result, the next tile its rows, and the last
ends the command. The rlnan flag goes to the owner of the unit's plane (R385). -/
def endTile (s : State) (k : Nat) (r : Running) (f : Feed) : State :=
  let c := r.cmd
  let m := decMat c.word
  let u := s.cell k
  let ch := satAdd r.chain (if c.declared then 0 else 2 * r.lag)
  let z := tile c m u.active (u.slot m.slot) f.rows ch.1 (r.ovf || ch.2)
  let s1 := s.setCell k (u.setSlot m.slot z.1)
  let s2 := match z.2.2.2, u.active.owner with
    | true, some n => s1.onContext c.part c.vd n (·.orFlags flRlnan)
    | _, _ => s1
  let g : Feed := { f with flags := f.flags ||| z.2.1, psn := f.psn || z.2.2.1 }
  if r.lag < m.chain.toNat then s2.feedTile c (r.lag + 1) g
  else finishMatrix c r.chain r.ovf ⟨s2, g.flags, g.psn, [], none, g.rows⟩ none

/-- A skipped command (R390, R397): its chain takes no busy ticks, its source slots are discarded. -/
def skipMatrix (s : State) (c : Cmd) : State :=
  let u := s.cell (cellOf c.core)
  let m := decMat c.word
  let ch := maxChain [(c.e0, c.ovf), ((u.slot m.slot).chain.val, (u.slot m.slot).chain.ovf), (u.active.chain.val, u.active.chain.ovf)]
  let s1 := s.onStrand c.core fun x => { x with mq := x.mq.erase c }
  let s2 := match consumes s c with
    | some (k, n) =>
      if n = 0 then s1
      else
        let t := satAdd ch.1 (transitIn c.declared (.unit (cellOf c.core)) (.core k.core))
        let z : State := { s1 with discards := s1.discards ++ [⟨k, n, t.1, c.wid, s1.cmdCtr⟩], cmdCtr := s1.cmdCtr + 1 }
        drainDiscards k 256 z
    | none => s1
  finishMatrix c ch.1 ch.2 (.plain s2) none

/-- The virtual device's energy quota for this period is used up (R133). -/
def State.exhausted (s : State) (p v : Nat) : Bool := ((s.part p).map fun x => (x.vd v).exhausted).getD false

/-- A head may start: earlier scratchpad and chip scratchpad writes of its strand are performed, and vector memory
instructions before it too (R224), and earlier releases (R225). -/
def startable (s : State) (c : Cmd) : Bool :=
  c.after == 0 && !s.exhausted c.part c.vd && !s.flight.any c.behind.contains && !s.flight.any fun m => match m with
    | .access a => a.core == c.core && a.op.writes && (match a.loc with
      | .glob _ => false
      | _ => true)
    | _ => false

/-! ### Commands as instructions of the current core -/

/-- No earlier consumer still holds slots of the command's source spool: it may end (R92, R384). -/
def sourceFirst (s : State) (r : Running) : Bool := r.taken == 0 || !s.takenBefore r.cmd.srcSpool r.order

/-- Run the forwarded tiles of a command at once, west to east. -/
def runTiles (id : Nat) : List Nat → State → State
  | [], s => s
  | k :: ks, s =>
    match (s.cell k).forwards.find? fun q => q.1.cmd.id == id with
    | none => runTiles id ks s
    | some (r, _) =>
      let s1 := (s.onCell k fun e => { e with forwards := e.forwards.filter fun q => q.1.cmd.id != id }).charge r.cmd.part r.cmd.vd 3 r.busy
      runTiles id ks (match r.feed with
        | some f => endTile s1 k r f
        | none => s1)

/-- Carry out a matrix command whose checks its ENQ.M has made, at once, for the current core's strand: it starts where it is
eligible at an idle port (or is skipped), and completes. An MM.ACCV of a poisoned row traps (R144). -/
def matNow (o : CmdOp) (m : MatBody) (mn : String) (s : State) : Out :=
  match s.strand s.cur with
  | none => .refused .noStrand
  | some x =>
    let k := cellOf s.cur
    let c := { s.capture s.cur x o (encCommon m.com (encMat m) o.opcode) with waited := false }
    let s1 : State := { s with cmdCtr := s.cmdCtr + 1 }
    let p := (s1.cell k).port (portOf o)
    if p.running.isSome then notEnabled mn
    else if skips s1 c then .next (skipMatrix s1 c)
    else if !eligible s1 c then notEnabled mn
    else
      let s2 := startMatrix s1 c p.ptr p.credit
      match ((s2.cell k).port (portOf o)).running with
      | none => notEnabled mn
      | some r =>
        if !sourceFirst s2 r then notEnabled mn
        else
          let s3 := s2.onCell k fun v => v.setPort (portOf o) p
          let s4 := runTiles c.id (tileCells c m).tail (completeMatrix s3 r)
          match (if o == .accv && (doAccv s3 c m).psn then s4.strand s.cur else none) with
          | some y => .next (s4.trapAt s.cur y (.precise 0x0B (BitVec.ofNat 64 m.slot.toNat)))
          | none => .next s4

/-- MM.LDW (R387). -/
def execMmLdw (c : MatBody) (s : State) : Out := matNow .ldw c "MM_LDW" s
/-- MM.LDW.q (R387). -/
def execMmLdwQ (c : MatBody) (s : State) : Out := matNow .ldwQ c "MM_LDW_Q" s
/-- MM.SWAP (R388). -/
def execMmSwap (c : MatBody) (s : State) : Out := matNow .swap c "MM_SWAP" s
/-- MM.MMA (R389). -/
def execMmMma (c : MatBody) (s : State) : Out := matNow .mma c "MM_MMA" s
/-- MM.MMA.q (R389). -/
def execMmMmaQ (c : MatBody) (s : State) : Out := matNow .mmaQ c "MM_MMA_Q" s
/-- MM.MMAC (R389). -/
def execMmMmac (c : MatBody) (s : State) : Out := matNow .mmac c "MM_MMAC" s
/-- MM.MMAC.q (R389). -/
def execMmMmacQ (c : MatBody) (s : State) : Out := matNow .mmacQ c "MM_MMAC_Q" s
/-- MM.ZERO (R392). -/
def execMmZero (c : MatBody) (s : State) : Out := matNow .zero c "MM_ZERO" s
/-- MM.RLDEF (R395). -/
def execMmRldef (c : MatBody) (s : State) : Out := matNow .rldef c "MM_RLDEF" s
/-- MM.ACCST (R393). -/
def execMmAccst (c : MatBody) (s : State) : Out := matNow .accst c "MM_ACCST" s
/-- MM.ACCST.sat (R393). -/
def execMmAccstSat (c : MatBody) (s : State) : Out := matNow .accstSat c "MM_ACCST_SAT" s
/-- MM.ACCV (R394). -/
def execMmAccv (c : MatBody) (s : State) : Out := matNow .accv c "MM_ACCV" s
/-- MM.RLST (R398). -/
def execMmRlst (c : MatBody) (s : State) : Out := matNow .rlst c "MM_RLST" s
/-- MM.RLMRG (R399). -/
def execMmRlmrg (c : MatBody) (s : State) : Out := matNow .rlmrg c "MM_RLMRG" s
/-- MM.THR (R400). -/
def execMmThr (c : MatBody) (s : State) : Out := matNow .thr c "MM_THR" s

/-! ### Device steps of the unit -/

/-- The cores of a cell from `ptr` round (R69). -/
def cellRing (k ptr : Nat) : List Nat := (List.range 8).map fun i => 8 * k + (ptr + i) % 8

/-- The head of core n at a port, if its strand is live. -/
def rawHead (s : State) (n port : Nat) : Option Cmd :=
  match s.strand n with
  | some x => if x.phase == .live then x.headAt port else none
  | none => none

/-- The head of core n at a port, if its strand is live and the head may start. -/
def headCmd (s : State) (n port : Nat) : Option Cmd := (rawHead s n port).bind fun c => if startable s c then some c else none

/-- A forwarded tile is due at a cell's array port, ahead of the cell's own queues (R71). -/
def Cell.tileDue (u : Cell) (tick : Nat) : Bool := u.forwards.any fun q => match q.2 with
  | some t => decide (t ≤ tick)
  | none => false

/-- MATRIX_ARBITRATE (R69, R70): port op.b (0 load, 1 array) of cell op.a decides. A head that is to be skipped completes as soon as it
is the head. -/
def execMatrixArbitrate (s : State) : Out :=
  let k := s.op.a
  let u := s.cell k
  let p := u.port s.op.b
  if p.running.isSome || decide (1 < s.op.b) || (s.op.b == 1 && u.tileDue s.tick) then notEnabled "MATRIX_ARBITRATE"
  else
    match (cellRing k p.ptr).findSome? (fun n => (rawHead s n s.op.b).bind fun c => if skips s c then some c else none) with
    | some c => .next (skipMatrix s c)
    | none =>
      let ok := fun n => (headCmd s n s.op.b).bind fun c => if eligible s c then some c else none
      let here := if 0 < p.credit then ok (8 * k + p.ptr) else none
      match here with
      | some c => .next (startMatrix s c p.ptr (p.credit - 1))
      | none =>
        match ((cellRing k (p.ptr + 1)).findSome? ok) with
        | some c =>
          let share := ((s.strand c.core).map fun x => bitsN (x.csrAt 0x29#7) 3 0).getD 0
          .next (startMatrix s c (c.core % 8) share)
        | none => notEnabled "MATRIX_ARBITRATE"

/-- CHAINED_TILE_FORWARD (R71, R391): a forwarded tile that is due at cell op.a starts at its idle array port. -/
def execChainedTileForward (s : State) : Out :=
  let u := s.cell s.op.a
  match u.forwards.find? (fun q => match q.2 with
      | some t => decide (t ≤ s.tick)
      | none => false), u.array.running with
  | some q, none =>
    let r := { q.1 with endTick := s.tick + q.1.busy }
    let s1 := s.setCell s.op.a { u with forwards := u.forwards.erase q, array := { u.array with running := some r } }
    .next ((s1.charge r.cmd.part r.cmd.vd 3 r.busy).dueTile r)
  | _, _ => notEnabled "CHAINED_TILE_FORWARD"

/-- A destination line lies in a page that is migrating: its write is held (R214). -/
def heldRange (s : State) (l : Loc) (len : Nat) : Bool :=
  match l with
  | .glob a => (runsOf a len).any fun r => s.migrating (r.1 * 256)
  | _ => false

/-- A window that a command writes lies in a page that is migrating (R214). -/
def matHeld (s : State) (c : Cmd) : Bool :=
  let m := decMat c.word
  let size := if c.op == .rlst then 520 else m.vcols.toNat * (if m.fmt.toNat < 2 then 1 else if m.fmt = 2 then 2 else 4)
  (isAccst c.op || c.op == .rlst) && m.src != 1 &&
  heldRange s (locOf c.core m.addr.toNat) ((matRows m - 1) * (8 * m.pitch.toNat) + size)

/-- Where an MM.ACCV finds a granule of its registers absent, its ENQ.M waits for the fill (R129, R394): whether it does so already, and the state
in which it does; none where nothing is absent. -/
def State.accvFill (s : State) (c : Cmd) : Option (Bool × State) :=
  match s.strand c.core with
  | some x =>
    if c.op == .accv && c.waited && x.accvAbsent (decMat c.word) then
      some (x.wait == some .lazy, (s.settleCore c.core).onStrand c.core fun y => { y with wait := some .lazy })
    else none
  | none => none

/-- MATRIX_COMMAND_COMPLETE (R385): the command, or the tile, at port op.b of cell op.a has used up its busy ticks and leaves the port. A
landing's earlier slots are counted, earlier consumers of its source spool have ended, a tile has the rows of its west neighbour, and an MM.ACCV
the granules that it writes. -/
def execMatrixCommandComplete (s : State) : Out :=
  match ((s.cell s.op.a).port s.op.b).running with
  | none => notEnabled "MATRIX_COMMAND_COMPLETE"
  | some r =>
    let c := r.cmd
    let headed := match s.landings.find? (fun l => l.cmd == some c.id) with
      | some l => s.headLanding l.spool == some l
      | none => true
    let s1 := s.onCell s.op.a fun v => v.setPort s.op.b { v.port s.op.b with running := none }
    if s.tick < r.endTick then notEnabled "MATRIX_COMMAND_COMPLETE"
    else if r.lag = 0 then
      if headed && !matHeld s c && sourceFirst s r then
        match s.accvFill c with
        | some (true, _) => notEnabled "MATRIX_COMMAND_COMPLETE"
        | some (false, z) => .next z
        | none => .next (completeMatrix s1 r)
      else notEnabled "MATRIX_COMMAND_COMPLETE"
    else match r.feed with
    | some f => .next (endTile s1 s.op.a r f)
    | none => notEnabled "MATRIX_COMMAND_COMPLETE"

end Sys2Proof.Machine
end

