-- ==== Sys2Proof/Machine/Queue.lean ====
section
/-! DEFINITION. Host queues (R39 to R46): records, slots, notifies, the pending bitmap, and the completion of packets (R48,
R49). -/
namespace Sys2Proof.Machine

/-- The origin of a queue's completions (R76). -/
def queueOrigin (q : Nat) : W32 := BitVec.ofNat 32 (0xFFFFF000 + q)

/-! ### Completion of packets -/

/-- Signal a packet's knot (R48, R85). -/
def packetSignal (s : State) (q part vd : Nat) (knot delta : W64) (chain : Nat) (ovf err psn : Bool) : State :=
  if knot = 0 then s
  else s.send (.signal ⟨noCore, false, part, vd, packetLoc q knot.toNat, delta, chain, queueOrigin q, ovf, err, psn⟩)

/-- Note when a queue has become empty with every started packet complete (R46). -/
def QSlot.settleIdle (x : QSlot) (tick : Nat) : QSlot :=
  if x.started.isEmpty && qPending x.record == 0 then { x with idle := some (x.idle.getD tick) } else { x with idle := none }

/-- A started packet completes: it leaves its queue's list and its knot is signalled (R48, R49). -/
def State.packetDone (s : State) (q index chain : Nat) (ovf err psn : Bool) : State :=
  match s.slotOfQueue q with
  | none => s
  | some (k, x) =>
    match x.started.find? (·.index == index) with
    | none => s
    | some p =>
      let y := ({ x with started := x.started.filter (·.index != index) }).settleIdle s.tick
      let s1 : State := if 64 ≤ k ∧ y.started.isEmpty ∧ y.off.isNone then { s with qslots := s.qslots.del k } else { s with qslots := s.qslots.put k y }
      packetSignal s1 q (qPart x.record) (qVd x.record) p.knot p.delta chain ovf err psn

end Sys2Proof.Machine
end

