-- ==== Sys2Proof/Machine/Copy.lean ====
section
/-! DEFINITION. Copy streamers (R235 to R245, R402 to R409): buffers, starts, spool reservations, reads, landings,
multicast, peer copies, completions (R91, R231, R245) and failures (R97, R143). -/
namespace Sys2Proof.Machine

/-! ### Bodies -/

/-- Receivers of a multicast, with the MCBASE sampled for each (R242). -/
def Cmd.receivers (c : Cmd) : List (Nat × Nat) := if c.op == .mcast then c.mcbase else []

/-- Source addresses and lengths, in the order in which the data is laid out (R403 to R406). -/
def Cmd.sources (c : Cmd) : List (Nat × Nat) :=
  let b := decCopy c.word
  let g := decStride c.word
  let rlen := g.rlenM1.toNat + 1
  match c.op with
  | .copy => [(b.src.toNat, b.len.toNat)]
  | .mcast => let m := decMcast c.word
              [(m.src.toNat, m.len.toNat)]
  | .peer => let p := decPeer c.word
             [(p.src.toNat, p.len.toNat)]
  | .gath => (List.range (g.rowsM1.toNat + 1)).map fun r => (g.src.toNat + r * g.pitch.toNat, rlen)
  | .scat => [(g.src.toNat, (g.rowsM1.toNat + 1) * rlen)]
  | _ => []

/-- Bytes moved. -/
def Cmd.copyLen (c : Cmd) : Nat :=
  if c.op == .fill then (decCopy c.word).len.toNat else c.sources.foldl (fun n r => n + r.2) 0

/-- The destination is a spool: dkind 1 (R403 to R405). -/
def Cmd.toSpool (c : Cmd) : Bool :=
  match c.op with
  | .copy => (decCopy c.word).dkind == 1
  | .fill => (decCopy c.word).dkind == 1
  | .gath => (decStride c.word).dkind == 1
  | .mcast => (decMcast c.word).dkind == 1
  | _ => false

/-- The spool destinations of a command (R403, R404, R405). -/
def Cmd.spools (c : Cmd) : List SpoolId :=
  if !c.toSpool then []
  else
    let one := fun d : Nat => [(⟨c.part, c.vd, d % 2 ^ 11, d / 2 ^ 11 % 16⟩ : SpoolId)]
    match c.op with
    | .mcast => c.receivers.map fun r => ⟨c.part, c.vd, r.1, (decMcast c.word).handle.toNat⟩
    | .gath => one (decStride c.word).dst.toNat
    | _ => one (decCopy c.word).dst.toNat

/-- Window destinations and lengths, in the order of the data. -/
def Cmd.windows (c : Cmd) : List (Nat × Nat) :=
  let g := decStride c.word
  let rlen := g.rlenM1.toNat + 1
  if c.toSpool then []
  else match c.op with
  | .copy => [((decCopy c.word).dst.toNat, c.copyLen)]
  | .fill => [((decCopy c.word).dst.toNat, c.copyLen)]
  | .gath => [(g.dst.toNat, c.copyLen)]
  | .scat => (List.range (g.rowsM1.toNat + 1)).map fun r => (g.dst.toNat + r * g.pitch.toNat, rlen)
  | _ => []

/-- Busy cycles (R407). -/
def Cmd.copyCycles (c : Cmd) : Nat :=
  let g := decStride c.word
  if c.op == .gath || c.op == .scat then 8 + (g.rowsM1.toNat + 1) * (2 + (g.rlenM1.toNat + 1 + 63) / 64)
  else 8 + (c.copyLen + 63) / 64

/-- The ticks that cycles of a streamer last, 1.6 GHz against the tick's 1.9 (R89, R407). -/
def streamerTicks (cycles : Nat) : Nat := (cycles * 19 + 15) / 16

/-- The ticks that cycles of a streamer add to a command's chain: none in declared mode (R89). -/
def Cmd.ticksOf (c : Cmd) (cycles : Nat) : Nat := if c.declared then 0 else streamerTicks cycles

/-- Busy ticks (R89). -/
def Cmd.copyBusy (c : Cmd) : Nat := c.ticksOf c.copyCycles

/-- A window range of a command: none where its view is not raw (R181). Queue 0 names device physical addresses (R48). -/
def CopyCmd.place (k : CopyCmd) (r : Nat × Nat) : Option (Loc × Nat) :=
  if k.queue = some 0 then some (.phys r.1, r.2)
  else if (placeOf k.cmd.core r.1).view ≠ 0 then none
  else some (locOf k.cmd.core r.1, r.2)

/-- The executing slice (R235). -/
def State.copySlice (s : State) (c : Cmd) (queue : Option Nat) : Nat :=
  let at_ := fun l : Loc =>
    match l with
    | .glob a => s.sliceOf a
    | .chip x => x / 0xC00000
    | .phys pa => pa / 2 ^ 32
    | .scratch n _ => match s.part c.part with
      | some p => p.sliceBase + n % 2 ^ p.sliceLog2
      | none => 0
  match c.sources ++ c.windows, c.spools with
  | r :: _, _ => at_ (if queue = some 0 then .phys r.1 else locOf c.core r.1)
  | [], d :: _ => at_ (.scratch d.core 0)
  | [], [] => 0

/-- The streamer's site (R83). -/
def CopyCmd.site (k : CopyCmd) : Site := .base (k.slice / 16)

/-- t between sites in the command's mode (R81, R91). -/
def CopyCmd.t (k : CopyCmd) (a b : Site) : Nat := transitIn k.cmd.declared a b

/-- A saturating addition with a flag kept (R95). -/
def satPlus (c : Nat × Bool) (t : Nat) : Nat × Bool := ((satAdd c.1 t).1, c.2 || (satAdd c.1 t).2)

/-- The sites of the destination (R91). That of a destination over several homes is its first byte's: R91 does not say which, the choice
is the model's (log 51). -/
def State.destSites (s : State) (k : CopyCmd) : List Site :=
  if k.cmd.op == .mcast then k.cmd.receivers.map fun r => .core r.1
  else if k.cmd.op == .peer then [.peer 1]
  else match k.cmd.spools, k.cmd.windows with
  | d :: _, _ => [.core d.core]
  | [], r :: _ => [s.siteOf k.cmd.part k.cmd.vd (if k.queue = some 0 then .phys r.1 else locOf k.cmd.core r.1)]
  | [], [] => []

/-- The chain that reaches a home over each of some sites (R91): the largest. -/
def CopyCmd.chainVia (k : CopyCmd) (via : List Site) (home : Site) : Nat × Bool :=
  maxChain (via.map fun d => satPlus (satPlus (k.chain, k.ovf) (k.t k.site d)) (k.t d home))

/-- Some byte of the data is poisoned (R144). -/
def CopyCmd.psn (k : CopyCmd) : Bool := !k.bad.isEmpty

/-! ### Signals -/

/-- Signal a knot of a copy command, +1 with the issuer's WID (R245). -/
def copySignal (s : State) (k : CopyCmd) (knot : Loc) (ch : Nat × Bool) (err psn : Bool) : State :=
  s.send (.signal ⟨k.cmd.core, false, k.cmd.part, k.cmd.vd, knot, 1, ch.1, k.cmd.wid, ch.2, err, psn⟩)

/-- Signal the knot at an address of the command word. -/
def signalAt (s : State) (k : CopyCmd) (via : List Site) (err : Bool) (a : Nat) : State :=
  let l := locOf k.cmd.core a
  copySignal s k l (k.chainVia via (s.siteOf k.cmd.part k.cmd.vd l)) err k.psn

/-- Signal a receiver's knot (R405). -/
def signalReceiver (s : State) (k : CopyCmd) (r : Nat × Nat) (err : Bool) : State :=
  let b := decMcast k.cmd.word
  if b.rk then copySignal s k (.scratch r.1 (b.koff.toNat + r.2)) (k.chainVia [.core r.1] (.core r.1)) err k.psn else s

/-- The packet of a copy command completes (R48). -/
def copyPacketDone (s : State) (k : CopyCmd) (q : Nat) (via : List Site) (err : Bool) : State :=
  match s.slotOfQueue q with
  | none => s
  | some (_, x) =>
    match x.started.find? (·.ref == 2 * k.cmd.id) with
    | none => s
    | some p =>
      let ch := k.chainVia via (s.siteOf k.cmd.part k.cmd.vd (packetLoc q p.knot.toNat))
      s.packetDone q p.index ch.1 ch.2 err k.psn

/-! ### Failure (R97, R143, R245) -/

/-- The cores in whose scratchpads a copy lands. -/
def CopyCmd.landCores (k : CopyCmd) : List Nat :=
  k.cmd.spools.map (·.core) ++ k.cmd.receivers.map (·.1) ++ k.cmd.windows.filterMap fun r => match k.place r with
    | some (.scratch c _, _) => some c
    | _ => none

/-- A copy command fails: its locks go, every knot that it names is signalled with the error flag, its reserved slots are counted
with theirs, its issuer traps. Before its source was read it carries the ticks of a free part of its busy cycles (log 7), which event 4 counts
(R35). -/
def failCopy (s : State) (k : CopyCmd) (cls : Nat) : State :=
  let f := s.free (k.cmd.copyCycles + 1)
  let ch := satPlus (k.chain, k.ovf) (k.cmd.ticksOf f.1)
  let k1 := if k.phase == .sourceDone then k else { k with chain := ch.1, ovf := ch.2 }
  let s0 := if k.phase == .started then f.2.charge k.cmd.part k.cmd.vd 4 f.1 else f.2
  let s1 := ({ s0 with copies := s0.copies.filter fun j => j.cmd.id != k.cmd.id } : State).idleFrom k.landCores
  let s2 := if k.queue.isSome then s1 else s1.dropLocks k.cmd.core (·.cmd == k.cmd.id)
  let s3 := (knotAddrs (decCommon k.cmd.word)).foldl (fun (z : State) a => signalAt z k1 [k1.site] true a) s2
  let s4 := k1.cmd.receivers.foldl (fun (z : State) r =>
    if k1.landed.contains r.1 then z else signalReceiver z k1 r true) s3
  let s6 := s4.failReserved k.cmd.id k.cmd.spools fun n => k1.chainVia [.core n] (.core n)
  match k.queue with
  | some q => copyPacketDone s6 k1 q [k1.site] true
  | none => failTrap s6 k.cmd cls k.cmd.knot

/-! ### Start (R235, R236, R239) -/

/-- A slice's command buffers taken (R235). -/
def State.buffers (s : State) (sl : Nat) : Nat := (s.copies.filter (·.slice == sl)).length
/-- Commands running at a slice's streamer (R236). -/
def State.streaming (s : State) (sl : Nat) : Nat := (s.copies.filter fun k => k.slice == sl && k.phase != .granted).length

/-- A command with a buffer at its slice. -/
def CopyCmd.ofCmd (c : Cmd) (queue : Option Nat) (slice order : Nat) : CopyCmd :=
  ⟨c, queue, slice, .granted, c.e0, c.ovf, [], [], [], none, order, [], [], 0⟩

/-- The cores whose scratchpads a command in a queue has as destinations (R57). -/
def Cmd.targets (c : Cmd) : List Nat := if c.op.queue = .matrix then matTargets c else (CopyCmd.ofCmd c none 0 0).landCores

/-- The length fits a spool (R239). -/
def Spool.fits (sp : Spool) (len : Nat) : Bool := len % sp.bytes == 0 && decide (len ≤ sp.count * sp.bytes)

/-- Replace a copy command. -/
def State.setCopy (s : State) (k : CopyCmd) : State :=
  { s with copies := s.copies.map fun j => if j.cmd.id = k.cmd.id then k else j }

/-- Start a granted command: its chain begins (R89), its copy-queue entry frees (R402), spool reservations are asked for
(R239). A spool that does not fit fails the command with class 5; in a multicast that receiver alone fails. -/
def beginCopy (s : State) (k : CopyCmd) : State :=
  let c := k.cmd
  let e0 := if k.queue.isSome then (c.e0, c.ovf) else satPlus (c.e0, c.ovf) (k.t (.core c.core) k.site)
  let s1 : State := if k.queue.isSome then s else
    { s.onContext c.part c.vd c.core fun x => { x with cq := x.cq.filter (·.id != c.id) } with
      orphans := s.orphans.filter (·.id != c.id) }
  let k1 := { k with phase := .started, chain := e0.1, ovf := e0.2, endTick := s.tick + streamerTicks c.copyCycles }
  let good := fun d : SpoolId => match s1.spool d with
    | some sp => sp.fits c.copyLen
    | none => false
  let s2 : State := { s1 with landings := s1.landings ++ (c.spools.filter good).map fun d =>
    ⟨d, (match s1.spool d with
         | some sp => c.copyLen / sp.bytes
         | none => 0), false, 0, [], [], false, (decCommon c.word).narrow, c.ftop, 0, false, c.wid, false, some c.id⟩ }
  if c.spools.all good then s2.setCopy k1
  else if c.op == .mcast then s2.setCopy { k1 with fail := some 5 }
  else failCopy s2 k1 5

/-! ### Reservation -/

/-- Grant landing `i` of a copy (R239): the copy joins the free records of the slots taken (R89). -/
def grantCopy (s : State) (i : Nat) (l : Landing) : State :=
  match s.spool l.spool with
  | none => s
  | some sp =>
    let recs := s.freeRecs l.spool sp l.slots
    let s1 := s.grant i l
    { s1 with copies := s1.copies.map fun k =>
        if some k.cmd.id = l.cmd then
          let m := maxChain ((k.chain, k.ovf) :: recs.map fun r => satPlus (r.free, false) (k.t (.core l.spool.core) k.site))
          { k with chain := m.1, ovf := m.2 }
        else k }

/-! ### Reading the source -/

/-- Read the pieces of a source in order. -/
def readPieces (w : Who) (k : CopyCmd) : List (Nat × Nat) → Nat → State → Except Nat (List Byte × List (Nat × Nat) × State)
  | [], _, s => .ok ([], [], s)
  | r :: rs, o, s =>
    match k.place r with
    | none => .error 5
    | some q =>
      match engineRead s w q.1 q.2 (if k.queue.isSome then none else some k.cmd.ftop) with
      | .error c => .error c
      | .ok (bs, bad, s1) =>
        match readPieces w k rs (o + q.2) s1 with
        | .error c => .error c
        | .ok (bs2, bad2, s2) => .ok (bs ++ bs2, bad.map (fun b => (b.1 + o, b.2)) ++ bad2, s2)

/-- The bytes of a pattern fill (R403). -/
def fillBytes (pattern : W64) (len : Nat) : List Byte :=
  (List.range len).map fun i => pattern.extractLsb' (8 * (i % 8)) 8

/-- A peer copy stays inside its entry (R244). -/
def peerFits (s : State) (c : Cmd) : Bool :=
  if c.op == .peer then
    let b := decPeer c.word
    let e := s.peerEntry c.part b.entry.toNat
    decide (b.off.toNat + b.len.toNat ≤ 4096 * e.pages) && (!b.rk || decide (32 * b.rkOff.toNat + 32 ≤ 4096 * e.pages))
  else true

/-- The part of some ranges, laid end to end, from byte `o` on, `n` bytes long. -/
def cutPieces : List (Nat × Nat) → Nat → Nat → List (Nat × Nat)
  | [], _, _ => []
  | r :: rs, o, n =>
    if r.2 ≤ o then cutPieces rs (o - r.2) n
    else
      let k := min n (r.2 - o)
      if k = 0 then [] else (r.1 + o, k) :: cutPieces rs 0 (n - k)

/-- What remains of a range, first byte and length, outside another. -/
def cutOne (w g : Nat × Nat) : List (Nat × Nat) :=
  [(g.1, min (g.1 + g.2) w.1 - g.1), (max g.1 (w.1 + w.2), g.1 + g.2 - max g.1 (w.1 + w.2))].filter (0 < ·.2)

/-- What remains of a range outside others. -/
def cutAll (ws : List (Nat × Nat)) (g : Nat × Nat) : List (Nat × Nat) := ws.foldl (fun gs w => gs.flatMap (cutOne w)) ([g].filter (0 < ·.2))

/-- Bytes just read from byte `o` on, and their poisoned ranges, with those in place that were read ahead of them (R230). -/
def CopyCmd.overlaid (k : CopyCmd) (o : Nat) (bs : List Byte) (bad : List (Nat × Nat)) : List Byte × List (Nat × Nat) :=
  if k.ahead.isEmpty then (bs, bad)
  else
    (bs.zipIdx.map fun e => match k.ahead.find? fun a => decide (a.1 ≤ o + e.2) && decide (o + e.2 < a.1 + a.2.1.length) with
      | some a => a.2.1.getD (o + e.2 - a.1) e.1
      | none => e.1,
     bad.flatMap (cutAll (k.ahead.map fun a => (a.1, a.2.1.length))) ++ k.ahead.flatMap fun a => (cutBad a.2.2 (o - a.1) (bs.length - (a.1 - o))).map fun b => (b.1 + max a.1 o, b.2))

/-- Read the next `n` bytes of the source: what others write meanwhile is read or not (R230). -/
def readPart (s : State) (k : CopyCmd) (n : Nat) : State :=
  match readPieces k.cmd.who k (cutPieces k.cmd.sources k.data.length n) k.data.length s with
  | .error cls => failCopy s k cls
  | .ok (bs, bad, s1) =>
    let r := k.overlaid k.data.length bs bad
    s1.setCopy { k with data := k.data ++ r.1, bad := k.bad ++ r.2 }

/-- Read `n` bytes of the source from byte `o` on, ahead of earlier ones: a copy reads its source in any order (R230). -/
def readAhead (s : State) (k : CopyCmd) (o n : Nat) : State :=
  match readPieces k.cmd.who k (cutPieces k.cmd.sources o n) 0 s with
  | .error cls => failCopy s k cls
  | .ok (bs, bad, s1) => s1.setCopy { k with ahead := k.ahead ++ [(o, bs, bad)] }

/-! ### Peer ports (R13, R15, R244) -/

/-- The target address of signal records (R15). -/
def apertureSignal : Nat := 0x00FFFFFFF000

/-- A signal record (R15). -/
def signalRecord (knot : Nat) (delta : W64) (chain : Nat) (origin : W32) (ovf err psn : Bool) : List Byte :=
  bytesOf (1 + knot / 32 * 32 + delta.toNat * 2 ^ 96 + chain * 2 ^ 160 +
    (b2n ovf + 2 * b2n err + 4 * b2n psn) * 2 ^ 208 + origin.toNat * 2 ^ 224) 32

/-- Data cut into writes of at most 256 bytes (R13). -/
def frameCuts : Nat → List Byte → List (List Byte)
  | 0, _ => []
  | k + 1, bs => if bs.isEmpty then [] else bs.take 256 :: frameCuts k (bs.drop 256)

/-- Send data writes on a port in order; sealed data has a tag write after every four and at its end (R244). A tag write
goes to the address after its last data (log 14). -/
def sendFrames (port : Nat) (seal_ : Bool) : List (List Byte) → Nat → List Byte → State → State
  | [], a, acc, s =>
    if seal_ then s.emit (.frame port a (bytesOf (Config.gcmTag port s.out.length acc).toNat 64)) else s
  | f :: fs, a, acc, s =>
    if seal_ then
      let e := Config.gcmSeal port s.out.length f
      let s1 := s.emit (.frame port a e)
      let acc1 := acc ++ e
      if 1024 ≤ acc1.length ∧ !fs.isEmpty then
        sendFrames port seal_ fs (a + f.length) [] (s1.emit (.frame port (a + f.length) (bytesOf (Config.gcmTag port s1.out.length acc1).toNat 64)))
      else sendFrames port seal_ fs (a + f.length) acc1 s1
    else sendFrames port seal_ fs (a + f.length) [] (s.emit (.frame port a f))

/-- A port is up (R14). -/
def State.portUp (s : State) (i : Nat) : Bool := if h : i < 12 then s.ports[i].up else false

/-- Send the data of a peer copy (R244): none where its port is down. -/
def sendPeer (s : State) (k : CopyCmd) : Option State :=
  let b := decPeer k.cmd.word
  let e := s.peerEntry k.cmd.part b.entry.toNat
  if s.portUp e.port then
    some (sendFrames e.port e.wrapped (frameCuts (k.data.length / 256 + 1) k.data) (e.base + b.off.toNat) [] s)
  else none

/-- Once the peer has acknowledged the data of a peer copy, the record of the remote knot follows (R13, R244). -/
def sendRemoteKnot (s : State) (k : CopyCmd) : State :=
  let b := decPeer k.cmd.word
  let e := s.peerEntry k.cmd.part b.entry.toNat
  let ch := satPlus (k.chain, k.ovf) (k.t k.site (.peer 1))
  if k.cmd.op == .peer && b.rk then
    s.emit (.frame e.port apertureSignal (signalRecord (e.base + 32 * b.rkOff.toNat) 1 ch.1 k.cmd.wid ch.2 false k.psn))
  else s

/-! ### The end of the source -/

/-- The source has been read (R231): the data stands at the streamer, goes to the spools and leaves for a peer; with two knots the
source locks go and the source-reuse knot is signalled. Of a multicast both wait for every landing (R229, R405). -/
def readSource (s : State) (k : CopyCmd) : State :=
  let c := k.cmd
  let got : Except Nat (List Byte × List (Nat × Nat) × State) :=
    if !peerFits s c then .error 5
    else if c.op == .fill then .ok (fillBytes (decCopy c.word).src c.copyLen, [], s)
    else match readPieces c.who k (cutPieces c.sources k.data.length c.copyLen) k.data.length s with
    | .ok (bs, bad, s1) =>
      let r := k.overlaid k.data.length bs bad
      .ok (k.data ++ r.1, k.bad ++ r.2, s1)
    | .error e => .error e
  match got with
  | .error cls => failCopy s k cls
  | .ok (bs, bad, s1) =>
    let ch := satPlus (k.chain, k.ovf) c.copyBusy
    let k1 := { k with phase := .sourceDone, chain := ch.1, ovf := ch.2, data := bs, bad := bad, ahead := [] }
    let s2 := (s1.charge c.part c.vd 4 c.copyCycles).setCopy k1
    let load := fun l : Landing =>
      if isOf c.id l then
        let r := k1.chainVia [.core l.spool.core] (.core l.spool.core)
        { l with data := bs, bad := bad, chain := r.1, ovf := r.2, ready := true }
      else l
    match (if c.op == .peer then sendPeer s2 k1 else some { s2 with landings := s2.landings.map load }) with
    | none => failCopy s2 k1 2
    | some s3 =>
      if (decCommon c.word).knots = 2 && c.op != .mcast then
        signalAt (s3.dropLocks c.core fun j => j.cmd == c.id && !j.dest) k1 [k1.site] false c.knot
      else s3

/-! ### Landing -/

/-- What of a range is still to be written: to the windows (`key` 0) or to the receiver on core key − 1. -/
def CopyCmd.left (k : CopyCmd) (key o n : Nat) : List (Nat × Nat) :=
  cutAll ((k.done.filter (·.1 == key)).map (·.2)) (o, n)

/-- A copy with a range of its data noted as written. -/
def CopyCmd.wrote (k : CopyCmd) (key o n : Nat) : CopyCmd := { k with done := k.done ++ [(key, o, n)] }

/-- Write ranges of the data at a location, where its first byte goes. -/
def writeRanges (w : Who) (k : CopyCmd) (l : Loc) : List (Nat × Nat) → State → Except Nat State
  | [], s => .ok s
  | g :: gs, s =>
    match engineWrite s w (l.plus g.1) ((k.data.drop g.1).take g.2) (cutBad k.bad g.1 g.2) with
    | .ok s1 => writeRanges w k l gs s1
    | .error e => .error e

/-- Where the data goes in a receiver's scratchpad (R405). -/
def Cmd.receiverLoc (c : Cmd) (r : Nat × Nat) : Loc := .scratch r.1 ((decMcast c.word).off.toNat + r.2)

/-- Bytes `o` to `o + n` of the data land at a receiver, before others or after them (R230). -/
def landPart (s : State) (k : CopyCmd) (r : Nat × Nat) (o n : Nat) : Except Nat State :=
  if s.coreIn k.cmd.part r.1 then
    (writeRanges k.cmd.who k (k.cmd.receiverLoc r) (k.left (r.1 + 1) o n) s).map fun z => z.setCopy (k.wrote (r.1 + 1) o n)
  else .error 5

/-- A receiver's copy has landed, or fails (R242); its knot is signalled (R231, R405). None while its slots are not yet
counted. -/
def landReceiver (s : State) (k : CopyCmd) (r : Nat × Nat) : Option State :=
  let c := k.cmd
  let k1 := { k with landed := k.landed ++ [r.1] }
  let bad := fun z : State => signalReceiver (z.setCopy { k1 with fail := some 5 }) k1 r true
  if c.toSpool then
    match s.landings.find? (fun l => isOf c.id l && l.spool.core == r.1) with
    | some l => if l.counted < l.slots then none else some (signalReceiver (s.setCopy k1) k1 r l.error)
    | none => some (bad s)
  else if !s.coreIn c.part r.1 then some (bad s)
  else match writeRanges c.who k (c.receiverLoc r) (k.left (r.1 + 1) 0 k.data.length) s with
  | .ok s1 => some (signalReceiver (s1.setCopy k1) k1 r false)
  | .error _ => some (bad s)

/-- Write some ranges of the data, from byte `o` on, piece by piece: the state reached, and the class of a failure. -/
def writePieces (w : Who) (k : CopyCmd) : List (Nat × Nat) → Nat → State → State × Option Nat
  | [], _, s => (s, none)
  | r :: rs, o, s =>
    match k.place r with
    | none => (s, some 5)
    | some q =>
      match engineWrite s w q.1 ((k.data.drop o).take q.2) (cutBad k.bad o q.2) with
      | .error c => (s, some c)
      | .ok s1 => writePieces w k rs (o + q.2) s1

/-! ### Data visible (R231, R245) -/

/-- The bytes of a command that go to windows. -/
def CopyCmd.windowBytes (k : CopyCmd) : Nat := k.cmd.windows.foldl (fun n r => n + r.2) 0

/-- Write `n` bytes to the windows from byte `o` on, as far as they are not written yet: others see the old bytes or the new, in any order
(R230). -/
def writePart (s : State) (k : CopyCmd) (o n : Nat) : State × Option Nat :=
  (k.left 0 o n).foldl (fun (z : State × Option Nat) g =>
    match z.2 with
    | some _ => z
    | none => writePieces k.cmd.who k (cutPieces k.cmd.windows g.1 g.2) g.1 z.1) (s, none)

/-- A completed command's own knots, each with the sites that its signal goes by (R91): the data-visible one, and before it the source-reuse
one of a multicast, which waits for every landing (R231, R245, R405). -/
def State.lastKnots (s : State) (k : CopyCmd) : List (Nat × List Site) :=
  let ks := knotAddrs (decCommon k.cmd.word)
  (if k.cmd.op == .mcast then ks.dropLast.map (·, [k.site]) else []) ++ ks.getLast?.toList.map (·, s.destSites k)

/-- The last step of a copy: the rest of the window data is performed, the peer's acknowledgement has come, the locks go, the data-visible
knot is signalled. -/
def finishCopy (s : State) (k : CopyCmd) : State :=
  let c := k.cmd
  let r := writePart s k 0 k.windowBytes
  match r.2 with
  | some cls => failCopy r.1 k cls
  | none =>
    match k.fail with
    | some cls => failCopy { r.1 with landings := r.1.landings.filter fun l => !isOf c.id l } k cls
    | none =>
      let s0 := if k.psn && k.queue.isNone then r.1.notePsn c.part c.launch else r.1
      let s1 := ({ s0 with copies := s0.copies.filter (fun j => j.cmd.id != c.id), landings := s0.landings.filter fun l => !isOf c.id l } : State).idleFrom k.landCores
      let s2 := sendRemoteKnot s1 k
      match k.queue with
      | some q => copyPacketDone s2 k q (s.destSites k) false
      | none =>
        (s.lastKnots k).foldl (fun (z : State) a => signalAt z k a.2 false a.1) (s2.dropLocks c.core (·.cmd == c.id))

/-- Every receiver and every slot is done, no write is held: the copy can become visible. -/
def copyReady (s : State) (k : CopyCmd) : Bool :=
  k.phase == .sourceDone && (k.fail.isNone || k.cmd.op == .mcast) &&
  !s.landings.any (fun l => isOf k.cmd.id l && decide (l.counted < l.slots)) &&
  k.cmd.receivers.all (fun r => k.landed.contains r.1) &&
  k.cmd.windows.all fun r => match k.place r with
    | some q => !heldRange s q.1 q.2
    | none => true

/-! ### Device steps -/

/-- The copy-queue entries of core `n`: those of strands that have ended there first, then the strand's (R402). -/
def State.copyQueue (s : State) (n : Nat) : List Cmd :=
  s.orphans.filter (·.core == n) ++ match s.strand n with
    | some x => if x.phase == .live then x.cq else []
    | none => []

/-- COPY_BUFFER_GRANT (R235, R402): the first copy-queue entry of core op.a that has no buffer gets one at its slice. -/
def execCopyBufferGrant (s : State) : Out :=
  match (s.copyQueue s.op.a).find? fun c => !s.copies.any (fun k => k.cmd.id == c.id) with
  | none => notEnabled "COPY_BUFFER_GRANT"
  | some c =>
    let sl := s.copySlice c none
    if s.buffers sl < 32 then
      .next { s with copies := s.copies ++ [CopyCmd.ofCmd c none sl s.cmdCtr], cmdCtr := s.cmdCtr + 1 }
    else notEnabled "COPY_BUFFER_GRANT"

/-- The command may start as far as its issuer's earlier accesses and its virtual device's energy go (R133, R224, R236). -/
def copyStartable (s : State) (k : CopyCmd) : Bool :=
  if k.queue.isSome then !s.exhausted k.cmd.part k.cmd.vd
  else match (s.copyQueue k.cmd.core).find? (·.id == k.cmd.id) with
    | some c => startable s c
    | none => false

/-- COPY_START (R236): the streamer of slice op.a starts the first command that waits there. -/
def execCopyStart (s : State) : Out :=
  match s.copies.find? fun k => k.slice == s.op.a && k.phase == .granted with
  | some k => if decide (s.streaming s.op.a < 4) && copyStartable s k then .next (beginCopy s k) else notEnabled "COPY_START"
  | none => notEnabled "COPY_START"

/-- SPOOL_RESERVATION_GRANT (R239): landing op.a heads its spool's reservations and its slots are free. -/
def execSpoolReservationGrant (s : State) : Out :=
  match s.landings[s.op.a]? with
  | some l => if l.cmd.isSome && !l.granted && s.grantable l then .next (grantCopy s s.op.a l) else notEnabled "SPOOL_RESERVATION_GRANT"
  | none => notEnabled "SPOOL_RESERVATION_GRANT"

/-- COPY_SOURCE_DONE (R231): copy op.a has its reservations and reads its source: op.c bytes of it from byte op.d on where that lies beyond
those it has, else the next op.c bytes, or, once its busy cycles are over (R407), all that is left where op.c is 0 or reaches its end. -/
def execCopySourceDone (s : State) : Out :=
  match s.copies[s.op.a]? with
  | some k =>
    if k.phase == .started && (k.fail.isNone || k.cmd.op == .mcast) && !s.landings.any (fun l => isOf k.cmd.id l && !l.granted) then
      if 0 < s.op.c ∧ k.data.length < s.op.d ∧ s.op.d + s.op.c ≤ k.cmd.copyLen ∧ k.cmd.op ≠ .fill then .next (readAhead s k s.op.d s.op.c)
      else if 0 < s.op.c ∧ k.data.length + s.op.c < k.cmd.copyLen ∧ k.cmd.op ≠ .fill then .next (readPart s k s.op.c)
      else if s.tick < k.endTick then notEnabled "COPY_SOURCE_DONE"
      else .next (readSource s k)
    else notEnabled "COPY_SOURCE_DONE"
  | none => notEnabled "COPY_SOURCE_DONE"

/-- SPOOL_SLOT_COUNTED (R239): the next slot of landing op.a is counted filled. -/
def execSpoolSlotCounted (s : State) : Out :=
  match s.landings[s.op.a]? with
  | some l =>
    if l.ready && decide (l.counted < l.slots) && s.headLanding l.spool == some l then
      .next (countOwn l.spool 256 (s.countSlot s.op.a l))
    else notEnabled "SPOOL_SLOT_COUNTED"
  | none => notEnabled "SPOOL_SLOT_COUNTED"

/-- MULTICAST_LANDING (R242): receiver op.b of copy op.a has its data; where op.c is not 0, the op.c bytes of it from byte op.d on that its window
takes (R230). -/
def execMulticastLanding (s : State) : Out :=
  match s.copies[s.op.a]? with
  | some k =>
    match k.cmd.receivers.find? (·.1 == s.op.b) with
    | some r =>
      if k.phase == .sourceDone && !k.landed.contains r.1 then
        match (if 0 < s.op.c ∧ s.op.d + s.op.c ≤ k.data.length ∧ k.cmd.toSpool = false then
            (match landPart s k r s.op.d s.op.c with
              | .ok z => some z
              | .error _ => landReceiver s k r)
          else landReceiver s k r) with
        | some s1 => .next s1
        | none => notEnabled "MULTICAST_LANDING"
      else notEnabled "MULTICAST_LANDING"
    | none => notEnabled "MULTICAST_LANDING"
  | none => notEnabled "MULTICAST_LANDING"

/-- COPY_DATA_VISIBLE (R231, R245): copy op.a is performed at its destinations, op.c bytes of it from byte op.d on while others are left, or all
that is left where op.c is 0; for a peer copy the peer has acknowledged it. -/
def execCopyDataVisible (s : State) : Out :=
  match s.copies[s.op.a]? with
  | some k =>
    if !copyReady s k then notEnabled "COPY_DATA_VISIBLE"
    else if 0 < s.op.c ∧ ((k.wrote 0 s.op.d s.op.c).left 0 0 k.windowBytes).length ≠ 0 then
      let r := writePart s k s.op.d s.op.c
      .next (match r.2 with
        | some cls => failCopy r.1 k cls
        | none => r.1.setCopy (k.wrote 0 s.op.d s.op.c))
    else .next (finishCopy s k)
  | none => notEnabled "COPY_DATA_VISIBLE"

/-- ENGINE_FAILURE (R143, R244): copy op.a, marked by an SPDEF or a port that went down, fails with its class; one whose
peer has refused a write that was sent (op.flag) fails with class 6. -/
def execEngineFailure (s : State) : Out :=
  match s.copies[s.op.a]? with
  | some k =>
    if k.phase == .granted || k.cmd.op == .mcast then notEnabled "ENGINE_FAILURE"
    else match k.fail with
    | some cls => .next (failCopy s k cls)
    | none => if s.op.flag && k.cmd.op == .peer && k.phase == .sourceDone then .next (failCopy s k 6) else notEnabled "ENGINE_FAILURE"
  | none => notEnabled "ENGINE_FAILURE"

/-! ### Commands as instructions of the current core -/

/-- Grant every landing of a command that can be granted now. -/
def grantAll (id : Nat) : Nat → State → State
  | 0, s => s
  | n + 1, s =>
    match s.landings.findIdx? fun l => isOf id l && !l.granted && s.grantable l with
    | none => s
    | some i =>
      match s.landings[i]? with
      | some l => grantAll id n (grantCopy s i l)
      | none => s

/-- Count every slot of a command that can be counted now. -/
def countAll (id : Nat) : Nat → State → State
  | 0, s => s
  | n + 1, s =>
    match s.landings.findIdx? fun l => isOf id l && l.ready && decide (l.counted < l.slots) && s.headLanding l.spool == some l with
    | none => s
    | some i =>
      match s.landings[i]? with
      | some l => countAll id n (countOwn l.spool 256 (s.countSlot i l))
      | none => s

/-- The command with a number. -/
def State.copyOf (s : State) (id : Nat) : Option CopyCmd := s.copies.find? (·.cmd.id == id)

/-- Carry out a copy command whose checks its ENQ.C has made, at once, for the current core's strand: it starts, takes its
reservations, reads, lands and completes. -/
def copyNow (i : Instr) (o : CmdOp) (mn : String) (s : State) : Out :=
  match s.strand s.cur with
  | none => .refused .noStrand
  | some x =>
    let c := s.capture s.cur x o ((encodeCommand i).getD 0)
    let sl := s.copySlice c none
    let k := CopyCmd.ofCmd c none sl s.cmdCtr
    let s1 : State := { s with cmdCtr := s.cmdCtr + 1, copies := s.copies ++ [k] }
    if 4 ≤ s.streaming sl ∨ startable s c = false then notEnabled mn
    else
      let s2 := grantAll c.id 16 (beginCopy s1 k)
      match s2.copyOf c.id with
      | none => .next s2
      | some k2 =>
        if s2.landings.any (fun l => isOf c.id l && !l.granted) then notEnabled mn
        else
          let s3 := countAll c.id 4096 (readSource s2 k2)
          match s3.copyOf c.id with
          | none => .next s3
          | some _ =>
            let s4 := c.receivers.foldl (fun (z : State) r =>
              match z.copyOf c.id with
              | some k4 => (landReceiver z k4 r).getD z
              | none => z) s3
            match s4.copyOf c.id with
            | some k5 => if copyReady s4 k5 then .next (finishCopy s4 k5) else notEnabled mn
            | none => .next s4

/-- CP.COPY (R403). -/
def execCpCopy (c : CopyBody) (s : State) : Out := copyNow (.cpCopy c) .copy "CP_COPY" s
/-- CP.MCAST (R405, R242). -/
def execCpMcast (c : McastBody) (s : State) : Out := copyNow (.cpMcast c) .mcast "CP_MCAST" s
/-- CP.PEER (R406, R244). -/
def execCpPeer (c : PeerBody) (s : State) : Out := copyNow (.cpPeer c) .peer "CP_PEER" s
/-- CP.FILL (R403). -/
def execCpFill (c : CopyBody) (s : State) : Out := copyNow (.cpFill c) .fill "CP_FILL" s
/-- CP.GATH (R404). -/
def execCpGath (c : StrideBody) (s : State) : Out := copyNow (.cpGath c) .gath "CP_GATH" s
/-- CP.SCAT (R404). -/
def execCpScat (c : StrideBody) (s : State) : Out := copyNow (.cpScat c) .scat "CP_SCAT" s

end Sys2Proof.Machine
end

