-- ==== Sys2Proof/Machine/Arbiter.lean ====
section
/-! DEFINITION. The vector lane-group arbiter (R68) and the replays of the bobbin (R160 to R163). -/
namespace Sys2Proof.Machine

/-! ### The bobbin's next word -/

/-- The bobbin after its current word (R162): pass-major order. After the last word of the last pass it is idle. -/
def Bobbin.advance (b : Bobbin) : Bobbin :=
  if b.word + 1 < b.words.length then { b with word := b.word + 1 }
  else if b.pass + 1 < b.passes then { b with word := 0, pass := b.pass + 1 }
  else { b with word := 0, active := false }

/-- A word of the bobbin faults: replays end and the trap is imprecise (R163). -/
def Strand.bobFault (x : Strand) (t : Trap) : Strand :=
  { x.addAsync t.cause t.tval t.detail with bobbin := { x.bobbin with active := false, fault := true } }

/-- The checks that a replayed word makes at its entry to the vector queue (R356): with the captured base (R162). -/
def bobCheck (s : State) (n : Nat) (x : Strand) (i : Instr) (g : GReg) : Option Trap :=
  let y := fun r : BitVec 6 => x.setG r g
  match i with
  | .vld _ r _ o => spanCheck s n (y r) r ((y r).addrOf r (64 * o.toInt)) 0xFFFF false
  | .vst _ r _ o => spanCheck s n (y r) r ((y r).addrOf r (64 * o.toInt)) 0xFFFF true
  | .vldl _ r p o => privateCheck s n (y r) r ((y r).addrOf r (4 * o.toNat)) (x.getP p) false
  | .vstl _ r p o => privateCheck s n (y r) r ((y r).addrOf r (4 * o.toNat)) (x.getP p) true
  | .vgath _ a r p _ => gatherCheck s n (y r) r (x.getV a) (x.getP p) false
  | .vscat _ a r p _ => gatherCheck s n (y r) r (x.getV a) (x.getP p) true
  | .vsrd _ r _ => if (x.stream r.toNat).bound then none
                   else some (.precise 0x01 (((encodeWord i).getD 0).setWidth 64))
  | _ => none

/-- The strand once a replayed word has looked its regions up with the captured base (R162, R208). -/
def Strand.bobLooks (x : Strand) (s : State) (n : Nat) (i : Instr) (g : GReg) : Strand :=
  match bodyRegs i with
  | [r] => { x with plb := ((x.setG r g).looksUp s n r i).plb }
  | _ => x

/-- A replayed word waits at entry for queued writers of what its checks read (R356), and for their granule (R129). -/
def bobWaits (x : Strand) (t : Nat) (i : Instr) : Bool :=
  match i with
  | .vldl _ _ p _ => x.vqWrites [] [p] || x.vLate [] [p] t
  | .vstl _ _ p _ => x.vqWrites [] [p] || x.vLate [] [p] t
  | .vgath _ a _ p _ => x.vqWrites [a] [p] || x.vLate [a] [p] t || x.absentReg a.toNat
  | .vscat _ a _ p _ => x.vqWrites [a] [p] || x.vLate [a] [p] t || x.absentReg a.toNat
  | .vext d _ _ _ => x.gPend.contains d.toNat
  | .pset _ g => x.gPend.contains g.toNat
  | _ => false

/-- The scalar operand of a replayed word: captured by BOB, or for PSET read at entry (R162, R356). -/
def bobScalar (x : Strand) (w : BobWord) : GReg :=
  match w.ins with
  | .pset _ g => x.getG g
  | _ => w.s1

/-- The g register that a replayed word will write (R356). -/
def bobPend (i : Instr) : List Nat :=
  match i with
  | .vext d _ _ _ => if d = 0 then [] else [d.toNat]
  | _ => []

/-- The bobbin once a word has entered a queue: the next enters a local cycle later at the earliest (R162). -/
def Bobbin.entered (b : Bobbin) (t : Nat) : Bobbin := { b.advance with next := t }

/-- A replayed ENQ.M (R161, R162): its command word and authorities are those captured, and its e0 is CHN with what the strand has waited so
far (R89). -/
def feedEnq (s : State) (n : Nat) (x : Strand) (w : BobWord) (d b : BitVec 6) : State :=
  let x := s.settleMember (x.members n) s.tick n x
  let cw := pairWord w.s1 w.s2
  match enqCheck s n x .matrix cw (b, w.au1) (d, w.au2) (((encodeWord w.ins).getD 0).setWidth 64) with
  | .error t => s.setStrand n (x.bobFault t)
  | .ok p =>
    if 8 ≤ x.mq.length ∨ s.lockRoom n (p.locks 0).length = false then s
    else s.place n { x with bobbin := x.bobbin.entered (s.tick + s.divOf n) } p cw (some (x.bobbin.pass, x.bobbin.word))

/-- The bobbin of core `n` enters at most one word into a queue, one in a local cycle (R162). -/
def feedBobbin (s : State) (n : Nat) : State :=
  match s.strand n with
  | none => s
  | some x =>
    if !x.bobbin.active || x.phase != .live || decide (s.tick < x.bobbin.next) then s
    else
      match x.bobbin.words[x.bobbin.word]? with
      | none => s
      | some w =>
        match w.ins with
        | .enqM d _ b => feedEnq s n x w d b
        | _ =>
          match passWord x.bobbin x.bobbin.pass w.ins with
          | none => s
          | some i =>
            if 16 ≤ x.vq.length ∨ bobWaits x s.tick i = true then s
            else
              let g := bobScalar x w
              let x := x.bobLooks s n i g
              match bobCheck s n x i g with
              | some t => s.setStrand n (x.bobFault t)
              | none =>
                let q : VqEntry := ⟨i, x.bobbin.pc, g, x.frnd, x.ftop, some (x.bobbin.pass, x.bobbin.word)⟩
                s.setStrand n { x with vq := x.vq ++ [q], gPend := x.gPend ++ bobPend i, bobbin := x.bobbin.entered (s.tick + s.divOf n) }

/-! ### The arbiter (R68) -/

/-- The cores of cell `k` whose queue is ready in cycle `t`, by place in the cell. -/
def readyCores (s : State) (k t : Nat) : List Nat :=
  (List.range 8).filter fun c =>
    match s.strand (8 * k + c) with
    | some x => x.phase == .live && match x.vq with
      | q :: _ => headReady s (8 * k + c) x q t
      | [] => false
    | none => false

/-- The lowest free lane group at a tick. -/
def freeLane (u : Cell) (t : Nat) : Option (Fin 4) := (List.finRange 4).find? fun g => decide (u.lanes[g] ≤ t)

/-- VSHARE of a core, plus 1 (R68). -/
def quantum (s : State) (n : Nat) : Nat := ((s.strand n).map fun x => bitsN (x.csrAt 0x28#7) 3 0).getD 0 + 1

/-- Deficit of a place in the cell. -/
def Cell.def_ (u : Cell) (c : Nat) : Nat := if h : c < 8 then u.deficit[c] else 0
/-- Replace it. -/
def Cell.setDef (u : Cell) (c v : Nat) : Cell := if h : c < 8 then { u with deficit := u.deficit.set c v h } else u

/-- Bind a head to a lane group for its issue cycles. -/
def bindTo (s : State) (k c : Nat) (g : Fin 4) (t : Nat) : State :=
  let n := 8 * k + c
  let cyc := match s.strand n with
    | some x => match x.vq with
      | q :: _ => issueCycles n x q
      | [] => 1
    | none => 1
  let u := s.cell k
  let v := ({ u with lanes := u.lanes.set g (t + cyc) } : Cell).setDef c (u.def_ c - 1)
  bindHead (s.setCell k v) n

/-- One scan from ptr round. -/
def vScan (k t : Nat) (rdy : List Nat) : List Nat → List Nat → State → List Nat × State
  | [], served, s => (served, s)
  | c :: cs, served, s =>
    match freeLane (s.cell k) t with
    | none => (served, s)
    | some g =>
      if rdy.contains c && !served.contains c && decide (0 < (s.cell k).def_ c) then
        vScan k t rdy cs (served ++ [c]) (bindTo s k c g t)
      else vScan k t rdy cs served s

/-- Refill the deficits of the ready cores, at most 16 each. -/
def refill (s : State) (k : Nat) (rdy : List Nat) : State :=
  rdy.foldl (fun (z : State) c => z.setCell k ((z.cell k).setDef c (min 16 ((z.cell k).def_ c + quantum z (8 * k + c))))) s

/-- vector_arbitrate of R68 in cycle `t`. -/
def arbitrate (s : State) (k t : Nat) : State :=
  let rdy := readyCores s k t
  let ring := (List.range 8).map fun i => ((s.cell k).vptr + i) % 8
  let r := vScan k t rdy ring [] s
  let more := (freeLane (r.2.cell k) t).isSome && !rdy.any fun c => !r.1.contains c && decide (0 < (r.2.cell k).def_ c)
  let s1 := if more then (vScan k t rdy ring r.1 (refill r.2 k rdy)).2 else r.2
  let u := (List.range 8).foldl (fun (u : Cell) c => if rdy.contains c then u else u.setDef c 0) (s1.cell k)
  s1.setCell k { u with vptr := (u.vptr + 1) % 8 }

/-- VECTOR_ARBITRATE (R68): the vector cycle of cell op.a at the present tick. In the cycles since the last one no core was
ready: the pointer has moved and the deficits are 0. Bobbins then enter their next words (R162). -/
def execVectorArbitrate (s : State) : Out :=
  let k := s.op.a
  let u := s.cell k
  if 256 ≤ k ∨ s.tick < u.vtick then notEnabled "VECTOR_ARBITRATE"
  else
    let gone := s.tick - u.vtick
    let v := if gone = 0 then u else { u with vptr := (u.vptr + gone) % 8, deficit := Vector.replicate 8 0 }
    let s1 := arbitrate (s.setCell k { v with vtick := s.tick + 1 }) k s.tick
    .next (((List.range 8).map (8 * k + ·)).foldl feedBobbin s1)

end Sys2Proof.Machine
end

