-- ==== Sys2Proof/Machine/Arrival.lean ====
section
/-! DEFINITION. Messages that arrive: signals and waits at knots (R84 to R87, R336 to R338), accesses at homes (R178, R216),
replies and fills (R139), write-backs (R140, R191), acknowledgements (R194). op.a is the message's place in `flight`. -/
namespace Sys2Proof.Machine

/-- The state without message `k`. -/
def State.took (s : State) (k : Nat) : State := { s with flight := s.flight.eraseIdx k }

/-- The address by which a location is reported (R173, R182): its device window, its chip scratchpad window or itself. -/
def Loc.addr (l : Loc) : Nat :=
  match l with
  | .scratch c o => deviceAddr c o
  | .chip x => 0x4000000000 + x
  | .glob a => a
  | .phys a => a

/-- The address of a home's fault. -/
def faultAddr (l : Loc) (a : Nat) : Nat :=
  match l with
  | .glob b => max a b
  | _ => l.addr

/-! ### Replies -/

/-- The lower of two faulting replies, the fault where one faults, else the second. -/
def Reply.join (o : Option Reply) (r : Reply) : Reply :=
  match o with
  | some p => if p.fault.isSome && (r.fault.isNone || decide (p.value ≤ r.value)) then p else r
  | none => r

/-- One reply fewer is outstanding. -/
def waitOne (k : Option WaitKind) : Option WaitKind :=
  match k with
  | some (.data n) => some (.data (n - 1))
  | some (.heldData n) => some (.data (n - 1))
  | some (.knot _ _ _ _) => some .own
  | some .kjoin => some .own
  | some (.monitor _ _) => some .own
  | k => k

/-- The strand waits for a reply. -/
def Strand.expects (x : Strand) : Bool :=
  match x.wait with
  | some (.data n) => n != 0
  | some (.heldData n) => n != 0
  | some (.knot _ _ _ _) => true
  | some .kjoin => true
  | some (.monitor _ _) => true
  | _ => false

/-- A reply reaches its strand (R139); one that nothing waits for is dropped. -/
def State.answer (s : State) (n : Nat) (r : Reply) : State :=
  match s.strand n with
  | some x =>
    if x.expects then (s.settleCore n).onStrand n fun y => { y with reply := some (Reply.join y.reply r), wait := waitOne y.wait }
    else s
  | none => s

/-- A store's fault is held at its core until the next boundary (R140). -/
def State.storeFault (s : State) (n a : Nat) (fatal : Bool) : State :=
  s.onStrand n fun x => x.addAsync 0x0A (BitVec.ofNat 64 a) (transDetail fatal true)

/-- A migration holds the write that a waiting strand needs: its ticks are excluded from now on (R93, R214); none where they are
already, or where nothing waits. -/
def State.holdWait (s : State) (n : Nat) : Option State :=
  match s.strand n with
  | some x => match x.wait with
    | some (.data (k + 1)) => some ((s.settleCore n).onStrand n fun y => { y with wait := some (.heldData (k + 1)) })
    | _ => none
  | none => none

/-- After the fill at place `k` its core has sent another request to its line: a write-back or an atomic, say. -/
def State.sentAfter (s : State) (k : Nat) (f : Fill) : Bool :=
  (s.flight.drop (k + 1)).any fun m => match m.target with
    | some (c, l) => c == f.core && l.line256 == (2, f.line)
    | none => false

/-- LOAD_DATA_ARRIVAL (R139, R186): a fill or a reply reaches its core. A fill of a line with a held write of its strand waits. A
prefetched sector older than a later write of its strand is dropped (R188, R218, R329). -/
def execLoadDataArrival (s : State) : Out :=
  match s.flight[s.op.a]? with
  | some (.reply n r) => .next ((s.took s.op.a).answer n r)
  | some (.fill f) =>
    if !s.inOrder s.op.a (.fill f) then
      match (if !f.pref && s.heldLine f.core (.glob (f.line * 256)) then s.holdWait f.core else none) with
      | some s1 => .next s1
      | none => notEnabled "LOAD_DATA_ARRIVAL"
    else if f.pref && s.sentAfter s.op.a f then .next (s.took s.op.a)
    else match fillCore (s.took s.op.a) f with
    | .ok l s1 =>
      if f.pref then .next s1
      else match s1.strand f.core with
      | some x =>
        if x.expects then
          .next ((s1.settleCore f.core).onStrand f.core fun y =>
            let old := (y.fillBuf.find? (·.va == l.va)).getD (Line.empty l.va)
            { y with fillBuf := y.fillBuf.filter (·.va != l.va) ++ [old.fill l f.sectors], wait := waitOne y.wait })
        else .next s1
      | none => .next s1
    | .fault g _ =>
      if f.pref then .next (s.took s.op.a)
      else
        let sec := ((List.range 4).find? f.sectors.getLsbD).getD 0
        .next ((s.took s.op.a).answer f.core ⟨f.line * 256 + 64 * sec, false, false, none, some g⟩)
    | .held => notEnabled "LOAD_DATA_ARRIVAL"
  | _ => notEnabled "LOAD_DATA_ARRIVAL"

/-! ### Accesses at their homes -/

/-- HOME_ACCESS_ARRIVAL (R178, R216): a request is carried out at its home, in arrival order there. A write to a migrating page
is held: a strand that waits for it then counts excluded ticks (R93, R214). -/
def execHomeAccessArrival (s : State) : Out :=
  match s.flight[s.op.a]? with
  | some (.access r) =>
    if !s.inOrder s.op.a (.access r) then notEnabled "HOME_ACCESS_ARRIVAL"
    else match applyAccess (s.took s.op.a) r with
    | .ok v s1 => .next (if r.blocking then s1.send (.reply r.core v) else if r.op.acked then s1.send (.ack r.core) else s1)
    | .fault f a =>
      let t := faultAddr r.loc a
      if r.blocking then .next ((s.took s.op.a).send (.reply r.core ⟨t, false, false, none, some f⟩))
      else .next (((s.took s.op.a).storeFault r.core t f).send (.ack r.core))
    | .held =>
      match (if r.blocking then s.holdWait r.core else none) with
      | some s1 => .next s1
      | none => notEnabled "HOME_ACCESS_ARRIVAL"
  | _ => notEnabled "HOME_ACCESS_ARRIVAL"

/-- The monitors of the written sectors of a line wake (R338). -/
def State.touchLine (s : State) (l : Line) : State :=
  (List.range 4).foldl (fun (z : State) i =>
    if (maskSectors l.mask).getLsbD i then z.touch (.glob (l.va * 256 + 64 * i)) 64 else z) s

/-- LLC_WRITEBACK_ARRIVAL (R191, R214): written bytes are merged at their slice and acknowledged, or held by a migration. -/
def execLlcWritebackArrival (s : State) : Out :=
  match s.flight[s.op.a]? with
  | some (.writeback n p v l c d) =>
    if !s.inOrder s.op.a (.writeback n p v l c d) then notEnabled "LLC_WRITEBACK_ARRIVAL"
    else
      let z := s.took s.op.a
      match llcWrite z ⟨p, v, c⟩ l with
      | .ok _ s1 => .next ((s1.touchLine l).send (.ack n))
      | .held => .next { z with heldWrites := z.heldWrites ++ [⟨n, p, v, l, c⟩] }
      | .fault _ _ => notEnabled "LLC_WRITEBACK_ARRIVAL"
  | _ => notEnabled "LLC_WRITEBACK_ARRIVAL"

/-- The lowest written byte of a line. -/
def Line.lowest (l : Line) : Nat := l.va * 256 + ((List.range 256).find? l.mask.getLsbD).getD 0

/-- STORE_WRITEBACK_FAULT (R140): the walk of a write-back finds no translation or no write right: its bytes are discarded
and the core takes 0x0A at its next boundary. -/
def execStoreWritebackFault (s : State) : Out :=
  match s.flight[s.op.a]? with
  | some (.writeback n p v l c d) =>
    if !s.inOrder s.op.a (.writeback n p v l c d) then notEnabled "STORE_WRITEBACK_FAULT"
    else
      let z := s.took s.op.a
      match llcWrite z ⟨p, v, c⟩ l with
      | .fault f _ => .next ((z.storeFault n l.lowest f).send (.ack n))
      | _ => notEnabled "STORE_WRITEBACK_FAULT"
  | _ => notEnabled "STORE_WRITEBACK_FAULT"

/-- WRITE_ACKNOWLEDGED (R194): one write of the core fewer is outstanding. -/
def execWriteAcknowledged (s : State) : Out :=
  match s.flight[s.op.a]? with
  | some (.ack n) => .next ((s.took s.op.a).onStrand n fun x => { x with unacked := x.unacked - 1 })
  | _ => notEnabled "WRITE_ACKNOWLEDGED"

/-! ### Knots -/

/-- SIGNAL_APPLY (R85, R227): a signal takes effect at its knot's home. One that meets no translation is lost; a strand's is
reported to it as a store's fault is (R140). -/
def execSignalApply (s : State) : Out :=
  match s.flight[s.op.a]? with
  | some (.signal x) =>
    if !s.inOrder s.op.a (.signal x) then notEnabled "SIGNAL_APPLY"
    else
      let z := s.took s.op.a
      match applySignal z x with
      | .ok _ s1 => .next (if x.ack then s1.send (.ack x.src) else s1)
      | .fault f a => .next (if x.ack then (z.storeFault x.src (faultAddr x.knot a) f).send (.ack x.src) else z)
      | .held => notEnabled "SIGNAL_APPLY"
  | _ => notEnabled "SIGNAL_APPLY"

/-- WAIT_HOME_ARRIVAL (R86, R336 to R338): a WAIT, a KJOIN or a WAITM reaches its home. -/
def execWaitHomeArrival (s : State) : Out :=
  match s.flight[s.op.a]? with
  | some (.wait q) =>
    if !s.inOrder s.op.a (.wait q) then notEnabled "WAIT_HOME_ARRIVAL"
    else
      let z := s.took s.op.a
      match (if q.kind = 2 then applyMonitor z q else applyWait z q) with
      | .ok _ s1 => .next s1
      | .fault f a => .next (z.send (.reply q.core ⟨faultAddr q.knot a, false, false, none, some f⟩))
      | .held => notEnabled "WAIT_HOME_ARRIVAL"
  | _ => notEnabled "WAIT_HOME_ARRIVAL"

/-- A wait ends: the mark [1] lets the instruction retire at the strand's next turn (log 9). -/
def Strand.wake (x : Strand) : Strand := { x with stash := [1], wait := some .own }

/-- SNAPSHOT_JOIN (R84, R86, R336, R337): a snapshot reaches its waiter, which joins it; a WAIT acquires and answers 0. -/
def execSnapshotJoin (s : State) : Out :=
  match s.flight[s.op.a]? with
  | some (.snapshot p) =>
    let z := (s.took s.op.a).settleCore p.core
    match z.strand p.core with
    | none => .next z
    | some x =>
      let y := x.join p.core ⟨p.chain, p.max, p.last, p.ovf, p.site⟩
      match x.wait with
      | some (.knot d _ sc _) => .next (z.setStrand p.core ((y.acquireAt sc.toNat).setW d 0).wake)
      | some .kjoin => .next (z.setStrand p.core y.wake)
      | _ => .next (s.took s.op.a)
  | _ => notEnabled "SNAPSHOT_JOIN"

/-- A WAIT that ends without a join: its blocked ticks are own work (R87) and `r` is its answer. -/
def Strand.endWait (x : Strand) (d : BitVec 6) (since r : Nat) : Strand := ((x.own (x.now - since)).setW d (BitVec.ofNat 64 r)).wake

/-- WAIT_TIMEOUT (R336): the deadline of the WAIT of core op.a has passed at its knot's home. -/
def execWaitTimeout (s : State) : Out :=
  match s.strand s.op.a with
  | some x =>
    match x.wait with
    | some (.knot d (some t) _ since) =>
      if t < s.tick ∧ s.waits.any (·.core == s.op.a) = true then
        let z := (s.settleCore s.op.a).onStrand s.op.a fun y => y.endWait d since 1
        .next { z with waits := z.waits.filter (·.core != s.op.a) }
      else notEnabled "WAIT_TIMEOUT"
    | _ => notEnabled "WAIT_TIMEOUT"
  | none => notEnabled "WAIT_TIMEOUT"

/-- WAITM_WAKE (R338): the monitor of core op.a wakes it with result op.b: 0 a write to the line, 1 eviction, 2 the deadline,
3 a stop. -/
def execWaitmWake (s : State) : Out :=
  match s.strand s.op.a, s.monitors.find? fun m => m.1.core == s.op.a with
  | some x, some m =>
    match x.wait with
    | some (.monitor d dl) =>
      let ok := match s.op.b with
        | 0 => m.2
        | 1 => true
        | 2 => (dl.map fun t => decide (t ≤ s.tick)).getD false
        | 3 => s.stopping x
        | _ => false
      if ok then
        let z := (s.settleCore s.op.a).onStrand s.op.a fun y => (y.setW d (BitVec.ofNat 64 s.op.b)).wake
        .next { z with monitors := z.monitors.filter (·.1.core != s.op.a) }
      else notEnabled "WAITM_WAKE"
    | _ => notEnabled "WAITM_WAKE"
  | _, _ => notEnabled "WAITM_WAKE"

end Sys2Proof.Machine
end

