-- ==== Sys2Proof/Machine/Launch.lean ====
section
/-! DEFINITION. Launch records (R52 to R56), placement (R57, R58, R61), the state of a strand at dispatch (R53), code copies and
large steps (R61, R116), error logs (R37). -/
namespace Sys2Proof.Machine

/-! ### Error logs (R37) -/

/-- What an error record says beside its place and unit, which the spec fixes for hardware errors only. -/
structure ErrInfo where
  cls : Nat
  sev : Nat
  part : Nat
  tag : Nat
  addr : Nat
deriving DecidableEq, Repr

/-- An error record (R37). -/
def ErrInfo.record (e : ErrInfo) (tick place unit : Nat) : W256 :=
  BitVec.ofNat 256 (tick % 2 ^ 64 + e.cls * 2 ^ 64 + e.sev * 2 ^ 72 + place * 2 ^ 80 + e.part * 2 ^ 88 + unit * 2 ^ 96 +
    2 ^ 128 + e.tag * 2 ^ 160 + e.addr * 2 ^ 192)

/-- Append to a ring of `n` records. -/
def ringAdd (n : Nat) (l : List W256) (r : W256) : List W256 := (l ++ [r]).drop (l.length + 1 - n)

/-- A place of R37: die 0 or 1, or 0x10 and the number of one of the eight stacks. -/
def placeCode (c : Nat) : Nat := if c < 0x10 then c % 2 else 0x10 + c % 8

/-- A free place and unit of an error record (R37 names neither for the error; log 7). -/
def State.freePlace (s : State) : (Nat × Nat) × State :=
  let f := s.free 10
  let g := f.2.free (2 ^ 16)
  ((placeCode (if f.1 < 2 then f.1 else 0xE + f.1), g.1), g.2)

/-- Write a record to the device log; it omits virtual addresses (R37). -/
def State.logDevice (s : State) (e : ErrInfo) (place unit : Nat) : State :=
  { s with log := ringAdd 127 s.log (({ e with addr := 0 } : ErrInfo).record s.tick place unit), logCount := s.logCount + 1 }

/-- Write a record to its partition's log. -/
def State.logPart (s : State) (e : ErrInfo) (place unit : Nat) : State :=
  s.onPart e.part fun p => { p with log := ringAdd 255 p.log (e.record s.tick place unit), logCount := p.logCount + 1 }

/-- Log a packet, launch, save or translation error of a partition (R37); one of a save or restore or of translation concerns its slices and
clusters and goes to the device log too. Its place and unit are free values (log 7). -/
def State.logError (s : State) (e : ErrInfo) : State :=
  let f := s.freePlace
  (if 7 ≤ e.cls then f.2.logDevice e f.1.1 f.1.2 else f.2).logPart e f.1.1 f.1.2

/-- Extend a measurement (R24). -/
def extendM (d : BitVec 512) (bs : List Byte) : BitVec 512 :=
  Config.shake256 (bytesOf d.toNat 64 ++ bytesOf (Config.shake256 bs).toNat 64)

/-! ### Fields of launch records (R52) -/

/-- code_base. -/
def rCode (r : BitVec 1024) : Nat := bitsN r 1023 960
/-- code_len. -/
def rCodeLen (r : BitVec 1024) : Nat := bitsN r 959 928
/-- entry. -/
def rEntry (r : BitVec 1024) : Nat := bitsN r 927 896
/-- arg_base. -/
def rArg (r : BitVec 1024) : Nat := bitsN r 895 832
/-- arg_len. -/
def rArgLen (r : BitVec 1024) : Nat := bitsN r 831 800
/-- arg_perm. -/
def rPerm (r : BitVec 1024) : BitVec 12 := r.extractLsb' 788 12
/-- dim_x. -/
def rX (r : BitVec 1024) : Nat := bitsN r 767 752
/-- dim_y. -/
def rY (r : BitVec 1024) : Nat := bitsN r 751 736
/-- dim_z. -/
def rZ (r : BitVec 1024) : Nat := bitsN r 735 720
/-- scratch_kib. -/
def rKib (r : BitVec 1024) : Nat := bitsN r 719 704
/-- team_size. -/
def rTeam (r : BitVec 1024) : Nat := bitsN r 703 699
/-- stages. -/
def rStages (r : BitVec 1024) : Nat := bitsN r 698 695
/-- base_gran. -/
def rGran (r : BitVec 1024) : Nat := bitsN r 694 690
/-- bslots. -/
def rSlots (r : BitVec 1024) : Nat := bitsN r 689 685
/-- tier. -/
def rTier (r : BitVec 1024) : Nat := bitsN r 684 683
/-- vd. -/
def rVd (r : BitVec 1024) : Nat := bitsN r 682 677
/-- resident. -/
def rResident (r : BitVec 1024) : Bool := bit1 r 675
/-- tacked. -/
def rTacked (r : BitVec 1024) : Bool := bit1 r 674
/-- built. -/
def rBuilt (r : BitVec 1024) : Bool := bit1 r 673
/-- trace. -/
def rTrace (r : BitVec 1024) : Bool := bit1 r 672
/-- dmap. -/
def rDmap (r : BitVec 1024) : Nat := bitsN r 663 662
/-- dtab_addr. -/
def rDtab (r : BitVec 1024) : Nat := bitsN r 319 256
/-- rq_base. -/
def rRq (r : BitVec 1024) : Nat := bitsN r 255 192
/-- rq_log2. -/
def rRqLog (r : BitVec 1024) : Nat := bitsN r 191 184
/-- tmpl_count. -/
def rTmpls (r : BitVec 1024) : Nat := bitsN r 183 176
/-- tmpl_base. -/
def rTmplBase (r : BitVec 1024) : Nat := bitsN r 127 64
/-- SELV at dispatch (R53). -/
def rSelv (r : BitVec 1024) : Nat := (rCodeLen r + 255) / 256 * 256
/-- The end of the span at dispatch (R124, R166). -/
def rSpan (r : BitVec 1024) : Nat := rSelv r + 1024 * rKib r

/-- A power of two from 1 to 2^31. -/
def isPow2 (n : Nat) : Bool := (List.range 32).any fun i => n == 2 ^ i

/-- The rules that records and templates share. -/
def recordShared (r : BitVec 1024) : Bool :=
  bitsN r 787 768 == 0 && bitsN r 658 640 == 0 && bitsN r 639 624 == 0 && bitsN r 479 448 == 0 && bitsN r 351 320 == 0 &&
  bitsN r 175 128 == 0 && bitsN r 63 0 == 0 && rDmap r != 0 && (rDmap r != 3 || rDtab r % 64 == 0) &&
  rPerm r &&& 0xE44#12 == 0

/-- The rules of a record that teams are dispatched from. -/
def recordRuns (r : BitVec 1024) : Bool :=
  rCode r % 256 == 0 && rCodeLen r % 4 == 0 && decide (4 ≤ rCodeLen r) && rEntry r % 4 == 0 &&
  decide (rCodeLen r + 1024 * rKib r ≤ 262144) && decide (rEntry r < rCodeLen r) && decide (1 ≤ rTeam r) &&
  decide (rTeam r ≤ 16) && decide (1 ≤ rStages r) && decide (rStages r ≤ 8) && decide (2 ≤ rGran r) && decide (rGran r ≤ 16) &&
  decide (rSlots r ≤ 16)

/-- The record that a packet of a queue of virtual device `vd` names is valid, but for tables and templates (R52). -/
def recordOk (r : BitVec 1024) (vd : Nat) : Bool :=
  recordShared r && rVd r == vd && !(rBuilt r && rResident r) &&
  (!rTrace r || (bitsN r 447 384 % 64 == 0 && isPow2 (bitsN r 383 352))) &&
  (if rBuilt r then
     rRq r % 64 == 0 && decide (4 ≤ rRqLog r) && decide (rRqLog r ≤ 20) && decide (1 ≤ rTmpls r) && rTmplBase r % 128 == 0
   else
     recordRuns r && decide (1 ≤ rX r * rY r * rZ r) && decide (rX r * rY r * rZ r ≤ 2 ^ 20))

/-- A template is valid, but for its table (R52). -/
def templateOk (r : BitVec 1024) : Bool := recordShared r && !rBuilt r && recordRuns r

/-! ### What a packet names (R48, R51) -/

/-- `n` bytes at an address of a packet lie in the domain of the queue's partition; queue 0 names device physical addresses. -/
def packetRange (s : State) (q p a n : Nat) : Bool :=
  if q = 0 then physOk a && physOk (a + n - 1)
  else
    let inside := fun b : Nat => match placeOf noCore b with
      | .glob => match s.region b with
        | some d => bitsN d.r 63 58 == p
        | none => false
      | .scratch owner _ _ => s.coreIn p owner
      | .chip y => s.sliceIn p (y / 0xC00000)
      | _ => false
    inside a && inside (a + n - 1)

/-- Read bytes that a packet names: none where they cannot be read (R51). -/
def packetRead (s : State) (q p v a n : Nat) : Option (List Byte × State) :=
  if !packetRange s q p a n then none
  else match homeRead s ⟨p, v, 0⟩ (packetLoc q a) n with
  | .ok g s1 => if g.poison.isSome then none else some (g.bytes, s1)
  | _ => none

/-- Read a number of `n` bytes. -/
def packetNum (s : State) (q p v a n : Nat) : Option (Nat × State) := (packetRead s q p v a n).map fun r => (numOf r.1, r.2)

/-- A context table from its 2 KiB (R293): the entries that are not 0. -/
def tableOfBytes (bs : List Byte) : DecodeTable :=
  (List.range 1024).filterMap fun i =>
    let e : BitVec 16 := (bs.getD (2 * i + 1) 0) ++ (bs.getD (2 * i) 0)
    if e = 0 then none else some (i, e)

/-- No valid entry names an undefined operation or variant (R294, R297). -/
def tableOk (t : DecodeTable) : Bool := t.all fun e => !e.2.getLsbD 15 || (cmdOpOf e.2).isSome

/-- The decode table that a record selects (R297), or err_status 3 where it cannot be read, 4 where it is invalid. -/
def readTable (s : State) (p v : Nat) (r : BitVec 1024) : Except Nat (DecodeTable × State) :=
  if rDmap r = 1 then .ok (map1, s)
  else if rDmap r = 2 then .ok (map2, s)
  else match packetRead s noCore p v (rDtab r) 2048 with
  | none => .error 3
  | some (bs, s1) =>
    let t := tableOfBytes bs
    if !tableOk t then .error 4
    else if t = map1 ∨ t = map2 then .ok (t, s1)
    else .ok (t, s1.onPart p fun x => { x with m12 := extendM x.m12 bs })

/-- Read the templates from the `k`-th on, with their tables (R52, R54). -/
def readTemplates (p v : Nat) (r : BitVec 1024) : Nat → Nat → State → Except Nat (List (BitVec 1024) × List DecodeTable × State)
  | 0, _, s => .ok ([], [], s)
  | n + 1, k, s =>
    match packetNum s noCore p v (rTmplBase r + 128 * k) 128 with
    | none => .error 3
    | some (w, s1) =>
      let t : BitVec 1024 := BitVec.ofNat 1024 w
      if !templateOk t then .error 4
      else match readTable s1 p v t with
      | .error e => .error e
      | .ok (d, s2) =>
        match readTemplates p v r n (k + 1) s2 with
        | .error e => .error e
        | .ok (ts, ds, s3) => .ok (t :: ts, d :: ds, s3)

/-! ### Launches and their teams -/

/-- The record that a team is dispatched from (R54). -/
def Launch.recordFor (l : Launch) (t : TeamReq) : BitVec 1024 := if rBuilt l.record then l.tmpls.getD t.tmpl 0 else l.record

/-- Teams of an ordinary launch. -/
def Launch.teams (l : Launch) : Nat := rX l.record * rY l.record * rZ l.record

/-- The head team (R59): of an ordinary launch the next in (index, stage) order, of a built one the next of those consumed. -/
def Launch.headTeam (l : Launch) : Option TeamReq := if rBuilt l.record then l.rest.head? else l.head

/-- The launch once its head team has been placed. It leaves the list with its last team (R59). -/
def Launch.placedHead (l : Launch) : Launch :=
  if rBuilt l.record then
    { l with rest := l.rest.tail, blocked := none, holds := false, inList := !(l.closed && l.rest.tail.isEmpty) }
  else match l.head with
  | none => l
  | some t =>
    let n : Option TeamReq :=
      if t.stage + 1 < rStages l.record then some { t with stage := t.stage + 1 }
      else if t.index + 1 < l.teams then some { t with index := t.index + 1, stage := 0 }
      else none
    { l with head := n, blocked := none, holds := false, inList := n.isSome }

/-! ### Resources (R57) -/

/-- A copy command writes to the scratchpad of core `n`, running or granted a buffer. -/
def CopyCmd.writesTo (k : CopyCmd) (n : Nat) : Bool :=
  k.cmd.spools.any (fun d => d.core == n) || k.cmd.receivers.any (fun r => r.1 == n) ||
  k.cmd.windows.any fun r => match k.place r with
    | some (.scratch c _, _) => c == n
    | _ => false

/-- A matrix command writes to the scratchpad of core `n`. -/
def matWrites (c : Cmd) (n : Nat) : Bool := (matTargets c).contains n

/-- An engine command, queued, started or running, has its destination in the scratchpad of core `n` (R57). Where its virtual device has a saved
context there, the destination is that context's image instead (R120, R121, R127). -/
def State.engineInto (s : State) (n : Nat) : Bool :=
  let here := fun c : Cmd => !((s.savedAt c.part c.vd n).map fun y => y.vd == c.vd).getD false
  let copy := fun k : CopyCmd => k.writesTo n && here k.cmd
  let queued := fun c : Cmd => copy (CopyCmd.ofCmd c none 0 0)
  let mat := fun c : Cmd => matWrites c n && here c
  s.copies.any copy || s.orphans.any queued || s.cells.any (fun e => e.2.commands.any mat) ||
  s.strands.any fun e => e.2.cq.any queued || e.2.mq.any mat

/-- Core `n` is the target of a thermal move (R57, R114). -/
def State.moveTarget (s : State) (n : Nat) : Bool := s.cores.any fun c => c.2.moveTo == some n

/-- A core is free for a placement of a virtual device of a partition (R57). -/
def State.coreFree (s : State) (p v n : Nat) : Bool :=
  (s.strand n).isNone && !s.engineInto n && !s.moveTarget n &&
  !((s.part p).map fun x => x.saved.any fun y => y.core == n && y.vd == v).getD false

/-- Granules of a cell that dispatch may take (R58). -/
def State.granFor (s : State) (c : Nat) : Nat := if (s.cell c).claims.isEmpty then s.freeGran c else 0

/-- A core's cell still has `g` granules after those of the strands accepted (R58). -/
def granFits (s : State) (g : Nat) (acc : List Nat) (n : Nat) : Bool :=
  decide (((acc.filter fun k => s.poolOf k == s.poolOf n).length + 1) * g ≤ s.granFor (s.poolOf n))

/-- Accept free cores in ascending order (R58). -/
def pickCores (s : State) (p v g need : Nat) (cs : List Nat) : List Nat :=
  cs.foldl (fun acc n => if acc.length < need && s.coreFree p v n && granFits s g acc n then acc ++ [n] else acc) []

/-- A run of consecutive cores for a tacked team (R58): the lowest that passes. -/
def pickRun (s : State) (p v g need : Nat) (cs : List Nat) : Option (List Nat) :=
  (List.range (17 - need)).findSome? fun i =>
    let run := (cs.drop i).take need
    if pickCores s p v g need run = run ∧ run.length = need then some run else none

/-- Cores of a cluster. -/
def clusterCores (c : Nat) : List Nat := (List.range 16).map (16 * c + ·)

/-- Free barrier slots of a cluster, the lowest first. -/
def State.freeSlots (s : State) (c : Nat) : List Nat := (List.range 16).filter fun j => ((s.cluster c).bars.find j).isNone

/-- fits(t, c) of R59: the cores and barrier slots that the team would take in cluster `c`. Whether the team of a device-built launch is
tacked stands in its template; R54 gives the bit to neither record, the choice is the model's (log 51). -/
def fitsIn (s : State) (l : Launch) (t : TeamReq) (c : Nat) : Option (List Nat × List Nat) :=
  let r := l.recordFor t
  let cs := if rTacked r then (pickRun s l.part l.vd (rGran r) (rTeam r) (clusterCores c)).getD []
            else pickCores s l.part l.vd (rGran r) (rTeam r) (clusterCores c)
  let js := (s.freeSlots c).take (rSlots r)
  if cs.length = rTeam r ∧ js.length = rSlots r then some (cs, js) else none

/-! ### A strand at dispatch (R53) -/

/-- g3 at dispatch: the smallest bounds of the encoding around the argument range, the address at its base (R53, R202, R203). -/
def argCap (domain : Nat) (perms : BitVec 12) (base len : Nat) : GReg :=
  let n := encodeBounds base len
  let below := (base - n.base) / 2 ^ n.e
  ⟨(Cap.mk domain (n.above - below) below n.e perms base).bits, true⟩

/-- A g register with plain data of 128 bits. -/
def GReg.data (v : Nat) : GReg := ⟨BitVec.ofNat 128 v, false⟩

/-- The general registers at dispatch (R53, R56). -/
def dispatchRegs (l : Launch) (t : TeamReq) : Vector GReg 64 :=
  let r := l.recordFor t
  let g0 := Vector.replicate 64 (GReg.data 0)
  let g3 := g0.set 3 (argCap l.part (rPerm r) (rArg r + t.argOff) (rArgLen r - t.argOff))
  if rBuilt l.record then
    (g3.set 4 (GReg.data (bitsN t.entry 127 0))).set 5 (GReg.data (bitsN t.entry 255 128))
  else g3

/-- NTEAM (R169): the extents are zero for a device-built launch. -/
def nteam (l : Launch) (r : BitVec 1024) : Nat :=
  (if rBuilt l.record then 0 else rX l.record + rY l.record * 2 ^ 16 + rZ l.record * 2 ^ 32) +
    (rTeam r - 1) * 2 ^ 48 + (rStages r - 1) * 2 ^ 52

/-- The CSRs at dispatch (R53, R75, R76, R169), `n` the core and `j` the strand number. -/
def dispatchCsrs (l : Launch) (t : TeamReq) (n j : Nat) : Vector W64 128 :=
  let r := l.recordFor t
  let w := fun v : Nat => BitVec.ofNat 64 v
  let built := rBuilt l.record
  let xs : List (Nat × Nat) := [
    (0x01, j),
    (0x02, if built then t.index % 2 ^ 32 else t.index % max 1 (rX l.record)),
    (0x03, if built then 0 else t.index / max 1 (rX l.record) % max 1 (rY l.record)),
    (0x04, if built then 0 else t.index / max 1 (rX l.record * rY l.record)),
    (0x05, nteam l r), (0x06, t.stage), (0x07, n),
    (0x08, bitsN l.record 671 664 * 2 ^ 24 + t.index % 2 ^ 20 * 16 + j),
    (0x10, t.chain), (0x13, bitsN r 623 576),
    (0x15, bitsN l.record 676 676 + 2 * bitsN l.record 672 672),
    (0x18, bitsN r 661 661), (0x19, bitsN r 660 659), (0x20, rSelv r)]
  let ys : List (Nat × Nat) := [
    (0x21, bitsN r 497 482 * 4), (0x25, bitsN r 575 512 &&& 0x7FFFE)]
  (xs ++ ys).foldl (fun (v : Vector W64 128) p => if h : p.1 < 128 then v.set p.1 (w p.2) h else v) (Vector.replicate 128 0)

/-- A strand with nothing in it: registers, queues and records empty, every dirty bit set. -/
def Strand.blank (id : Ident) : Strand :=
  { id := id
    phase := .placed
    pc := 0
    g := Vector.replicate 64 (GReg.data 0)
    v := Vector.replicate 128 0
    p := Vector.replicate 8 0
    csr := Vector.replicate 128 0
    streams := Vector.replicate 8 Stream.unbound
    spools := Vector.replicate 16 Spool.undef
    bobbin := Bobbin.idle
    holding := 0
    baseGran := 0
    spanEnd := 0
    granAbsent := 0
    granDirty := 0xFFFF
    lineAbsent := []
    lineClean := []
    vq := []
    mq := []
    cq := []
    cache := []
    fillBuf := []
    plb := []
    unacked := 0
    released := false
    wait := none
    begun := false
    reply := none
    stash := []
    arrivals := []
    held := []
    exch := ⟨0, 0, 0, none, 0, false, false⟩
    gang := Gang.none
    async := []
    gen := 0
    now := 0
    gRdy := []
    vRdy := []
    gPend := []
    evts := Vector.replicate 16 0
    halted := false
    stepping := false
    haltReq := false
    stopReq := false
    after := none }

/-- The strand that place creates: placed, its code copy under way (R53, R61). Every dirty bit is set (R127). -/
def dispatchStrand (l : Launch) (t : TeamReq) (cs js : List Nat) (n j : Nat) : Strand :=
  let r := l.recordFor t
  let lead := cs.headD n
  { Strand.blank ⟨l.id, l.part, l.vd, t.index, t.stage, j, rTeam r, t.tmpl, cs, js⟩ with
    pc := rEntry r
    g := dispatchRegs l t
    csr := dispatchCsrs l t n j
    holding := rGran r
    baseGran := rGran r
    spanEnd := rSpan r
    gang := if rTacked r && decide (2 ≤ rTeam r) then ⟨lead, cs, none, true, n != lead⟩ else Gang.none }

/-- A new barrier record of a team (R100). -/
def Bar.fresh (members : List Nat) : Bar := ⟨members, [], 0, 0, 0, false, 0, false, 0⟩

/-- The effective divider of core `n` (R109): the larger of the one requested and its throttle divider, which heat doubles up to 16
(R113) and which is 16 from an instruction boundary on while the energy of the strand's virtual device is exhausted (R133). -/
def State.effDiv (s : State) (n : Nat) : Nat :=
  let c := s.coreCfg n
  max c.reqDiv (if c.slow && (s.strand n).isSome then 16 else min 16 (if c.hot then 2 * c.throttle else c.throttle))

/-- The local cycles of core `n` so far are charged at the divider in force (R78). A thermal move is charged when it ends (R114). -/
def State.settleCycles (s : State) (n : Nat) : State :=
  match s.strand n with
  | none => s
  | some x => if x.phase = .live then s.settleCore n else s

/-- Core `n` takes its effective divider: a larger one at once, that is from the next local cycle on, a smaller one once the rail has risen
(R109). -/
def State.retune (s : State) (n : Nat) : State :=
  let s := s.settleCycles n
  let c := s.coreCfg n
  let e := s.effDiv n
  if c.div ≤ e then (s.redivide n c.div e).setCore n { c with div := e, rail := none }
  else s.setCore n { c with rail := some (e, ((c.rail.map (·.2)).getD s.tick)) }

/-- The strand and its gang stand at an instruction boundary: none of them has begun the word. -/
def State.between (s : State) (n : Nat) (x : Strand) : Bool :=
  (x.members n).all fun m => ((s.strand m).map fun y => (y.wait.isNone && !y.begun) || y.fetchWait).getD true

/-- Core `n` takes the throttle divider 16 of an exhausted virtual device, or leaves it at the period's end (R133). The former happens at an
instruction boundary only, so that the cycles of an instruction under way stay as they are. -/
def State.energyDiv (s : State) (n : Nat) (x : Strand) : State :=
  let c := s.coreCfg n
  if s.exhausted x.id.part x.id.vd then
    if c.slow || !s.between n x then s
    else
      let z := (s.settleCycles n).setCore n { c with slow := true }
      let e := z.effDiv n
      if c.div ≤ e then z.setCore n { c with slow := true, div := e, rail := none }
      else z.setCore n { c with slow := true, rail := some (e, ((c.rail.map (·.2)).getD s.tick)) }
  else if c.slow then (s.setCore n { c with slow := false }).retune n
  else s

/-- place(t, c) of R61: cores, granules, barrier slots are taken; a core that was off is switched on (R109). -/
def placeTeam (s : State) (l : Launch) (t : TeamReq) (c : Nat) (cs js : List Nat) : State :=
  let s1 := cs.zipIdx.foldl (fun (z : State) e =>
    ((z.setStrand e.1 { dispatchStrand l t cs js e.1 e.2 with plb := (z.coreCfg e.1).plb }).setCore e.1 { z.coreCfg e.1 with powered := true, slow := s.exhausted l.part l.vd }).retune e.1) s
  let u := s1.cluster c
  s1.setCluster c { u with bars := js.foldl (fun (b : Tbl Bar) j => b.put j (Bar.fresh cs)) u.bars }

/-- The clusters of a partition from a cluster round (R59). -/
def clusterRing (node start : Nat) : List Nat :=
  let n := nodeSize node
  let f := nodeFirst node
  (List.range n).map fun i => f + (start - f + i) % n

/-- Place a launch's head team in the first cluster of the ring that fits it; next_cluster moves on (R59). -/
def placeHead (s : State) (l : Launch) (t : TeamReq) : Option State :=
  match s.part l.part with
  | none => none
  | some p =>
    match (clusterRing p.node p.nextCluster).findSome? fun c => (fitsIn s l t c).map fun r => (c, r) with
    | none => none
    | some (c, cs, js) =>
      let s1 := placeTeam s l t c cs js
      some ((s1.setPart l.part { p with nextCluster := nodeFirst p.node + (c + 1 - nodeFirst p.node) % nodeSize p.node }).setLaunch l.placedHead)

/-! ### Resident launches (R62) -/

/-- Place all remaining teams of a launch; none unless all fit. Each team takes a core, so `fuel` above the number of cores
is enough. -/
def placeAll : Nat → State → Launch → Option State
  | 0, _, _ => none
  | fuel + 1, s, l =>
    match l.headTeam with
    | none => some s
    | some t =>
      match placeHead s l t with
      | none => none
      | some s1 => placeAll fuel s1 l.placedHead

/-- The state with none of the partition's resources taken, for the trial of R62. -/
def State.emptied (s : State) (p : Nat) : State :=
  { (s.onPart p fun x => { x with saved := [] }) with
    strands := [], clusters := [], copies := [], orphans := [], cells := [], cores := [] }

/-- The launch's trial placement on a state (R62). -/
def trialPlace (s : State) (l : Launch) : Option State := placeAll 2049 s l

/-- A resident launch is placed in one step; one whose teams occupy more cells than step_cells is a large step (R62, R116). -/
def placeResident (s : State) (l : Launch) : Option State :=
  match trialPlace s l with
  | none => none
  | some s1 =>
    let mine := s1.strands.filterMap fun e => if e.2.id.launch = l.id ∧ e.2.id.part = l.part then some e.1 else none
    match s1.launchOf l.part l.id with
    | some k => some (s1.setLaunch { k with stepHeld := s.large mine, blocked := none, holds := false })
    | none => some s1

/-! ### Starting (R61, R116) -/

/-- A placed strand starts: its clock runs from now. -/
def Strand.started (x : Strand) (tick : Nat) : Strand := { x with phase := .live, stash := [], now := tick }

/-- The members of a strand's team. -/
def Strand.teamOf (x : Strand) (y : Strand) : Bool :=
  x.id.part == y.id.part && x.id.launch == y.id.launch && x.id.index == y.id.index && x.id.stage == y.id.stage

/-- The code bytes of a team as the streamers read them (R61): none where they cannot be read. A code_base outside global memory counts as
one; R61 does not say so, the choice is the model's (log 51). The bytes up to SELV are zero
(R165). -/
def readCode (s : State) (x : Strand) (r : BitVec 1024) : Option (List Byte × State) :=
  match homeRead s ⟨x.id.part, x.id.vd, 0⟩ (locOf noCore (rCode r)) (rCodeLen r) with
  | .ok g s1 => if g.poison.isSome || placeOf noCore (rCode r) != .glob then none
                else some (g.bytes ++ List.replicate (rSelv r - rCodeLen r) 0, s1)
  | _ => none

/-- Write the code below the selvage of every strand of a team, of the leader only where it is tacked; the first launch of an
image extends measurement 0x11 (R24, R61). DESIGN CHOICE (log 51): the measurement takes the image when its first code copy lands, so a
launch that is accepted and not yet placed is not in it. -/
def writeCode (s : State) (x : Strand) (r : BitVec 1024) (bs : List Byte) : State :=
  let s1 := x.id.team.foldl (fun (z : State) n =>
    match z.strand n with
    | some y =>
      if y.teamOf x then
        let z1 := if rTacked r && n != x.id.team.headD n then z
          else { z with scratch := z.scratch.writeList (scratchAt n 0) bs }
        z1.setStrand n { y with stash := [1] }
      else z
    | none => z) s
  let image := bs.take (rCodeLen r)
  let h := Config.shake256 image
  s1.onPart x.id.part fun p =>
    if p.imagesSeen.contains h then p else { p with imagesSeen := p.imagesSeen ++ [h], m11 := extendM p.m11 image }

/-- The strands that start with core n's: its gang, or itself. -/
def Strand.startsWith (x : Strand) (n : Nat) : List Nat := if x.gang.tacked then x.gang.members else [n]

/-- The launch of a strand and the record of its template. -/
def State.recordOf (s : State) (x : Strand) : Option (Launch × BitVec 1024) :=
  (s.launchOf x.id.part x.id.launch).map fun l => (l, if rBuilt l.record then l.tmpls.getD x.id.tmpl 0 else l.record)

/-- CODE_COPY_LANDED (R61): the code copy of the strand of core op.a has landed and it starts; in a large step it waits for
the step's boundary (R116). A team's image is read once, for all its strands. -/
def execCodeCopyLanded (s : State) : Out :=
  let n := s.op.a
  match s.strand n with
  | none => notEnabled "CODE_COPY_LANDED"
  | some x =>
    match s.recordOf x with
    | none => notEnabled "CODE_COPY_LANDED"
    | some (l, r) =>
      if x.phase != .placed || x.stash == [3] || (x.gang.tacked && x.gang.leader != n) then notEnabled "CODE_COPY_LANDED"
      else
        let s1 := if x.stash == [1] then some s else (readCode s x r).map fun c => writeCode c.2 x r c.1
        match s1 with
        | none => notEnabled "CODE_COPY_LANDED"
        | some s2 =>
          let start := fun z : State => (x.startsWith n).foldl (fun (z : State) m => z.onStrand m (·.started s.tick)) z
          if !l.stepHeld then .next ((start s2).setLaunch { l with anyRan := true })
          else
            let b := l.blocked.getD (s.boundary s.tick)
            if b ≤ s.tick then .next ((start s2).setLaunch { l with anyRan := true, blocked := some b })
            else .next (((x.startsWith n).foldl (fun (z : State) m => z.onStrand m fun y => { y with stash := [3] }) s2).setLaunch
              { l with blocked := some b })

/-- LARGE_STEP_START (R116): the boundary of the large step of launch op.b of partition op.a has come: its strands whose code
has landed start. -/
def execLargeStepStart (s : State) : Out :=
  match s.launchOf s.op.a s.op.b with
  | none => notEnabled "LARGE_STEP_START"
  | some l =>
    match l.blocked with
    | none => notEnabled "LARGE_STEP_START"
    | some b =>
      if l.stepHeld && decide (b ≤ s.tick) then
        let go := fun (e : Nat × Strand) =>
          if e.2.id.launch = l.id ∧ e.2.id.part = l.part ∧ e.2.phase = .placed ∧ e.2.stash = [3] then (e.1, e.2.started s.tick) else e
        .next ({ s with strands := s.strands.map go }.setLaunch { l with stepHeld := false, anyRan := true })
      else notEnabled "LARGE_STEP_START"

/-- The team of a strand returns its cores, granules and barrier slots. -/
def State.dropTeam (s : State) (x : Strand) : State :=
  let s1 := x.id.team.foldl (fun (z : State) n =>
    match z.strand n with
    | some y => if y.teamOf x then (z.delStrand n).setCore n { z.coreCfg n with idle := s.tick, plb := y.plb } else z
    | none => z) s
  let c := clusterOf (x.id.team.headD 0)
  let u := s1.cluster c
  let s2 := s1.setCluster c { u with bars := x.id.bslots.foldl (fun (b : Tbl Bar) j => b.del j) u.bars }
  (s2.serve (2 * c)).serve (2 * c + 1)

/-- CODE_COPY_FAILED (R61): the code of the team of core op.a cannot be read. -/
def execCodeCopyFailed (s : State) : Out :=
  match s.strand s.op.a with
  | none => notEnabled "CODE_COPY_FAILED"
  | some x =>
    match s.recordOf x with
    | none => notEnabled "CODE_COPY_FAILED"
    | some (l, r) =>
      if x.phase != .placed || x.stash != [] || (readCode s x r).isSome then notEnabled "CODE_COPY_FAILED"
      else
        let s1 := (s.dropTeam x).setLaunch { l with err := true, inList := false, closed := true, head := none, rest := [], holds := false, blocked := none }
        .next (s1.logError ⟨6, 2, l.part, l.tag.toNat, rCode r⟩)

end Sys2Proof.Machine
end

