-- ==== Sys2Proof/Machine/End.lean ====
section
/-! DEFINITION. The end of strands (R418) and of launches (R48, R49, R56). -/
namespace Sys2Proof.Machine

/-! ### Leaving a core -/

/-- Add the strand's event counts to its virtual device's (R35). -/
def State.flushEvents (s : State) (x : Strand) : State :=
  s.onVd x.id.part x.id.vd fun d =>
    { d with counts := Vector.ofFn fun i => d.counts[i.val] + BitVec.ofNat 64 x.evts[i.val] }

/-- What a message in flight would bring to core `n` itself: it is lost when the strand leaves. -/
def Msg.isFor (n : Nat) : Msg → Bool
  | .reply c _ => c == n
  | .snapshot p => p.core == n
  | .wait q => q.core == n
  | .fill f => f.core == n
  | .ack c => c == n
  | _ => false

/-- A write of core `n` that its home has still to perform goes on without its strand: no core takes its acknowledgement. -/
def Msg.disown (n : Nat) : Msg → Msg
  | .access a => if a.core = n then .access { a with core := noCore, blocking := false } else .access a
  | .writeback k p v l u d => if k = n then .writeback noCore p v l u d else .writeback k p v l u d
  | .signal x => if x.ack && x.src == n then .signal { x with src := noCore, ack := false } else .signal x
  | m => m

/-- Slots and planes of a cell that a core owns become zero (R383). -/
def Cell.release (u : Cell) (n : Nat) : Cell :=
  let drop := fun p : Plane => if p.owner = some n then Plane.zero else p
  { u with
    active := drop u.active
    shadow := drop u.shadow
    slots := u.slots.map fun t => if t.owner = some n then Slot.zero else t }

/-- A core's claims leave its pool's queue. -/
def State.dropClaims (s : State) (n : Nat) : State :=
  let u := s.cell (s.poolOf n)
  s.setCell (s.poolOf n) { u with claims := u.claims.filter (·.1 != n) }

/-- A strand leaves its core: granules, slots and planes go back, nothing waits for it, the core is idle from now and keeps its lookaside buffer;
`serve` runs (R109, R152, R153, R208). -/
def State.vacate (s : State) (n : Nat) (x : Strand) : State :=
  let s1 := ((s.flushEvents x).setCell (cellOf n) ((s.cell (cellOf n)).release n)).dropClaims n
  let s2 : State := { s1.delStrand n with
    flight := (s1.flight.filter (!·.isFor n)).map (Msg.disown n)
    heldWrites := s1.heldWrites.map fun h => if h.core = n then { h with core := noCore } else h
    waits := s1.waits.filter (·.core != n)
    monitors := s1.monitors.filter (·.1.core != n)
    landings := s1.landings.filter fun l => l.cmd.isSome || l.granted || l.spool.core != n || l.spool.part != x.id.part }
  ((s2.setCore n { s2.coreCfg n with idle := s.tick, moveTo := none, slow := false, plb := x.plb }).retune n).serve (s.poolOf n)

/-- Some strand or saved context of a team is left. -/
def State.teamLeft (s : State) (x : Strand) : Bool :=
  s.strands.any (fun e => e.2.teamOf x) || ((s.part x.id.part).map fun p => p.saved.any fun y => y.strand.teamOf x).getD false

/-- The team's barrier slots go back once its last strand has ended (R418). -/
def State.freeBars (s : State) (x : Strand) : State :=
  if s.teamLeft x then s
  else
    let c := clusterOf (x.id.team.headD 0)
    let u := s.cluster c
    s.setCluster c { u with bars := x.id.bslots.foldl (fun (b : Tbl Bar) j => b.del j) u.bars }

/-- Remove core `n` from the members of its team's barriers; a generation whose members have all arrived then completes
(R418). -/
def State.leaveBars (s : State) (n : Nat) (x : Strand) : State :=
  (List.range x.id.bslots.length).foldl (fun (z : State) j =>
    let b : BarId := ⟨true, j⟩
    match z.barOf n x b with
    | none => z
    | some r =>
      let r1 := { r with members := r.members.filter (· != n) }
      let z1 := z.setBar n x b r1
      if r1.full then z1.complete n x b r1 else z1) s

/-- A strand's final CHN enters its launch's completion chain (R48, R418). -/
def State.finalChain (s : State) (x : Strand) : State :=
  match s.launchOf x.id.part x.id.launch with
  | none => s
  | some l => s.setLaunch { l with finalChain := max l.finalChain x.chain, finalOvf := l.finalOvf || x.ovf, anyRan := true }

/-- The spools of a strand that has ended are gone: what still was to land in them fails (R239, R242). -/
def State.failSpools (s : State) (n : Nat) (x : Strand) : State :=
  (List.range 16).foldl (fun (z : State) h => z.failLandings ⟨x.id.part, x.id.vd, n, h⟩) s

/-- STRAND_END (R418): the strand of core op.a, whose DONE has released, ends. Copy-queue entries that have not started stay
behind it. -/
def execStrandEnd (s : State) : Out :=
  match s.strand s.op.a with
  | none => notEnabled "STRAND_END"
  | some x =>
    let n := s.op.a
    let ends := fun m => ((s.strand m).map fun y => y.wait == some .ending).getD true
    if x.phase == .live && !x.halted && x.wait == some .ending && (x.members n).all ends then
      let x := x.settle s.tick (s.divOf n)
      let s1 := (s.finalChain x).dropLocks n (·.cmd == planLock n)
      let s2 : State := { s1 with orphans := s1.orphans ++ x.cq }
      .next ((((s2.failSpools n x).leaveBars n x).vacate n x).freeBars x)
    else notEnabled "STRAND_END"

/-! ### Ending a launch by force (R123, R126, R136) -/

/-- Engine commands of a launch that have not started are removed with their locks; their destinations are idle from now (R109). -/
def State.dropCommands (s : State) (p id : Nat) : State :=
  let mine := fun c : Cmd => c.part == p && c.launch == id
  let drop : List Cmd := s.strands.flatMap (fun e => (e.2.mq ++ e.2.cq).filter mine) ++ s.orphans.filter mine
  let s1 := (drop.foldl (fun (z : State) c => z.dropLocks c.core (·.cmd == c.id)) s).idleFrom (drop.flatMap Cmd.targets)
  { s1 with
    orphans := s1.orphans.filter fun c => !mine c
    copies := s1.copies.filter fun k => k.queue.isSome || k.phase != .granted || !mine k.cmd }

/-- A launch ends with the error flag: its strands and saved contexts go, each with its final CHN (R48), each strand's cache written back (R190); it
places no further team; engine commands that have started run to their end. -/
def State.killLaunch (s : State) (p id : Nat) : State :=
  let s1 := s.dropCommands p id
  let hit := s1.strands.filter fun e => e.2.id.part == p && e.2.id.launch == id
  let s2 := hit.foldl (fun (z : State) e =>
    let x := e.2
    let z1 := (if x.phase = .placed then z else z.finalChain x).writeBackAll e.1
    (((z1.failSpools e.1 x).dropLocks e.1 (·.cmd == planLock e.1)).vacate e.1 x).freeBars x) s1
  let away := ((s2.part p).map fun q => q.saved.filter fun y => y.strand.id.launch == id).getD []
  let gone := away.map (·.core)
  let s2 := away.foldl (fun (z : State) y => (z.finalChain y.strand).failSpools y.core y.strand) s2
  let s3 := (s2.onPart p fun q => { q with saved := q.saved.filter fun y => y.strand.id.launch != id }).idleFrom gone
  match s3.launchOf p id with
  | none => s3
  | some l => s3.setLaunch { l with err := true, inList := false, closed := true, head := none, rest := [], holds := false, blocked := none }

/-- End every launch of a virtual device with the error flag and log the event (R123): class 7. -/
def State.killVd (s : State) (p v addr : Nat) : State :=
  let ls := s.launches.filter fun l => l.part == p && l.vd == v
  (ls.foldl (fun (z : State) l => z.killLaunch p l.id) s).logError ⟨7, 2, p, 0, addr⟩

/-! ### Completion (R48, R49) -/

/-- An engine command of a launch has not completed. -/
def State.commandsOf (s : State) (p id : Nat) : Bool :=
  let mine := fun c : Cmd => c.part == p && c.launch == id
  s.copies.any (fun k => k.queue.isNone && mine k.cmd) || s.orphans.any mine ||
  s.cells.any fun e => e.2.commands.any mine

/-- A write of strands that a launch's end has taken away is on its way or held. -/
def State.disowned (s : State) (p v : Nat) : Bool :=
  s.heldWrites.any (fun h => h.core == noCore && h.part == p && h.vd == v) || s.flight.any fun m => match m with
    | .writeback k q w _ _ _ => k == noCore && q == p && w == v
    | _ => false

/-- LAUNCH_COMPLETE (R49): every team of launch op.b of partition op.a has finished and every command of its strands has
completed. Where no team ran, the completion carries the queue's chain at the packet's start; R48 names no tick, the choice is the
model's (log 51). -/
def execLaunchComplete (s : State) : Out :=
  match s.launchOf s.op.a s.op.b with
  | none => notEnabled "LAUNCH_COMPLETE"
  | some l =>
    let busy := ((s.part l.part).map fun p => p.destroyStatus.isSome).getD false || l.inList || s.strands.any (fun e => e.2.id.part == l.part && e.2.id.launch == l.id) ||
      ((s.part l.part).map fun p => p.saved.any fun y => y.strand.id.launch == l.id).getD false || s.commandsOf l.part l.id ||
      (l.err && s.disowned l.part l.vd)
    if busy then notEnabled "LAUNCH_COMPLETE"
    else
      let s1 : State := { s with launches := s.launches.filter fun k => !(k.part == l.part && k.id == l.id) }
      let ch := if l.anyRan then l.finalChain else l.chain0
      let idx := (s1.slotOfQueue l.queue).bind fun e => (e.2.started.find? (·.ref == 2 * l.id + 1)).map (·.index)
      match idx with
      | some i => .next (s1.packetDone l.queue i ch l.finalOvf l.err l.psn)
      | none => .next s1

end Sys2Proof.Machine
end

