-- ==== Sys2Proof/Machine/Save.lean ====
section
/-! DEFINITION. Context images and saves (R117 to R127). -/
namespace Sys2Proof.Machine

/-! ### What an image holds (R124, R125) -/

/-- Concatenated bytes of a list. -/
def catBytes (xs : List (List Byte)) : List Byte := xs.flatten

/-- The value of a CSR in the image's block (R124, R169): those that are not saved are 0; 0x7F is the PC, 0x7E the plan. -/
def imageCsr (x : Strand) (i : Nat) : Nat :=
  if i = 0x00 ∨ i = 0x2C ∨ i = 0x30 ∨ i = 0x31 ∨ i = 0x32 ∨ i = 0x39 then 0
  else if i = 0x2E then x.bobbin.status.toNat
  else if i = 0x7E then x.exch.planOff + x.exch.planCount * 2 ^ 32 + x.exch.next * 2 ^ 48
  else if i = 0x7F then x.pc
  else (x.csrAt (BitVec.ofNat 7 i)).toNat

/-- A stream binding's 16 bytes (R157). -/
def Stream.bytes (t : Stream) : List Byte :=
  bytesOf (b2n t.bound + t.handle * 2 + t.typ * 2 ^ 7 + t.slot * 2 ^ 10 + t.offset * 2 ^ 18) 16

/-- The bobbin's 256 bytes (layout: log 13). -/
def Bobbin.bytes (b : Bobbin) : List Byte :=
  let w := fun i : Nat => bytesOf (((b.words[i]?).bind fun q => encodeWord q.ins).getD 0).toNat 4
  let z := fun i : Int => bytesOf (i % 2 ^ 32).toNat 4
  catBytes ((List.range 16).map w) ++ z b.sd ++ z b.sa ++ z b.sb ++ z b.si ++ bytesOf b.passes 4 ++ bytesOf b.pass 4 ++
    bytesOf b.word 4 ++ bytesOf b.pc 4 ++ bytesOf (b2n b.active + 2 * b2n b.fault) 4 ++ List.replicate 156 0

/-- A vector queue entry's 32 bytes (layout: log 13). -/
def VqEntry.bytes (q : VqEntry) : List Byte :=
  bytesOf ((encodeWord q.ins).getD 0).toNat 4 ++ bytesOf q.pc 4 ++ bytesOf q.scalar.bits.toNat 16 ++
    bytesOf (b2n q.scalar.tag + 2 * b2n q.ftop + 4 * q.frnd) 4 ++
    bytesOf (match q.fromBob with | some p => 1 + 2 * p.1 + 2 ^ 16 * p.2 | none => 0) 4

/-- Pad with zeros to `n` bytes. -/
def padTo (n : Nat) (bs : List Byte) : List Byte := bs.take n ++ List.replicate (n - bs.length) 0

/-- A slot descriptor (layout: log 13). -/
def Slot.descr (t : Slot) (n : Nat) : List Byte :=
  if t.owner = some n then
    bytesOf (1 + 2 * b2n t.ranked + t.k * 2 ^ 8) 4 ++ bytesOf t.base.toNat 4 ++ bytesOf t.vcols 4 ++ bytesOf t.poison.toNat 16 ++
      bytesOf (t.chain.val + b2n t.chain.ovf * 2 ^ 63) 8 ++ bytesOf t.chain.origin.toNat 4 ++
      bytesOf ((List.range 128).foldl (fun v r => if ((t.lists.find r).map (·.nan)).getD false then v + 2 ^ r else v) 0) 16 ++
      List.replicate 8 0
  else List.replicate 64 0

/-- A plane descriptor (layout: log 13). -/
def Plane.descr (p : Plane) (n : Nat) : List Byte :=
  if p.owner = some n then
    padTo 64 (bytesOf (1 + 2 * b2n p.ftop + 4 * b2n p.link + p.fmt * 2 ^ 8) 4 ++ bytesOf p.chain.origin.toNat 4 ++
      bytesOf (p.chain.val + b2n p.chain.ovf * 2 ^ 63) 8 ++ bytesOf p.poison.toNat 16)
  else List.replicate 64 0

/-- The 512 bytes of a list: its (value, index) pairs; an entry that holds none is all ones, a NaN that no list holds (R270). -/
def RList.data (l : RList) : List Byte :=
  let bs := l.pairs.flatMap fun q => bytesOf q.1.toNat 4 ++ bytesOf q.2.toNat 4
  bs.take 512 ++ List.replicate (512 - bs.length) 0xFF

/-- A slot's 64 KiB: 128 rows of 512 bytes, elements or lists. -/
def Slot.data (t : Slot) : List Byte :=
  (List.range 128).flatMap fun r => if t.ranked then (t.lists.getD r default).data else bytesOf (t.rows.getD r 0).toNat 512

/-- A plane's 32 KiB: 128 rows of 256 bytes. -/
def Plane.data (p : Plane) : List Byte := (List.range 128).flatMap fun r => bytesOf (p.rows.getD r 0).toNat 256

/-- A team barrier record (R100). -/
def Bar.bytes (r : Bar) : List Byte :=
  let mask := fun cs : List Nat => cs.foldl (fun v c => v ||| 2 ^ (c % 16)) 0
  bytesOf (b2n r.xflag * 2 ^ 45 + r.gen % 2 * 2 ^ 46 + b2n r.ovf * 2 ^ 47 + r.chain * 2 ^ 48 + r.max.toNat * 2 ^ 96 +
    r.last.toNat * 2 ^ 128 + mask r.arrived * 2 ^ 160 + mask r.members * 2 ^ 176) 32

/-- The strand stopped in a BAR or EXCH whose arrival is recorded: it keeps the mark [1] (R119). -/
def Strand.barWait (x : Strand) : Bool := x.stash == [1]

/-- The header's 256 bytes with integ 0 (R125): `n` the core, `tick` when the save began. -/
def imageHeader (x : Strand) (n tick : Nat) (forced : Bool) : List Byte :=
  let lo := 1 + 2 ^ 4 * b2n x.barWait + 2 ^ 5 * b2n forced + 2 ^ 6 * b2n x.halted + 2 ^ 7 * b2n x.exch.xlate + 1 * 2 ^ 32 +
    x.baseGran * 2 ^ 40 + x.holding * 2 ^ 48 + x.pendOf.1 * 2 ^ 56
  bytesOf (lo + n * 2 ^ 64 + (2 ^ x.holding - 1) * 2 ^ 80 + x.gen * 2 ^ 96 + x.pendOf.2.toNat * 2 ^ 128 + tick % 2 ^ 64 * 2 ^ 192) 128 ++
    bytesOf (2 ^ (x.spanEnd / 256) - 1) 128

/-- Tag bits of a scratchpad (R124): one per 16 bytes. -/
def State.tagBytes (s : State) (n : Nat) : List Byte :=
  (List.range 2048).map fun i => BitVec.ofNat 8 ((List.range 8).foldl (fun v b =>
    if s.scratch.tag (scratchAt n (128 * i + 16 * b)) then v + 2 ^ b else v) 0)

/-- The held releases' 2 KiB (R124). -/
def heldBytes (x : Strand) : List Byte :=
  (List.range 128).flatMap fun i =>
    let b : BarId := if i < 16 then ⟨true, i⟩ else ⟨false, i - 16⟩
    match x.held.find? (·.bar == b) with
    | some h => h.bytes
    | none => List.replicate 16 0

/-- The first 8 KiB of an image (R124). -/
def imageFixed (s : State) (n : Nat) (x : Strand) (bars : List Bar) (tick : Nat) (forced : Bool) : List Byte :=
  let u := s.cell (cellOf n)
  imageHeader x n tick forced ++
  x.g.toList.flatMap (fun r => bytesOf r.bits.toNat 16) ++
  padTo 256 (bytesOf (x.g.toList.zipIdx.foldl (fun v p => if p.1.tag then v + 2 ^ p.2 else v) 0) 8) ++
  (List.range 128).flatMap (fun i => bytesOf (imageCsr x i) 8) ++
  padTo 256 (padTo 64 ((List.range 8).flatMap fun i => bytesOf (x.getP (BitVec.ofNat 3 i)).toNat 2) ++ x.streams.toList.flatMap Stream.bytes) ++
  x.spools.toList.flatMap (fun h => bytesOf h.bits.toNat 64) ++
  x.bobbin.bytes ++
  padTo 512 (x.vq.flatMap VqEntry.bytes) ++
  padTo 256 (x.mq.flatMap fun c => bytesOf c.word.toNat 32) ++
  padTo 256 (x.cq.flatMap fun c => bytesOf c.word.toNat 32) ++
  u.slots.toList.flatMap (·.descr n) ++
  padTo 256 (u.active.descr n ++ u.shadow.descr n) ++
  padTo 512 (if x.id.strand = 0 then bars.flatMap Bar.bytes else []) ++
  s.tagBytes n

/-! ### Writing an image (R127) -/

/-- Write parts of an image: none where a translation fault stops it. -/
def putParts (w : Who) (base : Nat) : List (Nat × List Byte) → State → Option State
  | [], s => some s
  | (off, bs) :: ps, s =>
    match globWrite w false (runsOf (base + off) bs.length) bs s with
    | .ok _ s1 => putParts w base ps s1
    | _ => none

/-- Write the span lines that are present and dirty, with their poison. -/
def putLines (w : Who) (n base : Nat) (x : Strand) : List Nat → State → Option State
  | [], s => some s
  | i :: is, s =>
    if x.lineAbsent.contains i || x.lineClean.contains i then putLines w n base x is s
    else
      let bs := s.scratch.readList (scratchAt n (256 * i)) 256
      let bad := (List.range 4).filterMap fun k => if s.scratch.poisoned (scratchAt n (256 * i + 64 * k)) then some (64 * k, 64) else none
      match homeWriteBad s w (.glob (base + 0x4000 + 256 * i)) bs bad with
      | .ok _ s1 => putLines w n base x is s1
      | _ => none

/-- The records of the team's barriers, kept with the lowest strand of the team that has not ended (R100). The image of strand 0
holds them (R124). -/
def State.teamBars (s : State) (n : Nat) (x : Strand) : List Bar :=
  if s.strands.all fun e => !e.2.teamOf x || decide (x.id.strand ≤ e.2.id.strand) then
    (List.range x.id.bslots.length).map fun j => (s.barOf n x ⟨true, j⟩).getD (Bar.fresh [])
  else []

/-- The dirty granules that are held, and the slots and planes that the core owns, with their offsets in the image. -/
def imageData (u : Cell) (n : Nat) (x : Strand) : List (Nat × List Byte) :=
  let grans := (List.range x.holding).filter fun i => x.granDirty.getLsbD i && !x.granAbsent.getLsbD i
  let g := grans.map fun i => (0x2000 + 512 * i, (List.range 8).flatMap fun r => bytesOf (x.getV (BitVec.ofNat 7 (8 * i + r))).toNat 64)
  let t := (List.range 4).filterMap fun i =>
    if h : i < 4 then (if u.slots[i].owner = some n then some (0x44000 + 0x10000 * i, u.slots[i].data) else none) else none
  let p := [(u.active, 0x84000), (u.shadow, 0x8C000)].filterMap fun q => if q.1.owner = some n then some (q.2, q.1.data) else none
  g ++ t ++ p

/-- Save the context of core `n` into its image (R127): the state with the image written, and what the steward keeps. -/
def saveContext (s : State) (n : Nat) (x : Strand) (tick : Nat) (forced : Bool) : Option (State × Saved) :=
  let base := s.imageBase x.id.part x.id.vd n
  let w : Who := ⟨x.id.part, x.id.vd, 0⟩
  let u := s.cell (cellOf n)
  let bars := s.teamBars n x
  let y := { x with gen := x.gen + 1 }
  match putParts w base ([(0, imageFixed s n y bars tick forced), (0x94000, heldBytes x)] ++ imageData u n x) s with
  | none => none
  | some s1 =>
    match putLines w n base x (List.range (x.spanEnd / 256)) s1 with
    | none => none
    | some s2 =>
      let mine := fun k : Lock => k.cmd == planLock n || (x.mq ++ x.cq).any fun c => c.id == k.cmd
      let slots := (List.range 4).filterMap fun i => if h : i < 4 then (if u.slots[i].owner = some n then some (i, u.slots[i]) else none) else none
      let own := fun p : Plane => if p.owner = some n then some p else none
      some (s2.reseal x.id.part x.id.vd base,
        ⟨n, x.id.vd, { y with cache := [], fillBuf := [], plb := [], reply := none }, bars, slots, own u.active, own u.shadow,
         (s.cluster (clusterOf n)).locks.filter mine, base, s.cmdCtr⟩)

/-! ### Stopping (R117 to R120) -/

/-- Strands of a virtual device. -/
def State.strandsOf (s : State) (p v : Nat) : List (Nat × Strand) := s.strands.filter fun e => e.2.id.part == p && e.2.id.vd == v

/-- The strand is blocked as R117 asks. -/
def Strand.atBoundary (x : Strand) : Bool :=
  x.phase == .live && match x.wait with
  | some (.barrier _ _) => true
  | some .join => true
  | some (.knot _ _ _ _) => true
  | some .kjoin => true
  | some (.claim _) => true
  | some .reclaim => true
  | some (.monitor _ _) => true
  | some .yield => true
  | _ => false

/-- An exchange message or a remote signal of the virtual device is in the mesh (R117). -/
def State.inMesh (s : State) (p v : Nat) : Bool :=
  s.flight.any fun m => match m with
    | .exchange x => x.part == p && x.vd == v
    | .signal x => x.part == p && x.vd == v
    | _ => false

/-- The save of a virtual device begins: ticks since the stop request are debited from the next period (R33), every strand
stops at its next instruction boundary. -/
def State.beginSave (s : State) (p v : Nat) (forced : Bool) : State :=
  let s1 := s.onVd p v fun d =>
    { d with debit := d.debit + (s.tick - d.stop.getD s.tick), stop := some s.tick, saving := true, forced := forced }
  (s1.strandsOf p v).foldl (fun (z : State) e => z.onStrand e.1 fun x => { x with stopReq := true }) s1

/-- SUPERSTEP_BOUNDARY (R117): virtual device op.b of partition op.a, which has a stop request, stands at a boundary. -/
def execSuperstepBoundary (s : State) : Out :=
  match s.part s.op.a with
  | none => notEnabled "SUPERSTEP_BOUNDARY"
  | some p =>
    let d := p.vd s.op.b
    if d.stop.isSome && !d.saving && (s.strandsOf s.op.a s.op.b).all (·.2.atBoundary) && !s.inMesh s.op.a s.op.b then
      .next (s.beginSave s.op.a s.op.b false)
    else notEnabled "SUPERSTEP_BOUNDARY"

/-- VD_GRACE_EXPIRED (R118): no boundary has come within grace_tk of the stop request: the save is forced. -/
def execVdGraceExpired (s : State) : Out :=
  match s.part s.op.a with
  | none => notEnabled "VD_GRACE_EXPIRED"
  | some p =>
    let d := p.vd s.op.b
    match d.stop with
    | some t => if !d.saving && decide (t + p.page.grace ≤ s.tick) then .next (s.beginSave s.op.a s.op.b true) else notEnabled "VD_GRACE_EXPIRED"
    | none => notEnabled "VD_GRACE_EXPIRED"

/-- The strand waits for its VSRD in the vector queue. -/
def Strand.vsrdWait (x : Strand) : Bool :=
  x.stash == [0] && match (x.vq.getLast?).map (·.ins) with
  | some (Instr.vsrd _ _ _) => true
  | _ => false

/-- The strand can be stopped where it stands: no access of it is under way, no vector instruction but VSRD and no started ACCV
holds it, and it has not just been woken (R119). -/
def Strand.stoppable (x : Strand) : Bool :=
  x.phase == .live && x.reply.isNone && match x.wait with
  | some (.data _) => false
  | some (.heldData _) => false
  | some .ending => false
  | some .own => x.stash != [1] && (x.stash != [0] || x.mq.any (·.waited) || x.vsrdWait)
  | some .excluded => x.stash != [1] && (x.stash != [0] || x.vsrdWait)
  | some .lazy => x.stash != [1] && (x.stash != [0] || x.vsrdWait)
  | _ => true

/-- End the instruction that the strand waits in, without further cycles. -/
def Strand.leave (x : Strand) : Strand := { x.drop.count 1#4 1 with pc := x.pcPlus 4 }

/-- The strand waits in an instruction that a halt abandons, to be reissued at RESUME (R420): an ENQ that waits for an entry, an ACCV's not once its
command has started (R394); a CSR access; SENDX; DONE before its release. One that waits for the line of its PC has begun none. -/
def State.abandons (s : State) (n : Nat) (x : Strand) : Bool :=
  x.fetchWait || (x.wait == some .own || x.wait == some .lazy || x.wait == some .excluded) && match s.instrAt n x with
  | some (.enqM _ _ _) => x.stash != [1] && (x.stash != [0] || x.mq.any (·.waited))
  | some (.enqC _ _ _) => true
  | some (.enqX _ _ _) => true
  | some (.csrr _ _) => true
  | some (.csrw _ _ _) => true
  | some (.csrs _ _ _) => true
  | some (.csrc _ _ _) => true
  | some .sendx => true
  | some .done_ => !x.released
  | _ => false

/-- Leave an instruction that is abandoned: a command that its ENQ waits for goes with it (R394). -/
def State.abandon (s : State) (n : Nat) (x : Strand) : State :=
  let accv := x.mq.filter (·.waited)
  accv.foldl (fun (z : State) c => z.dropLocks n (·.cmd == c.id)) (s.setStrand n { x.drop with mq := x.mq.filter (!·.waited) })

/-- What a stopped strand does with the instruction `i` that it is blocked in (R119, R394). A VSRD leaves the vector queue, a YIELD
retires (R417). -/
def Strand.stopped (x : Strand) (i : Option Instr) : Strand :=
  if x.fetchWait then x.drop
  else if x.wait.isSome && i == some .yield then x.leave
  else if x.vsrdWait && x.wait.isSome then { x.drop with vq := x.vq.dropLast }
  else match x.wait with
  | some (.knot d _ _ since) => ((x.own (x.now - since)).setW d 2).leave
  | some (.monitor d _) => (x.setW d 3).leave
  | some .yield => x.leave
  | some (.barrier _ _) => if x.barWait then { x with wait := none } else { x.drop with stash := x.stash }
  | some .join =>
    if x.barWait then { x with wait := none }
    else if x.stash.head? == some 2 then { x.drop with stash := x.stash }
    else x.drop
  | some (.supervisor _ _ _ _) => x
  | _ => x.drop

/-- A strand, with its gang, is charged up to the tick at which its save was begun; one that waits for nothing has stopped at its
boundary before, and the gap begins there (R93). -/
def State.settleStop (s : State) (n : Nat) (x : Strand) (stop : Nat) : State :=
  if x.wait.isSome then s.settleTo (x.members n) (min stop s.tick) else s

/-- Stop the strand of core `n`, whose save was begun at tick `stop`: its instruction is kept or abandoned, its claims and reservations go, copies
that have not started return to its queue, its cache is written back (R119, R127, R402). Where it has sent in exchange mode, or waits in SENDX for its
slot, its later sends keep to no slot (R122, R246, R412). -/
def State.quiesce (s : State) (stop n : Nat) : State :=
  let s1 := match s.strand n with
    | some x => s.settleStop n x stop
    | none => s
  match s1.strand n with
  | none => s
  | some x =>
    let accv := x.mq.filter (·.waited)
    let i := s.instrAt n x
    let late := x.exch.origin.isSome && (x.exch.sent || (x.wait.isSome && !x.fetchWait && i == some .sendx))
    let y := { x.stopped i with
      phase := .saving
      stopReq := false
      mq := x.mq.filter (!·.waited)
      gang := { x.gang with tacking := none }
      exch := if late then { x.exch with xlate := true, origin := none } else x.exch }
    let s2 := s1.setStrand n y
    let s3 : State := { s2 with
      waits := s2.waits.filter (·.core != n)
      monitors := s2.monitors.filter (·.1.core != n)
      flight := s2.flight.filter fun m => match m with
        | .ack _ => true
        | _ => !m.isFor n
      landings := s2.landings.filter fun l => l.cmd.isSome || l.granted || l.spool.core != n || l.spool.part != x.id.part
      copies := s2.copies.filter fun k => k.queue.isSome || k.phase != .granted || !(x.cq.any fun c => c.id == k.cmd.id) }
    let s4 := s3.dropClaims n
    (accv.foldl (fun (z : State) c => z.dropLocks n (·.cmd == c.id)) s4).writeBackAll n

/-- Save every strand of a list: none where a translation fault stops it. -/
def saveAll (tick : Nat) (forced : Bool) : List (Nat × Strand) → State → Option (State × List Saved)
  | [], s => some (s, [])
  | (n, x) :: es, s =>
    match saveContext s n x tick forced with
    | none => none
    | some (s1, y) =>
      match saveAll tick forced es s1 with
      | none => none
      | some (s2, ys) => some (s2, y :: ys)

/-- The virtual device has left: it waits for its next turn. -/
def State.vdGone (s : State) (p v : Nat) : State :=
  s.onVd p v fun d => { d with stop := none, saving := false, forced := false, running := false }

/-- The saved contexts are kept, their cores, granules, slots, planes, barrier slots and locks go back (R127, R130 to R132). -/
def keepSaved (p v : Nat) (ys : List Saved) (s : State) : State :=
  let s1 := s.onPart p fun q => { q with saved := q.saved.filter (fun y => !(y.vd == v && ys.any (·.core == y.core))) ++ ys }
  let s2 : State := { s1 with cmdCtr := s1.cmdCtr + 1 }
  ys.foldl (fun (z : State) y =>
    let x := y.strand
    let c := clusterOf y.core
    let z1 := (z.dropLocks y.core fun k => y.locks.contains k).vacate y.core x
    let u := z1.cluster c
    if !y.bars.isEmpty then z1.setCluster c { u with bars := x.id.bslots.foldl (fun (b : Tbl Bar) j => b.del j) u.bars } else z1) s2

/-- SAVE_COMPLETE (R127): the save of virtual device op.b of partition op.a goes on. Once every strand has stopped, the caches are
written back; once that is acknowledged and the started matrix commands have ended (R120), the images are written, and that is the tick at which the
images say that the save began (R125, R436). -/
def execSaveComplete (s : State) : Out :=
  let p := s.op.a
  let v := s.op.b
  match s.part p with
  | none => notEnabled "SAVE_COMPLETE"
  | some q =>
    let d := q.vd v
    let es := s.strandsOf p v
    if !d.saving then notEnabled "SAVE_COMPLETE"
    else if es.any (·.2.phase != .saving) then
      if es.all (·.2.stoppable) then .next (es.foldl (fun (z : State) e => z.quiesce (d.stop.getD s.tick) e.1) s) else notEnabled "SAVE_COMPLETE"
    else if es.all fun e => e.2.unacked == 0 && (s.runningOf e.1).isEmpty && e.2.vRdy.all (fun r => decide (r.2 ≤ s.tick)) then
      match saveAll s.tick d.forced es s with
      | none => .next ((s.killVd p v d.saveBase.toNat).vdGone p v)
      | some (s1, ys) => .next ((keepSaved p v ys s1).vdGone p v)
    else notEnabled "SAVE_COMPLETE"

end Sys2Proof.Machine
end

