-- ==== Sys2Proof/Machine/Restore.lean ====
section
/-! DEFINITION. Restores of saved contexts, from what the steward keeps and from images (R22, R128 to R132), and lazy fills (R129). -/
namespace Sys2Proof.Machine

/-! ### Restoring (R128 to R132) -/

/-- The held releases as the image has them (R124). -/
def heldFrom (s : State) (y : Saved) : List Held :=
  y.strand.held.map fun h =>
    let v := numOf (s.imageRead y.strand.id.part y.vd y.image (Held.slotOf h.bar) 16)
    { h with chain := v % 2 ^ 48, ovf := v / 2 ^ 48 % 2 == 1, max := BitVec.ofNat 32 (v / 2 ^ 64), last := BitVec.ofNat 32 (v / 2 ^ 96) }

/-- The pairs in a list's 512 bytes (`RList.data`). -/
def pairsOf (v : Nat) : List (W32 × W32) :=
  ((List.range 64).map fun k => (BitVec.ofNat 32 (v / 2 ^ (64 * k)), BitVec.ofNat 32 (v / 2 ^ (64 * k + 32)))).takeWhile (·.1 != 0xFFFFFFFF#32)

/-- A saved slot with its data from the image. -/
def slotFrom (s : State) (y : Saved) (i : Nat) (t : Slot) : Slot :=
  let row := fun r : Nat => numOf (s.imageRead y.strand.id.part y.vd y.image (0x44000 + 0x10000 * i + 512 * r) 512)
  if t.ranked then
    { t with lists := (List.range 128).foldl (fun (m : Tbl RList) r => m.put r ⟨pairsOf (row r), (t.lists.getD r default).nan⟩) [] }
  else { t with rows := (List.range 128).foldl (fun (m : Tbl (BitVec 4096)) r => m.put r (BitVec.ofNat 4096 (row r))) [] }

/-- A saved plane with its data from the image. -/
def planeFrom (s : State) (y : Saved) (off : Nat) (p : Plane) : Plane :=
  { p with rows := (List.range 128).foldl (fun (m : Tbl (BitVec 2048)) r =>
      m.put r (BitVec.ofNat 2048 (numOf (s.imageRead y.strand.id.part y.vd y.image (off + 256 * r) 256)))) [] }

/-- The first 8 KiB of an image can be read and carry their tag (R126): none where a translation fault stops it. -/
def imageOk (s : State) (y : Saved) : Option Bool :=
  match globRead ⟨y.strand.id.part, y.vd, 0⟩ (runsOf y.image 0x2000) s with
  | .ok g _ => some ((g.bytes.drop 32).take 32 == (s.imageTagOf y.strand.id.part y.vd y.image).1)
  | _ => none

/-- The strand as it comes back (R128): every granule and span line is absent and clean, the gap is excluded (R93). A claimed
holding waits for its granules (R130); a supervisor trap, or a BAR whose arrival is recorded, stays (R119). -/
def Saved.revived (y : Saved) (s : State) (slots : List Nat) : Strand :=
  let x := y.strand
  let lines := List.range (x.spanEnd / 256)
  let x1 := x.spend 2 (gapTicks x.now s.tick (s.divOf y.core))
  let keep : Option WaitKind := match x.wait with
    | some k => some k
    | none => if x.barWait then some .join else none
  { x1 with
    id := { x.id with bslots := slots }
    phase := .live
    held := heldFrom s y
    granAbsent := granBits 0 x.holding
    granDirty := 0
    lineAbsent := lines
    lineClean := lines
    wait := if x.baseGran < x.holding then some .reclaim else keep
    after := if x.baseGran < x.holding then keep else none }

/-- The scratchpad of a restored core: nothing but the tag bits of the image, until its lines are filled. -/
def State.resetScratch (s : State) (y : Saved) : State :=
  let n := y.core
  let tb := s.imageRead y.strand.id.part y.vd y.image 0x1800 2048
  let b := s.scratch.scrub (scratchAt n 0) (scratchAt (n + 1) 0)
  { s with scratch := (List.range 16384).foldl (fun (b : Bank) i =>
      if (tb.getD (i / 8) 0).getLsbD (i % 8) then b.setTag (scratchAt n (16 * i)) true else b) b }

/-- Put back one saved context: strand, slots, planes, locks (R128, R131, R132). `slots` are its team's barrier slots. -/
def restoreOne (s : State) (y : Saved) (slots : List Nat) : State :=
  let n := y.core
  let s1 := (s.resetScratch y).setStrand n { y.revived s slots with plb := (s.coreCfg n).plb }
  let u := s1.cell (cellOf n)
  let u1 := y.slots.foldl (fun (c : Cell) e => if h : e.1 < 4 then { c with slots := c.slots.set e.1 (slotFrom s y e.1 e.2) h } else c) u
  let u2 := match y.active with
    | some p => { u1 with active := planeFrom s y 0x84000 p }
    | none => u1
  let u3 := match y.shadow with
    | some p => { u2 with shadow := planeFrom s y 0x8C000 p }
    | none => u2
  (((s1.setCell (cellOf n) u3).setCore n { s1.coreCfg n with powered := true, slow := s.exhausted y.strand.id.part y.vd }).retune n).addLocks n y.locks

/-- The saved contexts of a virtual device in core order. -/
def Partition.savedOf (q : Partition) (v : Nat) : List Saved :=
  let ys := q.saved.filter (·.vd == v)
  (rowsOf (ys.map (·.core))).filterMap fun n => ys.find? (·.core == n)

/-- The barrier slots for the teams of a list of contexts: the lowest free ones, each team as many as before. -/
def teamSlots : List Saved → State → List (Saved × List Nat) → Option (State × List (Saved × List Nat))
  | [], s, acc => some (s, acc)
  | y :: ys, s, acc =>
    match acc.find? (fun e => e.1.strand.teamOf y.strand) with
    | some e => teamSlots ys s (acc ++ [(y, e.2)])
    | none =>
      let c := clusterOf y.core
      let k := y.strand.id.bslots.length
      let js := (s.freeSlots c).take k
      if js.length < k then none
      else
        let recs := ((y :: ys).find? fun z => z.strand.teamOf y.strand && !z.bars.isEmpty).map (·.bars)
        let u := s.cluster c
        let bars := js.zipIdx.foldl (fun (b : Tbl Bar) e => b.put e.1 ((recs.getD []).getD e.2 (Bar.fresh y.strand.id.team))) u.bars
        teamSlots ys (s.setCluster c { u with bars := bars }) (acc ++ [(y, js)])

/-- Everything that the contexts of a virtual device need is free (R63, R128): cores, base granules, slots and planes, lock
entries. A context comes back no sooner than a tick after it left, since its CHSTALL then shows the gap (R93, R429). -/
def restorable (s : State) (ys : List Saved) : Bool :=
  ys.all fun y =>
    let n := y.core
    let u := s.cell (cellOf n)
    let cell := ys.filter fun z => s.poolOf z.core == s.poolOf n
    let clus := ys.filter fun z => clusterOf z.core == clusterOf n
    (s.strand n).isNone && !s.moveTarget n && decide (y.strand.now < s.tick) &&
    decide ((cell.map fun z => z.strand.baseGran).foldl (· + ·) 0 ≤ s.freeGran (s.poolOf n)) &&
    y.slots.all (fun e => if h : e.1 < 4 then u.slots[e.1].owner.isNone else true) &&
    (y.active.isNone || u.active.owner.isNone) && (y.shadow.isNone || u.shadow.owner.isNone) &&
    s.lockRoom n ((clus.map fun z => z.locks.length).foldl (· + ·) 0)

/-- The restored claims enter at the head of their cells' queues, in ascending core order (R130). -/
def reenterClaims (ys : List Saved) (s : State) : State :=
  let s1 := ys.reverse.foldl (fun (z : State) y =>
    let k := y.strand.holding - y.strand.baseGran
    let c := s.poolOf y.core
    if k = 0 then z else z.setCell c { z.cell c with claims := (y.core, k, 0) :: (z.cell c).claims }) s
  (rowsOf (ys.map fun y => s.poolOf y.core)).foldl (fun (z : State) c => z.serve c) s1

/-! ### Contexts of a restored image (R22) -/

/-- `w` bits of a number from bit `lo`. -/
def fieldAt (v lo w : Nat) : Nat := v / 2 ^ lo % 2 ^ w

/-- A number in a list of bytes. -/
def numAt (bs : List Byte) (i n : Nat) : Nat := numOf ((bs.drop i).take n)

/-- The descriptor that 64 bytes hold (R158). -/
def Spool.ofBits (v : Nat) : Spool :=
  ⟨fieldAt v 464 48, fieldAt v 440 8, fieldAt v 432 8, fieldAt v 423 9, fieldAt v 414 9, fieldAt v 405 9, BitVec.ofNat 256 (v / 2 ^ 128),
   fieldAt v 96 32, fieldAt v 32 32, fieldAt v 16 16, fieldAt v 8 8, v.testBit 0⟩

/-- The binding that 16 bytes hold (R157). -/
def Stream.ofBits (v : Nat) : Stream := ⟨fieldAt v 18 14, fieldAt v 10 8, fieldAt v 7 3, fieldAt v 1 4, v.testBit 0⟩

/-- The vector queue entry that 32 bytes hold: none where their word is no instruction. -/
def VqEntry.ofBits (v : Nat) : Option VqEntry :=
  (decodeWord (BitVec.ofNat 32 v)).map fun i =>
    ⟨i, fieldAt v 32 32, ⟨BitVec.ofNat 128 (v / 2 ^ 64), v.testBit 192⟩, fieldAt v 194 2, v.testBit 193,
     if v.testBit 224 then some (fieldAt v 225 15, fieldAt v 240 16) else none⟩

/-- A signed 32-bit number. -/
def signedAt (bs : List Byte) (i : Nat) : Int := (BitVec.ofNat 32 (numAt bs i 4)).toInt

/-- The bobbin in an image's 256 bytes (log 13). The operands that BOB captured have no place in an image (R124): they are those of
`old` where it has the same word, and free values elsewhere (`k` numbers them). -/
def Bobbin.ofBytes (bs : List Byte) (words : Nat) (old : Bobbin) (k : Nat) : Bobbin :=
  let f := fun i : Nat => (⟨BitVec.ofNat 128 (Config.freeNat (k + i)), Config.freeNat (k + i) / 2 ^ 128 % 2 == 1⟩ : GReg)
  let word := fun i : Nat => (decodeWord (BitVec.ofNat 32 (numAt bs (4 * i) 4))).map fun q =>
    match old.words[i]? with
    | some w => if w.ins = q then w else ⟨q, f (4 * i), f (4 * i + 1), f (4 * i + 2), f (4 * i + 3)⟩
    | none => ⟨q, f (4 * i), f (4 * i + 1), f (4 * i + 2), f (4 * i + 3)⟩
  ⟨(List.range words).filterMap word, signedAt bs 64, signedAt bs 68, signedAt bs 72, signedAt bs 76, numAt bs 80 4, numAt bs 84 4,
   numAt bs 88 4, numAt bs 92 4, numAt bs 96 4 % 2 == 1, numAt bs 96 4 / 2 % 2 == 1, 0⟩

/-- The chain of a slot or plane descriptor. -/
def chainOf (v : Nat) (origin : Nat) : Chain := ⟨v % 2 ^ 48, v.testBit 63, BitVec.ofNat 32 origin⟩

/-- The slot that a descriptor names, without its data (log 13). -/
def Slot.ofDescr (n : Nat) (b : List Byte) : Option Slot :=
  let f := numAt b 0 4
  if !f.testBit 0 then none
  else
    let nan := numAt b 40 16
    some { Slot.zero with
      owner := some n, ranked := f.testBit 1, k := fieldAt f 8 8, base := BitVec.ofNat 32 (numAt b 4 4), vcols := numAt b 8 4,
      poison := BitVec.ofNat 128 (numAt b 12 16), chain := chainOf (numAt b 28 8) (numAt b 36 4),
      lists := if f.testBit 1 then (List.range 128).foldl (fun (m : Tbl RList) r => m.put r ⟨[], nan.testBit r⟩) [] else [] }

/-- The plane that a descriptor names, without its data (log 13). -/
def Plane.ofDescr (n : Nat) (b : List Byte) : Option Plane :=
  let f := numAt b 0 4
  if !f.testBit 0 then none
  else some { Plane.zero with
    owner := some n, ftop := f.testBit 1, link := f.testBit 2, fmt := fieldAt f 8 8, chain := chainOf (numAt b 8 8) (numAt b 4 4),
    poison := BitVec.ofNat 128 (numAt b 16 16) }

/-- The cores of a cluster that a mask names. -/
def maskCores (c m : Nat) : List Nat := ((List.range 16).filter m.testBit).map (16 * c + ·)

/-- The team barrier record that 32 bytes hold (R100), `c` the cluster. Of the generation it has the parity alone; here it is 2 or 3, so
that a held release is of the one before. -/
def Bar.ofBits (c v : Nat) : Bar :=
  ⟨maskCores c (fieldAt v 176 16), maskCores c (fieldAt v 160 16), BitVec.ofNat 32 (v / 2 ^ 128), BitVec.ofNat 32 (v / 2 ^ 96), fieldAt v 48 48,
   v.testBit 47, 2 + fieldAt v 46 1, v.testBit 45, 0⟩

/-- A command of an image: the one that the steward kept where its word is the same; else its word, with what an image has no place for
(e0 and its flag, the MCBASE samples) free, and no vector memory instruction of the queue passes it. -/
def cmdFrom (s : State) (n : Nat) (x : Strand) (old : List Cmd) (k : Nat) (w : W256) : Option Cmd :=
  match old.find? (·.word == w) with
  | some c => some c
  | none =>
    let opc := bitsN w 9 0
    let e := tableEntry (s.tableOf x) opc
    match cmdOpOf (if e.getLsbD 15 then e else tableEntry map2 opc) with
    | none => none
    | some o => some { s.capture n x o w with
        e0 := Config.freeNat k % 2 ^ 48, ovf := Config.freeNat k / 2 ^ 48 % 2 == 1, id := s.cmdCtr + k - s.freeCtr, after := x.vq.length, behind := []
        mcbase := if o == .mcast then (mcastCores (decMcast w)).map fun c => (c, Config.freeNat (k + c) % 2 ^ 12 * 64) else [] }

/-- The command words of a queue in an image, up to the first that is 0. -/
def wordsAt (bs : List Byte) (off : Nat) : List W256 :=
  ((List.range 8).map fun i => BitVec.ofNat 256 (numAt bs (off + 32 * i) 32)).takeWhile (· != 0)

/-- The strand whose first 8 KiB are `bs`, on core `n` (R124, R125). `old` gives what an image has no place for. -/
def strandFrom (s : State) (n : Nat) (bs : List Byte) (old : Strand) : Strand :=
  let h := numAt bs 0 32
  let csr := fun i : Nat => numAt bs (0x600 + 8 * i) 8
  let tags := numAt bs 0x500 8
  let plan := csr 0x7E
  let kept := fun i : Nat => !([0x2E, 0x7E, 0x7F].contains i)
  let nteam := csr 5
  let built := nteam % 2 ^ 48 == 0
  let index := if built then csr 2 else csr 2 + fieldAt nteam 0 16 * (csr 3 + fieldAt nteam 16 16 * csr 4)
  let x : Strand := { old with
    id := { old.id with index := index, stage := csr 6, strand := csr 1, teamSize := fieldAt nteam 48 4 + 1 }
    pc := csr 0x7F
    g := Vector.ofFn fun i => ⟨BitVec.ofNat 128 (numAt bs (0x100 + 16 * i.val) 16), tags.testBit i.val⟩
    csr := Vector.ofFn fun i => BitVec.ofNat 64 (if kept i.val then csr i.val else 0)
    p := Vector.ofFn fun i => BitVec.ofNat 16 (numAt bs (0xA00 + 2 * i.val) 2)
    streams := Vector.ofFn fun i => Stream.ofBits (numAt bs (0xA40 + 16 * i.val) 16)
    spools := Vector.ofFn fun i => Spool.ofBits (numAt bs (0xB00 + 64 * i.val) 64)
    bobbin := Bobbin.ofBytes (bs.drop 0xF00) (csr 0x2E % 32) old.bobbin (s.freeCtr + 2 ^ 16 * n)
    holding := fieldAt h 48 8
    baseGran := fieldAt h 40 8
    spanEnd := 256 * ((List.range 1024).filter (numAt bs 128 128).testBit).foldl (fun m i => max m (i + 1)) 0
    vq := ((List.range 16).filterMap fun i => VqEntry.ofBits (numAt bs (0x1000 + 32 * i) 32))
    exch := ⟨plan % 2 ^ 32, fieldAt plan 32 16, plan / 2 ^ 48, none, 0, h.testBit 7, h.testBit 7⟩
    wait := none, begun := h.testBit 4, reply := none, stash := if h.testBit 4 then [1] else []
    async := if fieldAt h 56 8 = 0 then [] else [(fieldAt h 56 8, BitVec.ofNat 64 (h / 2 ^ 128), 0)]
    gen := fieldAt h 96 32
    now := min (h / 2 ^ 192) s.tick
    halted := h.testBit 6 }
  let q := fun (off k : Nat) (old : List Cmd) =>
    ((wordsAt bs off).zipIdx.filterMap fun e => cmdFrom s n x old (s.freeCtr + 2 ^ 16 * n + 64 + 2048 * (k + e.2)) e.1)
  { x with mq := q 0x1200 0 old.mq, cq := q 0x1300 8 old.cq }

/-- The saved context of core `n` as its image has it (R22): none where the image holds none. Where the steward knows no context of
the core, its launch is none of the device's, and the number tells launches apart by tag. -/
def savedFrom (s : State) (p v n : Nat) (q : Partition) : Option Saved :=
  let base := s.imageBase p v n
  let bs := s.imageRead p v base 0 0x2000
  let h := numAt bs 0 32
  if !(h.testBit 0 && decide (fieldAt h 64 16 = n)) then none
  else
    let tag := numAt bs (0x600 + 8 * 8) 4 / 2 ^ 24
    let old := ((q.saved.find? fun y => y.core == n && y.vd == v).map (·.strand)).getD (Strand.blank ⟨2 ^ 64 + tag, p, v, 0, 0, 0, 1, 0, [n], []⟩)
    let x := strandFrom s n bs old
    let bars := if x.id.strand = 0 then ((List.range 16).map fun j => Bar.ofBits (clusterOf n) (numAt bs (0x1600 + 32 * j) 32)).takeWhile (!·.members.isEmpty) else []
    let locks := (x.mq ++ x.cq).flatMap fun c =>
      (EnqPlan.mk c.op (match c.op.queue with
        | .matrix => matItems s n x c.op (decMat c.word)
        | .copy => copyItems s n x c.op c.word
        | .exchange => [])).locks c.id
    let plan : List Lock := if x.exch.planCount = 0 then [] else [⟨planLock n, false, .scratch n x.exch.planOff, 16 * x.exch.planCount⟩]
    let held := (List.range 80).filterMap fun i =>
      let v := numOf (s.imageRead p v base (0x94000 + 16 * i) 16)
      if v.testBit 63 then
        let b : BarId := if i < 16 then ⟨true, i⟩ else ⟨false, i - 16⟩
        some ⟨b, ((old.held.find? (·.bar == b)).map (·.gen)).getD 0, v % 2 ^ 48, BitVec.ofNat 32 (v / 2 ^ 64), BitVec.ofNat 32 (v / 2 ^ 96), v.testBit 48, none⟩
      else none
    some ⟨n, v, { x with held := held, phase := .saving }, bars,
      (List.range 4).filterMap fun i => (Slot.ofDescr n ((bs.drop (0x1400 + 64 * i)).take 64)).map (i, ·),
      Plane.ofDescr n ((bs.drop 0x1500).take 64), Plane.ofDescr n ((bs.drop 0x1540).take 64), locks ++ plan, base, s.cmdCtr⟩

/-- Strands of one team know its cores and its barrier slots. A strand's latest arrivals are those that the team's records show and
those whose releases it holds; these are of the generation before the record's (R104). -/
def joinTeam (ys : List Saved) (y : Saved) : Saved :=
  let team := ys.filter fun z => z.strand.teamOf y.strand
  let bars := ((team.find? fun z => !z.bars.isEmpty).map (·.bars)).getD []
  let held := y.strand.held.map fun h => match h.bar.team, bars[h.bar.num]? with
    | true, some r => { h with gen := r.gen - 1 }
    | _, _ => h
  let arrived := bars.zipIdx.filterMap fun e => if e.1.arrived.contains y.core then some (⟨⟨true, e.2⟩, e.1.gen, false⟩ : Arrival) else none
  { y with strand := { y.strand with
      id := { y.strand.id with team := team.map (·.core), bslots := List.range bars.length }
      held := held
      arrivals := arrived ++ held.map fun h => ⟨h.bar, h.gen, false⟩ } }

/-- After a RESTORE the contexts of virtual device `v` are those of its images (R22, R128): they are read before it first runs. -/
def State.recoverVd (s : State) (p v : Nat) : State :=
  match s.part p with
  | none => s
  | some q =>
    if !q.unread.contains v || (q.vd v).saveBase == 0 then s
    else
      let ys := ((List.range (16 * nodeSize q.node)).map (16 * nodeFirst q.node + ·)).filterMap fun n => savedFrom s p v n q
      let s1 : State := { s with cmdCtr := s.cmdCtr + 2 ^ 32, freeCtr := s.freeCtr + 2 ^ 32 }
      s1.onPart p fun q => { q with saved := q.saved.filter (·.vd != v) ++ ys.map (joinTeam ys), unread := q.unread.filter (· != v) }

/-- Restore every saved context of a virtual device (R128). A context whose tag does not match ends its launch (R126). -/
def restoreVd (s0 : State) (p v : Nat) : State :=
  let s := s0.recoverVd p v
  match s.part p with
  | none => s
  | some q =>
    let ys := q.savedOf v
    if ys.isEmpty || !restorable s ys then s
    else if ys.any fun y => (imageOk s y).isNone then s.killVd p v (q.vd v).saveBase.toNat
    else
      let bad := ys.filter fun y => imageOk s y == some false
      if bad.isEmpty then
        match teamSlots ys s [] with
        | none => s
        | some (s1, es) =>
          let s2 := s1.onPart p fun r => { r with saved := r.saved.filter (·.vd != v) }
          reenterClaims ys (es.foldl (fun (z : State) e => restoreOne z e.1 e.2) s2)
      else bad.foldl (fun (z : State) y => (z.killLaunch p y.strand.id.launch).logError ⟨7, 2, p, 0, y.image⟩) s

/-! ### Lazy fills (R129) -/

/-- LAZY_FILL_COMPLETE (R129): line op.b of core op.a, or with op.flag granule op.b, is filled from its image. -/
def execLazyFillComplete (s : State) : Out :=
  match s.strand s.op.a with
  | none => notEnabled "LAZY_FILL_COMPLETE"
  | some x =>
    if s.op.flag then
      if s.op.b < 16 ∧ x.granAbsent.getLsbD s.op.b then .next (s.fillGran s.op.a s.op.b) else notEnabled "LAZY_FILL_COMPLETE"
    else if x.lineAbsent.contains s.op.b then .next (s.fillLine s.op.a s.op.b) else notEnabled "LAZY_FILL_COMPLETE"

end Sys2Proof.Machine
end

