-- ==== Sys2Proof/Machine/Pass.lean ====
section
/-! DEFINITION. Scheduling of virtual devices (R32, R33, R117) and the dispatcher (R56, R59, R60, R62, R63). -/
namespace Sys2Proof.Machine

/-! ### Virtual devices -/

/-- No virtual device of the partition holds a reservation (R33). -/
def Partition.free (q : Partition) : Bool := !q.vds.any fun e => e.2.rsv.isSome

/-- Launches of a virtual device take part in dispatch, its saved contexts come back (R33, R59). R59 does not say whether those of the running one
still do once it has a stop request: the model keeps them out (log 51). -/
def Partition.runs (q : Partition) (v : Nat) : Bool := (q.free || ((q.vd v).running && (q.vd v).stop.isNone)) && !(q.vd v).saving

/-- The budget left at this tick (R33). -/
def Vd.left (d : Vd) (tick : Nat) : Nat := if d.running && d.stop.isNone then d.remaining - (tick - d.start) else d.remaining

/-- A virtual device has work: a strand, a saved context or images of some, a launch, an engine command (R22, R33). -/
def State.hasWork (s : State) (p v : Nat) : Bool :=
  !(s.strandsOf p v).isEmpty || s.launches.any (fun l => l.part == p && l.vd == v) ||
  ((s.part p).map fun q => q.saved.any (·.vd == v) || (q.unread.contains v && (q.vd v).saveBase != 0)).getD false

/-- The virtual device that should run (R33, R123): the earliest deadline among those with a reservation, a save base, work and
budget; equal deadlines go to the lower number. -/
def State.bestVd (s : State) (p : Nat) : Option Nat :=
  match s.part p with
  | none => none
  | some q =>
    let ok := fun e : Nat × Vd =>
      e.2.rsv.isSome && decide (0 < e.2.left s.tick) && s.hasWork p e.1 &&
      (e.2.saveBase != 0 || !q.vds.any fun o => o.1 != e.1 && o.2.rsv.isSome)
    ((q.vds.filter ok).foldl (fun (b : Option (Nat × Vd)) e =>
      match b with
      | none => some e
      | some c => if e.2.deadline < c.2.deadline then some e else some c) none).map (·.1)

/-- A stop request to a virtual device (R33, R117): its budget stops running. -/
def State.askStop (s : State) (p v : Nat) : State :=
  s.onVd p v fun d => if d.stop.isSome then d else { d with stop := some s.tick, remaining := d.left s.tick }

/-- Give the partition to the virtual device that should run (R33): the others that are on its cores get a stop request, and it
runs once they have left. -/
def State.schedule (s : State) (p : Nat) : State :=
  match s.part p with
  | none => s
  | some q =>
    if q.free then s
    else
      let best := s.bestVd p
      let vs := rowsOf (q.vds.map (·.1) ++ (s.strands.filter (·.2.id.part == p)).map (·.2.id.vd))
      let s1 := vs.foldl (fun (z : State) v =>
        if some v = best then z
        else if (z.strandsOf p v).isEmpty && !(q.vd v).saving then z.onVd p v fun d => { d with remaining := d.left s.tick, running := false, stop := none }
        else z.askStop p v) s
      match best with
      | none => s1
      | some b =>
        let others := vs.any fun v => v != b && !((s1.strandsOf p v).isEmpty)
        if others || (q.vd b).running || (q.vd b).saving then s1
        else s1.onVd p b fun d => { d with running := true, start := s.tick }

/-- VD_PERIOD_START (R33, R133): a period of virtual device op.b of partition op.a begins. -/
def execVdPeriodStart (s : State) : Out :=
  match s.part s.op.a with
  | none => notEnabled "VD_PERIOD_START"
  | some q =>
    let d := q.vd s.op.b
    match d.rsv with
    | none => notEnabled "VD_PERIOD_START"
    | some r =>
      if s.tick < d.deadline then notEnabled "VD_PERIOD_START"
      else
        let n := d.pendRsv.getD r
        let spent := decide (d.quotaUj ≠ 0) && decide (d.quotaUj ≤ d.overrunUj)
        let e : Vd := { d with
          rsv := some n, pendRsv := none, remaining := n.1 - d.debit, debit := d.debit - n.1, deadline := d.deadline + n.2, start := s.tick
          usedUj := d.overrunUj, overrunUj := if spent then d.overrunUj - d.quotaUj else 0, exhausted := spent }
        let s1 := s.setPart s.op.a (q.setVd s.op.b e)
        let s2 := (s1.strandsOf s.op.a s.op.b).foldl (fun (z : State) x => z.energyDiv x.1 x.2) s1
        .next (s2.schedule s.op.a)

/-- VD_BUDGET_EXHAUSTED (R33): the budget of virtual device op.b of partition op.a has run out. -/
def execVdBudgetExhausted (s : State) : Out :=
  match s.part s.op.a with
  | none => notEnabled "VD_BUDGET_EXHAUSTED"
  | some q =>
    let d := q.vd s.op.b
    if d.rsv.isSome && d.running && d.stop.isNone && d.left s.tick == 0 then .next ((s.askStop s.op.a s.op.b).schedule s.op.a)
    else notEnabled "VD_BUDGET_EXHAUSTED"

/-! ### Ranking (R59) -/

/-- A rank key: lower ranks higher. -/
def rankKey (q : Partition) (l : Launch) : List Nat :=
  let chain := (l.headTeam.map (·.chain)).getD l.chain0
  [rTier l.record, if q.free then 0 else (q.vd l.vd).deadline, chainMax - chain, l.id]

/-- One key lies below another. -/
def keyLt : List Nat → List Nat → Bool
  | [], _ => false
  | _, [] => false
  | a :: as, b :: bs => decide (a < b) || (a == b && keyLt as bs)

/-- Insert a launch by rank. -/
def insertRank (q : Partition) (l : Launch) : List Launch → List Launch
  | [] => [l]
  | k :: ks => if keyLt (rankKey q l) (rankKey q k) then l :: k :: ks else k :: insertRank q l ks

/-- The launches that take part, highest rank first (R59). -/
def State.ranked (s : State) (p : Nat) : List Launch :=
  match s.part p with
  | none => []
  | some q =>
    (s.launches.filter fun l => l.part == p && l.inList && q.runs l.vd && !q.saved.any (·.vd == l.vd)).foldr (insertRank q) []

/-- The launches that no higher launch holds out (R60). -/
def heldIn : List Launch → List Launch
  | [] => []
  | l :: ls => if l.holds then [l] else l :: heldIn ls

/-- Place what a launch may place: its head team, or all teams of a resident launch (R59, R62). -/
def placeLaunch (s : State) (l : Launch) : Option State :=
  match l.headTeam with
  | none => none
  | some t => if rResident l.record then placeResident s l else placeHead s l t

/-- dispatch of R59: each round places for the first launch in rank order that can; `fuel` rounds. -/
def dispatchLoop (p : Nat) : Nat → State → State
  | 0, s => s
  | n + 1, s =>
    match (heldIn (s.ranked p)).findSome? fun l => placeLaunch s l with
    | some s1 => dispatchLoop p n s1
    | none => s

/-- Note since when the highest-ranked launch with a head team that does not fit has been that (R60). -/
def State.noteBlocked (s : State) (p : Nat) : State :=
  let top := ((s.ranked p).find? fun l => l.headTeam.isSome).map (·.id)
  { s with launches := s.launches.map fun l =>
      if l.part = p ∧ l.inList then
        (if some l.id = top then { l with blocked := some (l.blocked.getD s.tick) } else { l with blocked := none })
      else l }

/-- Put back the saved contexts of every virtual device that runs (R63). -/
def State.putBack (s : State) (p : Nat) : State :=
  match s.part p with
  | none => s
  | some q => (rowsOf (q.saved.map (·.vd) ++ q.unread)).foldl (fun (z : State) v => if q.runs v then restoreVd z p v else z) s

/-- Everything the dispatcher of a partition does at once (R33, R59, R60, R63). Each placement takes a core. -/
def State.dispatch (s : State) (p : Nat) : State := (dispatchLoop p 2049 ((s.schedule p).putBack p)).noteBlocked p

/-- DISPATCH_PASS (R59): the dispatcher of partition op.a runs. -/
def execDispatchPass (s : State) : Out :=
  match s.part s.op.a with
  | none => notEnabled "DISPATCH_PASS"
  | some q => if q.state = 3 then notEnabled "DISPATCH_PASS" else .next (s.dispatch s.op.a)

/-- LAUNCH_HOLD_TIMEOUT (R60): launch op.b of partition op.a has been the highest-ranked one that does not fit for 200,000 tk. -/
def execLaunchHoldTimeout (s : State) : Out :=
  match s.launchOf s.op.a s.op.b with
  | none => notEnabled "LAUNCH_HOLD_TIMEOUT"
  | some l =>
    match l.blocked with
    | none => notEnabled "LAUNCH_HOLD_TIMEOUT"
    | some b =>
      if l.inList && !l.holds && decide (b + 200000 ≤ s.tick) then .next (s.setLaunch { l with holds := true })
      else notEnabled "LAUNCH_HOLD_TIMEOUT"

/-! ### Device-built launches (R56) -/

/-- What the next entry of a built launch is. -/
inductive Entry where
  | notReady
  | error
  | entry (e : W256)
deriving DecidableEq, Repr

/-- Set bits in a 32-bit number. -/
def popcount32 (w : Nat) : Nat := ((List.range 32).filter fun i => w.testBit i).length

/-- The location of entry i of a record queue (R54). -/
def entryAddr (r : BitVec 1024) (i : Nat) : Nat := rRq r + 64 + 32 * (i % 2 ^ rRqLog r)

/-- Read the entry at the next index (R55, R56). -/
def nextEntryOf (s : State) (l : Launch) : Entry × State :=
  match packetRead s noCore l.part l.vd (entryAddr l.record l.consumed) 32 with
  | none => (.error, s)
  | some (bs, s1) =>
    let e : W256 := BitVec.ofNat 256 (numOf bs)
    if !bit1 e 31 then (.notReady, s1)
    else
      let t := bitsN e 15 0
      let bad := decide (rTmpls l.record ≤ t) || decide (32 < bitsN e 71 64) || bitsN e 71 64 != popcount32 (bitsN e 63 32) ||
        decide (rArgLen (l.tmpls.getD t 0) < bitsN e 223 192) || bitsN e 79 72 != 0 || bitsN e 30 17 != 0
      (if bad then .error else .entry e, s1)

/-- Clear an entry's ready bit and count it consumed (R56). -/
def consumeEntry (s : State) (l : Launch) (e : W256) : HomeR Unit :=
  let w : Who := ⟨l.part, l.vd, 0⟩
  match homeWrite s w (locOf noCore (entryAddr l.record l.consumed)) (bytesOf (bitsN e 30 0) 4) false with
  | .ok _ s1 => homeWrite s1 w (locOf noCore (rRq l.record + 4)) (bytesOf ((l.consumed + 1) % 2 ^ 32) 4) false
  | r => r

/-- The teams of a consumed entry (R56). -/
def entryTeams (l : Launch) (e : W256) : List TeamReq :=
  if bitsN e 71 64 = 0 then []
  else
    let t := bitsN e 15 0
    (List.range (rStages (l.tmpls.getD t 0))).map fun st =>
      ⟨l.consumed, st, t, e, bitsN e 223 192, max l.chain0 (bitsN e 127 80)⟩

/-- BUILT_ENTRY_CONSUME (R56): the next entry of built launch op.b of partition op.a is consumed; one in error ends the
consumption. Where a migration holds the entry's page or the count's, consumption waits (R214). DESIGN CHOICE (log 51): a fault at the write of
the ready bit or of the count, which R56's list of errors does not name, makes the entry one in error. -/
def execBuiltEntryConsume (s : State) : Out :=
  match s.launchOf s.op.a s.op.b with
  | none => notEnabled "BUILT_ENTRY_CONSUME"
  | some l =>
    if !rBuilt l.record || !l.inList || l.closed || !l.rest.isEmpty then notEnabled "BUILT_ENTRY_CONSUME"
    else
      let stop := fun z : State => (z.setLaunch { l with closed := true, inList := false, err := true }).logError ⟨6, 2, l.part, l.tag.toNat, rRq l.record⟩
      match nextEntryOf s l with
      | (.notReady, _) => notEnabled "BUILT_ENTRY_CONSUME"
      | (.error, s1) => .next (stop s1)
      | (.entry e, s1) =>
        match consumeEntry s1 l e with
        | .held => notEnabled "BUILT_ENTRY_CONSUME"
        | .fault _ _ => .next (stop s1)
        | .ok _ s2 =>
          let ts := entryTeams l e
          let done := bit1 e 16
          .next (s2.setLaunch { l with consumed := l.consumed + 1, rest := ts, closed := done, inList := !(done && ts.isEmpty) })

end Sys2Proof.Machine
end

