-- ==== Sys2Proof/Machine/Packet.lean ====
section
/-! DEFINITION. Host queues at work: notifies, slots and displacement (R39, R42 to R46), packets and their errors (R47 to
R51). -/
namespace Sys2Proof.Machine

/-! ### Slots (R43 to R46) -/

/-- The slots of a partition: queues that hold one. -/
def State.slotsOf (s : State) (p : Nat) : List (Nat × QSlot) :=
  s.qslots.filter fun e => decide (1 ≤ e.1) && decide (e.1 < 64) && qPart e.2.record == p

/-- The slots assigned to a partition that no queue holds (R43, R44). -/
def State.queueSlotsFree (s : State) (p : Nat) : List Nat :=
  ((List.range 64).drop 1).filter fun k => ((s.part p).map fun x => x.slots.getLsbD k).getD false && (s.qslots.find k).isNone

/-- One of some numbers: a free choice where there are several (log 7). -/
def State.pick (s : State) : List Nat → Option (Nat × State)
  | [] => none
  | [k] => some (k, s)
  | ks =>
    let f := s.free ks.length
    (ks[f.1]?).map fun k => (k, f.2)

/-- map(q) of R45: into slot `k`. Packets of the queue that started before its displacement go with it. -/
def State.mapQueue (s : State) (q k : Nat) : State :=
  let r := setField (setField (s.qTable q) 35 34 2) 33 28 k
  let old := s.qslots.find? fun e => e.2.queue == q
  let s1 : State := match old with
    | some e => { s with qslots := s.qslots.del e.1 }
    | none => s
  let x : QSlot := (⟨q, r, s.mapOrder, none, (old.map fun e => e.2.started).getD [], false, none⟩ : QSlot).settleIdle s.tick
  let s2 : State := { s1 with qslots := s1.qslots.put k x, mapOrder := s1.mapOrder + 1 }
  ((s2.setTable q r).setPending q false).onPart (qPart r) fun p => { p with lastMapped := q }

/-- A queue's slot is freed and its record set idle or off; packets that have started, and a QOFF that waits,
stay with it behind the slots (R45). -/
def State.unmapQueue (s : State) (k : Nat) (x : QSlot) (state : Nat) : State :=
  let r := setField (setField x.record 35 34 state) 33 28 0
  let s1 : State := { s with qslots := s.qslots.del k }
  let far := s1.qslots.foldl (fun m e => max m (e.1 + 1)) 64
  let s2 : State := if x.started.isEmpty && x.off.isNone then s1 else { s1 with qslots := s1.qslots.put far { x with record := r, idle := none } }
  s2.setTable x.queue r

/-- displace(v) of R45. -/
def State.displace (s : State) (k : Nat) (x : QSlot) : State :=
  let s1 := s.unmapQueue k x 1
  if qPending x.record = 0 then s1 else s1.setPending x.queue true

/-- The mapped queue of a partition that a notify displaces (R44): preemptible, the largest tier number, the earliest mapped. -/
def State.victim (s : State) (p : Nat) : Option (Nat × QSlot) :=
  ((s.slotsOf p).filter fun e => qState e.2.record == 2 && qPreempt e.2.record).foldl (fun (b : Option (Nat × QSlot)) e =>
    match b with
    | none => some e
    | some c =>
      let te := qTier e.2.record
      let tc := qTier c.2.record
      if tc < te ∨ (te = tc ∧ e.2.order < c.2.order) then some e else some c) none

/-- An idle queue that has its pending-notify bit set and no QOFF that waits for it (R41, R46). -/
def State.pendingIdle (s : State) (q : Nat) : Bool :=
  q != 0 && s.pendingBit q && qState (s.qTable q) == 1 && !((s.slotOfQueue q).map (·.2.stopping)).getD false

/-- Map the pending queue of a partition with the smallest tier number, round robin after the one mapped last (R46). -/
def State.mapNext (s : State) (p : Nat) : State :=
  match s.part p with
  | none => s
  | some x =>
    let ring := (List.range 4096).map fun i => (x.lastMapped + 1 + i) % 4096
    let qs := ring.filter fun q => s.pendingIdle q && qPart (s.qTable q) == p
    let best := qs.foldl (fun (b : Option Nat) q =>
      match b with
      | none => some q
      | some c => if qTier (s.qTable q) < qTier (s.qTable c) then some q else some c) none
    match best, s.pick (s.queueSlotsFree p) with
    | some q, some k => k.2.mapQueue q k.1
    | _, _ => s

/-- Put a queue into the error state (R51): it keeps its slot; its pending-notify bit, which stands for an idle queue (R46), goes. The record of the packet goes to the partition's log. -/
def State.queueError (s : State) (q code tag : Nat) : State :=
  let r := s.qRecord q
  let s1 := s.setRecord q (setField (setField r 35 34 3) 71 64 code)
  let s2 : State := { s1 with qslots := s1.qslots.map fun e => if e.2.queue = q then (e.1, { e.2 with idle := none }) else e }
  if q = 0 then
    let f := s2.freePlace
    f.2.logDevice ⟨5, 2, 0xFF, tag, 0⟩ f.1.1 f.1.2
  else (s2.setPending q false).logError ⟨5, 2, qPart r, tag, 0⟩

/-- A notify of a queue with a write index (R42, R44). More pending packets than the ring holds are an error (R41). DESIGN CHOICE (log 51): of a
displaced queue whose QOFF still waits for its started packets only write_index follows; it is neither mapped nor made pending. -/
def State.notify (s : State) (q w : Nat) : State :=
  let r := s.qRecord q
  let st := qState r
  if st ≠ 1 ∧ st ≠ 2 ∨ w = qWrite r then s
  else
    let r1 := setField r 383 352 w
    let s1 := s.setRecord q r1
    let s1 : State := { s1 with qslots := s1.qslots.map fun e =>
      if e.2.queue = q ∧ e.1 < 64 then (e.1, e.2.settleIdle s.tick) else e }
    if 2 ^ qLog2 r1 < qPending r1 then s1.queueError q 5 0
    else if st = 2 || ((s1.slotOfQueue q).map (·.2.stopping)).getD false then s1
    else
      let p := qPart r1
      match s.part p with
      | none => s1
      | some _ =>
        match s1.pick (s1.queueSlotsFree p) with
        | some k => k.2.mapQueue q k.1
        | none =>
          match s1.victim p with
          | some v => (s1.displace v.1 v.2).mapQueue q v.1
          | none => s1.setPending q true

/-! ### Notifies as device steps -/

/-- The bytes at a queue's ring or notify address: host memory, device memory of the partition, or device physical for queue 0
(R40). -/
def State.queueBytes (s : State) (q a n : Nat) : Option (List Byte × State) :=
  let r := s.qRecord q
  if qDev r then packetRead s q (qPart r) (qVd r) a n
  else if (List.range n).any fun i => s.host.poisoned (a + i) then none
  else some (s.host.readList a n, s)

/-- NOTIFY_WRITE (R42): the device reads the notify word of queue op.a, whose block has been written; with op.flag the host writes op.data at
host physical address op.b, and every queue whose word lies in a block touched is notified. A word in host memory is read once the link serves
requests (R11). A queue that is off or in error takes no note. -/
def execNotifyWrite (s : State) : Out :=
  let read := fun (z : State) (q : Nat) =>
    match z.queueBytes q (qNotify (z.qRecord q)) 8 with
    | some (bs, z1) => z1.notify q (numOf (bs.take 4))
    | none => z
  if s.op.flag then
    let s1 : State := { s with host := s.host.writeList s.op.b s.op.data }
    let n := s.op.data.length
    let hit := fun q : Nat =>
      let a := qNotify (s1.qRecord q)
      !qDev (s1.qRecord q) && (qState (s1.qRecord q) == 1 || qState (s1.qRecord q) == 2) && decide (s.op.b / 64 ≤ a / 64) &&
      decide (a / 64 ≤ (s.op.b + n - 1) / 64) && decide (0 < n)
    .next (if s.linkUp then ((List.range 4096).filter hit).foldl read s1 else s1)
  else if (qState (s.qRecord s.op.a) == 1 || qState (s.qRecord s.op.a) == 2) && (qDev (s.qRecord s.op.a) || s.linkUp) then .next (read s s.op.a)
  else .next s

/-- DOORBELL_WRITE (R12, R42): the host writes the word op.b at offset op.a of BAR2, where each of 64 slots has its doorbell at the start
of a page of 4 KiB. It notifies the queue that it names, whether or not the slot still holds it. -/
def execDoorbellWrite (s : State) : Out :=
  onLink s (.next (if s.op.a % 4096 = 0 ∧ s.op.a / 4096 < 64 then s.notify (s.op.b / 2 ^ 52 % 4096) (s.op.b % 2 ^ 32) else s))

/-- SLOT_IDLE_TIMEOUT (R46): the queue of slot op.a has been empty for 20,000 tk. -/
def execSlotIdleTimeout (s : State) : Out :=
  match s.qslots.find s.op.a with
  | none => notEnabled "SLOT_IDLE_TIMEOUT"
  | some x =>
    match x.idle with
    | some t =>
      if 1 ≤ s.op.a ∧ s.op.a < 64 ∧ qState x.record = 2 ∧ x.stopping = false ∧ t + 20000 ≤ s.tick then
        .next ((s.unmapQueue s.op.a x 1).mapNext (qPart x.record))
      else notEnabled "SLOT_IDLE_TIMEOUT"
    | none => notEnabled "SLOT_IDLE_TIMEOUT"

/-- Every queue but queue 0 is off (R39). -/
def State.queuesOff (s : State) : Bool := ((List.range 4096).drop 1).all fun q => qState (s.qRecord q) == 0

/-- TABLE_BASE_WRITE (R39): the supervisor writes op.b; queue 0's record goes to the new table. DESIGN CHOICE (log 51): a value that is not
aligned to 4 KiB, of which R39 says nothing, is taken as written. -/
def execTableBaseWrite (s : State) : Out :=
  onLink s (.next (if s.queuesOff then { s with tableBase := BitVec.ofNat 64 s.op.b, tableSet := true }.setTable 0 (s.qRecord 0) else s))

/-- BITMAP_BASE_WRITE (R39): the supervisor writes op.b. DESIGN CHOICE (log 51): a value that is not aligned to 64 bytes is taken as
written. -/
def execBitmapBaseWrite (s : State) : Out :=
  onLink s (.next (if s.queuesOff then { s with bitmapBase := BitVec.ofNat 64 s.op.b } else s))

/-! ### Packets (R47, R48, R51) -/

/-- A packet: 512 bits. -/
def kType (w : W512) : Nat := bitsN w 7 0
/-- order. -/
def kOrder (w : W512) : Bool := bit1 w 8
/-- sys. -/
def kSys (w : W512) : Bool := bit1 w 10
/-- tag. -/
def kTag (w : W512) : Nat := bitsN w 63 32
/-- knot. -/
def kKnot (w : W512) : W64 := w.extractLsb' 64 64
/-- delta. -/
def kDelta (w : W512) : W64 := w.extractLsb' 128 64
/-- `n` bytes of a packet from byte `i` on, as a number. -/
def kNum (w : W512) (i n : Nat) : Nat := w.toNat / 2 ^ (8 * i) % 2 ^ (8 * n)

/-- The next packet of a queue. -/
structure Pkt where
  q : Nat
  qrec : W512
  slot : Nat
  x : QSlot
  w : W512
deriving DecidableEq, Repr

/-- Whether a queue may start its next packet (R48), and the packet: none where it may not; an error status where it cannot be
read. -/
def State.nextPacket (s : State) (q : Nat) : Option (Except Nat (Pkt × State)) :=
  match s.slotOfQueue q with
  | none => none
  | some (k, x) =>
    let r := s.qRecord q
    if 64 ≤ k ∨ qState r ≠ 2 ∨ x.stopping = true ∨ qPending r = 0 ∨ x.started.any (·.hold.isSome) = true then none
    else if 2 ^ qLog2 r < qPending r then some (.error 5)
    else match s.queueBytes q (qBase r + 64 * (qRead r % 2 ^ qLog2 r)) 64 with
    | none => some (.error 3)
    | some (bs, s1) => some (.ok (⟨q, r, k, x, BitVec.ofNat 512 (numOf bs)⟩, s1))

/-- Header checks that every packet passes (R47, R51): an err_status. The order of the checks is the model's choice (log 51): of several
conditions the type comes first, then the header's bits, then the completion knot's address, then the body. -/
def headerFault (s : State) (k : Pkt) : Option Nat :=
  let t := kType k.w
  if t = 0 ∨ 6 < t ∨ (t = 6 ∧ k.q ≠ 0) then some 1
  else if bitsN k.w 31 11 ≠ 0 ∨ bit1 k.w 9 then some 2
  else if kKnot k.w ≠ 0 ∧ ((kKnot k.w).toNat % 32 ≠ 0 ∨ !packetRange s k.q (qPart k.qrec) (kKnot k.w).toNat 32) then some 3
  else none

/-- Start a packet: it joins the started list; read_index goes on by `adv`. -/
def State.startPacket (s : State) (k : Pkt) (hold : Option Hold) (ref adv : Nat) : State :=
  let s1 := s.setRecord k.q (setField (s.qRecord k.q) 351 320 ((qRead k.qrec + adv) % 2 ^ 32))
  match s1.qslots.find k.slot with
  | none => s1
  | some x =>
    let e : Started := ⟨qRead k.qrec, kKnot k.w, kDelta k.w, BitVec.ofNat 32 (kTag k.w), kSys k.w, hold, ref⟩
    { s1 with qslots := s1.qslots.put k.slot { x with started := x.started ++ [e], idle := none } }

/-- Complete a packet that has started, with the queue's chain. -/
def State.finishPacket (s : State) (k : Pkt) : State := s.packetDone k.q (qRead k.qrec) (qChain k.qrec) false false false

/-- The shape of a packet step: the next packet of queue op.a is of type `t`. A malformed packet of any type puts its queue into
the error state (R51); `body` gives an err_status, or starts the packet, or says that it cannot start now. -/
def packetStep (t : Nat) (mn : String) (body : State → Pkt → Except Nat (Option State)) (s : State) : Out :=
  match s.nextPacket s.op.a with
  | none => notEnabled mn
  | some (.error e) => .next (s.queueError s.op.a e 0)
  | some (.ok (k, s1)) =>
    match headerFault s1 k with
    | some e => .next (s1.queueError k.q e (kTag k.w))
    | none =>
      if kType k.w ≠ t ∨ (kOrder k.w && !k.x.started.isEmpty) then notEnabled mn
      else match body s1 k with
      | .error e => .next (s1.queueError k.q e (kTag k.w))
      | .ok none => notEnabled mn
      | .ok (some s2) => .next s2

/-- The launch that a launch packet asks for, from its record (R52 to R54). DESIGN CHOICE (log 51): the own table that a built record names,
which no context selects (R54, R297), is read, checked and extends measurement 0x12 like any other (R24). -/
def readLaunch (s : State) (k : Pkt) : Except Nat (Launch × State) :=
  let p := qPart k.qrec
  let v := qVd k.qrec
  let a := kNum k.w 24 8
  if bitsN k.w 511 256 ≠ 0 then .error 2
  else if k.q = 0 ∨ a % 128 ≠ 0 then .error 3
  else match packetNum s k.q p v a 128 with
  | none => .error 3
  | some (n, s1) =>
    let r : BitVec 1024 := BitVec.ofNat 1024 n
    if !recordOk r v then .error 4
    else
      let tb : Except Nat (List (BitVec 1024) × List DecodeTable × State) :=
        if rBuilt r then
          (if rDmap r = 3 then
             match readTable s1 p v r with
             | .error e => .error e
             | .ok (_, s2) => readTemplates p v r (rTmpls r) 0 s2
           else readTemplates p v r (rTmpls r) 0 s1)
        else match readTable s1 p v r with
          | .error e => .error e
          | .ok (t, s2) => .ok ([], [t], s2)
      match tb with
      | .error e => .error e
      | .ok (ts, ds, s2) =>
        .ok (⟨s2.launchCtr, p, v, k.q, kKnot k.w, kDelta k.w, BitVec.ofNat 32 (kTag k.w), kSys k.w, r, ts, ds, qChain k.qrec,
          (if rBuilt r then none else some ⟨0, 0, 0, 0, 0, qChain k.qrec⟩), [], true, none, rResident r, 0, !rBuilt r, false, false,
          false, 0, false, false⟩, s2)

/-- LAUNCH_PACKET (R48, R52, R62): the dispatcher accepts a launch, or refuses a resident one that could never fit. -/
def execLaunchPacket (s : State) : Out :=
  packetStep 1 "LAUNCH_PACKET" (fun s k =>
    match readLaunch s k with
    | .error e => .error e
    | .ok (l, s1) =>
      if rResident l.record && (trialPlace (s1.emptied l.part) l).isNone then
        let s2 := (s1.startPacket k none 0 1).logError ⟨6, 2, l.part, kTag k.w, 0⟩
        .ok (some (s2.packetDone k.q (qRead k.qrec) (qChain k.qrec) false true false))
      else
        .ok (some { s1.startPacket k none (2 * l.id + 1) 1 with launches := s1.launches ++ [l], launchCtr := s1.launchCtr + 1 })) s

/-- The command word of a copy packet (R48, R403). -/
def copyPacketWord (w : W512) : W256 :=
  BitVec.ofNat 256 (kNum w 24 8 * 2 ^ 128 + kNum w 32 8 * 2 ^ 64 + kNum w 40 4 * 2 ^ 16 + (if kNum w 44 1 = 2 then 2 ^ 12 else 0) + 0x200)

/-- COPY_PACKET (R48, R235): a copy packet gets a command buffer of its slice. -/
def execCopyPacket (s : State) : Out :=
  packetStep 2 "COPY_PACKET" (fun s k =>
    let p := qPart k.qrec
    if bitsN k.w 511 360 ≠ 0 ∨ kNum k.w 40 4 = 0 ∨ (kNum k.w 44 1 ≠ 1 ∧ kNum k.w 44 1 ≠ 2) then .error 2
    else if !packetRange s k.q p (kNum k.w 24 8) 1 || !packetRange s k.q p (kNum k.w 32 8) 1 then .error 3
    else
      let c : Cmd := ⟨.copy, copyPacketWord k.w, 0, noCore, if k.q = 0 then 64 else p, qVd k.qrec, 0, false, 0, qChain k.qrec, false,
        queueOrigin k.q, false, [], s.cmdCtr, false, 0, (0, 0, 0), none, []⟩
      let sl := s.copySlice c (some k.q)
      if 32 ≤ s.buffers sl then .ok none
      else
        let s1 := s.startPacket k none (2 * s.cmdCtr) 1
        .ok (some { s1 with copies := s1.copies ++ [CopyCmd.ofCmd c (some k.q) sl s.cmdCtr], cmdCtr := s.cmdCtr + 1 })) s

/-- SIGNAL_PACKET (R48). -/
def execSignalPacket (s : State) : Out :=
  packetStep 3 "SIGNAL_PACKET" (fun s k =>
    if bitsN k.w 511 192 ≠ 0 then .error 2 else .ok (some ((s.startPacket k none 0 1).finishPacket k))) s

/-- WAIT_PACKET (R48): it holds later packets; read_index stays at it until its condition is met (R51). -/
def execWaitPacket (s : State) : Out :=
  packetStep 4 "WAIT_PACKET" (fun s k =>
    let a := kNum k.w 24 8
    if bitsN k.w 511 384 ≠ 0 then .error 2
    else if a % 32 ≠ 0 ∨ !packetRange s k.q (qPart k.qrec) a 32 then .error 3
    else
      let t := kNum k.w 40 8
      .ok (some (s.startPacket k (some (.wait (packetLoc k.q a) (BitVec.ofNat 64 (kNum k.w 32 8)) (if t = 0 then none else some (s.tick + t)))) 0 0))) s

/-- The started packet of a queue that holds, with its slot. -/
def State.holding (s : State) (q : Nat) : Option (Nat × QSlot × Started) :=
  match s.slotOfQueue q with
  | some (k, x) => (x.started.find? (·.hold.isSome)).map fun e => (k, x, e)
  | none => none

/-- The knot of a held wait packet, where the wait is satisfied (R48, R336). -/
def waitMet (s : State) (q : Nat) (e : Started) : Option (Knot × State) :=
  match e.hold with
  | some (.wait l target dl) =>
    match homeRead s ⟨qPart (s.qRecord q), qVd (s.qRecord q), 0⟩ l 32 with
    | .ok g s1 =>
      let k := knotOf g.bytes
      let inTime := match dl with
        | none => true
        | some d => decide (s.tick ≤ d) || decide (k.tick.toNat ≤ d)
      if target.sle k.count && inTime then some (k, s1) else none
    | _ => none
  | _ => none

/-- WAIT_PACKET_SATISFIED (R48): queue op.a's wait packet joins the knot's chain, completes and lets later packets start. -/
def execWaitPacketSatisfied (s : State) : Out :=
  let q := s.op.a
  match s.holding q with
  | none => notEnabled "WAIT_PACKET_SATISFIED"
  | some (_, _, e) =>
    match waitMet s q e with
    | none => notEnabled "WAIT_PACKET_SATISFIED"
    | some (k, s1) =>
      let r := s1.qRecord q
      let ch := max (qChain r) k.chain
      let s2 := s1.setRecord q (setField (setField r 303 256 ch) 351 320 ((qRead r + 1) % 2 ^ 32))
      .next (s2.packetDone q e.index ch k.overflow false false)

/-- WAIT_PACKET_TIMEOUT (R51): the timeout of queue op.a's wait packet has passed: error 6, its knot is not signalled. -/
def execWaitPacketTimeout (s : State) : Out :=
  let q := s.op.a
  match s.holding q with
  | none => notEnabled "WAIT_PACKET_TIMEOUT"
  | some (k, x, e) =>
    match e.hold with
    | some (.wait _ _ (some d)) =>
      if d < s.tick ∧ (waitMet s q e).isNone = true then
        .next (({ s with qslots := s.qslots.put k { x with started := x.started.filter (·.index != e.index) } } : State).queueError q 6 e.tag.toNat)
      else notEnabled "WAIT_PACKET_TIMEOUT"
    | _ => notEnabled "WAIT_PACKET_TIMEOUT"

/-- FENCE_PACKET (R48): once every earlier packet has completed, the dirty data of the partition is written back. -/
def execFencePacket (s : State) : Out :=
  packetStep 5 "FENCE_PACKET" (fun s k =>
    if bitsN k.w 511 192 ≠ 0 then .error 2
    else if !k.x.started.isEmpty then .ok none
    else
      let cores := if k.q = 0 then [] else (s.strands.filter fun e => e.2.id.part == qPart k.qrec).map (·.1)
      let s1 := s.startPacket k (some .fence) 0 1
      .ok (some (cores.foldl (fun (z : State) n => z.writeBackAll n) s1))) s

/-- A write-back of a partition is on its way or held. -/
def State.backing (s : State) (p : Nat) : Bool :=
  s.heldWrites.any (·.part == p) || s.flight.any fun m => match m with
    | .writeback _ q _ _ _ _ => q == p
    | _ => false

/-- FENCE_PACKET_COMPLETE (R48): the write-backs of queue op.a's fence have been performed. -/
def execFencePacketComplete (s : State) : Out :=
  let q := s.op.a
  match s.holding q with
  | some (_, _, e) =>
    if e.hold == some .fence && (q == 0 || !s.backing (qPart (s.qRecord q))) then
      .next (s.packetDone q e.index (qChain (s.qRecord q)) false false false)
    else notEnabled "FENCE_PACKET_COMPLETE"
  | none => notEnabled "FENCE_PACKET_COMPLETE"

end Sys2Proof.Machine
end

