-- ==== Sys2Proof/Machine/Mgmt.lean ====
section
/-! DEFINITION. Management packets (R48, R50): partitions (R27 to R31), reservations (R32), quotas and queues (R41, R43), the
opened range (R10), checkpoints and restores (R19 to R22). -/
namespace Sys2Proof.Machine

/-! ### Management packets (R48, R50, R51) -/

/-- Status codes of R50. -/
def stOk : Nat := 0
/-- busy. -/
def stBusy : Nat := 1
/-- invalid. -/
def stInvalid : Nat := 2
/-- full. -/
def stFull : Nat := 3
/-- over-utilised. -/
def stOver : Nat := 4
/-- not-quiesced. -/
def stNotQuiesced : Nat := 5
/-- integrity. -/
def stIntegrity : Nat := 6

/-- The argument bytes that a command uses (R50). -/
def argBytes (code : Nat) : List Nat :=
  let run := fun a n : Nat => (List.range n).map (a + ·)
  match code with
  | 1 => run 32 2
  | 2 => run 32 2
  | 3 => run 32 5
  | 4 => run 32 2
  | 5 => run 32 2 ++ run 40 5 ++ run 48 5
  | 6 => run 32 2
  | 7 => run 32 2
  | 8 => run 32 3
  | 9 => run 32 4 ++ run 40 8
  | 10 => run 32 1 ++ run 40 8
  | 11 => run 32 1 ++ run 34 2 ++ run 40 8
  | _ => []

/-- The status address of a management packet. -/
def kStatus (w : W512) : Nat := kNum w 56 8

/-- What makes a management packet malformed beside its header (R51): an err_status. -/
def mgmtFault (w : W512) : Option Nat :=
  let code := kNum w 24 1
  let free := (List.range 24).any fun i => !(argBytes code).contains (32 + i) && kNum w (32 + i) 1 != 0
  if code = 0 ∨ 11 < code ∨ kNum w 25 7 ≠ 0 ∨ free = true ∨ (code = 8 ∧ 1 < kNum w 34 1) ∨ (code = 9 ∧ 1 < kNum w 33 1) then some 2
  else if kStatus w % 4 ≠ 0 ∨ !physOk (kStatus w) then some 3
  else none

/-- Write a status and complete the management packet that has started (R48, R50). -/
def State.mgmtDone (s : State) (a st : Nat) : State :=
  let s1 : State := { s with hbm := s.hbm.writeList a (bytesOf st 4) }
  match (s1.slotOfQueue 0).bind fun e => e.2.started.find? (·.ref == 1) with
  | some e => s1.packetDone 0 e.index (qChain (s1.qRecord 0)) false false false
  | none => s1

/-- The shape of a management command: the next packet of queue 0 holds command `code`, every earlier packet has completed; `run`
gives a status, or none where the command goes on. -/
def mgmtStep (code : Nat) (mn : String) (sel : W512 → Bool) (run : W512 → State → State × Option Nat) (s : State) : Out :=
  packetStep 6 mn (fun s k =>
    match mgmtFault k.w with
    | some e => .error e
    | none =>
      if kNum k.w 24 1 ≠ code ∨ !sel k.w ∨ !k.x.started.isEmpty then .ok none
      else match run k.w (s.startPacket k none 1 1) with
      | (s2, some st) => .ok (some (s2.mgmtDone (kStatus k.w) st))
      | (s2, none) => .ok (some s2)) { s with op := { s.op with a := 0 } }

/-- Any packet of a command. -/
def anyPacket : W512 → Bool := fun _ => true

/-! ### The buddy tree (R27, R29) -/

/-- The nodes from the root down to `k`. -/
def nodePath (k : Nat) : List Nat := (List.range (nodeDepth k + 1)).map fun i => k / 2 ^ (nodeDepth k - i)

/-- The unsplit node that is `k` or contains it. -/
def State.unsplitOver (s : State) (k : Nat) : Option Nat := (nodePath k).find? fun j => !s.splits.contains j

/-- The partition that holds a node. -/
def State.holder (s : State) (k : Nat) : Option Nat := (s.parts.find? fun e => e.2.node == k).map (·.1)

/-- SPLIT (R29). -/
def execSplit (s : State) : Out :=
  mgmtStep 1 "SPLIT" anyPacket (fun w s =>
    let n := kNum w 32 2
    if n = 0 ∨ 128 ≤ n then (s, some stInvalid)
    else match s.unsplitOver n with
    | none => (s, some stInvalid)
    | some m =>
      if (s.holder m).isSome then (s, some stBusy)
      else if m ≠ n then (s, some stInvalid)
      else ({ s with splits := insertNat n s.splits }, some stOk)) s

/-- A node is free and idle (R29): unsplit, unassigned, no context on its clusters. -/
def State.nodeIdle (s : State) (k : Nat) : Bool :=
  !s.splits.contains k && (s.holder k).isNone && !s.strands.any fun e => inNode k (clusterOf e.1)

/-- MERGE (R29). -/
def execMerge (s : State) : Out :=
  mgmtStep 2 "MERGE" anyPacket (fun w s =>
    let n := kNum w 32 2
    if n = 0 ∨ 128 ≤ n ∨ !s.splits.contains n then (s, some stInvalid)
    else if s.nodeIdle (2 * n) && s.nodeIdle (2 * n + 1) then ({ s with splits := removeNat n s.splits }, some stOk)
    else (s, some stBusy)) s

/-! ### Partitions (R28 to R31) -/

/-- Slices of a partition. -/
def Partition.slices (x : Partition) : List Nat := (List.range (2 ^ x.sliceLog2)).map (x.sliceBase + ·)

/-- Scrub slices below their reserves, and their chip scratchpad (R31, R183). -/
def State.scrubSlices (s : State) (sl : List Nat) : State :=
  { s with
    hbm := sl.foldl (fun (b : Bank) k => b.scrub (k * 2 ^ 32) (k * 2 ^ 32 + reserveAt)) s.hbm
    chip := sl.foldl (fun (b : Bank) k => b.scrub (k * 0xC00000) ((k + 1) * 0xC00000)) s.chip }

/-- Drop the last-level lines of a partition without writing them back. -/
def State.dropLlc (s : State) (p : Nat) : State := { s with llc := s.llc.filter (·.part != p) }

/-- The partition layout that measurement 0x10 covers (R24; byte order: log 15). -/
def layoutBytes (node base log2 vds : Nat) : List Byte := bytesOf node 2 ++ bytesOf base 1 ++ bytesOf (2 ^ log2) 1 ++ bytesOf vds 1

/-- The root capabilities that the steward places at CREATE (R205): global memory, the partition's part of chip scratchpad, the device core
windows of its clusters, each with every permission except execute, system and confined. -/
def rootCaps (p node base log2 : Nat) : List GReg :=
  [makeCap p 0x1BB 0x10000000000 (2 ^ 57 - 0x10000000000),
   makeCap p 0x1BB (0x4000000000 + base * 0xC00000) (2 ^ log2 * 0xC00000),
   makeCap p 0x1BB (0x100000000 + 16 * nodeFirst node * 2 ^ 26) (16 * nodeSize node * 2 ^ 26)]

/-- Partition `p` at CREATE (R22, R24, R29 to R31, R205): `k` numbers the keys drawn. -/
def Partition.create (p node base log2 vds epoch k : Nat) : Partition where
  node := node
  sliceBase := base
  sliceLog2 := log2
  state := 1
  vdsAsked := vds
  hidden := 0
  openBase := 0
  openLen := 0
  utilSum := 0
  quota := 0
  slots := 0
  lastMapped := 0
  vds := []
  keys := Config.drbgXts k
  imageKey := Config.drbgImageKey k
  generation := 0
  keyEpoch := epoch
  tck := none
  m10 := extendM 0 (layoutBytes node base log2 vds)
  m11 := 0
  m12 := 0
  imagesSeen := []
  nextCluster := nodeFirst node
  domains := []
  saved := []
  unread := []
  roots := rootCaps p node base log2
  page := Page.reset
  peers := Vector.replicate 16 0
  spdm := Spdm.reset
  log := []
  logCount := 0
  unattributed := 0
  ckpt := none
  rest := none
  migrations := []
  destroyStatus := none

/-- The checks of CREATE (R28, R29): a status other than ok. -/
def createFault (s : State) (node base log2 vds : Nat) : Option Nat :=
  let taken := (List.range (2 ^ log2)).any fun i => s.parts.any fun e => s.sliceIn e.1 (base + i)
  if node = 0 ∨ 256 ≤ node ∨ 7 < log2 ∨ base % 2 ^ log2 ≠ 0 ∨ 128 < base + 2 ^ log2 ∨ vds = 0 ∨ 64 < vds then some stInvalid
  else match s.unsplitOver node with
  | none => if s.parts.any fun e => (nodePath e.2.node).contains node then some stBusy else some stInvalid
  | some m =>
    if (s.holder m).isSome || taken then some stBusy
    else if m ≠ node then some stInvalid
    else if 64 ≤ s.parts.length then some stFull
    else none

/-- CREATE (R29, R31). The partition takes the lowest free number. -/
def execCreate (s : State) : Out :=
  mgmtStep 3 "CREATE" anyPacket (fun w s =>
    let node := kNum w 32 2
    let base := kNum w 34 1
    let log2 := kNum w 35 1
    let vds := kNum w 36 1
    match createFault s node base log2 vds with
    | some st => (s, some st)
    | none =>
      match (List.range 64).find? fun p => (s.part p).isNone with
      | none => (s, some stFull)
      | some p =>
        let x := Partition.create p node base log2 vds (s.epoch + 1) s.freeCtr
        let s1 : State := { s with epoch := s.epoch + 1, freeCtr := s.freeCtr + 1 }
        (((s1.scrubSlices x.slices).dropLlc p).setPart p x, some stOk)) s

/-- An engine command of a partition is in flight (R22, R29, R183): a copy command or packet, a matrix command, one of a strand's
queues. -/
def State.engineBusy (s : State) (p : Nat) : Bool :=
  s.copies.any (fun k => k.cmd.part == p) || s.orphans.any (·.part == p) ||
  s.strands.any (fun e => e.2.id.part == p && !(e.2.mq.isEmpty && e.2.cq.isEmpty)) ||
  s.cells.any fun e => e.2.commands.any (·.part == p)

/-- A context of a partition is resident. -/
def State.resident (s : State) (p : Nat) : Bool := s.strands.any (·.2.id.part == p)

/-- Queues stop starting packets. -/
def stopQueues (p : Nat) (qs : Tbl QSlot) : Tbl QSlot :=
  qs.map fun e => if e.2.queue ≠ 0 ∧ qPart e.2.record = p then (e.1, { e.2 with stopping := true }) else e

/-- DESTROY (R29): every context stops, launches end, queues start nothing more; the rest follows at DESTROY_COMPLETE. -/
def execDestroy (s : State) : Out :=
  mgmtStep 4 "DESTROY" anyPacket (fun w s =>
    match s.holder (kNum w 32 2) with
    | none => (s, some stInvalid)
    | some p =>
      let ls := s.launches.filter (·.part == p)
      let s1 := ls.foldl (fun (z : State) l => z.killLaunch p l.id) s
      let s2 := (s1.idleFrom (((s1.part p).map fun x => x.saved.map (·.core)).getD [])).onPart p fun x => { x with state := 3, quota := 0, slots := 0, saved := [], destroyStatus := some (kStatus w) }
      ({ s2 with qslots := stopQueues p s2.qslots, orphans := s2.orphans.filter (·.part != p) }, none)) s

/-- The partition of a message in flight. -/
def Msg.partOf (s : State) : Msg → Option Nat
  | .access a => some a.part
  | .reply c _ => (s.strand c).map (·.id.part)
  | .signal x => some x.part
  | .wait q => some q.part
  | .snapshot x => (s.strand x.core).map (·.id.part)
  | .fill f => some f.part
  | .writeback _ p _ _ _ _ => some p
  | .ack c => (s.strand c).map (·.id.part)
  | .exchange x => some x.part

/-- Every queue of a partition is off, its pending bit clear, its slot free (R29). -/
def State.queuesGone (s : State) (p : Nat) : State :=
  let s1 : State := { s with qslots := s.qslots.filter fun e => e.2.queue == 0 || qPart e.2.record != p }
  ((List.range 4096).drop 1).foldl (fun (z : State) q =>
    let r := z.qTable q
    if qPart r = p ∧ qState r ≠ 0 then (z.setTable q (setField r 35 28 0)).setPending q false else z) s1

/-- Nothing of a partition is left in the device. -/
def State.forget (s : State) (p node : Nat) : State :=
  let s1 : State := { s with
    launches := s.launches.filter (·.part != p)
    strands := s.strands.filter (·.2.id.part != p)
    releases := s.releases.filter (·.id.part != p)
    waits := s.waits.filter (·.part != p)
    monitors := s.monitors.filter (·.1.part != p)
    landings := s.landings.filter (·.spool.part != p)
    discards := s.discards.filter (·.spool.part != p)
    heldWrites := s.heldWrites.filter (·.part != p)
    flight := s.flight.filter fun m => m.partOf s != some p
    clusters := s.clusters.filter fun e => !inNode node e.1 }
  let s2 := (s1.dir.filter fun e => bitsN e.2.r 63 58 == p).foldl (fun (z : State) e => z.setDir e.1 none) s1
  { s2 with parts := s2.parts.del p }

/-- DESTROY_COMPLETE (R29): the commands in flight of partition op.a, which is being destroyed, have completed. -/
def execDestroyComplete (s : State) : Out :=
  let p := s.op.a
  match s.part p with
  | none => notEnabled "DESTROY_COMPLETE"
  | some x =>
    match x.destroyStatus with
    | none => notEnabled "DESTROY_COMPLETE"
    | some a =>
      if s.engineBusy p then notEnabled "DESTROY_COMPLETE"
      else .next ((((s.queuesGone p).dropLlc p).scrubSlices x.slices).forget p x.node |>.mgmtDone a stOk)

/-! ### Reservations (R32) -/

/-- u = ceil(4,096 · budget / period). -/
def utilOf (r : Nat × Nat) : Nat := (4096 * r.1 + r.2 - 1) / r.2

/-- The utilisation that a virtual device holds of util_sum. -/
def Vd.util (d : Vd) : Nat :=
  match d.pendRsv, d.rsv with
  | some r, _ => utilOf r
  | none, some r => utilOf r
  | none, none => 0

/-- Admit a reservation (R32): one that replaces another takes effect at the next period start. R33 does not say when the first
period of a new reservation starts: the model starts it at the tick of the admission, with the full budget (log 51). -/
def Vd.grantRes (d : Vd) (r : Nat × Nat) (tick : Nat) : Vd :=
  if d.rsv.isSome then { d with pendRsv := some r }
  else { d with rsv := some r, remaining := r.1 - d.debit, debit := d.debit - r.1, deadline := tick + r.2, start := tick }

/-- RESERVE (R32). -/
def execReserve (s : State) : Out :=
  mgmtStep 5 "RESERVE" anyPacket (fun w s =>
    let p := kNum w 32 1
    let v := kNum w 33 1
    let r := (kNum w 40 5, kNum w 48 5)
    match s.part p with
    | none => (s, some stInvalid)
    | some x =>
      if x.vdsAsked ≤ v ∨ r.1 = 0 ∨ r.2 < r.1 then (s, some stInvalid)
      else
        let d := x.vd v
        let sum := x.utilSum - d.util + utilOf r
        if 4096 < sum then (s, some stOver)
        else ((s.setPart p ({ x with utilSum := sum }.setVd v (d.grantRes r s.tick))).schedule p, some stOk)) s

/-- UNRESERVE (R32): a running virtual device gets a stop request. -/
def execUnreserve (s : State) : Out :=
  mgmtStep 6 "UNRESERVE" anyPacket (fun w s =>
    let p := kNum w 32 1
    let v := kNum w 33 1
    match s.part p with
    | none => (s, some stInvalid)
    | some x =>
      let d := x.vd v
      if x.vdsAsked ≤ v ∨ d.rsv.isNone then (s, some stInvalid)
      else
        let s1 := s.setPart p ({ x with utilSum := x.utilSum - d.util }.setVd v { d with rsv := none, pendRsv := none })
        ((if d.running then s1.askStop p v else s1).schedule p, some stOk)) s

/-! ### Quotas and queues (R41, R43) -/

/-- Map pending queues of a partition into its free slots (R46): at most 63. -/
def mapAll (p : Nat) : Nat → State → State
  | 0, s => s
  | k + 1, s => mapAll p k (s.mapNext p)

/-- Slots 1 to 63 that belong to no partition (R43). -/
def State.unassigned (s : State) : List Nat :=
  ((List.range 64).drop 1).filter fun k => !s.parts.any fun e => e.2.slots.getLsbD k

/-- Give a partition `n` slots: those that its queues hold stay, others go or come by free choice (R43, log 7). -/
def assignSlots (p n : Nat) : Nat → State → State
  | 0, s => s
  | k + 1, s =>
    match s.part p with
    | none => s
    | some x =>
      let own := ((List.range 64).drop 1).filter x.slots.getLsbD
      if own.length < n then
        match s.pick s.unassigned with
        | some (j, z) => assignSlots p n k (z.setPart p { x with slots := x.slots ||| (1#64 <<< j) })
        | none => s
      else if n < own.length then
        match s.pick (own.filter fun j => (s.qslots.find j).isNone) with
        | some (j, z) => assignSlots p n k (z.setPart p { x with slots := x.slots &&& ~~~(1#64 <<< j) })
        | none => s
      else s

/-- SQUOTA (R43). A larger quota frees slots, so pending queues map (R46). -/
def execSquota (s : State) : Out :=
  mgmtStep 7 "SQUOTA" anyPacket (fun w s =>
    let p := kNum w 32 1
    let n := kNum w 33 1
    match s.part p with
    | none => (s, some stInvalid)
    | some x =>
      if 63 < (s.parts.map fun e => if e.1 = p then n else e.2.quota).foldl (· + ·) 0 then (s, some stInvalid)
      else if n < (s.slotsOf p).length then (s, some stBusy)
      else (mapAll p 63 (assignSlots p n 63 (s.setPart p { x with quota := n })), some stOk)) s

/-- QON (R41): the queue becomes idle, and at once in error where it holds more packets than its ring. A queue number of 4,096 or more is
invalid for QON and QOFF: the table lists none, the status is the model's choice (log 51). -/
def execQon (s : State) : Out :=
  mgmtStep 8 "QON" (fun w => kNum w 34 1 == 1) (fun w s =>
    let q := kNum w 32 2
    let r := s.qRecord q
    if 4096 ≤ q then (s, some stInvalid)
    else if q = 0 ∨ qState r ≠ 0 then (s, some stBusy)
    else if (s.part (qPart r)).isNone ∨ qLog2 r < 4 ∨ 16 < qLog2 r ∨ !qZero r then (s, some stInvalid)
    else
      let s1 := s.setTable q (setField r 35 34 1)
      (if 2 ^ qLog2 r < qPending r then s1.queueError q 5 0 else s1, some stOk)) s

/-- QOFF (R41): from now on no further packet of the queue starts. -/
def execQoff (s : State) : Out :=
  mgmtStep 8 "QOFF" (fun w => kNum w 34 1 == 0) (fun w s =>
    let q := kNum w 32 2
    let r := s.qRecord q
    if q = 0 ∨ 4096 ≤ q then (s, some stInvalid)
    else if qState r = 0 then (s, some stOk)
    else match s.slotOfQueue q with
    | some (k, x) => ({ s with qslots := s.qslots.put k { x with stopping := true, off := some (kStatus w), idle := none } }, none)
    | none =>
      let far := s.qslots.foldl (fun m e => max m (e.1 + 1)) 64
      ({ s with qslots := s.qslots.put far ⟨q, r, 0, none, [], true, some (kStatus w)⟩ }, none)) s

/-- QOFF_COMPLETE (R41): the started packets of queue op.a, which is to be off, have completed. -/
def execQoffComplete (s : State) : Out :=
  let q := s.op.a
  match s.slotOfQueue q with
  | none => notEnabled "QOFF_COMPLETE"
  | some (k, x) =>
    match x.off with
    | none => notEnabled "QOFF_COMPLETE"
    | some a =>
      if x.started.isEmpty then
        let r := s.qRecord q
        let s1 : State := { s with qslots := s.qslots.del k }
        let s2 := (s1.setTable q (setField r 35 28 0)).setPending q false
        .next ((s2.mgmtDone a stOk).mapNext (qPart r))
      else notEnabled "QOFF_COMPLETE"

/-! ### The opened range (R10) -/

/-- OPEN (R10): 3 GiB are 1,536 units of 2 MiB, of which the reserve takes the last 4. -/
def execOpenRange (s : State) : Out :=
  mgmtStep 10 "OPEN" anyPacket (fun w s =>
    let p := kNum w 32 1
    let base := kNum w 40 4
    let len := kNum w 44 4
    match s.part p with
    | none => (s, some stInvalid)
    | some x =>
      if len ≠ 0 ∧ (1536 * 2 ^ x.sliceLog2 < base + len ∨ 1532 < base % 1536 + len) then (s, some stInvalid)
      else (s.setPart p { x with openBase := base, openLen := len }, some stOk)) s

/-! ### Checkpoints (R19 to R21) -/

/-- The ports of a mask that are up. -/
def State.portsOf (s : State) (mask : Nat) : List Nat := (List.range 12).filter fun i => mask.testBit i && s.portUp i

/-- The mapped local leaves of a partition: page address, page size in bits (R206, R207). -/
def State.leavesOf (s : State) (p : Nat) : List (Nat × Nat) :=
  s.dir.flatMap fun e =>
    if bitsN e.2.r 63 58 ≠ p ∨ tState e.2.t ≠ 1 then []
    else if tLeaf e.2.t then [(e.1 * 2 ^ 30, 30)]
    else (List.range 512).filterMap fun k =>
      if tState (s.hbmWord (tAddr e.2.t + 8 * k)) = 1 then some (e.1 * 2 ^ 30 + k * 2 ^ 21, 21) else none

/-- The dirty 4 KiB units of a partition's pages: address, page size in bits (R215). -/
def State.dirtyUnits (s : State) (p : Nat) : List (Nat × Nat) :=
  (s.leavesOf p).flatMap fun l =>
    (List.range (2 ^ (l.2 - 12))).filterMap fun i =>
      let b := s.dirtyBit (l.1 + 4096 * i) l.2
      if (s.hbm.read b.1).getLsbD b.2 then some (l.1 + 4096 * i, l.2) else none

/-- The device physical units of 4 KiB that hold a line of the dirty units, in ascending order (R19, R209). -/
def State.dirtyPhys (s : State) (p : Nat) : List Nat :=
  rowsOf ((s.dirtyUnits p).flatMap fun u =>
    match walk s u.1 false with
    | .leaf t plog => (List.range 16).map fun i => s.frameOf (u.1 + 256 * i) t plog / 4096
    | .fault _ => [])

/-- Clear the dirty bits of units. -/
def State.clearDirty (s : State) (us : List (Nat × Nat)) : State :=
  us.foldl (fun (z : State) u =>
    let b := z.dirtyBit u.1 u.2
    { z with hbm := { z.hbm with bytes := z.hbm.bytes.write b.1 (z.hbm.read b.1 &&& ~~~(1#8 <<< b.2)) } }) s

/-- Every unit of a partition's slices below the reserves. -/
def Partition.allUnits (x : Partition) : List Nat :=
  x.slices.flatMap fun k => (List.range (reserveAt / 4096)).map fun i => k * 2 ^ 20 + i

/-- The partition-relative address of a device physical one (R31). -/
def Partition.relative (x : Partition) (pa : Nat) : Nat := pa - x.sliceBase * 2 ^ 32

/-- The ciphertext of a unit as it stands in HBM (R31): each 256-byte line is one data unit. -/
def State.cipherUnit (s : State) (x : Partition) (unit : Nat) : List Byte :=
  (List.range 16).flatMap fun i =>
    let pa := 4096 * unit + 256 * i
    padTo 256 (Config.xtsEncrypt x.keys (x.relative pa) (s.hbm.readList pa 256))

/-- Send bytes to an address of the safe tier over one of some ports: a free choice (log 7). Over no other port without a command
(R14). -/
def State.sendSafe (s : State) (ports : List Nat) (a : Nat) (bs : List Byte) : State :=
  let f := s.free (max 1 ports.length)
  match ports[f.1]? with
  | some i => sendFrames i false (frameCuts (bs.length / 256 + 1) bs) a [] f.2
  | none => f.2

/-- Send unit records from number `j` on: the state, and their bytes (R21). -/
def sendUnits (x : Partition) (ports : List Nat) (target : Nat) : List Nat → Nat → State → State × List Byte
  | [], _, s => (s, [])
  | u :: us, j, s =>
    let r := bytesOf (x.relative (4096 * u)) 8 ++ bytesOf j 8 ++ s.cipherUnit x u
    let t := sendUnits x ports target us (j + 1) (s.sendSafe ports (target + 0x1000 + 0x1010 * j) r)
    (t.1, r ++ t.2)

/-- Write back the dirty last-level lines of a partition (R192). -/
def State.cleanLlc (s : State) (p : Nat) : State := (s.llc.filter (·.part == p)).foldl (fun (z : State) k => z.llcClean k) s

/-- CHECKPOINT (R19): the unit records go out. -/
def execCheckpoint (s : State) : Out :=
  mgmtStep 9 "CHECKPOINT" anyPacket (fun w s =>
    let p := kNum w 32 1
    let dirty := kNum w 33 1 == 1
    let mask := kNum w 34 2
    let target := kNum w 40 8
    match s.part p with
    | none => (s, some stInvalid)
    | some x =>
      if 4096 ≤ mask ∨ s.portsOf mask = [] then (s, some stInvalid)
      else if s.resident p then (s, some stNotQuiesced)
      else
        let s1 := s.cleanLlc p
        let units := if dirty then s1.dirtyPhys p else x.allUnits
        let s2 := sendUnits x (s1.portsOf mask) target units 0 s1
        let s3 := if dirty then s2.1.clearDirty (s1.dirtyUnits p) else s2.1
        (s3.onPart p fun y => { y with
          ckpt := some ⟨dirty, BitVec.ofNat 16 mask, target, units.length, s2.2, kStatus w⟩ }, none)) s

/-- The first 160 bytes of a manifest (R21). -/
def manifestHead (x : Partition) (c : Ckpt) : List Byte :=
  let id := match x.tck with
    | some t => t.1.toNat
    | none => 0
  let wrapped := match x.tck with
    | some t => padTo 104 (Config.keyWrap t.2 (bytesOf x.keys.toNat 64 ++ bytesOf x.imageKey.toNat 32))
    | none => List.replicate 104 0
  bytesOf 1 8 ++ bytesOf (x.generation + 1) 8 ++ bytesOf (if c.dirtyOnly then x.generation else 0) 8 ++ bytesOf c.units 8 ++
    bytesOf x.sliceLog2 1 ++ bytesOf (b2n c.dirtyOnly) 1 ++ List.replicate 6 0 ++ bytesOf id 8 ++ bytesOf x.keyEpoch 8 ++ wrapped

/-- CHECKPOINT_COMPLETE (R21): the manifest of partition op.a's checkpoint is written last; the generation advances. It waits while none of
its ports is up (R14). -/
def execCheckpointComplete (s : State) : Out :=
  let p := s.op.a
  match s.part p with
  | none => notEnabled "CHECKPOINT_COMPLETE"
  | some x =>
    match x.ckpt with
    | none => notEnabled "CHECKPOINT_COMPLETE"
    | some c =>
      if s.portsOf c.ports.toNat = [] then notEnabled "CHECKPOINT_COMPLETE" else
      let h := manifestHead x c
      let m := padTo 4096 (h ++ bytesOf (Config.shake256 (h ++ c.digest)).toNat 64)
      let s1 := (s.sendSafe (s.portsOf c.ports.toNat) c.target m).setPart p { x with generation := x.generation + 1, ckpt := none }
      .next (s1.mgmtDone c.status stOk)

/-! ### Restores (R22) -/

/-- A restore pull record (R15, type 3). -/
def restorePull (src units first : Nat) : List Byte := bytesOf (3 + src / 4096 * 4096 + first * 2 ^ 128 + units * 2 ^ 160) 32

/-- RESTORE (R22): a pull record for the manifest goes out. -/
def execRestore (s : State) : Out :=
  mgmtStep 11 "RESTORE" anyPacket (fun w s =>
    let p := kNum w 32 1
    let mask := kNum w 34 2
    let src := kNum w 40 8
    match s.part p with
    | none => (s, some stInvalid)
    | some x =>
      match s.portsOf mask with
      | [] => (s, some stInvalid)
      | port :: _ =>
        if 4096 ≤ mask then (s, some stInvalid)
        else if s.resident p || s.engineBusy p || !(s.slotsOf p).isEmpty then (s, some stNotQuiesced)
        else
          let s1 := s.setPart p { x with rest := some ⟨BitVec.ofNat 16 mask, src, none, 0, 0, [], true, kStatus w⟩ }
          (s1.emit (.frame port apertureSignal (restorePull src 0 0)), none)) s

/-- The restore aperture of a port (R15). -/
def inRestoreAperture (a : Nat) : Bool := decide (0x00FFFFFE0000 ≤ a) && decide (a ≤ 0x00FFFFFEFFFF)

/-- The checks of a manifest (R22, step 1). -/
def manifestOk (x : Partition) (m : List Byte) : Bool :=
  let id := numAt m 40 8
  let key := match x.tck with
    | some t => id == t.1.toNat && id != 0
    | none => false
  numAt m 0 8 == 1 && numAt m 32 1 == x.sliceLog2 && (key || (id == 0 && numAt m 48 8 == x.keyEpoch)) &&
  (numAt m 33 1 == 0 || numAt m 16 8 == x.generation)

/-- Ask the safe tier for the unit records, a share over each port (R15, R22). -/
def pullUnits (s : State) (ports : List Nat) (src units : Nat) : State :=
  let n := max 1 ports.length
  let share := (units + n - 1) / n
  ports.zipIdx.foldl (fun (z : State) e =>
    let first := e.2 * share
    if first < units then z.emit (.frame e.1 apertureSignal (restorePull src (min share (units - first)) first)) else z) s

/-- RESTORE_MANIFEST_ARRIVAL (R22): the manifest op.data of partition op.a's restore has arrived on port op.b. -/
def execRestoreManifestArrival (s : State) : Out :=
  let p := s.op.a
  match s.part p with
  | none => notEnabled "RESTORE_MANIFEST_ARRIVAL"
  | some x =>
    match x.rest with
    | none => notEnabled "RESTORE_MANIFEST_ARRIVAL"
    | some r =>
      let m := s.op.data
      if r.manifest.isSome || m.length != 4096 || !(s.portsOf r.ports.toNat).contains s.op.b then notEnabled "RESTORE_MANIFEST_ARRIVAL"
      else if !manifestOk x m then .next ((s.setPart p { x with rest := none }).mgmtDone r.status stInvalid)
      else
        let units := numAt m 24 8
        let key := if numAt m 40 8 = 0 then some none
          else (x.tck.bind fun t => Config.keyUnwrap t.2 ((m.drop 56).take 104)).map some
        match key with
        | none => .next (s.setPart p { x with rest := some { r with manifest := some m, units := units, unwrapOk := false } })
        | some k =>
          let y := { x with rest := some { r with manifest := some m, units := units } }
          let s1 := match k with
            | none => s.setPart p y
            | some bs => { s with epoch := s.epoch + 1 }.setPart p
                { y with keys := BitVec.ofNat 512 (numAt bs 0 64), imageKey := BitVec.ofNat 256 (numAt bs 64 32), keyEpoch := s.epoch + 1 }
          .next (pullUnits (s1.dropLlc p) (s1.portsOf r.ports.toNat) r.src units)

/-- Write a unit's ciphertext at its partition-relative address (R22): what reads there is its decryption (R31). -/
def State.putUnit (s : State) (x : Partition) (rel : Nat) (ct : List Byte) : State :=
  if rel % 4096 = 0 ∧ rel / 2 ^ 32 < 2 ^ x.sliceLog2 ∧ rel % 2 ^ 32 < reserveAt then
    { s with hbm := (List.range 16).foldl (fun (b : Bank) i =>
        b.writeList (x.sliceBase * 2 ^ 32 + rel + 256 * i) (padTo 256 (Config.xtsDecrypt x.keys (rel + 256 * i) ((ct.drop (256 * i)).take 256)))) s.hbm }
  else s

/-- Place record j among the records that the digest covers, which are in order (R21). -/
def placeRecord (units : Nat) (d : List Byte) (j : Nat) (r : List Byte) : List Byte :=
  if j < units then padTo (4112 * j) d ++ r ++ d.drop (4112 * (j + 1)) else d ++ r

/-- RESTORE_UNIT_RECORD (R22): unit record op.data of partition op.a's restore has arrived on port op.b. -/
def execRestoreUnitRecord (s : State) : Out :=
  let p := s.op.a
  match s.part p with
  | none => notEnabled "RESTORE_UNIT_RECORD"
  | some x =>
    match x.rest with
    | none => notEnabled "RESTORE_UNIT_RECORD"
    | some r =>
      let bs := s.op.data
      if r.manifest.isNone || !r.unwrapOk || decide (r.units ≤ r.got) || bs.length != 4112 || !(s.portsOf r.ports.toNat).contains s.op.b then
        notEnabled "RESTORE_UNIT_RECORD"
      else
        let y := { r with got := r.got + 1, digest := placeRecord r.units r.digest (numAt bs 8 8) bs }
        .next ((s.putUnit x (numAt bs 0 8) (bs.drop 16)).setPart p { x with rest := some y })

/-- RESTORE_COMPLETE (R22, step 4): the last record of partition op.a's restore has arrived, or its key did not unwrap. After an ok the
contexts of every virtual device are those of its images (`State.recoverVd`). -/
def execRestoreComplete (s : State) : Out :=
  let p := s.op.a
  match s.part p with
  | none => notEnabled "RESTORE_COMPLETE"
  | some x =>
    match x.rest with
    | none => notEnabled "RESTORE_COMPLETE"
    | some r =>
      match r.manifest with
      | none => notEnabled "RESTORE_COMPLETE"
      | some m =>
        if r.unwrapOk && decide (r.got < r.units) then notEnabled "RESTORE_COMPLETE"
        else
          let good := r.unwrapOk && (m.drop 160).take 64 == bytesOf (Config.shake256 (m.take 160 ++ r.digest)).toNat 64
          if good then
            let s1 : State := { s with chip := x.slices.foldl (fun (b : Bank) k => b.scrub (k * 0xC00000) ((k + 1) * 0xC00000)) s.chip }
            .next ((s1.setPart p { x with rest := none, generation := numAt m 8 8, unread := List.range 64 }).mgmtDone r.status stOk)
          else
            let s1 := ({ s with epoch := s.epoch + 1, freeCtr := s.freeCtr + 1 } : State).dropLlc p
            .next (((s1.scrubSlices x.slices).setPart p
              { x with rest := none, keys := Config.drbgXts s.freeCtr, keyEpoch := s.epoch + 1 }).mgmtDone r.status stIntegrity)

end Sys2Proof.Machine
end

