-- ==== Sys2Proof/Machine/Trap.lean ====
section
/-! DEFINITION. Traps that no instruction raises: held asynchronous ones (R96, R137, R138, R140, R143, R163), those of the fetch
(R165), those of the debugger (R145), and what the supervisor does with a trap (R136). -/
namespace Sys2Proof.Machine

/-- The strand waits in an instruction that releases or writes back, all its writes have been acknowledged, and one has met a fault (R141, R330). -/
def Strand.releaseFault (x : Strand) : Bool := x.released && x.faulted && x.unacked == 0

/-- The strand stands at an instruction boundary, or in an instruction that releases and has met a fault (R141). -/
def Strand.trapsNow (x : Strand) : Bool :=
  x.phase == .live && !x.halted && (x.wait.isNone || x.releaseFault)

/-- The strand of core `n`, or any member of its gang, stands so, where it waits once the writes of all members are acknowledged: the gang takes its
traps together (R67). -/
def State.trapsAt (s : State) (n : Nat) (x : Strand) : Bool :=
  let ms := (x.members n).filterMap s.strand
  x.phase == .live && !x.halted && (x.wait.isNone || (ms.any Strand.releaseFault && ms.all (·.unacked == 0)))

/-- ASYNC_TRAP_ENTRY (R136 to R138): the held trap that comes first is taken by the current core's strand, or by its whole gang
(R67). -/
def execAsyncTrapEntry (s : State) : Out :=
  match s.strand s.cur with
  | none => notEnabled "ASYNC_TRAP_ENTRY"
  | some x =>
    let ms := x.members s.cur
    if (s.dueTraps ms).isEmpty || !s.trapsAt s.cur x then notEnabled "ASYNC_TRAP_ENTRY"
    else .next ((s.settleAll ms).takeAsync x ms (s.dueTraps ms))

/-- What the fetch at the strand's PC raises (R144, R165): selvage, then alignment, then poison. -/
def fetchTrap (s : State) (n : Nat) (x : Strand) : Option Trap :=
  let w := BitVec.ofNat 64 x.pc
  if x.selv ≤ x.pc then some (.precise 0x07 w)
  else if x.pc % 4 ≠ 0 then some (.precise 0x06 w)
  else if s.scratch.poisoned (scratchAt (x.codeCore n) x.pc) then some (.precise 0x0B w)
  else none

/-- FETCH_FAULT (R165): the current core's strand, or its gang, traps at the fetch. -/
def execFetchFault (s : State) : Out :=
  match s.strand s.cur with
  | none => notEnabled "FETCH_FAULT"
  | some x =>
    match fetchTrap s s.cur x with
    | none => notEnabled "FETCH_FAULT"
    | some t =>
      if x.runnable && x.wait.isNone then
        if x.gang.tacked then .next ((s.settleAll x.gang.members).gangTrap x.gang.members [(s.cur, t)])
        else
          let y := x.settle s.tick (s.divOf s.cur)
          .next (s.trapOn s.cur y t)
      else notEnabled "FETCH_FAULT"

/-- The first of core `n`'s breakpoint slots that names a PC (R145). -/
def State.breakAt (s : State) (n pc : Nat) : Option Trap :=
  ((List.range 4).find? fun i => (s.coreCfg n).breaks.getD i 0 != 0 && (s.coreCfg n).breaks.getD i 0 == pc).map fun i =>
    .precise 0x14 (BitVec.ofNat 64 i)

/-- The debug traps at the strand's boundary (R138, R145), each with the member of the gang that raises it (R67): a step that has run its
instruction, or breakpoints at the PC. A step runs its one instruction whatever breakpoint stands there. -/
def debugTraps (s : State) (n : Nat) (x : Strand) : List (Nat × Trap) :=
  if x.stepping then (if x.haltReq then [(n, .precise 0x14 0)] else [])
  else (x.members n).filterMap fun m => (s.breakAt m x.pc).map fun t => (m, t)

/-- Take debug traps: the gang with its raisers (R67). A step is done with them. -/
def State.takeDebug (s : State) (n : Nat) (x : Strand) (ts : List (Nat × Trap)) : State :=
  let ms := x.members n
  ms.foldl (fun (z : State) m => z.onStrand m fun y =>
    let y := if x.stepping then { y with stepping := false, haltReq := false } else y
    y.toSteward (((ts.find? (·.1 == m)).map (·.2)).getD ⟨0, 0, 0, false⟩) y.pc) (s.settleAll ms)

/-- SUPERVISOR_TRAP_RESUME (R136): the supervisor's decision on the trap of core op.a: op.c 0 resumes it at PC op.b, 1 ends its
launch, 2 pre-empts its virtual device. A gang is handled as a whole (R67). -/
def execSupervisorTrapResume (s : State) : Out :=
  match s.strand s.op.a with
  | none => notEnabled "SUPERVISOR_TRAP_RESUME"
  | some x =>
    match x.wait with
    | some (.supervisor _ _ _ _) =>
      if x.phase != .live then notEnabled "SUPERVISOR_TRAP_RESUME"
      else if s.op.c = 1 then .next (s.killLaunch x.id.part x.id.launch)
      else if s.op.c = 2 then .next (s.askStop x.id.part x.id.vd)
      else
        let ms := x.members s.op.a
        .next (ms.foldl (fun (z : State) n => z.onStrand n fun y => { y with wait := none, pc := s.op.b % 2 ^ 64 }) (s.settleAll ms))
    | _ => notEnabled "SUPERVISOR_TRAP_RESUME"

end Sys2Proof.Machine
end

