-- ==== Sys2Proof/Machine/Power.lean ====
section
/-! DEFINITION. Clocks, power and heat (R109 to R114) and energy quotas (R133). Estimates, measured draws and temperatures are
operands of the steps (log 16). -/
namespace Sys2Proof.Machine

/-! ### Dividers and switches (R109, R110) -/

/-- REQ_DIV_WRITE (R110): the supervisor writes op.b to req_div of core op.a; 0 and values above 16 are ignored. -/
def execReqDivWrite (s : State) : Out :=
  let v := s.op.b % 32
  onLink s (.next (if 2048 ≤ s.op.a ∨ v = 0 ∨ 16 < v then s else (s.setCore s.op.a { s.coreCfg s.op.a with reqDiv := v }).retune s.op.a))

/-- DIVIDER_RAIL_READY (R109): the rail has risen for core op.a's smaller divider. -/
def execDividerRailReady (s : State) : Out :=
  let c := s.coreCfg s.op.a
  match c.rail with
  | none => notEnabled "DIVIDER_RAIL_READY"
  | some r => .next (((s.settleCycles s.op.a).redivide s.op.a c.div r.1).setCore s.op.a { c with div := r.1, rail := none })

/-- CORE_POWER_OFF (R109): core op.a holds nothing and has been idle for 20,000 tk. -/
def execCorePowerOff (s : State) : Out :=
  let n := s.op.a
  let c := s.coreCfg n
  let held := s.parts.any fun e => e.2.saved.any (·.core == n)
  if c.powered && (s.strand n).isNone && !held && !s.engineInto n && decide (c.idle + 20000 ≤ s.tick) then
    .next (s.setCore n { c with powered := false })
  else notEnabled "CORE_POWER_OFF"

/-! ### Tiers (R110 to R112) -/

/-- A sum of four. -/
def sum4 (v : Vector Nat 4) : Nat := v[0] + v[1] + v[2] + v[3]

/-- POWER_CAP_WRITE (R110): the supervisor writes op.b to cap_mw (op.a 0) or to the floor of tier op.a − 1. DESIGN CHOICE
(log 51): nothing clears the sticky refused bit. -/
def execPowerCapWrite (s : State) : Out :=
  let w := s.op.b % 2 ^ 32
  let p := s.power
  let q : PowerRegs :=
    if s.op.a = 0 then { p with capMw := w }
    else if h : s.op.a - 1 < 4 then { p with floor := p.floor.set (s.op.a - 1) w h } else p
  onLink s (.next { s with power := if q.capMw ≤ 2000000 ∧ sum4 q.floor ≤ q.capMw then q else { p with refused := true } })

/-- Element `i` of four. -/
def at4 (v : Vector Nat 4) (i : Nat) : Nat := if h : i < 4 then v[i] else 0

/-- Floors in tier order (R111): the grants, and what is left. -/
def floorGrants (demand floor : Vector Nat 4) : Nat → Nat → List Nat
  | 0, _ => []
  | k + 1, avail =>
    let i := 3 - k
    let g := min (min (at4 demand i) (at4 floor i)) avail
    g :: floorGrants demand floor k (avail - g)

/-- Surplus in strict tier order (R111). -/
def surplusGrants (demand : Vector Nat 4) : List Nat → Nat → Nat → List Nat
  | [], _, _ => []
  | g :: gs, i, avail =>
    let e := min (at4 demand i - g) avail
    (g + e) :: surplusGrants demand gs (i + 1) (avail - e)

/-- The grants of a period (R111). -/
def tierGrants (cap untiered : Nat) (demand floor : Vector Nat 4) : Vector Nat 4 :=
  let f := floorGrants demand floor 4 (cap - untiered)
  let g := surplusGrants demand f 0 (cap - untiered - f.foldl (· + ·) 0)
  Vector.ofFn fun i => g.getD i.val 0

/-- A floor is cut (R110, R111). -/
def floorsShort (cap untiered : Nat) (demand floor : Vector Nat 4) : Bool :=
  let f := floorGrants demand floor 4 (cap - untiered)
  decide (cap < untiered + sum4 floor) && (List.range 4).any fun i => decide (f.getD i 0 < min (at4 demand i) (at4 floor i))

/-- The tier of a core: that of the launch of its resident strand (R111). -/
def State.tierOf (s : State) (n : Nat) : Option Nat := (s.strand n).bind fun x => (s.launchOf x.id.part x.id.launch).map fun l => rTier l.record

/-- The throttle divider of a core after a period (R112). -/
def nextThrottle (t draw grant : Nat) : Nat :=
  if grant < draw then min 16 (t + 1) else if 10 * draw < 9 * grant then max 1 (t - 1) else t

/-- Adjust the throttle divider of every core that belongs to a tier (R112). -/
def throttleAll (draw : Nat → Nat) (grant : Vector Nat 4) : List Nat → State → State
  | [], s => s
  | n :: ns, s =>
    match s.tierOf n with
    | none => throttleAll draw grant ns s
    | some i =>
      let c := s.coreCfg n
      throttleAll draw grant ns ((s.setCore n { c with throttle := nextThrottle c.throttle (draw i) (at4 grant i) }).retune n)

/-- POWER_PERIOD (R111, R112): a period of 19,000 tk ends. op.nats holds the measured draws of the four tiers in it, then the
demand estimates of the next; op.a is the untiered draw estimated. -/
def execPowerPeriod (s : State) : Out :=
  if s.tick < s.power.nextPeriod then notEnabled "POWER_PERIOD"
  else
    let p := s.power
    let draw := fun i : Nat => s.op.nats.getD i 0
    let demand : Vector Nat 4 := Vector.ofFn fun i => s.op.nats.getD (4 + i.val) 0
    let s1 := throttleAll draw p.grant (s.strands.map (·.1)) s
    .next { s1 with power := { p with
      demand := demand
      grant := tierGrants p.capMw s.op.a demand p.floor
      short := p.short || floorsShort p.capMw s.op.a demand p.floor
      untiered := s.op.a
      throttled := Vector.ofFn fun i => (p.throttled[i] + (if p.grant[i] < draw i.val then 1 else 0)) % 2 ^ 32
      nextPeriod := p.nextPeriod + 19000 } }

/-! ### Heat (R113, R114) -/

/-- The core with the lowest temperature, ties to the lowest number. -/
def coolest (temps : List (Nat × Nat)) (cs : List Nat) : Option Nat :=
  cs.foldl (fun (b : Option Nat) n =>
    match b with
    | none => some n
    | some m => if Tbl.getD temps n 0 < Tbl.getD temps m 0 then some n else some m) none

/-- The target of a move (R113): the coolest free core of the same cell; else of the other cell, if its pool fits the strand. -/
def moveTargetOf (s : State) (temps : List (Nat × Nat)) (n : Nat) (x : Strand) : Option Nat :=
  let free := (clusterCores (clusterOf n)).filter fun m => m != n && s.coreFree x.id.part x.id.vd m
  let near := free.filter fun m => s.poolOf m == s.poolOf n
  let far := free.filter fun m => s.poolOf m != s.poolOf n && decide (x.holding ≤ s.freeGran (s.poolOf m)) && (s.cell (s.poolOf m)).claims.isEmpty
  match coolest temps near with
  | some m => some m
  | none => coolest temps far

/-- THERMAL_MOVE (R113): core op.a exceeds therm_limit; op.pairs holds core temperatures. Its strand stops at a boundary and its move
begins, its cache written back and emptied (R190); where R113 forbids a move the throttle divider is doubled. -/
def execThermalMove (s : State) : Out :=
  let n := s.op.a
  match s.strand n with
  | none => notEnabled "THERMAL_MOVE"
  | some x =>
    let c := s.coreCfg n
    if Tbl.getD s.op.pairs n 0 ≤ s.power.thermLimit || x.phase != .live || c.moveTo.isSome then notEnabled "THERMAL_MOVE"
    else if x.gang.tacked || x.halted then .next ((s.setCore n { c with hot := true }).retune n)
    else match moveTargetOf s s.op.pairs n x with
    | none => .next ((s.setCore n { c with hot := true }).retune n)
    | some t =>
      if x.wait.isSome || s.engineInto n || !(s.runningOf n).isEmpty then notEnabled "THERMAL_MOVE"
      else .next ((((s.setCore n { c with moveTo := some t }).settleCore n).writeBackAll n).onStrand n fun y => { y with phase := .moving, cache := [] })

/-- Report a thermal move of core `n` (R37) in the device's and the partition's log: severity 1, the core's die and number there. R37 names no
class for it: it is a free value (log 7). -/
def State.logMove (s : State) (n p : Nat) : State :=
  let f := s.free (2 ^ 8)
  let e : ErrInfo := ⟨f.1, 1, p, 0, 0⟩
  (f.2.logDevice e (n / 1024) (n % 1024)).logPart e (n / 1024) (n % 1024)

/-- THERMAL_MOVE_DONE (R114): the move of core op.a's strand ends: the two logical cores exchange their sites, the interval is
excluded, the strand goes on. The pool that the strand has left serves its claims, and the site that it has left is idle from now (R109). -/
def execThermalMoveDone (s : State) : Out :=
  let n := s.op.a
  let c := s.coreCfg n
  match c.moveTo, s.strand n with
  | some t, some x =>
    if x.phase != .moving then notEnabled "THERMAL_MOVE_DONE"
    else
      let d := s.coreCfg t
      let s1 := (s.setCore n { c with site := d.site, moveTo := none }).setCore t { d with site := c.site, idle := s.tick }
      let y := x.spend 2 (gapTicks x.now s.tick (s.divOf n))
      .next (((s1.setStrand n { y with phase := .live }).serve (s.poolOf n)).logMove n x.id.part)
  | _, _ => notEnabled "THERMAL_MOVE_DONE"

/-- THERM_LIMIT_CLEARED (R113): core op.a, whose divider was doubled for heat, is at op.b degrees, below therm_limit. -/
def execThermLimitCleared (s : State) : Out :=
  let c := s.coreCfg s.op.a
  if c.hot && decide (s.op.b < s.power.thermLimit) then .next ((s.setCore s.op.a { c with hot := false }).retune s.op.a)
  else notEnabled "THERM_LIMIT_CLEARED"

/-! ### Energy (R133) -/

/-- ENERGY_EXHAUSTED (R133): the energy estimate of virtual device op.b of partition op.a has grown to op.c µJ. At its quota, where it has
one, the virtual device is exhausted; what goes beyond is its overrun. Its strands that stand at a boundary take the divider 16; the step comes again
for each of the others at its boundary (`State.deadlines`). -/
def execEnergyExhausted (s : State) : Out :=
  match s.part s.op.a with
  | none => notEnabled "ENERGY_EXHAUSTED"
  | some q =>
    let d := q.vd s.op.b
    if s.op.c < d.usedUj then notEnabled "ENERGY_EXHAUSTED"
    else if d.quotaUj = 0 ∨ s.op.c < d.quotaUj then .next (s.setPart s.op.a (q.setVd s.op.b { d with usedUj := s.op.c }))
    else
      let e : Vd := { d with usedUj := s.op.c, overrunUj := s.op.c - d.quotaUj, exhausted := true }
      let s1 := s.setPart s.op.a (q.setVd s.op.b e)
      .next ((s1.strandsOf s.op.a s.op.b).foldl (fun (z : State) x => z.energyDiv x.1 x.2) s1)

end Sys2Proof.Machine
end

