-- ==== Sys2Proof/Machine/Debug.lean ====
section
/-! DEFINITION. The debugger (R145, R146). -/
namespace Sys2Proof.Machine

/-! ### Halting -/

/-- The strand stands at an instruction boundary for the debugger: between two instructions or in a supervisor trap (R136). -/
def Strand.atRest (x : Strand) : Bool :=
  x.phase == .live && match x.wait with
  | none => true
  | some (.supervisor _ _ _ _) => true
  | _ => false

/-- The strand can be halted at once: it is at rest, or waits in an instruction that a halt abandons (R420). -/
def State.rests (s : State) (n : Nat) (x : Strand) : Bool := x.atRest || (x.phase == .live && s.abandons n x)

/-- An entry of the halt record: its index and the PC of the instruction that enqueued it. -/
def haltEntries (pcs : List Nat) : List Byte := pcs.zipIdx.flatMap fun e => bytesOf e.2 8 ++ bytesOf e.1 8

/-- The halt record (R146): PC, TCAUSE, the counts of the vector, matrix and copy queues, their entries (layout: log 13). -/
def haltRecord (x : Strand) : List Byte :=
  bytesOf x.pc 8 ++ bytesOf (x.csrAt 0x22#7).toNat 8 ++ bytesOf x.vq.length 4 ++ bytesOf x.mq.length 4 ++ bytesOf x.cq.length 4 ++
    bytesOf 0 4 ++ haltEntries (x.vq.map (·.pc)) ++ haltEntries (x.mq.map (·.pc)) ++ haltEntries (x.cq.map (·.pc))

/-- Set the debugger's status. -/
def State.dbgStatus (s : State) (p st : Nat) : State := s.onPart p fun q => { q with page := { q.page with dbgStat := BitVec.ofNat 32 st } }

/-- Halt a strand that stands at a boundary or leaves its instruction, with its gang, and write its halt record (R145, R420). -/
def State.haltNow (s : State) (n : Nat) (x : Strand) : State :=
  let ms := x.members n
  let s0 := ms.foldl (fun (z : State) m => match z.strand m with
    | some y => if y.atRest then z else z.abandon m y
    | none => z) (s.settleAll ms)
  let s1 := ms.foldl (fun (z : State) m => z.onStrand m fun y => { y with halted := true, haltReq := false, stepping := false }) s0
  let a := ((s1.part x.id.part).map (·.page.dbgAddr.toNat)).getD 0
  let s2 := match homeWrite s1 ⟨x.id.part, x.id.vd, 0⟩ (locOf noCore a) (haltRecord ((s1.strand n).getD x)) false with
    | .ok _ z => z
    | _ => s1
  s2.dbgStatus x.id.part stOk

/-! ### Commands -/

/-- The shape of a debugger command: the supervisor of partition op.a writes the command word with core op.b and argument op.c. -/
def debugStep (op : Nat) (mn : String) (f : State → Nat → Nat → State × Nat) (s : State) : Out :=
  onLink s <| match s.part s.op.a with
  | none => notEnabled mn
  | some q =>
    let n := s.op.b % 2 ^ 16
    let arg := s.op.c % 2 ^ 32
    let s1 := s.setPart s.op.a { q with page := { q.page with dbgCmd := BitVec.ofNat 64 (op + n * 2 ^ 16 + arg * 2 ^ 32) } }
    if 2048 ≤ n ∨ !s.coreIn s.op.a n then .next (s1.dbgStatus s.op.a stInvalid)
    else
      let r := f s1 n arg
      .next (r.1.dbgStatus s.op.a r.2)

/-- The strand of a core that belongs to the partition. -/
def State.dbgStrand (s : State) (n : Nat) : Option Strand := (s.strand n).bind fun x => if x.phase = .placed then none else some x

/-- HALT (R145): one that must wait for its boundary is answered busy until then. A wait that R420 lists is abandoned. -/
def execHalt (s : State) : Out :=
  debugStep 1 "HALT" (fun s n _ =>
    match s.dbgStrand n with
    | none => (s, stInvalid)
    | some x =>
      if (x.members n).all fun m => ((s.strand m).map (s.rests m)).getD true then (s.haltNow n x, stOk)
      else ((x.members n).foldl (fun (z : State) m => z.onStrand m fun y => { y with haltReq := true }) s, stBusy)) s

/-- Go on from a halt: a supervisor trap in which the strand rests ends. -/
def Strand.goOn (x : Strand) (step : Bool) : Strand :=
  let y := { x with halted := false, haltReq := false, stepping := step }
  match y.wait with
  | some (.supervisor _ _ _ _) => { y with wait := none }
  | _ => y

/-- RESUME and STEP: the members of a gang together. -/
def resumeAll (step : Bool) (s : State) (n : Nat) : State × Nat :=
  match s.dbgStrand n with
  | none => (s, stInvalid)
  | some x =>
    let ms := x.members n
    (ms.foldl (fun (z : State) m => z.onStrand m (·.goOn step)) (s.settleAll ms), stOk)

/-- RESUME (R145). -/
def execResume (s : State) : Out := debugStep 2 "RESUME" (fun s n _ => resumeAll false s n) s

/-- STEP (R145): the debug trap follows at the next boundary. -/
def execStep (s : State) : Out := debugStep 3 "STEP" (fun s n _ => resumeAll true s n) s

/-- BREAK (R145): arg holds a code offset and a slot; offset 0 clears the slot. -/
def execBreakpoint (s : State) : Out :=
  debugStep 6 "BREAK" (fun s n arg =>
    let c := s.coreCfg n
    if h : arg % 4 < 4 then (s.setCore n { c with breaks := c.breaks.set (arg % 4) (arg / 4 * 4) h }, stOk) else (s, stInvalid)) s

/-! ### Registers -/

/-- A register identifier (R145). -/
inductive DbgReg where
  | g (r : BitVec 6)
  | v (r : BitVec 7)
  | p (r : BitVec 3)
  | csr (c : BitVec 7)
  | pc
deriving DecidableEq, Repr

/-- The register that an identifier names. -/
def dbgReg (id : Nat) : Option DbgReg :=
  if id < 0x40 then some (.g (BitVec.ofNat 6 id))
  else if 0x100 ≤ id ∧ id < 0x180 then some (.v (BitVec.ofNat 7 (id - 0x100)))
  else if 0x200 ≤ id ∧ id < 0x208 then some (.p (BitVec.ofNat 3 (id - 0x200)))
  else if 0x300 ≤ id ∧ id ≤ 0x37E then some (.csr (BitVec.ofNat 7 (id - 0x300)))
  else if id = 0x400 then some .pc
  else none

/-- A v position not held, a CSR that R169 does not list, or for a write one that it marks R, is invalid (R145). -/
def DbgReg.allowed (r : DbgReg) (x : Strand) (write : Bool) : Bool :=
  match r with
  | .v i => x.holds i.toNat
  | .csr c => match csrKind c with
    | .absent => false
    | .r => !write
    | .rw => true
  | _ => true

/-- An absent granule comes from its image before its register is touched (R129). -/
def State.readyReg (s : State) (n : Nat) (x : Strand) (r : DbgReg) : State :=
  match r with
  | .v i => if x.granAbsent.getLsbD (i.toNat / 8) then s.fillGran n (i.toNat / 8) else s
  | _ => s

/-- The value and tag of a register. -/
def readReg (s : State) (n : Nat) (x : Strand) : DbgReg → W512 × Bool
  | .g r => ((x.getG r).bits.setWidth 512, (x.getG r).tag)
  | .v r => (x.getV r, false)
  | .p r => ((x.getP r).setWidth 512, false)
  | .csr c => (((readCsr s n x c).bits.setWidth 64).setWidth 512, false)
  | .pc => (BitVec.ofNat 512 x.pc, false)

/-- Write a register (R145): a tag only where the value meets R202 and carries the partition's domain. -/
def writeReg (x : Strand) (data : W512) (tag : Bool) : DbgReg → Strand
  | .g r =>
    let w : W128 := data.setWidth 128
    { x.setG r ⟨w, tag && (capOf w).ok && (capOf w).domain == x.id.part⟩ with gRdy := x.gRdy.del r.toNat }
  | .v r => x.setV r data
  | .p r => x.setP r (data.setWidth 16)
  | .csr c => writeCsr x c (data.setWidth 64)
  | .pc => { x with pc := (data.setWidth 64).toNat }

/-- A write to SELV must be one that CSRW could make (R166). -/
def selvRefused (s : State) (n : Nat) (x : Strand) (r : DbgReg) (data : W512) : Bool :=
  match r with
  | .csr c => c == 0x20#7 && (selvFault s n x (bitsN data 18 0)).isSome
  | _ => false

/-- RDREG (R145). -/
def execRdreg (s : State) : Out :=
  debugStep 4 "RDREG" (fun s n arg =>
    match s.dbgStrand n with
    | none => (s, stBusy)
    | some x =>
      if !x.halted then (s, stBusy)
      else match dbgReg (arg % 2 ^ 16) with
      | none => (s, stInvalid)
      | some r =>
        if !r.allowed x false then (s, stInvalid)
        else
          let s1 := s.readyReg n x r
          let v := readReg s1 n ((s1.strand n).getD x) r
          (s1.onPart x.id.part fun q => { q with page := { q.page with dbgData := v.1, dbgTag := v.2 } }, stOk)) s

/-- WRREG (R145, R146). -/
def execWrreg (s : State) : Out :=
  debugStep 7 "WRREG" (fun s n arg =>
    match s.dbgStrand n, s.part s.op.a with
    | some x, some q =>
      if !x.halted then (s, stBusy)
      else match dbgReg (arg % 2 ^ 16) with
      | none => (s, stInvalid)
      | some r =>
        if !r.allowed x true || selvRefused s n x r q.page.dbgData then (s, stInvalid)
        else ((s.readyReg n x r).onStrand n fun y => writeReg y q.page.dbgData q.page.dbgTag r, stOk)
    | _, _ => (s, stBusy)) s

/-! ### Cancelling queue entries (R146) -/

/-- Commands wait for no more entries of the vector queue than there are. -/
def Strand.clampAfter (x : Strand) : Strand :=
  let f := fun c : Cmd => { c with after := min c.after x.vq.length }
  { x with mq := x.mq.map f, cq := x.cq.map f }

/-- CANCEL (R146): arg names the first entry and the queue; it and all later entries are removed with their locks, and their
destinations are idle from now (R109). -/
def execCancel (s : State) : Out :=
  debugStep 5 "CANCEL" (fun s n arg =>
    let i := arg % 16
    let which := arg / 16 % 4
    match s.dbgStrand n with
    | none => (s, stInvalid)
    | some x =>
      if which = 0 then
        let gone := (x.vq.drop i).filterMap fun q => match q.ins with
          | .vext d _ _ _ => some d.toNat
          | _ => none
        let y := { x with vq := x.vq.take i, gPend := gone.foldl (fun (l : List Nat) d => l.erase d) x.gPend }
        (s.setStrand n y.clampAfter, stOk)
      else if which = 1 then
        let gone := x.mq.drop i
        (gone.foldl (fun (z : State) c => z.dropLocks n (·.cmd == c.id))
          ((s.setStrand n { x with mq := x.mq.take i }).idleFrom (gone.flatMap Cmd.targets)), stOk)
      else if which = 2 then
        let gone := x.cq.drop i
        let s1 := s.setStrand n { x with cq := x.cq.take i }
        let s2 : State := { s1 with copies := s1.copies.filter fun k => k.phase != .granted || !gone.any fun c => c.id == k.cmd.id }
        (gone.foldl (fun (z : State) c => z.dropLocks n (·.cmd == c.id)) (s2.idleFrom (gone.flatMap Cmd.targets)), stOk)
      else (s, stInvalid)) s

end Sys2Proof.Machine
end

