-- ==== Sys2Proof/Machine/Translate.lean ====
section
/-! DEFINITION. The supervisor's translation commands and migrations (R206 to R215). -/
namespace Sys2Proof.Machine

/-! ### Region words and frame ranges (R207 to R209, R211) -/

/-- The owning partition of a region word. -/
def rgPart (r : W64) : Nat := bitsN r 63 58
/-- The first slice of a region's set. -/
def rgBase (r : W64) : Nat := bitsN r 57 51
/-- m of a region's set. -/
def rgLog2 (r : W64) : Nat := bitsN r 50 48
/-- The address of a 1 GiB leaf's bitmap. -/
def rgBmap (r : W64) : Nat := bitsN r 38 12 * 4096

/-- Two byte ranges meet. -/
def rangesMeet (a n b m : Nat) : Bool := decide (a < b + m) && decide (b < a + n)

/-- The frame range of a local leaf: what each slice of its set holds of it, as device physical ranges. -/
def frameRanges (r t : W64) (plog : Nat) : List (Nat × Nat) :=
  (List.range (2 ^ rgLog2 r)).map fun i => ((rgBase r + i) * 2 ^ 32 + tAddr t, 2 ^ plog / 2 ^ rgLog2 r)

/-- The page nodes of a partition with the bitmaps that follow them. R211 says nothing of the bitmap of a 1 GiB leaf. -/
def State.nodeRanges (s : State) (p : Nat) : List (Nat × Nat) :=
  s.dir.filterMap fun e =>
    if rgPart e.2.r ≠ p ∨ tState e.2.t ≠ 1 || tLeaf e.2.t then none else some (tAddr e.2.t, 0x9000)

/-- The level-1 entries of a region: page number in it and word. -/
def State.pagesOf (s : State) (d : DirEntry) : List (Nat × W64) :=
  (List.range 512).map fun k => (k, s.hbmWord (tAddr d.t + 8 * k))

/-- The frame ranges of the mapped local leaves of a partition, but for one page (region, page). -/
def State.leafRanges (s : State) (p : Nat) (but : Option (Nat × Nat)) : List (Nat × Nat) :=
  s.dir.flatMap fun e =>
    if rgPart e.2.r ≠ p ∨ tState e.2.t ≠ 1 then []
    else if tLeaf e.2.t then frameRanges e.2.r e.2.t 30
    else (s.pagesOf e.2).flatMap fun k =>
      if tState k.2 = 1 ∧ but ≠ some (e.1, k.1) then frameRanges e.2.r k.2 21 else []

/-- The frame ranges of a 2 MiB page, also of one inside a 1 GiB leaf (R209). -/
def State.framesOf (s : State) (a : Nat) : List (Nat × Nat) :=
  match s.region a with
  | none => []
  | some d =>
    let part := fun (t : W64) (off : Nat) =>
      (frameRanges d.r t 21).map fun f => (f.1 + off / 2 ^ rgLog2 d.r, f.2)
    if tLeaf d.t then (if tState d.t = 1 then part d.t (a % 2 ^ 30) else [])
    else if tState d.t = 1 then
      let w := s.hbmWord (tAddr d.t + 8 * (a / 2 ^ 21 % 2 ^ 9))
      if tState w = 1 then part w 0 else []
    else []

/-- The pages of a partition's save areas (R123): an area of 1 MiB a core that begins inside a page ends inside one. -/
def Partition.savePages (q : Partition) : List Nat :=
  q.vds.flatMap fun e =>
    let b := e.2.saveBase.toNat
    if b = 0 then []
    else (List.range (8 * nodeSize q.node + if b % 2 ^ 21 = 0 then 0 else 1)).map fun i => b / 2 ^ 21 * 2 ^ 21 + 2 ^ 21 * i

/-- The frame ranges of a partition's save areas, but for one page (R211). -/
def State.saveRanges (s : State) (p : Nat) (but : Option Nat) : List (Nat × Nat) :=
  match s.part p with
  | none => []
  | some q => (q.savePages.filter fun b => some b != but).flatMap s.framesOf

/-- A range meets none of a list. -/
def clearOf (a n : Nat) (rs : List (Nat × Nat)) : Bool := !rs.any fun r => rangesMeet a n r.1 r.2

/-- A device physical range lies in one slice of a partition's set, below the reserve. -/
def State.ownRange (s : State) (p a n : Nat) : Bool :=
  s.sliceIn p (a / 2 ^ 32) && decide (a % 2 ^ 32 + n ≤ reserveAt)

/-- The frame of a leaf is well formed (R207, R211): a multiple of its share, in the slices of its set below the reserve, clear of the nodes
and of the frames of save areas at other pages than `but`, its own. -/
def State.frameOk (s : State) (p : Nat) (r t : W64) (plog : Nat) (but : Option Nat) : Bool :=
  if tState t = 1 then
    tAddr t % (2 ^ plog / 2 ^ rgLog2 r) == 0 && decide (tAddr t < 2 ^ 32) &&
    (frameRanges r t plog).all fun f => s.ownRange p f.1 f.2 && clearOf f.1 f.2 (s.nodeRanges p) && clearOf f.1 f.2 (s.saveRanges p but)
  else if tState t = 2 then tAddr t % 2 ^ plog == 0
  else true

/-- The save areas in the page or region at `a` keep clear of every other leaf under its new word `t` (R211). -/
def State.saveOk (s : State) (p : Nat) (q : Partition) (a : Nat) (r t : W64) (plog : Nat) : Bool :=
  tState t != 1 || (q.savePages.filter fun b => b / 2 ^ plog == a / 2 ^ plog).all fun b =>
    (frameRanges r t 21).all fun f =>
      clearOf (f.1 + b % 2 ^ plog / 2 ^ rgLog2 r) f.2 (s.leafRanges p (some (a / 2 ^ 30, a / 2 ^ 21 % 2 ^ 9)))

/-- A page node, or a bitmap, is well formed (R211). -/
def State.nodeOk (s : State) (p a n : Nat) : Bool := s.ownRange p a n && clearOf a n (s.leafRanges p none)

/-! ### The shape of a command (R212) -/

/-- Write the status and result of a translation command. -/
def State.trStatus (s : State) (p st : Nat) (res : Option W64) : State :=
  s.onPart p fun q => { q with page := { q.page with trStat := BitVec.ofNat 32 st, trRes := res.getD q.page.trRes } }

/-- A translation command: the supervisor of partition op.a writes the command word; its arguments stand in the block. -/
def translateStep (op : Nat) (mn : String) (f : State → Nat → Partition → State × Nat × Option W64) (s : State) : Out :=
  onLink s <| match s.part s.op.a with
  | none => notEnabled mn
  | some q =>
    let q1 := { q with page := { q.page with trCmd := BitVec.ofNat 64 op } }
    let r := f (s.setPart s.op.a q1) s.op.a q1
    .next (r.1.trStatus s.op.a r.2.1 r.2.2)

/-- TRANSLATION_OP_INVALID (R212): a command word op.b whose op is not listed. -/
def execTranslationOpInvalid (s : State) : Out :=
  let op := s.op.b % 256
  if 1 ≤ op ∧ op ≤ 5 then notEnabled "TRANSLATION_OP_INVALID"
  else translateStep s.op.b "TRANSLATION_OP_INVALID" (fun z _ _ => (z, stInvalid, none)) s

/-- Write back the last-level lines of an address range and drop them. -/
def State.flushLlc (s : State) (a n : Nat) (drop : Bool) : State :=
  let hit := fun k : LlcLine => decide (a ≤ k.line.va * 256) && decide (k.line.va * 256 < a + n)
  let s1 := (s.llc.filter hit).foldl (fun (z : State) k => z.llcClean k) s
  if drop then { s1 with llc := s1.llc.filter fun k => !hit k } else s1

/-- Invalidate a region in the protection lookaside buffers of a partition (R212): of its strands, and of its cores on which none is resident. Another
partition's keep it as they have it (R208). -/
def State.forgetRegion (s : State) (p g : Nat) : State :=
  { s with
    strands := s.strands.map fun e => if e.2.id.part = p then (e.1, { e.2 with plb := e.2.plb.del g }) else e
    cores := s.cores.map fun e => if s.coreIn p e.1 then (e.1, { e.2 with plb := e.2.plb.del g }) else e }

/-! ### MAPR and UNMAPR (R212) -/

/-- What makes MAPR invalid. Of a word with state 3 hardware ignores bits 61:0 (R207). -/
def maprInvalid (s : State) (p : Nat) (q : Partition) (a : Nat) (t r : W64) : Bool :=
  let m := rgLog2 r
  decide (a < 0x10000000000) || a % 2 ^ 30 != 0 || decide (2 ^ 57 ≤ a) || (tState t != 3 && bitsN t 55 50 != 0) || bitsN r 43 39 != 0 || bitsN r 11 0 != 0 ||
  rgPart r != p || rgBase r % 2 ^ m != 0 || decide (rgBase r < q.sliceBase) || decide (q.sliceBase + 2 ^ q.sliceLog2 < rgBase r + 2 ^ m) ||
  (if tLeaf t then !s.frameOk p r t 30 none || !s.saveOk p q a r t 30
   else tState t == 1 && (!tPin t || !s.nodeOk p (tAddr t) 0x9000 || decide (tAddr t / 2 ^ 32 < rgBase r) ||
      decide (rgBase r + 2 ^ m ≤ tAddr t / 2 ^ 32)))

/-- MAPR (R212). -/
def execMapr (s : State) : Out :=
  translateStep 1 "MAPR" (fun s p q =>
    let a := q.page.trArg0.toNat
    let t := q.page.trArg1
    let r := q.page.trArg2
    if maprInvalid s p q a t r then (s, stInvalid, none)
    else if (s.region a).isSome then (s, stBusy, none)
    else ((s.setDir (a / 2 ^ 30) (some ⟨t, r⟩)).forgetRegion p (a / 2 ^ 30), stOk, none)) s

/-- UNMAPR (R212): busy first, whatever the address names; of another partition's region it is invalid (log 43). -/
def execUnmapr (s : State) : Out :=
  translateStep 2 "UNMAPR" (fun s p q =>
    let a := q.page.trArg0.toNat
    if s.resident p || s.engineBusy p then (s, stBusy, none)
    else match s.region a with
    | none => (s, stOk, none)
    | some d =>
      if rgPart d.r ≠ p then (s, stInvalid, none)
      else
        let s1 := s.flushLlc (a / 2 ^ 30 * 2 ^ 30) (2 ^ 30) true
        ((s1.setDir (a / 2 ^ 30) none).forgetRegion p (a / 2 ^ 30), stOk, none)) s

/-! ### MAPP and DIRTY (R212, R215) -/

/-- The region of a page address where the partition has page nodes there. -/
def State.nodeRegion (s : State) (p a : Nat) : Option DirEntry :=
  match s.region a with
  | some d => if rgPart d.r = p ∧ !tLeaf d.t ∧ tState d.t = 1 then some d else none
  | none => none

/-- The address of a level-1 entry. -/
def pageEntryAt (d : DirEntry) (a : Nat) : Nat := tAddr d.t + 8 * (a / 2 ^ 21 % 2 ^ 9)

/-- Write a doubleword of HBM. -/
def State.setHbmWord (s : State) (pa : Nat) (w : W64) : State := { s with hbm := s.hbm.writeList pa (bytesOf w.toNat 8) }

/-- A page is being migrated: its word has mig, which hardware ignores where the word's state is 3 (R207), or the move is under way. -/
def Partition.migrating (q : Partition) (a : Nat) (old : W64) : Bool := tState old != 3 && tMig old || q.migrations.any (·.page == a)

/-- MAPP (R212): the old word is the result. -/
def execMapp (s : State) : Out :=
  translateStep 3 "MAPP" (fun s p q =>
    let a := q.page.trArg0.toNat
    let t := q.page.trArg1
    match s.nodeRegion p a with
    | none => (s, stInvalid, none)
    | some d =>
      let old := s.hbmWord (pageEntryAt d a)
      if a % 2 ^ 21 ≠ 0 ∨ tMig t ∨ bitsN t 55 50 ≠ 0 ∧ tState t ≠ 3 ∨ (tState t = 1 ∨ tState t = 2) ∧ !tLeaf t ∨ !s.frameOk p d.r t 21 (some a) ∨
          !s.saveOk p q a d.r t 21 then
        (s, stInvalid, none)
      else if q.migrating a old then (s, stBusy, none)
      else
        let s1 := if tState old = 1 ∨ tState old = 2 then s.flushLlc a (2 ^ 21) true else s
        (s1.setHbmWord (pageEntryAt d a) t, stOk, some old)) s

/-- The address of a 2 MiB page's 64 dirty bytes (R215): of a 1 GiB leaf its part of the large bitmap. -/
def bitmapAt (d : DirEntry) (a : Nat) : Nat :=
  let k := a / 2 ^ 21 % 2 ^ 9
  if tLeaf d.t then rgBmap d.r + 64 * k else tAddr d.t + 0x1000 + 64 * k

/-- The bitmap bytes of a page: zero where its frame is not local. -/
def State.bitmapOf (s : State) (d : DirEntry) (a : Nat) : List Byte :=
  let t := if tLeaf d.t then d.t else s.hbmWord (pageEntryAt d a)
  if tState t = 2 then List.replicate 64 0 else s.hbm.readList (bitmapAt d a) 64

/-- DIRTY (R212). A destination whose page is being migrated takes the bytes once that is over (R214). -/
def execDirty (s : State) : Out :=
  translateStep 4 "DIRTY" (fun s p q =>
    let a := q.page.trArg0.toNat
    let dst := q.page.trArg1.toNat
    match s.region a with
    | none => (s, stInvalid, none)
    | some d =>
      if rgPart d.r ≠ p ∨ tState d.t ≠ 1 ∧ !tLeaf d.t ∨ dst % 64 ≠ 0 ∨ !packetRange s noCore p dst 64 then (s, stInvalid, none)
      else
        let clear := fun z : State =>
          if bit1 q.page.trArg2 0 && tState (if tLeaf d.t then d.t else s.hbmWord (pageEntryAt d a)) != 2 then
            { z with hbm := z.hbm.writeList (bitmapAt d a) (List.replicate 64 0) } else z
        match homeWrite s ⟨p, 0, 0⟩ (locOf noCore dst) (s.bitmapOf d a) false with
        | .ok _ s1 => (clear s1, stOk, none)
        | .held => (clear { s with heldWrites := s.heldWrites ++
            [⟨noCore, p, 0, lineOfBytes (dst / 256) (dst % 256) (s.bitmapOf d a) false, 0⟩] }, stOk, none)
        | .fault _ _ => (s, stInvalid, none)) s

/-! ### Migration (R213, R214) -/

/-- A page lies in the save area of a virtual device (R123). -/
def Partition.inSaveArea (q : Partition) (a : Nat) : Bool :=
  q.vds.any fun e => e.2.saveBase != 0 && rangesMeet a (2 ^ 21) e.2.saveBase.toNat (2 ^ 20 * 16 * nodeSize q.node)

/-- The port and target of a page at a peer (R207). -/
def peerOf (t : W64) : Nat × Nat := (bitsN t 53 50, bitsN t 49 21 * 2 ^ 21)

/-- The target word has a form of R213. -/
def targetOk (s : State) (p : Nat) (d : DirEntry) (t : W64) : Bool :=
  if tMig t then false
  else if tState t = 1 then
    tLeaf t && bitsN t 55 50 == 0 && s.frameOk p d.r t 21 none && (frameRanges d.r t 21).all fun f => clearOf f.1 f.2 (s.leafRanges p none)
  else if tState t = 2 then tLeaf t && bitsN t 55 50 == 0 && tAddr t % 2 ^ 21 == 0
  else tState t == 3 && decide ((peerOf t).1 < 12)

/-- The old word of a migration is invalid (R213): absent, pinned, not at a peer where it is non-resident, a frame that holds page
nodes or a save area. -/
def sourceBad (s : State) (p : Nat) (q : Partition) (d : DirEntry) (a : Nat) (old : W64) : Bool :=
  tState old == 0 || (tState old != 3 && tPin old) || (tState old == 3 && decide (12 ≤ (peerOf old).1)) || (tState old != 3 && !tLeaf old) || q.inSaveArea a ||
  (tState old == 1 && !(frameRanges d.r old 21).all fun f => clearOf f.1 f.2 (s.nodeRanges p) && clearOf f.1 f.2 (s.saveRanges p (some a)))

/-- A pull record of type 2 (R15). -/
def pullRecord (src dest units knot : Nat) : List Byte :=
  bytesOf (2 + src / 4096 * 4096 + dest * 2 ^ 64 + units * 2 ^ 160 + knot * 2 ^ 192) 32

/-- MIGRATE (R213): mig is set, the page's dirty lines go to the old frame; from a peer the page is pulled. Before the command bits 61:0 of a
word with state 3 mean nothing to hardware (R207), mig among them. -/
def execMigrate (s : State) : Out :=
  translateStep 5 "MIGRATE" (fun s p q =>
    let a := q.page.trArg0.toNat
    let t := q.page.trArg1
    let k := q.page.trArg2
    match s.nodeRegion p a with
    | none => (s, stInvalid, none)
    | some d =>
      let old := s.hbmWord (pageEntryAt d a)
      let far := tState old == 3
      if a % 2 ^ 21 ≠ 0 then (s, stInvalid, none)
      else if q.migrating a old then (s, stBusy, none)
      else if sourceBad s p q d a old || !targetOk s p d t || (k != 0 && (k.toNat % 32 != 0 || !packetRange s noCore p k.toNat 32)) then
        (s, stInvalid, none)
      else
        let s1 := s.flushLlc a (2 ^ 21) false
        let s2 := s1.setHbmWord (pageEntryAt d a) (old ||| (1#64 <<< 61))
        let s3 := s2.onPart p fun x => { x with migrations := x.migrations ++ [⟨a, t, k, old⟩] }
        (if far then s3.emit (.frame (peerOf old).1 apertureSignal (pullRecord (peerOf old).2 a 512 0)) else s3, stOk, none)) s

/-- Copy one line of a migrating page between local and host frames, with poison, and tags where both are local (R328). -/
def moveLine (a : Nat) (old new : W64) (s : State) (i : Nat) : State :=
  let va := a + 256 * i
  let l := { s.memLine va old 21 with mask := BitVec.allOnes 256 }
  let pa := s.frameOf va new 21
  if tState new = 2 then { s with host := s.host.writeLine pa l false }
  else { s with hbm := s.hbm.writeLine pa (if tState old = 1 then l else { l with tags := 0 }) true }

/-- The page as it goes to a peer: each line under the partition's key, the line's virtual address as the tweak (R213). -/
def pageFrames (s : State) (x : Partition) (a : Nat) (old : W64) : List (List Byte) :=
  (List.range 8192).map fun i =>
    let l := s.memLine (a + 256 * i) old 21
    padTo 256 (Config.xtsEncrypt x.keys (a + 256 * i) (bytesOf l.data.toNat 256))

/-- Write a page that has come from a peer into the target frame. -/
def landPage (s : State) (x : Partition) (a : Nat) (new : W64) (bs : List Byte) : State :=
  (List.range 8192).foldl (fun (z : State) i =>
    let pl := padTo 256 (Config.xtsDecrypt x.keys (a + 256 * i) ((bs.drop (256 * i)).take 256))
    let l := lineOfBytes ((a + 256 * i) / 256) 0 pl false
    let pa := z.frameOf (a + 256 * i) new 21
    if tState new = 2 then { z with host := z.host.writeLine pa l false } else { z with hbm := z.hbm.writeLine pa l true }) s

/-- The copy of a migration: none where it fails. `bs` is what a peer has sent (log 14). -/
def copyPage (s : State) (x : Partition) (m : Migration) (bs : List Byte) : Option State :=
  let toPeer := peerOf m.target
  if tState m.old = 3 then
    if bs.length ≠ 2 ^ 21 then none
    else if tState m.target = 3 then
      (if s.portUp toPeer.1 then some (sendFrames toPeer.1 false (frameCuts 8193 bs) toPeer.2 [] s) else none)
    else some (landPage s x m.page m.target bs)
  else if tState m.target = 3 then
    (if s.portUp toPeer.1 then some (sendFrames toPeer.1 false (pageFrames s x m.page m.old) toPeer.2 [] s) else none)
  else some ((List.range 8192).foldl (moveLine m.page m.old m.target) s)

/-- Release the held writes of a page: they go on as write-backs under the entry now in force (R213, R214). -/
def State.releaseHeld (s : State) (a : Nat) : State :=
  let hit := fun h : HeldWrite => h.line.va * 256 / 2 ^ 21 == a / 2 ^ 21
  let back := (s.heldWrites.filter hit).map fun h => Msg.writeback h.core h.part h.vd h.line h.cpol false
  { s with heldWrites := s.heldWrites.filter (fun h => !hit h), flight := back ++ s.flight }

/-- Signal a migration's knot (R213): count + 1, the error flag where the copy failed. -/
def migrationSignal (s : State) (p : Nat) (knot : W64) (err : Bool) : State :=
  if knot = 0 then s else s.send (.signal ⟨noCore, false, p, 0, locOf noCore knot.toNat, 1, 0, 0, false, err, false⟩)

/-- MIGRATION_COMPLETE (R213): the copy of page op.b of partition op.a ends; op.flag says that it failed; op.data is what a peer
has sent. -/
def execMigrationComplete (s : State) : Out :=
  let p := s.op.a
  match s.part p with
  | none => notEnabled "MIGRATION_COMPLETE"
  | some x =>
    match x.migrations.find? (·.page == s.op.b), s.nodeRegion p s.op.b with
    | some m, some d =>
      let e := pageEntryAt d m.page
      let drop := fun z : State => z.onPart p fun q => { q with migrations := q.migrations.filter (·.page != m.page) }
      match (if s.op.flag then none else copyPage s x m s.op.data) with
      | none => .next (migrationSignal ((drop (s.setHbmWord e m.old)).releaseHeld m.page) p m.knot true)
      | some s1 =>
        let s2 : State := if tState m.target = 1 ∧ tState m.old ≠ 1 then
            { s1 with hbm := s1.hbm.writeList (bitmapAt d m.page) (List.replicate 64 0xFF) } else s1
        let s3 := if tState m.target = 1 then s2 else s2.flushLlc m.page (2 ^ 21) true
        .next (migrationSignal ((drop (s3.setHbmWord e m.target)).releaseHeld m.page) p m.knot false)
    | _, _ => notEnabled "MIGRATION_COMPLETE"

end Sys2Proof.Machine
end

