-- ==== Sys2Proof/Machine/Outside.lean ====
section
/-! DEFINITION. What the outside does to the device: the host's window (R10, R11), peer ports (R13 to R15, R243, R244), time (R16),
detected errors (R37), the lending of ways (R183), and register writes of the supervisor (R38). -/
namespace Sys2Proof.Machine

/-! ### The host's window (R10, R11) -/

/-- The partition that has opened byte `h` of the window. -/
def State.openedBy (s : State) (h : Nat) : Option Nat :=
  (s.parts.find? fun e =>
    let o := h - e.2.sliceBase * 0xC0000000
    decide (e.2.sliceBase * 0xC0000000 ≤ h) && decide (e.2.openBase * 2 ^ 21 ≤ o) && decide (o < (e.2.openBase + e.2.openLen) * 2 ^ 21)).map (·.1)

/-- The device physical address of a window offset. -/
def windowAddr (h : Nat) : Nat := h / 0xC0000000 * 2 ^ 32 + h % 0xC0000000

/-- The global address of the line whose frame lies at a device physical address, with its page size in bits: R209 turned
round. -/
def State.physLine (s : State) (p pa : Nat) : Option (Nat × Nat) :=
  (s.leavesOf p).findSome? fun l =>
    match walk s l.1 false, s.region l.1 with
    | .leaf t plog, some d =>
      let m := rgLog2 d.r
      let k := pa / 2 ^ 32 - rgBase d.r
      let o := pa % 2 ^ 32
      if rgBase d.r ≤ pa / 2 ^ 32 ∧ k < 2 ^ m ∧ tAddr t ≤ o ∧ o < tAddr t + 2 ^ plog / 2 ^ m then
        let j := (o - tAddr t) / 256
        let h := j % 2 ^ (7 - m) * 2 ^ m + k
        let hi := l.1 + j / 2 ^ (7 - m) * 2 ^ 15
        some (hi + (lineHash hi ^^^ h) * 256, plog)
      else none
    | _, _ => none

/-- The 64 bytes at a device physical address as their slice has them, and whether they are poisoned (R191). -/
def State.sliceRead (s : State) (p pa : Nat) : List Byte × Bool :=
  let mem := s.hbm.readList pa 64
  match (s.physLine p pa).bind fun v => s.llcLine (v.1 / 256) with
  | none => (mem, s.hbm.poisoned pa)
  | some k =>
    let o := pa % 256
    ((List.range 64).map (fun i => if k.line.has (o + i) then k.line.byte (o + i) else mem.getD i 0),
     if k.line.valid.getLsbD (o / 64) then k.line.poison.getLsbD (o / 64) else s.hbm.poisoned pa)

/-- HOST_WINDOW_READ (R10, R11): the host reads the 64 bytes at window offset op.b. The window ends at 384 GiB. -/
def execHostWindowRead (s : State) : Out :=
  let h := s.op.b / 64 * 64
  onLink s <| if 128 * 0xC0000000 ≤ h then .fault (.noSuchByte h)
  else match s.openedBy h with
  | none => .next (s.emit (.hostRead (List.replicate 64 0) true))
  | some p =>
    let r := s.sliceRead p (windowAddr h)
    .next (s.emit (.hostRead r.1 r.2))

/-- Write bytes at a device physical address of a partition at their slice (R191, R192): a cached line takes them, else HBM does and
the dirty bit of their unit is set (R215). -/
def State.sliceWrite (s : State) (p pa : Nat) (bs : List Byte) : State :=
  match s.physLine p pa with
  | none => { s.touch (.phys pa) bs.length with hbm := s.hbm.writeList pa bs }
  | some v =>
    let s0 := s.touch (.glob (v.1 + pa % 256)) bs.length
    match s0.llcLine (v.1 / 256) with
    | some k => s0.llcPut { k with line := k.line.merge (lineOfBytes (v.1 / 256) (pa % 256) bs false) }
    | none => ({ s0 with hbm := s0.hbm.writeList pa bs }).markDirty v.1 v.2

/-- The partition whose slices hold a slice's bytes (R28). -/
def State.partOfSlice (s : State) (sl : Nat) : Option Nat :=
  (s.parts.find? fun e => decide (e.2.sliceBase ≤ sl) && decide (sl < e.2.sliceBase + 2 ^ e.2.sliceLog2)).map (·.1)

/-- HOST_WINDOW_WRITE (R10, R11): the host writes op.data, within 64 bytes, at window offset op.b. To an unopened range it is
discarded and logged, in a partition's slices in that partition's log too (R37). DESIGN CHOICE (log 51): its class is 3, its severity 2. -/
def execHostWindowWrite (s : State) : Out :=
  let h := s.op.b
  if s.op.data.length = 0 ∨ 64 < h % 64 + s.op.data.length then notEnabled "HOST_WINDOW_WRITE"
  else onLink s <| if 128 * 0xC0000000 ≤ h then .fault (.noSuchByte h)
  else match s.openedBy h with
  | none =>
    let f := s.freePlace
    match s.partOfSlice (h / 0xC0000000) with
    | none => .next (f.2.logDevice ⟨3, 2, 0xFF, 0, 0⟩ f.1.1 f.1.2)
    | some p =>
      let e : ErrInfo := ⟨3, 2, p, 0, ((s.physLine p (windowAddr h)).map fun v => v.1 + windowAddr h % 256).getD 0⟩
      .next ((f.2.logDevice e f.1.1 f.1.2).logPart e f.1.1 f.1.2)
  | some p => .next (s.sliceWrite p (windowAddr h) s.op.data)

/-! ### Peer ports (R13, R14) -/

/-- Log an event of a port in the device log: class 4, the port's die and number there. R37 gives no severity: the model's are 1 for a
failed lane, 2 for a port that goes down and for a record it refuses (DESIGN CHOICE, log 51). -/
def State.logPort (s : State) (i sev : Nat) : State := s.logDevice ⟨4, sev, 0xFF, 0, 0⟩ (i / 6) (i % 6)

/-- Change a port. -/
def State.setPort (s : State) (i : Nat) (f : PeerPort → PeerPort) : State :=
  if h : i < 12 then { s with ports := s.ports.set i (f s.ports[i]) h } else s

/-- PORT_LANE_FAILURE (R13, R37): a lane of port op.a fails training. -/
def execPortLaneFailure (s : State) : Out :=
  if s.portUp s.op.a then .next ((s.setPort s.op.a fun p => { p with lanes := 2 }).logPort s.op.a 1)
  else notEnabled "PORT_LANE_FAILURE"

/-- A peer copy uses a port. -/
def State.usesPort (s : State) (c : Cmd) (i : Nat) : Bool :=
  c.op == .peer && (s.peerEntry c.part (decPeer c.word).entry.toNat).port == i

/-- PORT_DOWN (R14): port op.a exhausts its replay limit; its copies are marked to fail with class 2. -/
def execPortDown (s : State) : Out :=
  if !s.portUp s.op.a then notEnabled "PORT_DOWN"
  else
    let mark := fun k : CopyCmd => if s.usesPort k.cmd s.op.a && k.phase != .granted && k.fail.isNone then { k with fail := some 2 } else k
    .next (({ s with copies := s.copies.map mark }.setPort s.op.a fun p => { p with up := false }).logPort s.op.a 2)

/-- PORT_UP (R14, R37): the supervisor brings port op.a back. -/
def execPortUp (s : State) : Out :=
  if s.op.a < 12 ∧ s.portUp s.op.a = false then .next (s.setPort s.op.a fun p => { p with up := true, lanes := 4 })
  else notEnabled "PORT_UP"

/-! ### What peers send (R15, R243) -/

/-- A valid inbound entry of a port that holds `n` bytes at a global address: its partition and the entry. -/
def State.inboundAt (s : State) (port a n : Nat) : Option (Nat × PeerEntry) :=
  s.parts.findSome? fun e =>
    (List.range 16).findSome? fun i =>
      let x := s.peerEntry e.1 i
      if x.valid && x.inbound && x.port == port && decide (x.base ≤ a) && decide (a + n ≤ x.base + 4096 * x.pages) then some (e.1, x) else none

/-- PEER_SIGNAL_RECORD (R15): record op.w arrives at the signal aperture of port op.a. Records of unknown type, with a bit set that
must be zero, or for a knot outside the port's inbound entries are refused and logged. -/
def execPeerSignalRecord (s : State) : Out :=
  let w := s.op.w
  let t := bitsN w 3 0
  if !s.portUp s.op.a || t == 2 || t == 3 then notEnabled "PEER_SIGNAL_RECORD"
  else
    let a := bitsN w 63 5 * 32
    let bad := t != 1 || bit1 w 4 || bitsN w 95 64 != 0 || bitsN w 223 211 != 0
    match (if bad then none else s.inboundAt s.op.a a 32) with
    | none => .next (s.logPort s.op.a 2)
    | some (p, _) =>
      .next (s.send (.signal ⟨noCore, false, p, 0, locOf noCore a, w.extractLsb' 96 64, bitsN w 207 160, w.extractLsb' 224 32,
        bit1 w 208, bit1 w 209, bit1 w 210⟩))

/-- The signal record that answers a pull: +1 at the requester's knot, none for knot 0. -/
def answerPull (s : State) (port knot : Nat) (err psn : Bool) : State :=
  if knot = 0 then s else s.emit (.frame port apertureSignal (signalRecord knot 1 0 0 false err psn))

/-- Read the bytes that a pull asks for: none where they are outside the port's entries or cannot be read. -/
def pullRead (s : State) (port a n : Nat) : Option (List Byte × Bool × PeerEntry × State) :=
  match s.inboundAt port a n with
  | none => none
  | some (p, e) =>
    match engineRead s ⟨p, 0, 0⟩ (locOf noCore a) n none with
    | .ok (bs, bad, s1) => some (bs, !bad.isEmpty, e, s1)
    | .error _ => none

/-- PEER_PULL_RECORD (R15, type 2): record op.w arrives on port op.a; the source goes back on the same port. A refused pull is logged and its
knot signalled with the error flag. -/
def execPeerPullRecord (s : State) : Out :=
  let w := s.op.w
  if !s.portUp s.op.a || bitsN w 3 0 != 2 then notEnabled "PEER_PULL_RECORD"
  else
    let src := bitsN w 63 12 * 4096
    let dst := bitsN w 127 64
    let units := bitsN w 191 160
    let knot := bitsN w 255 192
    match (if bitsN w 11 4 ≠ 0 ∨ bitsN w 159 128 ≠ 0 ∨ units = 0 ∨ dst % 4096 ≠ 0 then none else pullRead s s.op.a src (4096 * units)) with
    | none => .next (answerPull (s.logPort s.op.a 2) s.op.a knot true false)
    | some (bs, psn, e, s1) => .next (answerPull (sendFrames s.op.a e.wrapped (frameCuts (16 * units + 1) bs) dst [] s1) s.op.a knot false psn)

/-- The restore aperture's first target address (R15). -/
def apertureRestore : Nat := 0x00FFFFFE0000

/-- Send records of a checkpoint image, each from the start of the restore aperture (log 14). -/
def sendRecords (port src : Nat) (seal_ : Bool) : List Nat → State → Option State
  | [], s => some s
  | j :: js, s =>
    match pullRead s port (src + 0x1000 + 0x1010 * j) 0x1010 with
    | none => none
    | some (bs, _, _, s1) => sendRecords port src seal_ js (sendFrames port seal_ (frameCuts 18 bs) apertureRestore [] s1)

/-- PEER_RESTORE_PULL (R15, type 3): this device is the safe tier; it sends the manifest alone, or unit records. R15 states neither of two
points for type 3, and the model settles them (log 51): the image is served only from an inbound entry of the port, as type 2 is, and unit records
go out unsealed while the manifest follows that entry's seal bit. -/
def execPeerRestorePull (s : State) : Out :=
  let w := s.op.w
  if !s.portUp s.op.a || bitsN w 3 0 != 3 then notEnabled "PEER_RESTORE_PULL"
  else
    let src := bitsN w 63 12 * 4096
    let units := bitsN w 191 160
    let first := bitsN w 159 128
    let knot := bitsN w 255 192
    if bitsN w 11 4 ≠ 0 ∨ bitsN w 127 64 ≠ 0 then .next (answerPull (s.logPort s.op.a 2) s.op.a knot true false)
    else
      let sent := if units = 0 then
          (pullRead s s.op.a src 4096).map fun r => sendFrames s.op.a r.2.2.1.wrapped (frameCuts 17 r.1) apertureRestore [] r.2.2.2
        else sendRecords s.op.a src false ((List.range units).map (first + ·)) s
      match sent with
      | some s1 => .next (answerPull s1 s.op.a knot false false)
      | none => .next (answerPull (s.logPort s.op.a 2) s.op.a knot true false)

/-- PEER_INBOUND_WRITE (R243, R244): a write of op.data at op.b arrives on port op.a; op.flag says that its tag does not match. -/
def execPeerInboundWrite (s : State) : Out :=
  let n := s.op.data.length
  if !s.portUp s.op.a || n == 0 || decide (256 < n) then notEnabled "PEER_INBOUND_WRITE"
  else match (if s.op.flag then none else s.inboundAt s.op.a s.op.b n) with
  | none => .next (s.logPort s.op.a 2)
  | some (p, _) =>
    match engineWrite s ⟨p, 0, 0⟩ (locOf noCore s.op.b) s.op.data [] with
    | .ok s1 => .next s1
    | .error _ => .next (s.logPort s.op.a 2)

/-! ### Time (R16) -/

/-- PPS_LATCH (R16): a pulse whose time of day is op.a seconds and op.b nanoseconds. -/
def execPpsLatch (s : State) : Out :=
  .next { s with time := { s.time with
    ptpSec := BitVec.ofNat 48 s.op.a, ptpNs := BitVec.ofNat 30 s.op.b, syncTick := s.tick, latchSeq := s.time.latchSeq + 1
    valid := true, holdover := false } }

/-- HOLDOVER_TIMEOUT (R16): 4,750,000,000 tk have passed since the latest latch. -/
def execHoldoverTimeout (s : State) : Out :=
  if s.time.valid && !s.time.holdover && decide (s.time.syncTick + 4750000000 ≤ s.tick) then
    .next { s with time := { s.time with holdover := true } }
  else notEnabled "HOLDOVER_TIMEOUT"

/-! ### Errors (R37) -/

/-- A line with the sector of an address poisoned. -/
def Line.spoil (l : Line) (a : Nat) : Line := { l with poison := l.poison ||| (1#4 <<< (a / 64 % 4)) }

/-- Poison a sector: kind 0 HBM, 1 core scratchpads, 2 chip scratchpad, by address; 3 the last-level line of a global address, 4 + n its line in
the cache of core n (R144). -/
def State.poisonAt (s : State) (k : Nat × Nat) : State :=
  match k.1 with
  | 0 => { s with hbm := s.hbm.setPoison k.2 }
  | 1 => { s with scratch := s.scratch.setPoison k.2 }
  | 2 => { s with chip := s.chip.setPoison k.2 }
  | 3 => { s with llc := s.llc.map fun j => if j.line.va = k.2 / 256 then { j with line := j.line.spoil k.2 } else j }
  | n + 4 => s.onStrand n fun x => { x with cache := x.cache.map fun l => if l.va = k.2 / 256 then l.spoil k.2 else l }

/-- The virtual address that a poisoned place concerns (R37), as `State.poisonAt` names places: none for HBM that no leaf of the partition
maps. -/
def State.poisonedAddr (s : State) (p : Nat) (k : Nat × Nat) : Option Nat :=
  match k.1 with
  | 0 => (s.physLine p k.2).map fun v => v.1 + k.2 % 256
  | 1 => some (0x100000000 + k.2 / 2 ^ 18 * 2 ^ 26 + k.2 % 2 ^ 18)
  | 2 => some (0x4000000000 + k.2)
  | _ => some k.2

/-- HARDWARE_ERROR (R35, R37, R144): an error of class op.a (1 to 4) and severity op.b at place op.c (`placeCode`), unit op.d, in partition op.nats[0]
(255 for none). A corrected one counts; one in the core op.nats[1] is event 14. An uncorrectable one is logged and poisons the
sectors op.pairs; the partition's record has the address of the first. -/
def execHardwareError (s : State) : Out :=
  if s.op.a = 0 ∨ 4 < s.op.a ∨ s.op.b = 0 ∨ 3 < s.op.b then notEnabled "HARDWARE_ERROR"
  else
    let p := s.op.nats.getD 0 0xFF
    if s.op.b = 1 then
      let key := s.op.a * 2 ^ 24 + placeCode s.op.c * 2 ^ 16 + s.op.d % 2 ^ 16
      let s1 : State := { s with corrected := s.corrected.put key (s.corrected.getD key 0 + 1) }
      match s.op.nats[1]? with
      | some n => .next (s1.onStrand n fun x => x.count 14#4 1)
      | none => .next s1
    else
      let e : ErrInfo := ⟨s.op.a, s.op.b, p, 0, ((s.op.pairs.head?.bind (s.poisonedAddr p)).getD 0)⟩
      let s1 := s.logDevice e (placeCode s.op.c) (s.op.d % 2 ^ 16)
      let s2 := if (s.part p).isSome then s1.logPart e (placeCode s.op.c) (s.op.d % 2 ^ 16) else s1
      .next (s.op.pairs.foldl State.poisonAt s2)

/-! ### Lending ways (R183) -/

/-- Put lines back into the last-level cache in order. -/
def refillLlc (ks : List LlcLine) (s : State) : State := ks.foldl (fun (z : State) k => z.llcPut k) s

/-- LEND_WRITE (R183): the supervisor writes op.b to lend of partition op.a; bits 2:0 are the field. Where it rises, the lines that no longer fit lose their
ways, the dirty ones among them written back; which they are is free (log 10). -/
def execLendWrite (s : State) : Out :=
  let p := s.op.a
  onLink s <| match s.part p with
  | none => notEnabled "LEND_WRITE"
  | some x =>
    let q := s.op.b % 8
    let st := fun (z : State) (k : Nat) => z.onPart p fun y => { y with page := { y.page with lendStat := BitVec.ofNat 32 k } }
    if 4 < q then .next (st s stInvalid)
    else if s.resident p || s.engineBusy p then .next (st s stBusy)
    else
      let old := s.lendOf p
      let s1 := s.setPart p { x with page := { x.page with lend := BitVec.ofNat 32 q } }
      let s2 : State := { s1 with
        chip := x.slices.foldl (fun (b : Bank) k => b.scrub (k * 0xC00000 + min old q * 0x300000) (k * 0xC00000 + max old q * 0x300000)) s1.chip }
      .next (st (if old < q then refillLlc (s2.llc.filter (·.part == p)) (s2.dropLlc p) else s2) stOk)

/-! ### Register writes (R38) -/

/-- A CP.PEER of a partition that names an entry of its peer table is in flight (R243). -/
def State.peerInUse (s : State) (p i : Nat) : Bool :=
  let names := fun c : Cmd => c.op == .peer && c.part == p && (decPeer c.word).entry.toNat == i
  s.copies.any (fun k => names k.cmd) || s.orphans.any names || s.strands.any fun e => e.2.cq.any names

/-- A doubleword of the debugger's data block. -/
def setData (d : W512) (i : Nat) (v : Nat) : W512 :=
  let m : W512 := BitVec.ofNat 512 ((2 ^ 64 - 1) * 2 ^ (64 * i))
  (d &&& ~~~m) ||| BitVec.ofNat 512 (v % 2 ^ 64 * 2 ^ (64 * i))

/-- A write of `v` to the mailbox's control word (R38): go passes the request to the Alafel core, unless it is busy, and clears done. -/
def Page.pass (g : Page) (v : Nat) : Page :=
  if v % 2 = 0 || g.mbBusy then g
  else { g with mbBusy := true, mbDone := false, mbSent := (List.range (min g.reqLen.toNat 1792)).map g.mbReq.read }

/-- A write of `v` at an offset of a partition's page: the registers that have no row of their own. -/
def writePage (s : State) (p : Nat) (x : Partition) (o v : Nat) (w : W256) : Partition :=
  let g := x.page
  let w64 := BitVec.ofNat 64 v
  if o = 0x18 then { x with hidden := x.hidden &&& w64 }
  else if o = 0x100 then { x with page := { g with domBase := w64 } }
  else if o = 0x110 then { x with page := { g with grace := v % 2 ^ 32 } }
  else if o = 0x148 then { x with page := { g with trArg0 := w64 } }
  else if o = 0x150 then { x with page := { g with trArg1 := w64 } }
  else if o = 0x158 then { x with page := { g with trArg2 := w64 } }
  else if 0x200 ≤ o ∧ o < 0x400 ∧ o % 8 = 0 then
    let i := (o - 0x200) / 8
    if v % 2 ^ 20 = 0 then x.setVd i { x.vd i with saveBase := w64 } else x
  else if 0x400 ≤ o ∧ o < 0x800 ∧ o % 16 = 0 then
    let i := (o - 0x400) / 16
    x.setVd i { x.vd i with quotaUj := v % 2 ^ 32 }
  else if o = 0x810 then { x with page := { g with dbgAddr := w64 } }
  else if o = 0x818 then { x with page := { g with dbgTag := v % 2 == 1 } }
  else if 0x840 ≤ o ∧ o < 0x880 ∧ o % 8 = 0 then { x with page := { g with dbgData := setData g.dbgData ((o - 0x840) / 8) v } }
  else if 0xC00 ≤ o ∧ o < 0xE00 ∧ o % 32 = 0 then
    let i := (o - 0xC00) / 32
    if h : i < 16 then (if s.peerInUse p i then x else { x with peers := x.peers.set i w h }) else x
  else if o = 0x1000 then { x with page := { g with reqLen := BitVec.ofNat 32 v } }
  else if o = 0x1008 then { x with page := g.pass v }
  else if 0x1100 ≤ o ∧ o < 0x1800 then { x with page := { g with mbReq := writeRaw g.mbReq (o - 0x1100) (bytesOf v 8) } }
  else x

/-- A write of `v` at an offset of BAR0: time (R115) and power (R110) registers without a row of their own. -/
def writeBar0 (s : State) (o v : Nat) : State :=
  if o = 0x9040 then { s with time := { s.time with stepPeriod := v % 2 ^ 32 } }
  else if o = 0x9048 then { s with time := { s.time with stepOffset := v % 2 ^ 32 } }
  else if o = 0x9050 then { s with time := { s.time with stepCells := v % 2 ^ 8 } }
  else if o = 0xB008 then { s with power := { s.power with short := s.power.short && v / 2 % 2 == 1 } }
  else if o = 0xB080 then { s with power := { s.power with thermLimit := v % 2 ^ 8 } }
  else s

/-- REGISTER_WRITE (R38): the supervisor writes op.d (a peer table entry: op.w) at offset op.b of BAR0 (op.a 0) or of partition op.c's page
(op.a 1), or sets the allow-list of virtual device op.b of partition op.c to op.w (op.a 2; R34 gives it no offset). Offsets that
hold no writable register ignore it. -/
def execRegisterWrite (s : State) : Out :=
  onLink s <| if s.op.a = 0 then .next (writeBar0 s s.op.b s.op.d)
  else match s.part s.op.c with
  | none => .next s
  | some x =>
    if s.op.a = 1 then .next (s.setPart s.op.c (writePage s s.op.c x s.op.b s.op.d s.op.w))
    else if s.op.a = 2 ∧ s.op.b < 64 then .next (s.setPart s.op.c (x.setVd s.op.b { x.vd s.op.b with allow := s.op.w }))
    else .next s

end Sys2Proof.Machine
end

