-- ==== Sys2Proof/Machine/Alafel.lean ====
section
/-! DEFINITION. The Alafel core: boot and measurements (R23, R24), the SPDM responder (R25, R26), tenant checkpoint keys (R21, R25).
Codes, their order and the bytes of answers that the spec does not lay out are those of log 15. -/
namespace Sys2Proof.Machine

/-! ### Boot (R23, R24) -/

/-- The image of a stage passes (R23). -/
def imagePasses (k : Nat) : Bool :=
  Config.imageKeyOk k && Config.imageSigOk k && decide (Config.fusedVersion k ≤ Config.imageVersion k)

/-- Measurement 5: lifecycle and debug state (R24). -/
def lifecycle (unlocked : Bool) (stage : Nat) : BitVec 512 :=
  Config.shake256 [BitVec.ofNat 8 (b2n unlocked + (if stage = 0 then 0 else 2 + 16 * stage))]

/-- POWER_ON_RESET (R23, R24): the images of stages 1 to 4 are verified and measured in order; the first that fails leaves the
device in recovery. DESIGN CHOICE (log 51): the measurements of the stage that fails and of those after it are 64 zero bytes. -/
def execPowerOnReset (s : State) : Out :=
  if s.boot != .rom then notEnabled "POWER_ON_RESET"
  else
    let bad := [1, 2, 3, 4].find? fun k => !imagePasses k
    let stage := bad.getD 0
    let m := fun i : Fin 6 =>
      if i.val = 0 then Config.shake256 Config.romFuse
      else if i.val = 5 then lifecycle s.debugUnlocked stage
      else if stage = 0 ∨ i.val < stage then Config.shake256 (Config.firmware i.val) else 0
    .next { s with boot := if stage = 0 then .running else .recovery, failStage := stage, measure := Vector.ofFn m }

/-! ### SPDM paths (R25, R26) -/

/-- The path of a request: op.a 0 is the host's DOE mailbox, p + 1 the mailbox of partition p. -/
def spdmPath (s : State) : Option Nat := if s.op.a = 0 then none else some (s.op.a - 1)

/-- The responder's state on a path: none where the partition does not exist. -/
def State.spdmOf (s : State) : Option Spdm :=
  match spdmPath s with
  | none => some s.hostSpdm
  | some p => (s.part p).map (·.spdm)

/-- Replace it. -/
def State.setSpdm (s : State) (x : Spdm) : State :=
  match spdmPath s with
  | none => { s with hostSpdm := x }
  | some p => s.onPart p fun q => { q with spdm := x }

/-- Answer on the request's path. A mailbox shows the answer to the relay, sealed inside a session (R26, R38). DESIGN CHOICE (log 15): its
response bytes are the payload alone, without a response code or header, whose layout DSP0274 has and the spec does not. -/
def State.spdmAnswer (s : State) (code : Nat) (data : List Byte) : State :=
  let s1 := s.emit (.spdm (spdmPath s) code data)
  match spdmPath s with
  | none => s1
  | some p => s1.onPart p fun q =>
    let shown := (if q.spdm.session then Config.gcmSeal (256 + p) s.out.length data else data).take 2048
    { q with page := { q.page with mbDone := true, mbBusy := false, mbSent := [], rspLen := BitVec.ofNat 32 shown.length, mbRsp := writeRaw [] 0 shown } }

/-- An ERROR answer. -/
def State.spdmError (s : State) (code : Nat) : State := s.spdmAnswer 0x7F [BitVec.ofNat 8 code]

/-- UnexpectedRequest of DSP0274. -/
def errUnexpected : Nat := 0x04
/-- InvalidRequest of DSP0274. -/
def errInvalid : Nat := 0x01
/-- UnsupportedRequest of DSP0274 (R25). -/
def errUnsupported : Nat := 0x07

/-- A request has been passed on the path: a mailbox holds one while it is busy (R38). What its bytes say is the step's (log 15). -/
def State.spdmPassed (s : State) : Bool :=
  match spdmPath s with
  | none => true
  | some p => ((s.part p).map (·.page.mbBusy)).getD false

/-- The shape of a request: in recovery only some are answered (R23); one that comes out of order is unexpected. -/
def spdmStep (mn : String) (inRecovery : Bool) (ready : Spdm → Bool) (f : State → Spdm → State) (s : State) : Out :=
  match s.spdmOf with
  | none => notEnabled mn
  | some x =>
    if !s.spdmPassed then notEnabled mn
    else if s.boot == .rom || (s.boot == .recovery && !inRecovery) then .next s
    else if ready x then .next (f s x)
    else .next (s.spdmError errUnexpected)

/-- An answer whose bytes the spec does not lay out. -/
def State.spdmOpen (s : State) (code : Nat) : State :=
  { s.spdmAnswer code (Config.spdmBytes code s.freeCtr) with freeCtr := s.freeCtr + 1 }

/-- GET_VERSION (R25): it begins a connection. -/
def execGetVersion (s : State) : Out :=
  spdmStep "GET_VERSION" true (fun _ => true) (fun s _ => (s.setSpdm { Spdm.reset with version := true }).spdmOpen 0x04) s

/-- GET_CAPABILITIES (R25). -/
def execGetCapabilities (s : State) : Out :=
  spdmStep "GET_CAPABILITIES" true (·.version) (fun s x => (s.setSpdm { x with caps := true }).spdmOpen 0x61) s

/-- NEGOTIATE_ALGORITHMS (R25). -/
def execNegotiateAlgorithms (s : State) : Out :=
  spdmStep "NEGOTIATE_ALGORITHMS" false (·.caps) (fun s x => (s.setSpdm { x with algs := true }).spdmOpen 0x63) s

/-- GET_DIGESTS (R25): the digest of the chain of slot 0. -/
def execGetDigests (s : State) : Out :=
  spdmStep "GET_DIGESTS" false (·.algs) (fun s _ => s.spdmAnswer 0x01 (bytesOf (Config.shake256 Config.certChain).toNat 64)) s

/-- GET_CERTIFICATE (R25): op.d bytes from op.c on of the chain of slot op.b; slot 0 only. -/
def execGetCertificate (s : State) : Out :=
  spdmStep "GET_CERTIFICATE" false (·.algs) (fun s _ =>
    if s.op.b = 0 then s.spdmAnswer 0x02 ((Config.certChain.drop s.op.c).take s.op.d) else s.spdmError errInvalid) s

/-- CHALLENGE (R25): a signature with the device identity key over the transcript op.data; slot op.b 0 only. -/
def execChallenge (s : State) : Out :=
  spdmStep "CHALLENGE" false (·.algs) (fun s _ =>
    if s.op.b = 0 then s.spdmAnswer 0x03 (Config.identitySign s.op.data) else s.spdmError errInvalid) s

/-- The measurements that a path may see (R24, R26): index and value. -/
def State.measurements (s : State) : List (Nat × BitVec 512) :=
  let dev := (List.range 6).zip s.measure.toList
  match (spdmPath s).bind s.part with
  | none => dev
  | some q => dev ++ [(0x10, q.m10), (0x11, q.m11), (0x12, q.m12)]

/-- GET_MEASUREMENTS (R24 to R26): index op.b, or all of them for 0xFF; what the path may not see gives an empty record. -/
def execGetMeasurements (s : State) : Out :=
  spdmStep "GET_MEASUREMENTS" true (fun x => x.algs || (x.version && s.boot == .recovery)) (fun s _ =>
    let ms := s.measurements.filter fun m => s.op.b == 0xFF || m.1 == s.op.b
    s.spdmAnswer 0x60 (ms.flatMap fun m => BitVec.ofNat 8 m.1 :: bytesOf m.2.toNat 64)) s

/-- KEY_EXCHANGE (R25). -/
def execKeyExchange (s : State) : Out :=
  spdmStep "KEY_EXCHANGE" false (·.algs) (fun s x => (s.setSpdm { x with exchanged := true }).spdmOpen 0x64) s

/-- FINISH (R25): the session is secured. One on the host path establishes the keys of CXL IDE (R11, R26). -/
def execFinish (s : State) : Out :=
  spdmStep "FINISH" false (·.exchanged) (fun s x =>
    let s1 := (s.setSpdm { x with session := true }).spdmOpen 0x65
    if s.op.a = 0 then { s1 with ide := true } else s1) s

/-- KEY_UPDATE (R25). -/
def execKeyUpdate (s : State) : Out :=
  spdmStep "KEY_UPDATE" false (·.session) (fun s x => (s.setSpdm { x with updates := x.updates + 1 }).spdmOpen 0x69) s

/-- HEARTBEAT (R25). -/
def execHeartbeat (s : State) : Out := spdmStep "HEARTBEAT" false (·.session) (fun s _ => s.spdmOpen 0x68) s

/-- END_SESSION (R25). -/
def execEndSession (s : State) : Out :=
  spdmStep "END_SESSION" false (·.session) (fun s x => (s.spdmOpen 0x6C).setSpdm { x with session := false, exchanged := false }) s

/-- SPDM_UNSUPPORTED (R25): any other request. -/
def execSpdmUnsupported (s : State) : Out :=
  spdmStep "SPDM_UNSUPPORTED" false (fun _ => true) (fun s _ => s.spdmError errUnsupported) s

/-! ### Tenant checkpoint keys (R21, R25) -/

/-- A vendor-defined request: only on a partition mailbox inside a session; its answer is a 32-bit status. -/
def vendorStep (mn : String) (f : State → Nat → Partition → State × Nat) (s : State) : Out :=
  spdmStep mn false (fun _ => true) (fun s x =>
    match spdmPath s with
    | none => s.spdmError errUnsupported
    | some p =>
      match s.part p with
      | none => s
      | some q =>
        if x.session then
          let r := f s p q
          r.1.spdmAnswer 0x7E (bytesOf r.2 4)
        else s.spdmError errUnsupported) s

/-- TCK_INSTALL (R25): identifier op.b, key op.w; op.c holds the 24 bits that are zero. A key held is replaced. -/
def execTckInstall (s : State) : Out :=
  vendorStep "TCK_INSTALL" (fun s p q =>
    if s.op.c ≠ 0 ∨ s.op.b = 0 ∨ 2 ^ 64 ≤ s.op.b then (s, stInvalid)
    else (s.setPart p { q with tck := some (BitVec.ofNat 64 s.op.b, s.op.w) }, stOk)) s

/-- TCK_REMOVE (R25): the key with identifier op.b. -/
def execTckRemove (s : State) : Out :=
  vendorStep "TCK_REMOVE" (fun s p q =>
    match q.tck with
    | none => (s, stInvalid)
    | some t => if s.op.c ≠ 0 ∨ t.1.toNat ≠ s.op.b then (s, stInvalid) else (s.setPart p { q with tck := none }, stOk)) s

end Sys2Proof.Machine
end

