-- ==== Sys2Proof/Machine/Branch.lean ====
section
/-! DEFINITION. Control flow (R316 to R320), with the comparison of a gang's members (R66, R320). -/
namespace Sys2Proof.Machine

/-- The members of the strand's gang that satisfy a condition, as a mask by strand number, when the leader has not yet run
the word; none where the strand is alone or the leader has (R66). -/
def gangMask (s : State) (n : Nat) (x : Strand) (f : Strand → Bool) : Option (Nat × Nat) :=
  match x.gang.tacked, s.strand x.gang.leader with
  | true, some l =>
    if l.pc = x.pc ∧ l.now + x.gang.members.idxOf n * s.divOf n = x.now then
      some (x.gang.members.foldl (fun (r : Nat × Nat) m => match s.strand m with
        | some y => (if f y then r.1 + 2 ^ y.id.strand else r.1, r.2 + 2 ^ y.id.strand)
        | none => r) (0, 0))
    else none
  | _, _ => none

/-- A conditional branch (R316): taken it costs two cycles, else one (R300); members that differ trap 0x0F (R66). -/
def branchInstr (a b : BitVec 6) (w : BitVec 12) (cond : W64 → W64 → Bool) (s : State) : Out :=
  word s fun s n x =>
    if gangPending s n x [a, b] then .block s .own
    else
      let dv := s.divOf n
      let y := x.cycles (x.readyCycles [a, b] dv) dv
      let c := fun y : Strand => cond (y.rd a) (y.rd b)
      let differ := match gangMask s n x c with
        | some (m, all) => if m ≠ 0 ∧ m ≠ all then some m else none
        | none => none
      match differ with
      | some m => .trap y (.precise 0x0F (BitVec.ofNat 64 m))
      | none =>
        if c y then .done (s.setStrand n (y.finish 2 dv ((y.pc + 4 * w.toInt) % (2 ^ 64 : Int)).toNat))
        else .done (s.retire n y 1)

/-- BEQ (R316). -/
def execBeq (a b : BitVec 6) (w : BitVec 12) (s : State) : Out := branchInstr a b w (fun p q => p == q) s
/-- BNE (R316). -/
def execBne (a b : BitVec 6) (w : BitVec 12) (s : State) : Out := branchInstr a b w (fun p q => p != q) s
/-- BLT (R316). -/
def execBlt (a b : BitVec 6) (w : BitVec 12) (s : State) : Out := branchInstr a b w (fun p q => p.slt q) s
/-- BGE (R316). -/
def execBge (a b : BitVec 6) (w : BitVec 12) (s : State) : Out := branchInstr a b w (fun p q => !p.slt q) s
/-- BLTN (R316). -/
def execBltn (a b : BitVec 6) (w : BitVec 12) (s : State) : Out := branchInstr a b w (fun p q => p.ult q) s
/-- BGEN (R316). -/
def execBgen (a b : BitVec 6) (w : BitVec 12) (s : State) : Out := branchInstr a b w (fun p q => !p.ult q) s

/-- JAL (R317): link, then the target. -/
def execJal (d : BitVec 6) (w : BitVec 20) (s : State) : Out :=
  word s fun s n x =>
    if x.pending [d] then .block s .own
    else
      let y := (x.setW d (BitVec.ofNat 64 (x.pc + 4))).later d 1 1
      .done (s.setStrand n (y.finish 2 (s.divOf n) ((x.pc + 4 * w.toInt) % (2 ^ 64 : Int)).toNat))

/-- JALR (R318): a misaligned target raises 0x06; in a gang a differing target raises 0x0F (R320). -/
def execJalr (d a : BitVec 6) (s : State) : Out :=
  word s fun s n x =>
    if gangPending s n x [d, a] then .block s .own
    else
      let bad := fun y : Strand => (y.rd a).toNat % 4 != 0
      let dv := s.divOf n
      let y := x.cycles (x.readyCycles [a] dv) dv
      let t := x.rd a
      let fin := Eff.done (s.setStrand n (((y.setW d (BitVec.ofNat 64 (x.pc + 4))).finish 2 dv t.toNat).later d 1 1))
      if bad x then .trap y (.precise 0x06 t)
      else
        match gangMask s n x bad with
        | some (m, _) =>
          if m ≠ 0 then fin
          else match s.strand x.gang.leader with
            | some l =>
              match gangMask s n x (fun y => y.rd a == l.rd a) with
              | some (k, all) => if k ≠ all then .trap y (.precise 0x0F (BitVec.ofNat 64 k)) else fin
              | none => fin
            | none => fin
        | none => fin

end Sys2Proof.Machine
end

