-- ==== Sys2Proof/Machine/Capability.lean ====
section
/-! DEFINITION. The capability instructions (R311 to R315). -/
namespace Sys2Proof.Machine

/-- A capability instruction: its result is ready after `lat` cycles (R300). -/
def capInstr (d : BitVec 6) (srcs : List (BitVec 6)) (lat : Nat) (f : Strand → GReg) (s : State) : Out :=
  word s (compute srcs d 1 lat fun x => x.setG d (f x))

/-- CBND and CBNDX (R312). -/
def setBounds (exactOnly : Bool) (r : GReg) (len : Nat) : GReg :=
  let c := capOf r.bits
  if 2 ^ 63 < len ∨ 2 ^ 64 < c.address + len then ⟨r.bits, false⟩
  else
    let n := encodeBounds c.address len
    let ok := r.tagged && decide (c.base ≤ n.base) && decide ((n.top : Int) ≤ c.top) && (!exactOnly || n.exact)
    ⟨({ c with e := n.e, below := 0, above := n.above, address := n.base } : Cap).bits, ok⟩

/-- CPERM (R313): permissions by AND, confined by OR; the tag stays where it counted as one (R311). -/
def setPerms (r : GReg) (m : W64) : GReg :=
  let p : BitVec 12 := r.bits.extractLsb' 64 12
  let q : BitVec 12 := m.setWidth 12
  let p' := ((p &&& q) &&& 0x3BF#12) ||| ((p ||| q) &&& 0x040#12)
  ⟨r.bits.extractLsb' 76 52 ++ p' ++ r.bits.extractLsb' 0 64, r.tagged⟩

/-- Plain data in a register. -/
def plain (v : Nat) : GReg := ⟨BitVec.ofNat 128 (v % 2 ^ 64), false⟩

/-- CBND (R312). -/
def execCbnd (d a b : BitVec 6) (s : State) : Out :=
  capInstr d [a, b] 2 (fun x => setBounds false (x.getG a) (x.rd b).toNat) s
/-- CBNDX (R312). -/
def execCbndx (d a b : BitVec 6) (s : State) : Out :=
  capInstr d [a, b] 2 (fun x => setBounds true (x.getG a) (x.rd b).toNat) s
/-- CPERM (R313). -/
def execCperm (d a b : BitVec 6) (s : State) : Out := capInstr d [a, b] 1 (fun x => setPerms (x.getG a) (x.rd b)) s
/-- CADDR (R314). -/
def execCaddr (d a b : BitVec 6) (s : State) : Out := capInstr d [a, b] 1 (fun x => moveCap (x.getG a) (x.rd b).toNat) s
/-- CINC (R314). -/
def execCinc (d a b : BitVec 6) (s : State) : Out :=
  capInstr d [a, b] 1 (fun x => moveCap (x.getG a) (x.rd a + x.rd b).toNat) s
/-- CINCI (R314). -/
def execCinci (d a : BitVec 6) (i : BitVec 14) (s : State) : Out :=
  capInstr d [a] 1 (fun x => moveCap (x.getG a) (x.rd a + i.signExtend 64).toNat) s
/-- CGETB (R315). -/
def execCgetb (d a : BitVec 6) (s : State) : Out :=
  capInstr d [a] 1 (fun x => let r := x.getG a; plain (if r.tagged then (capOf r.bits).base.toNat else 0)) s
/-- CGETL (R315). -/
def execCgetl (d a : BitVec 6) (s : State) : Out :=
  capInstr d [a] 1 (fun x =>
    let r := x.getG a
    let c := capOf r.bits
    plain (if r.tagged then min (c.top - c.base).toNat (2 ^ 64 - 1) else 0)) s
/-- CGETP (R315). -/
def execCgetp (d a : BitVec 6) (s : State) : Out := capInstr d [a] 1 (fun x => plain (bitsN (x.getG a).bits 75 64)) s
/-- CTAGT (R315): a tagged value that breaks R202 counts as untagged (R311). -/
def execCtagt (d a : BitVec 6) (s : State) : Out :=
  capInstr d [a] 1 (fun x => plain (if (x.getG a).tagged then 1 else 0)) s
/-- CDOM (R315). -/
def execCdom (d a : BitVec 6) (s : State) : Out := capInstr d [a] 1 (fun x => plain (bitsN (x.getG a).bits 127 122)) s
/-- CMOV (R315): all 128 bits and the tag, where it counts as one (R311). -/
def execCmov (d a : BitVec 6) (s : State) : Out := capInstr d [a] 1 (fun x => ⟨(x.getG a).bits, (x.getG a).tagged⟩) s
/-- CCLRT (R315). -/
def execCclrt (d a : BitVec 6) (s : State) : Out := capInstr d [a] 1 (fun x => ⟨(x.getG a).bits, false⟩) s

end Sys2Proof.Machine
end

