-- ==== Sys2Proof/Machine/Scalar.lean ====
section
/-! DEFINITION. The integer instructions (R298 to R306) and the scalar FP32 instructions (R307 to R310). -/
namespace Sys2Proof.Machine

/-- An integer instruction of two registers (R301): its result goes to `d`, ready after `lat` cycles, of which `k` block
the pipeline (R300). -/
def int2 (d a b : BitVec 6) (k lat : Nat) (f : W64 → W64 → W64) (s : State) : Out :=
  word s (compute [a, b] d k lat fun x => x.setW d (f (x.rd a) (x.rd b)))

/-- An integer instruction of one register (R301, R303 to R305). -/
def int1 (d a : BitVec 6) (f : W64 → W64) (s : State) : Out :=
  word s (compute [a] d 1 1 fun x => x.setW d (f (x.rd a)))

/-- An integer instruction that reads its destination too (R301, R305, R306). -/
def intD (d : BitVec 6) (srcs : List (BitVec 6)) (f : Strand → W64) (s : State) : Out :=
  word s (compute (d :: srcs) d 1 1 fun x => x.setW d (f x))

/-- 1 or 0. -/
def boolW (b : Bool) : W64 := if b then 1 else 0

/-- Bits 127:64 of the signed product (R301). -/
def mulHigh (a b : W64) : W64 := (BitVec.ofInt 128 (a.toInt * b.toInt)).extractLsb' 64 64
/-- Bits 127:64 of the unsigned product (R301). -/
def mulHighN (a b : W64) : W64 := (BitVec.ofNat 128 (a.toNat * b.toNat)).extractLsb' 64 64

/-- The signed quotient of R302. -/
def divS (a b : W64) : W64 :=
  if b = 0 then BitVec.allOnes 64 else BitVec.ofInt 64 (a.toInt.tdiv b.toInt)
/-- The signed remainder of R302. -/
def remS (a b : W64) : W64 := if b = 0 then a else BitVec.ofInt 64 (a.toInt.tmod b.toInt)
/-- The unsigned quotient of R302. -/
def divN (a b : W64) : W64 := if b = 0 then BitVec.allOnes 64 else BitVec.ofNat 64 (a.toNat / b.toNat)
/-- The unsigned remainder of R302. -/
def remN (a b : W64) : W64 := if b = 0 then a else BitVec.ofNat 64 (a.toNat % b.toNat)

/-- Leading zero bits (R301). -/
def clz64 (a : W64) : W64 := BitVec.ofNat 64 (((List.range 64).find? fun i => a.getLsbD (63 - i)).getD 64)
/-- Trailing zero bits (R301). -/
def ctz64 (a : W64) : W64 := BitVec.ofNat 64 (((List.range 64).find? fun i => a.getLsbD i).getD 64)
/-- Set bits (R301). -/
def popc64 (a : W64) : W64 := BitVec.ofNat 64 ((List.range 64).filter fun i => a.getLsbD i).length

/-- Bits p + w − 1 to p of a word (R305). -/
def fieldOf (a : W64) (p w : Nat) : Nat := (a.toNat / 2 ^ p) % 2 ^ w
/-- A field sign-extended to 64 bits (R305). -/
def extS (a : W64) (p w : Nat) : W64 :=
  let f := fieldOf a p w
  if f < 2 ^ (w - 1) then BitVec.ofNat 64 f else BitVec.ofInt 64 ((f : Int) - 2 ^ w)
/-- A field put into a word (R305). -/
def insField (old a : W64) (p w : Nat) : W64 :=
  let m : W64 := BitVec.ofNat 64 ((2 ^ w - 1) * 2 ^ p)
  (old &&& ~~~m) ||| ((a <<< p) &&& m)

/-- ADD (R301). -/
def execAdd (d a b : BitVec 6) (s : State) : Out := int2 d a b 1 1 (fun a b => a + b) s
/-- SUB (R301). -/
def execSub (d a b : BitVec 6) (s : State) : Out := int2 d a b 1 1 (fun a b => a - b) s
/-- AND (R301). -/
def execAnd (d a b : BitVec 6) (s : State) : Out := int2 d a b 1 1 (fun a b => a &&& b) s
/-- OR (R301). -/
def execOr (d a b : BitVec 6) (s : State) : Out := int2 d a b 1 1 (fun a b => a ||| b) s
/-- XOR (R301). -/
def execXor (d a b : BitVec 6) (s : State) : Out := int2 d a b 1 1 (fun a b => a ^^^ b) s
/-- SHL (R301). -/
def execShl (d a b : BitVec 6) (s : State) : Out := int2 d a b 1 1 (fun a b => a <<< (b.toNat % 64)) s
/-- SHR (R301). -/
def execShr (d a b : BitVec 6) (s : State) : Out := int2 d a b 1 1 (fun a b => a >>> (b.toNat % 64)) s
/-- SRA (R301). -/
def execSra (d a b : BitVec 6) (s : State) : Out := int2 d a b 1 1 (fun a b => a.sshiftRight (b.toNat % 64)) s
/-- SLT (R301). -/
def execSlt (d a b : BitVec 6) (s : State) : Out := int2 d a b 1 1 (fun a b => boolW (a.slt b)) s
/-- SLTN (R301). -/
def execSltn (d a b : BitVec 6) (s : State) : Out := int2 d a b 1 1 (fun a b => boolW (a.ult b)) s
/-- MIN (R301). -/
def execMin (d a b : BitVec 6) (s : State) : Out := int2 d a b 1 1 (fun a b => if a.slt b then a else b) s
/-- MAX (R301). -/
def execMax (d a b : BitVec 6) (s : State) : Out := int2 d a b 1 1 (fun a b => if a.slt b then b else a) s
/-- MINN (R301). -/
def execMinn (d a b : BitVec 6) (s : State) : Out := int2 d a b 1 1 (fun a b => if a.ult b then a else b) s
/-- MAXN (R301). -/
def execMaxn (d a b : BitVec 6) (s : State) : Out := int2 d a b 1 1 (fun a b => if a.ult b then b else a) s
/-- MUL (R301), ready after 3 cycles (R300). -/
def execMul (d a b : BitVec 6) (s : State) : Out := int2 d a b 1 3 (fun a b => a * b) s
/-- MULH (R301), ready after 3 cycles (R300). -/
def execMulh (d a b : BitVec 6) (s : State) : Out := int2 d a b 1 3 (fun a b => mulHigh a b) s
/-- MULHN (R301), ready after 3 cycles (R300). -/
def execMulhn (d a b : BitVec 6) (s : State) : Out := int2 d a b 1 3 (fun a b => mulHighN a b) s
/-- DIV (R302), which blocks the pipeline for 24 cycles (R300). -/
def execDiv (d a b : BitVec 6) (s : State) : Out := int2 d a b 24 24 divS s
/-- DIVN (R302), which blocks the pipeline for 24 cycles (R300). -/
def execDivn (d a b : BitVec 6) (s : State) : Out := int2 d a b 24 24 divN s
/-- REM (R302), which blocks the pipeline for 24 cycles (R300). -/
def execRem (d a b : BitVec 6) (s : State) : Out := int2 d a b 24 24 remS s
/-- REMN (R302), which blocks the pipeline for 24 cycles (R300). -/
def execRemn (d a b : BitVec 6) (s : State) : Out := int2 d a b 24 24 remN s
/-- CLZ (R301). -/
def execClz (d a : BitVec 6) (s : State) : Out := int1 d a clz64 s
/-- CTZ (R301). -/
def execCtz (d a : BitVec 6) (s : State) : Out := int1 d a ctz64 s
/-- POPC (R301). -/
def execPopc (d a : BitVec 6) (s : State) : Out := int1 d a popc64 s
/-- SEL (R301): a if bits 63:0 of d before the instruction are non-zero, else b. -/
def execSel (d a b : BitVec 6) (s : State) : Out :=
  intD d [a, b] (fun x => if x.rd d ≠ 0 then x.rd a else x.rd b) s
/-- ADDI (R303). -/
def execAddi (d a : BitVec 6) (i : BitVec 14) (s : State) : Out := int1 d a (fun a => a + i.signExtend 64) s
/-- ANDI (R303). -/
def execAndi (d a : BitVec 6) (i : BitVec 14) (s : State) : Out := int1 d a (fun a => a &&& i.signExtend 64) s
/-- ORI (R303). -/
def execOri (d a : BitVec 6) (i : BitVec 14) (s : State) : Out := int1 d a (fun a => a ||| i.signExtend 64) s
/-- XORI (R303). -/
def execXori (d a : BitVec 6) (i : BitVec 14) (s : State) : Out := int1 d a (fun a => a ^^^ i.signExtend 64) s
/-- SLTI (R303). -/
def execSlti (d a : BitVec 6) (i : BitVec 14) (s : State) : Out := int1 d a (fun a => boolW (a.slt (i.signExtend 64))) s
/-- SLTNI (R303). -/
def execSltni (d a : BitVec 6) (i : BitVec 14) (s : State) : Out := int1 d a (fun a => boolW (a.ult (i.signExtend 64))) s
/-- SHLI (R304). -/
def execShli (d a : BitVec 6) (n : BitVec 6) (s : State) : Out := int1 d a (fun a => a <<< n.toNat) s
/-- SHRI (R304). -/
def execShri (d a : BitVec 6) (n : BitVec 6) (s : State) : Out := int1 d a (fun a => a >>> n.toNat) s
/-- SRAI (R304). -/
def execSrai (d a : BitVec 6) (n : BitVec 6) (s : State) : Out := int1 d a (fun a => a.sshiftRight n.toNat) s
/-- EXTS (R305); `w` holds w − 1. -/
def execExts (d a : BitVec 6) (p w : BitVec 6) (s : State) : Out := int1 d a (fun a => extS a p.toNat (w.toNat + 1)) s
/-- EXTZ (R305). -/
def execExtz (d a : BitVec 6) (p w : BitVec 6) (s : State) : Out :=
  int1 d a (fun a => BitVec.ofNat 64 (fieldOf a p.toNat (w.toNat + 1))) s
/-- INS (R305): it reads d before writing. -/
def execIns (d a : BitVec 6) (p w : BitVec 6) (s : State) : Out :=
  intD d [a] (fun x => insField (x.rd d) (x.rd a) p.toNat (w.toNat + 1)) s
/-- LI (R306). -/
def execLi (d : BitVec 6) (i : BitVec 20) (s : State) : Out :=
  word s (compute [] d 1 1 fun x => x.setW d (i.signExtend 64))
/-- LIH (R306). -/
def execLih (d : BitVec 6) (i : BitVec 20) (s : State) : Out :=
  intD d [] (fun x => (x.rd d <<< 20) ||| i.setWidth 64) s

/-! ### Scalar FP32 (R307 to R310) -/

/-- An FP32 instruction: it reads bits 31:0, writes bits 31:0 of d with zeros above, and sets its FFLAGS bits. -/
def fpOp (d : BitVec 6) (srcs : List (BitVec 6)) (lat : Nat) (f : Strand → W32 × FFlags) (s : State) : Out :=
  word s (compute srcs d 1 lat fun x =>
    let r := f x
    (x.setW d (r.1.setWidth 64)).orFlags r.2)

/-- Bits 31:0 of a g register. -/
def Strand.rd32 (x : Strand) (r : BitVec 6) : W32 := (x.getG r).bits.setWidth 32

/-- FADD (R307). -/
def execFadd (d a b : BitVec 6) (s : State) : Out := fpOp d [a, b] 4 (fun x => fadd32 x.frnd (x.rd32 a) (x.rd32 b)) s
/-- FSUB (R307). -/
def execFsub (d a b : BitVec 6) (s : State) : Out := fpOp d [a, b] 4 (fun x => fsub32 x.frnd (x.rd32 a) (x.rd32 b)) s
/-- FMUL (R307). -/
def execFmul (d a b : BitVec 6) (s : State) : Out := fpOp d [a, b] 4 (fun x => fmul32 x.frnd (x.rd32 a) (x.rd32 b)) s
/-- FFMA (R307): s1 · s2 + d with one rounding. -/
def execFfma (d a b : BitVec 6) (s : State) : Out :=
  fpOp d [a, b, d] 4 (fun x => ffma32 x.frnd false false (x.rd32 a) (x.rd32 b) (x.rd32 d)) s
/-- FMIN (R258, R307). -/
def execFmin (d a b : BitVec 6) (s : State) : Out := fpOp d [a, b] 1 (fun x => (fmin32 (x.rd32 a) (x.rd32 b), 0)) s
/-- FMAX (R258, R307). -/
def execFmax (d a b : BitVec 6) (s : State) : Out := fpOp d [a, b] 1 (fun x => (fmax32 (x.rd32 a) (x.rd32 b), 0)) s
/-- FCMP.eq (R308). -/
def execFcmpEq (d a b : BitVec 6) (s : State) : Out :=
  fpOp d [a, b] 1 (fun x => (if feq32 (x.rd32 a) (x.rd32 b) then 1 else 0, 0)) s
/-- FCMP.lt (R308). -/
def execFcmpLt (d a b : BitVec 6) (s : State) : Out :=
  fpOp d [a, b] 1 (fun x => (if flt32 (x.rd32 a) (x.rd32 b) then 1 else 0, 0)) s
/-- FCMP.le (R308). -/
def execFcmpLe (d a b : BitVec 6) (s : State) : Out :=
  fpOp d [a, b] 1 (fun x => (if fle32 (x.rd32 a) (x.rd32 b) then 1 else 0, 0)) s
/-- FCMP.un (R308). -/
def execFcmpUn (d a b : BitVec 6) (s : State) : Out :=
  fpOp d [a, b] 1 (fun x => (if fun32 (x.rd32 a) (x.rd32 b) then 1 else 0, 0)) s
/-- FCVTI.i32 (R309). -/
def execFcvtiI32 (d a : BitVec 6) (s : State) : Out :=
  fpOp d [a] 2 (fun x => fcvti32 x.frnd (-2147483648) 2147483647 (x.rd32 a)) s
/-- FCVTF.i32 (R310). -/
def execFcvtfI32 (d a : BitVec 6) (s : State) : Out :=
  fpOp d [a] 2 (fun x => fcvtf32 x.frnd (x.rd32 a).toInt) s
/-- FCVTI.n32 (R309). -/
def execFcvtiN32 (d a : BitVec 6) (s : State) : Out :=
  fpOp d [a] 2 (fun x => fcvti32 x.frnd 0 4294967295 (x.rd32 a)) s
/-- FCVTF.n32 (R310). -/
def execFcvtfN32 (d a : BitVec 6) (s : State) : Out :=
  fpOp d [a] 2 (fun x => fcvtf32 x.frnd ((x.rd32 a).toNat : Int)) s

end Sys2Proof.Machine
end

