-- ==== Sys2Proof/Machine/Dispatch.lean ====
section
/-! DEFINITION. The dispatch of instructions to their meanings, one arm per constructor. -/
namespace Sys2Proof.Machine

/-- What an instruction, a command or a device step does. -/
def exec (i : Instr) (s : State) : Host.Outcome State Fault Refusal :=
  match i with
  | .add d a b => Sys2Proof.Machine.execAdd d a b s
  | .sub d a b => Sys2Proof.Machine.execSub d a b s
  | .mul d a b => Sys2Proof.Machine.execMul d a b s
  | .mulh d a b => Sys2Proof.Machine.execMulh d a b s
  | .mulhn d a b => Sys2Proof.Machine.execMulhn d a b s
  | .div d a b => Sys2Proof.Machine.execDiv d a b s
  | .divn d a b => Sys2Proof.Machine.execDivn d a b s
  | .rem d a b => Sys2Proof.Machine.execRem d a b s
  | .remn d a b => Sys2Proof.Machine.execRemn d a b s
  | .and_ d a b => Sys2Proof.Machine.execAnd d a b s
  | .or_ d a b => Sys2Proof.Machine.execOr d a b s
  | .xor_ d a b => Sys2Proof.Machine.execXor d a b s
  | .shl d a b => Sys2Proof.Machine.execShl d a b s
  | .shr d a b => Sys2Proof.Machine.execShr d a b s
  | .sra d a b => Sys2Proof.Machine.execSra d a b s
  | .slt d a b => Sys2Proof.Machine.execSlt d a b s
  | .sltn d a b => Sys2Proof.Machine.execSltn d a b s
  | .min_ d a b => Sys2Proof.Machine.execMin d a b s
  | .max_ d a b => Sys2Proof.Machine.execMax d a b s
  | .minn d a b => Sys2Proof.Machine.execMinn d a b s
  | .maxn d a b => Sys2Proof.Machine.execMaxn d a b s
  | .clz d a => Sys2Proof.Machine.execClz d a s
  | .ctz d a => Sys2Proof.Machine.execCtz d a s
  | .popc d a => Sys2Proof.Machine.execPopc d a s
  | .sel d a b => Sys2Proof.Machine.execSel d a b s
  | .addi d a im => Sys2Proof.Machine.execAddi d a im s
  | .andi d a im => Sys2Proof.Machine.execAndi d a im s
  | .ori d a im => Sys2Proof.Machine.execOri d a im s
  | .xori d a im => Sys2Proof.Machine.execXori d a im s
  | .shli d a n => Sys2Proof.Machine.execShli d a n s
  | .shri d a n => Sys2Proof.Machine.execShri d a n s
  | .srai d a n => Sys2Proof.Machine.execSrai d a n s
  | .slti d a im => Sys2Proof.Machine.execSlti d a im s
  | .sltni d a im => Sys2Proof.Machine.execSltni d a im s
  | .exts d a p w => Sys2Proof.Machine.execExts d a p w s
  | .extz d a p w => Sys2Proof.Machine.execExtz d a p w s
  | .ins d a p w => Sys2Proof.Machine.execIns d a p w s
  | .li d im => Sys2Proof.Machine.execLi d im s
  | .lih d im => Sys2Proof.Machine.execLih d im s
  | .fadd d a b => Sys2Proof.Machine.execFadd d a b s
  | .fsub d a b => Sys2Proof.Machine.execFsub d a b s
  | .fmul d a b => Sys2Proof.Machine.execFmul d a b s
  | .ffma d a b => Sys2Proof.Machine.execFfma d a b s
  | .fmin d a b => Sys2Proof.Machine.execFmin d a b s
  | .fmax d a b => Sys2Proof.Machine.execFmax d a b s
  | .fcmpEq d a b => Sys2Proof.Machine.execFcmpEq d a b s
  | .fcmpLt d a b => Sys2Proof.Machine.execFcmpLt d a b s
  | .fcmpLe d a b => Sys2Proof.Machine.execFcmpLe d a b s
  | .fcmpUn d a b => Sys2Proof.Machine.execFcmpUn d a b s
  | .fcvtiI32 d a => Sys2Proof.Machine.execFcvtiI32 d a s
  | .fcvtiN32 d a => Sys2Proof.Machine.execFcvtiN32 d a s
  | .fcvtfI32 d a => Sys2Proof.Machine.execFcvtfI32 d a s
  | .fcvtfN32 d a => Sys2Proof.Machine.execFcvtfN32 d a s
  | .cbnd d a b => Sys2Proof.Machine.execCbnd d a b s
  | .cbndx d a b => Sys2Proof.Machine.execCbndx d a b s
  | .cperm d a b => Sys2Proof.Machine.execCperm d a b s
  | .caddr d a b => Sys2Proof.Machine.execCaddr d a b s
  | .cinc d a b => Sys2Proof.Machine.execCinc d a b s
  | .cgetb d a => Sys2Proof.Machine.execCgetb d a s
  | .cgetl d a => Sys2Proof.Machine.execCgetl d a s
  | .cgetp d a => Sys2Proof.Machine.execCgetp d a s
  | .ctagt d a => Sys2Proof.Machine.execCtagt d a s
  | .cdom d a => Sys2Proof.Machine.execCdom d a s
  | .cmov d a => Sys2Proof.Machine.execCmov d a s
  | .cclrt d a => Sys2Proof.Machine.execCclrt d a s
  | .cinci d a im => Sys2Proof.Machine.execCinci d a im s
  | .ldb d a c o => Sys2Proof.Machine.execLdb d a c o s
  | .ldbn d a c o => Sys2Proof.Machine.execLdbn d a c o s
  | .ldh d a c o => Sys2Proof.Machine.execLdh d a c o s
  | .ldhn d a c o => Sys2Proof.Machine.execLdhn d a c o s
  | .ldw d a c o => Sys2Proof.Machine.execLdw d a c o s
  | .ldwn d a c o => Sys2Proof.Machine.execLdwn d a c o s
  | .ldd d a c o => Sys2Proof.Machine.execLdd d a c o s
  | .ldc d a c o => Sys2Proof.Machine.execLdc d a c o s
  | .stb a b c o => Sys2Proof.Machine.execStb a b c o s
  | .sth a b c o => Sys2Proof.Machine.execSth a b c o s
  | .stw a b c o => Sys2Proof.Machine.execStw a b c o s
  | .std a b c o => Sys2Proof.Machine.execStd a b c o s
  | .stc a b c o => Sys2Proof.Machine.execStc a b c o s
  | .pref a c => Sys2Proof.Machine.execPref a c s
  | .wbr a b => Sys2Proof.Machine.execWbr a b s
  | .invr a b => Sys2Proof.Machine.execInvr a b s
  | .fence sc => Sys2Proof.Machine.execFence sc s
  | .aadd d a b z sc c => Sys2Proof.Machine.execAadd d a b z sc c s
  | .aand d a b z sc c => Sys2Proof.Machine.execAand d a b z sc c s
  | .aor d a b z sc c => Sys2Proof.Machine.execAor d a b z sc c s
  | .axor d a b z sc c => Sys2Proof.Machine.execAxor d a b z sc c s
  | .amin d a b z sc c => Sys2Proof.Machine.execAmin d a b z sc c s
  | .amax d a b z sc c => Sys2Proof.Machine.execAmax d a b z sc c s
  | .axchg d a b z sc c => Sys2Proof.Machine.execAxchg d a b z sc c s
  | .acas d a b z sc c => Sys2Proof.Machine.execAcas d a b z sc c s
  | .beq a b w => Sys2Proof.Machine.execBeq a b w s
  | .bne a b w => Sys2Proof.Machine.execBne a b w s
  | .blt a b w => Sys2Proof.Machine.execBlt a b w s
  | .bge a b w => Sys2Proof.Machine.execBge a b w s
  | .bltn a b w => Sys2Proof.Machine.execBltn a b w s
  | .bgen a b w => Sys2Proof.Machine.execBgen a b w s
  | .jal d w => Sys2Proof.Machine.execJal d w s
  | .jalr d a => Sys2Proof.Machine.execJalr d a s
  | .kinit a b => Sys2Proof.Machine.execKinit a b s
  | .sig a b t sc => Sys2Proof.Machine.execSig a b t sc s
  | .wait d a b sc => Sys2Proof.Machine.execWait d a b sc s
  | .kpeek d a => Sys2Proof.Machine.execKpeek d a s
  | .kjoin a => Sys2Proof.Machine.execKjoin a s
  | .waitm d a b => Sys2Proof.Machine.execWaitm d a b s
  | .chadd a => Sys2Proof.Machine.execChadd a s
  | .ticket d a => Sys2Proof.Machine.execTicket d a s
  | .qpush a b => Sys2Proof.Machine.execQpush a b s
  | .qpop d a b => Sys2Proof.Machine.execQpop d a b s
  | .launch a b => Sys2Proof.Machine.execLaunch a b s
  | .spdef h a => Sys2Proof.Machine.execSpdef h a s
  | .spadvp h a => Sys2Proof.Machine.execSpadvp h a s
  | .spadvc h a => Sys2Proof.Machine.execSpadvc h a s
  | .spwaitp h a => Sys2Proof.Machine.execSpwaitp h a s
  | .spwaitc h a => Sys2Proof.Machine.execSpwaitc h a s
  | .sbind sc h t => Sys2Proof.Machine.execSbind sc h t s
  | .sunbind sc => Sys2Proof.Machine.execSunbind sc s
  | .srd d sc => Sys2Proof.Machine.execSrd d sc s
  | .bara n t => Sys2Proof.Machine.execBara n t s
  | .baraX n t => Sys2Proof.Machine.execBaraX n t s
  | .barw n t => Sys2Proof.Machine.execBarw n t s
  | .bar n t => Sys2Proof.Machine.execBar n t s
  | .exch n t => Sys2Proof.Machine.execExch n t s
  | .vclaim n => Sys2Proof.Machine.execVclaim n s
  | .vgive n => Sys2Proof.Machine.execVgive n s
  | .tack a => Sys2Proof.Machine.execTack a s
  | .untack => Sys2Proof.Machine.execUntack s
  | .bob n a => Sys2Proof.Machine.execBob n a s
  | .csrr d c => Sys2Proof.Machine.execCsrr d c s
  | .csrw d a c => Sys2Proof.Machine.execCsrw d a c s
  | .csrs d a c => Sys2Proof.Machine.execCsrs d a c s
  | .csrc d a c => Sys2Proof.Machine.execCsrc d a c s
  | .trap im => Sys2Proof.Machine.execTrap im s
  | .nop => Sys2Proof.Machine.execNop s
  | .tret => Sys2Proof.Machine.execTret s
  | .yield => Sys2Proof.Machine.execYield s
  | .done_ => Sys2Proof.Machine.execDone s
  | .sendx => Sys2Proof.Machine.execSendx s
  | .enqM d a b => Sys2Proof.Machine.execEnqM d a b s
  | .enqC d a b => Sys2Proof.Machine.execEnqC d a b s
  | .enqX d a b => Sys2Proof.Machine.execEnqX d a b s
  | .vadd d a b p => Sys2Proof.Machine.execVadd d a b p s
  | .vsub d a b p => Sys2Proof.Machine.execVsub d a b p s
  | .vmul d a b p => Sys2Proof.Machine.execVmul d a b p s
  | .vfma d a b p => Sys2Proof.Machine.execVfma d a b p s
  | .vfms d a b p => Sys2Proof.Machine.execVfms d a b p s
  | .vfnma d a b p => Sys2Proof.Machine.execVfnma d a b p s
  | .vmin d a b p => Sys2Proof.Machine.execVmin d a b p s
  | .vmax d a b p => Sys2Proof.Machine.execVmax d a b p s
  | .vabs d a p => Sys2Proof.Machine.execVabs d a p s
  | .vneg d a p => Sys2Proof.Machine.execVneg d a p s
  | .vrsqe d a p => Sys2Proof.Machine.execVrsqe d a p s
  | .vrcpe d a p => Sys2Proof.Machine.execVrcpe d a p s
  | .vcmp c d a b p => Sys2Proof.Machine.execVcmp c d a b p s
  | .vsel d a b p => Sys2Proof.Machine.execVsel d a b p s
  | .vbcst d sc p => Sys2Proof.Machine.execVbcst d sc p s
  | .vext d a l p => Sys2Proof.Machine.execVext d a l p s
  | .vand d a b p => Sys2Proof.Machine.execVand d a b p s
  | .vor d a b p => Sys2Proof.Machine.execVor d a b p s
  | .vxor d a b p => Sys2Proof.Machine.execVxor d a b p s
  | .vperm d a b p => Sys2Proof.Machine.execVperm d a b p s
  | .vshl d a b p => Sys2Proof.Machine.execVshl d a b p s
  | .vshr d a b p => Sys2Proof.Machine.execVshr d a b p s
  | .vsra d a b p => Sys2Proof.Machine.execVsra d a b p s
  | .viadd d a b p => Sys2Proof.Machine.execViadd d a b p s
  | .visub d a b p => Sys2Proof.Machine.execVisub d a b p s
  | .vimul d a b p => Sys2Proof.Machine.execVimul d a b p s
  | .vimin d a b p => Sys2Proof.Machine.execVimin d a b p s
  | .vimax d a b p => Sys2Proof.Machine.execVimax d a b p s
  | .vcvt d a k p => Sys2Proof.Machine.execVcvt d a k p s
  | .vpack d a b p => Sys2Proof.Machine.execVpack d a b p s
  | .vunpk d a b p => Sys2Proof.Machine.execVunpk d a b p s
  | .vsrd d sc p => Sys2Proof.Machine.execVsrd d sc p s
  | .vreda d a p => Sys2Proof.Machine.execVreda d a p s
  | .vredx d a p => Sys2Proof.Machine.execVredx d a p s
  | .vsift d a b p => Sys2Proof.Machine.execVsift d a b p s
  | .pset d sc => Sys2Proof.Machine.execPset d sc s
  | .pand d a b => Sys2Proof.Machine.execPand d a b s
  | .por d a b => Sys2Proof.Machine.execPor d a b s
  | .pnot d a => Sys2Proof.Machine.execPnot d a s
  | .vgath d a g p c => Sys2Proof.Machine.execVgath d a g p c s
  | .vscat d a g p c => Sys2Proof.Machine.execVscat d a g p c s
  | .vld d g c o => Sys2Proof.Machine.execVld d g c o s
  | .vst d g c o => Sys2Proof.Machine.execVst d g c o s
  | .vldl d g p o => Sys2Proof.Machine.execVldl d g p o s
  | .vstl d g p o => Sys2Proof.Machine.execVstl d g p o s
  | .mmLdw c => Sys2Proof.Machine.execMmLdw c s
  | .mmLdwQ c => Sys2Proof.Machine.execMmLdwQ c s
  | .mmSwap c => Sys2Proof.Machine.execMmSwap c s
  | .mmMma c => Sys2Proof.Machine.execMmMma c s
  | .mmMmaQ c => Sys2Proof.Machine.execMmMmaQ c s
  | .mmMmac c => Sys2Proof.Machine.execMmMmac c s
  | .mmMmacQ c => Sys2Proof.Machine.execMmMmacQ c s
  | .mmZero c => Sys2Proof.Machine.execMmZero c s
  | .mmRldef c => Sys2Proof.Machine.execMmRldef c s
  | .mmAccst c => Sys2Proof.Machine.execMmAccst c s
  | .mmAccstSat c => Sys2Proof.Machine.execMmAccstSat c s
  | .mmAccv c => Sys2Proof.Machine.execMmAccv c s
  | .mmRlst c => Sys2Proof.Machine.execMmRlst c s
  | .mmRlmrg c => Sys2Proof.Machine.execMmRlmrg c s
  | .mmThr c => Sys2Proof.Machine.execMmThr c s
  | .cpCopy c => Sys2Proof.Machine.execCpCopy c s
  | .cpMcast c => Sys2Proof.Machine.execCpMcast c s
  | .cpPeer c => Sys2Proof.Machine.execCpPeer c s
  | .cpFill c => Sys2Proof.Machine.execCpFill c s
  | .cpGath c => Sys2Proof.Machine.execCpGath c s
  | .cpScat c => Sys2Proof.Machine.execCpScat c s
  | .xcPlan c => Sys2Proof.Machine.execXcPlan c s
  | .selvWrite op d a => Sys2Proof.Machine.execSelvWrite op d a s
  | .chnWrite op d a stall => Sys2Proof.Machine.execChnWrite op d a stall s
  | .chlimWrite op d a => Sys2Proof.Machine.execChlimWrite op d a s
  | .chmodeWrite op d a => Sys2Proof.Machine.execChmodeWrite op d a s
  | .fpCsrAccess op d a csr => Sys2Proof.Machine.execFpCsrAccess op d a csr s
  | .rlthrRead d => Sys2Proof.Machine.execRlthrRead d s
  | .evcntRead d => Sys2Proof.Machine.execEvcntRead d s
  | .capCsrRead d csr => Sys2Proof.Machine.execCapCsrRead d csr s
  | .tcauseWrite op d a => Sys2Proof.Machine.execTcauseWrite op d a s
  | .illegalInstruction w => Sys2Proof.Machine.execIllegalInstruction w s
  | .hostWindowRead => Sys2Proof.Machine.execHostWindowRead s
  | .hostWindowWrite => Sys2Proof.Machine.execHostWindowWrite s
  | .portLaneFailure => Sys2Proof.Machine.execPortLaneFailure s
  | .portDown => Sys2Proof.Machine.execPortDown s
  | .peerSignalRecord => Sys2Proof.Machine.execPeerSignalRecord s
  | .peerPullRecord => Sys2Proof.Machine.execPeerPullRecord s
  | .peerRestorePull => Sys2Proof.Machine.execPeerRestorePull s
  | .peerInboundWrite => Sys2Proof.Machine.execPeerInboundWrite s
  | .restoreUnitRecord => Sys2Proof.Machine.execRestoreUnitRecord s
  | .ppsLatch => Sys2Proof.Machine.execPpsLatch s
  | .holdoverTimeout => Sys2Proof.Machine.execHoldoverTimeout s
  | .powerOnReset => Sys2Proof.Machine.execPowerOnReset s
  | .getVersion => Sys2Proof.Machine.execGetVersion s
  | .getCapabilities => Sys2Proof.Machine.execGetCapabilities s
  | .negotiateAlgorithms => Sys2Proof.Machine.execNegotiateAlgorithms s
  | .getDigests => Sys2Proof.Machine.execGetDigests s
  | .getCertificate => Sys2Proof.Machine.execGetCertificate s
  | .challenge => Sys2Proof.Machine.execChallenge s
  | .getMeasurements => Sys2Proof.Machine.execGetMeasurements s
  | .keyExchange => Sys2Proof.Machine.execKeyExchange s
  | .finish => Sys2Proof.Machine.execFinish s
  | .keyUpdate => Sys2Proof.Machine.execKeyUpdate s
  | .heartbeat => Sys2Proof.Machine.execHeartbeat s
  | .endSession => Sys2Proof.Machine.execEndSession s
  | .tckInstall => Sys2Proof.Machine.execTckInstall s
  | .tckRemove => Sys2Proof.Machine.execTckRemove s
  | .spdmUnsupported => Sys2Proof.Machine.execSpdmUnsupported s
  | .split => Sys2Proof.Machine.execSplit s
  | .merge => Sys2Proof.Machine.execMerge s
  | .create => Sys2Proof.Machine.execCreate s
  | .destroy => Sys2Proof.Machine.execDestroy s
  | .destroyComplete => Sys2Proof.Machine.execDestroyComplete s
  | .reserve => Sys2Proof.Machine.execReserve s
  | .unreserve => Sys2Proof.Machine.execUnreserve s
  | .squota => Sys2Proof.Machine.execSquota s
  | .qon => Sys2Proof.Machine.execQon s
  | .qoff => Sys2Proof.Machine.execQoff s
  | .qoffComplete => Sys2Proof.Machine.execQoffComplete s
  | .checkpoint => Sys2Proof.Machine.execCheckpoint s
  | .checkpointComplete => Sys2Proof.Machine.execCheckpointComplete s
  | .openRange => Sys2Proof.Machine.execOpenRange s
  | .restore => Sys2Proof.Machine.execRestore s
  | .restoreComplete => Sys2Proof.Machine.execRestoreComplete s
  | .vdPeriodStart => Sys2Proof.Machine.execVdPeriodStart s
  | .vdBudgetExhausted => Sys2Proof.Machine.execVdBudgetExhausted s
  | .vdGraceExpired => Sys2Proof.Machine.execVdGraceExpired s
  | .superstepBoundary => Sys2Proof.Machine.execSuperstepBoundary s
  | .saveComplete => Sys2Proof.Machine.execSaveComplete s
  | .lazyFillComplete => Sys2Proof.Machine.execLazyFillComplete s
  | .tableBaseWrite => Sys2Proof.Machine.execTableBaseWrite s
  | .bitmapBaseWrite => Sys2Proof.Machine.execBitmapBaseWrite s
  | .notifyWrite => Sys2Proof.Machine.execNotifyWrite s
  | .doorbellWrite => Sys2Proof.Machine.execDoorbellWrite s
  | .slotIdleTimeout => Sys2Proof.Machine.execSlotIdleTimeout s
  | .launchPacket => Sys2Proof.Machine.execLaunchPacket s
  | .copyPacket => Sys2Proof.Machine.execCopyPacket s
  | .signalPacket => Sys2Proof.Machine.execSignalPacket s
  | .waitPacket => Sys2Proof.Machine.execWaitPacket s
  | .waitPacketSatisfied => Sys2Proof.Machine.execWaitPacketSatisfied s
  | .waitPacketTimeout => Sys2Proof.Machine.execWaitPacketTimeout s
  | .fencePacket => Sys2Proof.Machine.execFencePacket s
  | .fencePacketComplete => Sys2Proof.Machine.execFencePacketComplete s
  | .launchComplete => Sys2Proof.Machine.execLaunchComplete s
  | .builtEntryConsume => Sys2Proof.Machine.execBuiltEntryConsume s
  | .dispatchPass => Sys2Proof.Machine.execDispatchPass s
  | .launchHoldTimeout => Sys2Proof.Machine.execLaunchHoldTimeout s
  | .codeCopyLanded => Sys2Proof.Machine.execCodeCopyLanded s
  | .codeCopyFailed => Sys2Proof.Machine.execCodeCopyFailed s
  | .largeStepStart => Sys2Proof.Machine.execLargeStepStart s
  | .vectorArbitrate => Sys2Proof.Machine.execVectorArbitrate s
  | .matrixArbitrate => Sys2Proof.Machine.execMatrixArbitrate s
  | .chainedTileForward => Sys2Proof.Machine.execChainedTileForward s
  | .matrixCommandComplete => Sys2Proof.Machine.execMatrixCommandComplete s
  | .signalApply => Sys2Proof.Machine.execSignalApply s
  | .waitHomeArrival => Sys2Proof.Machine.execWaitHomeArrival s
  | .snapshotJoin => Sys2Proof.Machine.execSnapshotJoin s
  | .waitTimeout => Sys2Proof.Machine.execWaitTimeout s
  | .waitmWake => Sys2Proof.Machine.execWaitmWake s
  | .barrierRelease => Sys2Proof.Machine.execBarrierRelease s
  | .domload => Sys2Proof.Machine.execDomload s
  | .lendWrite => Sys2Proof.Machine.execLendWrite s
  | .reqDivWrite => Sys2Proof.Machine.execReqDivWrite s
  | .dividerRailReady => Sys2Proof.Machine.execDividerRailReady s
  | .powerCapWrite => Sys2Proof.Machine.execPowerCapWrite s
  | .corePowerOff => Sys2Proof.Machine.execCorePowerOff s
  | .powerPeriod => Sys2Proof.Machine.execPowerPeriod s
  | .thermalMove => Sys2Proof.Machine.execThermalMove s
  | .thermalMoveDone => Sys2Proof.Machine.execThermalMoveDone s
  | .energyExhausted => Sys2Proof.Machine.execEnergyExhausted s
  | .asyncTrapEntry => Sys2Proof.Machine.execAsyncTrapEntry s
  | .storeWritebackFault => Sys2Proof.Machine.execStoreWritebackFault s
  | .engineFailure => Sys2Proof.Machine.execEngineFailure s
  | .hardwareError => Sys2Proof.Machine.execHardwareError s
  | .halt => Sys2Proof.Machine.execHalt s
  | .resume => Sys2Proof.Machine.execResume s
  | .step => Sys2Proof.Machine.execStep s
  | .rdreg => Sys2Proof.Machine.execRdreg s
  | .cancel => Sys2Proof.Machine.execCancel s
  | .breakpoint => Sys2Proof.Machine.execBreakpoint s
  | .wrreg => Sys2Proof.Machine.execWrreg s
  | .mapr => Sys2Proof.Machine.execMapr s
  | .unmapr => Sys2Proof.Machine.execUnmapr s
  | .mapp => Sys2Proof.Machine.execMapp s
  | .dirty => Sys2Proof.Machine.execDirty s
  | .migrate => Sys2Proof.Machine.execMigrate s
  | .migrationComplete => Sys2Proof.Machine.execMigrationComplete s
  | .translationOpInvalid => Sys2Proof.Machine.execTranslationOpInvalid s
  | .llcWritebackArrival => Sys2Proof.Machine.execLlcWritebackArrival s
  | .loadDataArrival => Sys2Proof.Machine.execLoadDataArrival s
  | .copyBufferGrant => Sys2Proof.Machine.execCopyBufferGrant s
  | .copyStart => Sys2Proof.Machine.execCopyStart s
  | .copySourceDone => Sys2Proof.Machine.execCopySourceDone s
  | .copyDataVisible => Sys2Proof.Machine.execCopyDataVisible s
  | .spoolReservationGrant => Sys2Proof.Machine.execSpoolReservationGrant s
  | .spoolSlotCounted => Sys2Proof.Machine.execSpoolSlotCounted s
  | .multicastLanding => Sys2Proof.Machine.execMulticastLanding s
  | .exchangeSend => Sys2Proof.Machine.execExchangeSend s
  | .exchangeLanding => Sys2Proof.Machine.execExchangeLanding s
  | .strandEnd => Sys2Proof.Machine.execStrandEnd s
  | .registerWrite => Sys2Proof.Machine.execRegisterWrite s
  | .portUp => Sys2Proof.Machine.execPortUp s
  | .restoreManifestArrival => Sys2Proof.Machine.execRestoreManifestArrival s
  | .thermLimitCleared => Sys2Proof.Machine.execThermLimitCleared s
  | .homeAccessArrival => Sys2Proof.Machine.execHomeAccessArrival s
  | .writeAcknowledged => Sys2Proof.Machine.execWriteAcknowledged s
  | .supervisorTrapResume => Sys2Proof.Machine.execSupervisorTrapResume s
  | .fetchFault => Sys2Proof.Machine.execFetchFault s

end Sys2Proof.Machine
end

