-- ==== Sys2Proof/Machine/Turns.lean ====
section
/-! DEFINITION. Whose turn it is (log 3): the turn of a core, which takes a trap or runs the word at its PC (R65, R138, R165), and the
device steps that happen of themselves when nobody says otherwise. -/
namespace Sys2Proof.Machine

/-! ### Time -/

/-- A step with one operand. -/
def opA (a : Nat) : StepOp := { StepOp.none with a := a }
/-- A step with two operands. -/
def opAB (a b : Nat) : StepOp := { StepOp.none with a := a, b := b }

/-- The energy that a virtual device has used in its period (R133). -/
def State.usedBy (s : State) (p v : Nat) : Nat := ((s.part p).map fun q => (q.vd v).usedUj).getD 0

/-- What the spec bounds in time: a timed exchange message lands at its arrival tick (R249), a strand that waits for its exchange slot sends at the
slot's start (R248), a barrier's release comes within its window (R105), a rail has risen after 4,000 ticks (R109), a thermal move ends within 1,200
(R114), a large step begins at its boundary (R116), and a strand of an exhausted virtual device takes the divider 16 at its boundary (R133). Each with
its tick. -/
def State.deadlines (s : State) : List (Nat × Instr × StepOp) :=
  (s.flight.zipIdx.filterMap fun e => match e.1 with
    | .exchange m => if m.timed then some (m.at_, Instr.exchangeLanding, opA e.2) else none
    | _ => none) ++
  (s.cores.filterMap fun e => e.2.rail.map fun r => (r.2 + 4000, Instr.dividerRailReady, opA e.1)) ++
  (s.strands.filterMap fun e => if e.2.phase == .moving then some (e.2.now + 1200, Instr.thermalMoveDone, opA e.1) else none) ++
  (s.strands.filterMap fun e => if e.2.phase == .live && e.2.wait.isSome && e.2.exch.origin.isSome then
      (slotStart s e.1 e.2).map fun k => (k, Instr.exchangeSend, opA e.1) else none) ++
  (s.launches.filterMap fun l => if l.stepHeld then l.blocked.map fun b => (b, Instr.largeStepStart, opAB l.part l.id) else none) ++
  (s.releases.zipIdx.filterMap fun e => if s.isAway e.1 then none else some (e.1.tick + 16, Instr.barrierRelease, opA e.2)) ++
  s.strands.filterMap fun e => if e.2.phase == .live && s.exhausted e.2.id.part e.2.id.vd && !(s.coreCfg e.1).slow && s.between e.1 e.2 then
      some (0, Instr.energyExhausted, { opAB e.2.id.part e.2.id.vd with c := s.usedBy e.2.id.part e.2.id.vd }) else none

/-- The first of some bounded steps that falls before tick `t`. -/
def firstOf (t : Nat) (ds : List (Nat × Instr × StepOp)) : Option (Nat × Instr × StepOp) :=
  ds.foldl (fun (b : Option (Nat × Instr × StepOp)) e =>
    if e.1 < t then
      match b with
      | none => some e
      | some c => if e.1 < c.1 then some e else some c
    else b) none

/-- The first of them that falls before tick `t`. -/
def State.firstDue (s : State) (t : Nat) : Option (Nat × Instr × StepOp) := firstOf t s.deadlines

/-- A bounded step leaves what brought it, so that it does not come again: a strand that has tried to send may have to go on waiting, and the
energy of a virtual device is noted for all its strands at once. -/
def onceOnly (i : Instr) : Bool := i == .exchangeSend || i == .energyExhausted

/-- Time goes on to tick `t`; at most `fuel` of the bounded steps come on the way, each at its tick; those in `past` have come. -/
def advanceBy (t : Nat) : Nat → List (Nat × Instr × StepOp) → State → State
  | 0, _, s => { s with tick := max s.tick t }
  | fuel + 1, past, s =>
    match firstOf t (s.deadlines.filter fun d => !past.contains d) with
    | none => { s with tick := max s.tick t }
    | some d =>
      match exec d.2.1 { s with tick := max s.tick d.1, op := d.2.2 } with
      | .next s1 => advanceBy t fuel (if onceOnly d.2.1 then d :: past else past) { s1 with op := s.op, cur := s.cur }
      | _ => advanceBy t fuel (d :: past) s

/-- Time goes on to tick `t`. -/
def State.advance (s : State) (t : Nat) : State := advanceBy t (s.deadlines.length + 1) [] s

/-! ### A core's turn -/

/-- The strand may have a turn: it is live, leads its gang, and neither is halted nor waits for what a device step brings; one that is
to be saved still ends the instruction that it has begun (R118). -/
def Strand.turns (x : Strand) (n : Nat) : Bool :=
  x.phase == .live && !x.halted && (!x.gang.tacked || x.gang.leader == n) &&
  match x.wait with
  | none => !x.stopReq
  | some (.data k) => k == 0
  | some .own => true
  | some .join => true
  | some .excluded => true
  | some .lazy => true
  | _ => false

/-- The tick at which the strand's turn comes: that of its next local cycle, one later where it only tries again. -/
def Strand.turnAt (x : Strand) : Nat :=
  match x.wait with
  | none => x.now
  | some (.data _) => x.now
  | some _ => if x.stash == [1] then x.now else x.now + 1

/-- The instruction at the strand's PC, read by the decoder from its four bytes. -/
def State.fetch (s : State) (n : Nat) (x : Strand) : Instr :=
  let w := s.fetchWord (x.codeCore n) x.pc
  match decodeWord w with
  | some i => i
  | none => .illegalInstruction w

/-- A strand that steps has begun its one instruction (R145). -/
def markStep (x : Strand) : Strand := if x.stepping then { x with haltReq := true } else x

/-- Run the word at the PC. -/
def runWord (s : State) (n : Nat) (x : Strand) : Out :=
  match exec (s.fetch n x) s with
  | .next s1 => .next (if x.stepping then (x.members n).foldl (fun (z : State) m => z.onStrand m markStep) s1 else s1)
  | o => o

/-- A member of the strand's gang takes a held trap at this boundary (R67, R137). -/
def asyncDue (s : State) (n : Nat) (x : Strand) : Bool :=
  s.trapsAt n x && (x.members n).any fun m => ((s.strand m).bind Strand.dueAsync).isSome

/-- A halt that a member of the gang is to make (R145). -/
def haltDue (s : State) (n : Nat) (x : Strand) : Bool :=
  !x.stepping && (x.members n).any fun m => ((s.strand m).map (·.haltReq)).getD false

/-- No member of the strand's gang waits for what a device step must bring (R65). -/
def gangTries (s : State) (n : Nat) (x : Strand) : Bool :=
  (x.members n).all fun m => match (s.strand m).bind (·.wait) with
    | none => true
    | some (.data k) => k == 0
    | some k => k.tests

/-- The line of the PC is absent: the strand waits for it at its boundary, with its gang, in excluded ticks (R79, R93, R129). -/
def State.awaitLine (s : State) (n : Nat) (x : Strand) : State :=
  (x.members n).foldl (fun (z : State) m => (z.blockOn m .lazy).onStrand m fun y => { y with stash := [3] }) s

/-- The lowest other core of the pool whose turn has come too: its claim at this tick goes before that of core `n` (R151). -/
def claimFirst (s : State) (n : Nat) (x : Strand) : Option Nat :=
  match s.fetch n x with
  | .vclaim _ =>
    if x.wait.isSome then none
    else ((s.strands.filter fun e => decide (e.1 < n) && s.poolOf e.1 == s.poolOf n && e.2.turns e.1 && gangTries s e.1 e.2 &&
      decide (e.2.turnAt ≤ s.tick)).head?).map (·.1)
  | _ => none

/-- The turn of a strand at an instruction boundary, in the order of R138: halt, debug trap, fetch fault, lazy fill, the word. -/
def boundaryTurn (s : State) (n : Nat) (x : Strand) : Out :=
  if haltDue s n x then .next (s.haltNow n x)
  else match debugTraps s n x with
  | t :: ts => .next (s.takeDebug n x (t :: ts))
  | [] =>
    if (fetchTrap s n x).isSome then exec .fetchFault s
    else if x.absentLine x.pc 4 then .next (s.awaitLine n x)
    else runWord s n x

/-- A strand that waits for the line of its PC, with its gang, has its turn: while the line is absent it waits on, then it stands at its boundary, where it
stays if it is to stop (R118, R129). -/
def fetchTurn (s : State) (n : Nat) (x : Strand) : Out :=
  let s1 := s.settleAll (x.members n)
  if x.absentLine x.pc 4 then .next s1
  else
    let s2 := (x.members n).foldl (fun (z : State) m => z.onStrand m fun y => { y with wait := none, stash := [] }) (s1.gangSync (x.members n) 2)
    match s2.strand n with
    | none => .next s2
    | some y =>
      if y.stopReq then .next s2
      else if asyncDue s2 n y then exec .asyncTrapEntry s2
      else boundaryTurn s2 n y

/-- The turn of core `n`. -/
def coreTurn (n : Nat) (s : State) : Out :=
  match s.strand n with
  | none => .refused .noStrand
  | some x =>
    if x.turns n then
      let s1 : State := { s.advance (max s.tick x.turnAt) with cur := n }
      match s1.strand n with
      | none => .refused .noStrand
      | some x =>
        if asyncDue s1 n x then exec .asyncTrapEntry s1
        else if x.fetchWait then fetchTurn s1 n x
        else if x.wait.isNone then
          match claimFirst s1 n x with
          | some m => .next { s1 with agenda := .core m :: .core n :: s1.agenda }
          | none => boundaryTurn s1 n x
        else if x.absentLine x.pc 4 then .next (s1.fillLine n (x.pc / 256))
        else runWord s1 n x
    else .refused .noStrand

/-- The core whose turn has come first, if one has. -/
def nextCore (s : State) : Option Nat :=
  (s.strands.foldl (fun (b : Option (Nat × Nat)) e =>
    if e.2.turns e.1 && gangTries s e.1 e.2 && decide (e.2.turnAt ≤ s.tick) then
      match b with
      | none => some (e.2.turnAt, e.1)
      | some c => if e.2.turnAt < c.1 then some (e.2.turnAt, e.1) else some c
    else b) none).map (·.2)

/-! ### Device steps that happen of themselves -/

/-- What a message in flight may do. -/
def Msg.steps (k : Nat) : Msg → List (Instr × StepOp)
  | .access _ => [(.homeAccessArrival, opA k)]
  | .reply _ _ => [(.loadDataArrival, opA k)]
  | .fill _ => [(.loadDataArrival, opA k)]
  | .signal _ => [(.signalApply, opA k)]
  | .wait _ => [(.waitHomeArrival, opA k)]
  | .snapshot _ => [(.snapshotJoin, opA k)]
  | .writeback _ _ _ _ _ _ => [(.llcWritebackArrival, opA k), (.storeWritebackFault, opA k)]
  | .ack _ => [(.writeAcknowledged, opA k)]
  | .exchange _ => [(.exchangeLanding, opA k)]

/-- Steps of strands: code copies, fills, waits, sends, ends, moves. -/
def strandSteps (s : State) : List (Instr × StepOp) :=
  s.strands.flatMap fun e =>
    let n := e.1
    let x := e.2
    let fills := if x.wait == some .excluded || x.wait == some .lazy || !x.vq.isEmpty || x.bobbin.active then
        x.lineAbsent.map (fun i => (Instr.lazyFillComplete, opAB n i)) ++
        ((List.range 16).filter x.granAbsent.getLsbD).map fun i => (Instr.lazyFillComplete, { opAB n i with flag := true })
      else []
    let sends := if x.exch.origin.isSome && x.wait.isSome then [(Instr.exchangeSend, opA n)] else []
    let move := if x.phase == .moving && decide (x.now + 1200 ≤ s.tick) then [(Instr.thermalMoveDone, opA n)] else []
    [(Instr.codeCopyLanded, opA n), (.codeCopyFailed, opA n), (.waitTimeout, opA n), (.waitmWake, opAB n 0), (.waitmWake, opAB n 2),
     (.waitmWake, opAB n 3), (.strandEnd, opA n), (.copyBufferGrant, opA n)] ++ fills ++ sends ++ move

/-- Steps of cells that have something to do. -/
def cellSteps (s : State) : List (Instr × StepOp) :=
  let busy := rowsOf ((s.strands.filter fun e => !e.2.vq.isEmpty || e.2.bobbin.active).map fun e => cellOf e.1)
  let mats := rowsOf ((s.strands.filter fun e => !e.2.mq.isEmpty).map fun e => cellOf e.1)
  busy.map (fun k => (Instr.vectorArbitrate, opA k)) ++
  mats.flatMap (fun k => [(Instr.matrixArbitrate, opAB k 1), (.matrixArbitrate, opAB k 0)]) ++
  s.cells.flatMap fun e => [(Instr.chainedTileForward, opA e.1), (.matrixCommandComplete, opAB e.1 0), (.matrixCommandComplete, opAB e.1 1)]

/-- Steps of copy streamers. -/
def copySteps (s : State) : List (Instr × StepOp) :=
  s.orphans.map (fun c => (Instr.copyBufferGrant, opA c.core)) ++
  (rowsOf (s.copies.map (·.slice))).map (fun k => (Instr.copyStart, opA k)) ++
  (List.range s.landings.length).flatMap (fun i => [(Instr.spoolReservationGrant, opA i), (.spoolSlotCounted, opA i)]) ++
  s.copies.zipIdx.flatMap fun e =>
    [(Instr.copySourceDone, opA e.2)] ++ e.1.cmd.receivers.map (fun r => (Instr.multicastLanding, opAB e.2 r.1)) ++
    [(.engineFailure, opA e.2), (.copyDataVisible, opA e.2)]

/-- Steps of partitions, launches and virtual devices. -/
def partSteps (s : State) : List (Instr × StepOp) :=
  s.launches.flatMap (fun l => [(Instr.largeStepStart, opAB l.part l.id), (.builtEntryConsume, opAB l.part l.id),
    (.launchHoldTimeout, opAB l.part l.id), (.launchComplete, opAB l.part l.id)]) ++
  s.parts.flatMap fun e =>
    e.2.vds.flatMap (fun v => [(Instr.vdPeriodStart, opAB e.1 v.1), (.vdBudgetExhausted, opAB e.1 v.1), (.superstepBoundary, opAB e.1 v.1),
      (.vdGraceExpired, opAB e.1 v.1), (.saveComplete, opAB e.1 v.1)]) ++
    (e.2.migrations.filter fun m => tState m.old != 3).map (fun m => (Instr.migrationComplete, opAB e.1 m.page)) ++
    [(Instr.dispatchPass, opA e.1), (.checkpointComplete, opA e.1), (.restoreComplete, opA e.1), (.destroyComplete, opA e.1)]

/-- Steps of host queues. -/
def queueSteps (s : State) : List (Instr × StepOp) :=
  s.qslots.flatMap fun e =>
    let q := e.2.queue
    (if q = 0 then [(Instr.split, opA 0), (.merge, opA 0), (.create, opA 0), (.destroy, opA 0), (.reserve, opA 0), (.unreserve, opA 0),
      (.squota, opA 0), (.qon, opA 0), (.qoff, opA 0), (.checkpoint, opA 0), (.openRange, opA 0), (.restore, opA 0)] else []) ++
    [(.launchPacket, opA q), (.copyPacket, opA q), (.signalPacket, opA q), (.waitPacket, opA q), (.waitPacketSatisfied, opA q),
     (.waitPacketTimeout, opA q), (.fencePacket, opA q), (.fencePacketComplete, opA q), (.qoffComplete, opA q), (.slotIdleTimeout, opA e.1)]

/-- Steps that time brings. -/
def timeSteps (s : State) : List (Instr × StepOp) :=
  (Instr.holdoverTimeout, StepOp.none) :: s.cores.flatMap fun e =>
    [(Instr.corePowerOff, opA e.1)] ++ (match e.2.rail with
      | some r => if r.2 + 4000 ≤ s.tick then [(Instr.dividerRailReady, opA e.1)] else []
      | none => [])

/-- All of them, in the order in which they are tried. -/
def State.steps (s : State) : List (Instr × StepOp) :=
  s.flight.zipIdx.flatMap (fun e => e.1.steps e.2) ++ (List.range s.releases.length).map (fun k => (Instr.barrierRelease, opA k)) ++
  strandSteps s ++ cellSteps s ++ copySteps s ++ partSteps s ++ queueSteps s ++ timeSteps s

/-- The first of them that is enabled and changes the state beyond its operands. -/
def firstStep (s : State) : List (Instr × StepOp) → Option State
  | [] => none
  | c :: cs =>
    let z : State := { s with op := c.2 }
    match exec c.1 z with
    | .next s1 => if s1 = z then firstStep s cs else some s1
    | _ => firstStep s cs

/-! ### One step, and the placing of a word -/

/-- The turn that the agenda names: a core's, or a device step's with its operands. In recovery the device answers SPDM requests alone
(R23). -/
def takeTurn (t : Turn) (s : State) : Out :=
  match t with
  | .core n => if s.boot = .running then coreTurn n s else .next s
  | .device i op =>
    let z : State := { s with op := op }
    if s.boot = .running then exec i z
    else match i with
    | .getVersion => exec i z
    | .getCapabilities => exec i z
    | .getMeasurements => exec i z
    | _ => .next s

/-- A step that nobody has chosen: a device step that happens of itself, else the core whose turn has come, else time goes on. -/
def freeTurn (s : State) : Out :=
  if s.boot = .running then
    match firstStep s s.steps with
    | some s1 => .next s1
    | none =>
      match nextCore s with
      | some n => coreTurn n s
      | none => .next (s.advance (s.tick + 1))
  else .next { s with tick := s.tick + 1 }

/-- One step: the boot from ROM comes first (R23); then the agenda's head; without one the device goes on of itself. -/
def State.turn (s : State) : Out :=
  if s.boot = .rom then exec .powerOnReset s
  else match s.agenda with
  | t :: ts => takeTurn t { s with agenda := ts }
  | [] => freeTurn s

/-- The strand that a word is placed for where the core has none: at PC 0 below a selvage of 256, every register zero. -/
def blankStrand (n : Nat) : Strand :=
  let x := dispatchStrand ⟨0, 0, 0, 0, 0, 0, 0, false, 0, [], [], 0, none, [], false, none, false, 0, false, false, false, false, 0, false, false⟩
    ⟨0, 0, 0, 0, 0, 0⟩ [n] [] n 0
  { x with phase := .live, g := Vector.replicate 64 ⟨0, false⟩, csr := (Vector.replicate 128 0).set 0x20 256, spanEnd := 0x1000, pc := 0,
           holding := 2, baseGran := 2, gang := Gang.none }

/-- A strand that fetches at its PC at its next turn. -/
def Strand.fetching (x : Strand) : Strand :=
  let y := { x with
    phase := .live, wait := none, reply := none, stash := [], halted := false, haltReq := false, stopReq := false, stepping := false
    async := [], gang := Gang.none, pc := if x.pc % 4 = 0 ∧ x.pc + 4 ≤ 2 ^ 18 then x.pc else 0 }
  { y with lineAbsent := removeNat (y.pc / 256) y.lineAbsent
           csr := if y.selv ≤ y.pc then y.csr.set 0x20 (BitVec.ofNat 64 ((y.pc / 256 + 1) * 256)) else y.csr }

/-- `s` with the instruction whose bits are `w` placed where the next step fetches it: a control word at the PC of the current core's
strand, that core's turn next; a command as the next step's turn. -/
def State.placeWord (s : State) (nbits w : Nat) : State :=
  let n := s.cur
  let x := ((s.strand n).getD (blankStrand n)).fetching
  let c := s.coreCfg n
  let s1 : State := { (s.setStrand n x).setCore n { c with breaks := Vector.replicate 4 0 } with boot := .running }
  if nbits ≤ 32 then
    let a := scratchAt n x.pc
    let b := (s1.scratch.clearPoison a).bytes
    { s1 with
      agenda := [.core n]
      scratch := { s1.scratch.clearPoison a with bytes := writeRaw b a (bytesOf (w % 2 ^ nbits) 4) } }
  else
    match decodeTableWord nbits w with
    | some i => { s1 with agenda := [.device i StepOp.none] }
    | none => { s1 with agenda := [] }

end Sys2Proof.Machine
end

