-- ==== Sys2Proof/Safety.lean ====
section
/-! DEFINITION. What claims call safe: the canonical form of the memories and of the tables of the state, a machine that has left its
ROM, and a step that goes on; and the words that the statements share: what a strand that runs alone is, what an instruction leaves
unchanged, and what it means that an instruction ends with a result. -/
namespace Sys2Proof.Safety
open Sys2Proof.Machine

/-- Every memory bank is in its canonical form. -/
def MemoriesOk (s : State) : Prop := s.hbm.wf = true ∧ s.host.wf = true ∧ s.scratch.wf = true ∧ s.chip.wf = true

/-- The tables of the state are in their canonical form: keys strictly rising. -/
def TablesOk (s : State) : Prop :=
  s.strands.wf = true ∧ s.cores.wf = true ∧ s.cells.wf = true ∧ s.clusters.wf = true ∧ s.parts.wf = true ∧ s.qslots.wf = true ∧
    s.dir.wf = true

/-- The boot chain has failed (R23). -/
def InRecovery (s : State) : Prop := s.boot = .recovery

/-- The step goes on: no fault and no refusal. -/
def GoesOn (s : State) : Prop := ∃ t, step s = .next t

/-- `k` steps go on and every state on the way meets `P`. -/
def SafeFor (P : State → Prop) : Nat → State → Prop
  | 0, s => P s
  | k + 1, s => P s ∧ ∃ t, step s = .next t ∧ SafeFor P k t

end Sys2Proof.Safety

namespace Sys2Proof.Claim
open Sys2Proof.Machine

/-! ### Words shared by the statements -/

/-- The current core's strand is `x`; it can run a word now and belongs to no tacked gang. -/
def Alone (s : State) (x : Strand) : Prop := s.strand s.cur = some x ∧ x.runnable = true ∧ x.gang.tacked = false

/-- A 64-bit result in a g register: bits 127:64 zero, tag 0 (R148). -/
def word64 (w : W64) : GReg := ⟨w.setWidth 128, false⟩

/-- What an instruction that ends on a strand leaves unchanged: every g register outside `gs`; every v register and predicate; every
CSR outside `cs`, but that the cycles it takes may move CHN (0x10) and CHSTALL (0x14) and may set chpend, bit 11 of TCAUSE (0x22);
streams, spools, bobbin, granules, queues, caches, barrier state, exchange state and gang. The wait that the instruction may have
been in is over. -/
structure Keeps (x y : Strand) (gs : List (BitVec 6)) (cs : List (BitVec 7)) : Prop where
  g : ∀ r, r ∉ gs → y.getG r = x.getG r
  v : y.v = x.v
  p : y.p = x.p
  csr : ∀ c : BitVec 7, c ≠ 0x10#7 → c ≠ 0x14#7 → c ≠ 0x22#7 → c ∉ cs → y.csrAt c = x.csrAt c
  tcause : y.csrAt 0x22#7 &&& ~~~0x800#64 = x.csrAt 0x22#7 &&& ~~~0x800#64
  ident : y.id = x.id ∧ y.phase = x.phase ∧ y.gang = x.gang ∧ y.gen = x.gen
  streams : y.streams = x.streams ∧ y.spools = x.spools ∧ y.bobbin = x.bobbin
  granules : y.holding = x.holding ∧ y.baseGran = x.baseGran ∧ y.spanEnd = x.spanEnd ∧ y.granAbsent = x.granAbsent ∧
    y.granDirty = x.granDirty ∧ y.lineAbsent = x.lineAbsent ∧ y.lineClean = x.lineClean
  queues : y.vq = x.vq ∧ y.mq = x.mq ∧ y.cq = x.cq ∧ y.gPend = x.gPend ∧ y.vRdy = x.vRdy
  caches : y.cache = x.cache ∧ y.plb = x.plb ∧ y.unacked = x.unacked
  barriers : y.arrivals = x.arrivals ∧ y.held = x.held ∧ y.exch = x.exch
  debug : y.halted = x.halted ∧ y.stepping = x.stepping ∧ y.haltReq = x.haltReq ∧ y.stopReq = x.stopReq ∧ y.after = x.after
  wait : y.wait = none

/-- Instruction `i` of a strand alone whose registers `d :: srcs` no queued vector instruction will write (R356) ends: nothing of the
device but the strand changes, register `d` holds `val` of the strand before (g0 stays 0, R148), the CSRs in `cs` may change, the PC is
at the next word, and the rest of the strand is kept. -/
def Writes (i : Instr) (srcs : List (BitVec 6)) (d : BitVec 6) (val : Strand → GReg) : Prop :=
  ∀ (s : State) (x : Strand), Alone s x → x.pending (d :: srcs) = false →
    ∃ y, Sys2Proof.Machine.exec i s = .next (s.setStrand s.cur y) ∧
      y.getG d = (if d = 0 then ⟨0, false⟩ else val x) ∧ y.pc = (x.pc + 4) % 2 ^ 64 ∧ Keeps x y [d] []

/-- The same of an instruction that also sets bits of FFLAGS (CSR 0x1A): `val` gives the low 32 bits of the result and the bits. -/
def WritesFlags (i : Instr) (srcs : List (BitVec 6)) (d : BitVec 6) (val : Strand → W32 × FFlags) : Prop :=
  ∀ (s : State) (x : Strand), Alone s x → x.pending (d :: srcs) = false →
    ∃ y, Sys2Proof.Machine.exec i s = .next (s.setStrand s.cur y) ∧
      y.getG d = (if d = 0 then ⟨0, false⟩ else word64 ((val x).1.setWidth 64)) ∧
      y.csrAt 0x1A#7 = x.csrAt 0x1A#7 ||| (val x).2.setWidth 64 ∧ y.pc = (x.pc + 4) % 2 ^ 64 ∧ Keeps x y [d] [0x1A#7]

/-- The strand with its ticks charged up to the device's tick, as it is when its word begins (R78). -/
def begun (s : State) (x : Strand) : Strand := x.settle s.tick (s.divOf s.cur)

/-- The device with the strand so. -/
def atWord (s : State) (x : Strand) : State := s.setStrand s.cur (begun s x)

/-- The strand once the operands `rs` are ready (R300). It differs from `x` in its clock, CHN, CHSTALL and chpend only. -/
def operands (s : State) (x : Strand) (rs : List (BitVec 6)) : Strand := (atWord s x).ready s.cur (begun s x) rs

/-- `y` is `x` with nothing changed but what the cycles of an instruction may change, its wait over. -/
structure Ends (x y : Strand) : Prop where
  keeps : Keeps x y [] []
  pc : y.pc = x.pc

/-- Instruction `i` ends with the strand `x'` and the rest of the device as in `t`. -/
def Retires (i : Instr) (s t : State) (x' : Strand) : Prop :=
  ∃ y, Sys2Proof.Machine.exec i s = .next (t.setStrand s.cur y) ∧ Ends x' y

/-- The strand at the next word. -/
def goOn (x : Strand) : Strand := { x with pc := (x.pc + 4) % 2 ^ 64 }

/-- The strand in its own handler after a precise trap without detail (R136): TEPC, TVAL and TCAUSE (cause, active; chpend and more
stay), the PC at TVEC. -/
def inHandler (x : Strand) (cause : Nat) (tval : W64) : Strand :=
  { ((x.setCsr 0x24#7 (BitVec.ofNat 64 x.pc)).setCsr 0x23#7 tval).setCsr 0x22#7
      ((x.csrAt 0x22#7 &&& 0x1800#64) ||| BitVec.ofNat 64 (0x100 + cause)) with pc := (x.csrAt 0x21#7).toNat }

/-- Instruction `i` of the strand takes the precise trap `cause` (R136): to the supervisor while a handler is active or where TDELEG
does not delegate it, else to the strand's own handler. It has no other effect (R134). -/
def Traps (i : Instr) (s : State) (x : Strand) (cause : Nat) (tval : W64) : Prop :=
  ∃ y, Sys2Proof.Machine.exec i s = .next (s.setStrand s.cur y) ∧
    if bit1 (x.csrAt 0x22#7) 8 || !bit1 (x.csrAt 0x25#7) cause then
      y.wait = some (.supervisor cause tval (BitVec.ofNat 64 x.pc) 0) ∧ Ends x { y with wait := none }
    else Ends (inHandler x cause tval) y

/-- The strand has nothing for a release to wait for (R194, R220): no written byte in its cache, every write acknowledged, no store
fault to be taken. -/
def Quiet (x : Strand) : Prop := (∀ l ∈ x.cache, l.mask = 0) ∧ x.unacked = 0 ∧ x.faulted = false

/-- Every byte of the memories but those of core `n`'s scratchpad from `off` on, `len` of them, reads as before. -/
def OnlyScratch (s t : State) (n off len : Nat) : Prop :=
  t.hbm = s.hbm ∧ t.host = s.host ∧ t.chip = s.chip ∧
  ∀ k, k < scratchAt n off ∨ scratchAt n off + len ≤ k → t.scratch.read k = s.scratch.read k

/-- The bytes of a work queue entry: payload, chain, overflow, sequence number (R340). -/
def entryBytes (payload chain seq : Nat) (ovf : Bool) : List Byte :=
  bytesOf (payload + chain * 2 ^ 64 + (if ovf then 2 ^ 112 else 0) + seq * 2 ^ 128) 32

/-- Node i of level l of the tree of R261 over the lanes that take part: a node with one absent child passes the other. -/
def treeNode (f : W32 → W32 → W32) (leaf : Nat → Option W32) : Nat → Nat → Option W32
  | 0, i => leaf i
  | l + 1, i => match treeNode f leaf l (2 * i), treeNode f leaf l (2 * i + 1) with
    | some a, some b => some (f a b)
    | some a, none => some a
    | none, b => b

/-- 1 or 0. -/
def bit64 (b : Bool) : W64 := if b then 1 else 0

/-- The command that an engine command given as an instruction carries out for the current core's strand. -/
def commandNow (s : State) (x : Strand) (o : CmdOp) (w : W256) : Cmd := { s.capture s.cur x o w with waited := false }

/-- `k` is the next packet of queue 0: a well-formed management command with this code, every earlier packet of the queue complete (R48, R50,
R51). -/
def Commanded (s : State) (code : Nat) (k : Pkt) : Prop :=
  let z : State := { s with op := { s.op with a := 0 } }
  z.nextPacket 0 = some (.ok (k, z)) ∧ headerFault z k = none ∧ kType k.w = 6 ∧ mgmtFault k.w = none ∧ kNum k.w 24 1 = code ∧ k.x.started = []

/-- Device step `i` ends a management command with status `st`, written to the 4 bytes at `a` (R50), and `P` of the state after it. -/
def Answers (i : Instr) (s : State) (a st : Nat) (P : State → Prop) : Prop :=
  ∃ t, Sys2Proof.Machine.exec i s = .next t ∧ t.hbm.readList a 4 = bytesOf st 4 ∧ P t

end Sys2Proof.Claim
end

