-- ==== Sys2Proof/Certificates/Slice0/Obligations.lean ====
section
/-! DEFINITION. The statements for the provers. Their shared words are in Safety.lean. -/

open Sys2Proof Sys2Proof.Machine Sys2Proof.Claim

/-! ### Integer instructions -/

/-- R301 but for division: each of these writes its result to d, bits 127:64 zero and tag 0, and changes nothing else. -/
def Obligations.IntegerRegisterResults : Prop :=
  ∀ d a b : BitVec 6,
    Writes (.add d a b) [a, b] d (fun x => word64 (x.rd a + x.rd b)) ∧
    Writes (.sub d a b) [a, b] d (fun x => word64 (x.rd a - x.rd b)) ∧
    Writes (.mul d a b) [a, b] d (fun x => word64 (x.rd a * x.rd b)) ∧
    Writes (.mulh d a b) [a, b] d (fun x => word64 (BitVec.ofInt 64 ((x.rd a).toInt * (x.rd b).toInt / 2 ^ 64))) ∧
    Writes (.mulhn d a b) [a, b] d (fun x => word64 (BitVec.ofNat 64 ((x.rd a).toNat * (x.rd b).toNat / 2 ^ 64))) ∧
    Writes (.and_ d a b) [a, b] d (fun x => word64 (x.rd a &&& x.rd b)) ∧
    Writes (.or_ d a b) [a, b] d (fun x => word64 (x.rd a ||| x.rd b)) ∧
    Writes (.xor_ d a b) [a, b] d (fun x => word64 (x.rd a ^^^ x.rd b)) ∧
    Writes (.shl d a b) [a, b] d (fun x => word64 (x.rd a <<< ((x.rd b).toNat % 64))) ∧
    Writes (.shr d a b) [a, b] d (fun x => word64 (x.rd a >>> ((x.rd b).toNat % 64))) ∧
    Writes (.sra d a b) [a, b] d (fun x => word64 ((x.rd a).sshiftRight ((x.rd b).toNat % 64))) ∧
    Writes (.slt d a b) [a, b] d (fun x => word64 (bit64 (decide ((x.rd a).toInt < (x.rd b).toInt)))) ∧
    Writes (.sltn d a b) [a, b] d (fun x => word64 (bit64 (decide ((x.rd a).toNat < (x.rd b).toNat)))) ∧
    Writes (.min_ d a b) [a, b] d (fun x => word64 (if (x.rd a).toInt < (x.rd b).toInt then x.rd a else x.rd b)) ∧
    Writes (.max_ d a b) [a, b] d (fun x => word64 (if (x.rd a).toInt < (x.rd b).toInt then x.rd b else x.rd a)) ∧
    Writes (.minn d a b) [a, b] d (fun x => word64 (if (x.rd a).toNat < (x.rd b).toNat then x.rd a else x.rd b)) ∧
    Writes (.maxn d a b) [a, b] d (fun x => word64 (if (x.rd a).toNat < (x.rd b).toNat then x.rd b else x.rd a)) ∧
    Writes (.sel d a b) [d, a, b] d (fun x => word64 (if x.rd d ≠ 0 then x.rd a else x.rd b))

/-- R301: CLZ, CTZ and POPC count. Leading: the first of bits 63, 62, … that is set; trailing: the first of bits 0, 1, …; 64 where none
is; POPC: how many are. -/
def Obligations.BitCounts : Prop :=
  ∀ d a : BitVec 6,
    Writes (.clz d a) [a] d (fun x => word64 (BitVec.ofNat 64 ((List.range 64).takeWhile fun i => !(x.rd a).getLsbD (63 - i)).length)) ∧
    Writes (.ctz d a) [a] d (fun x => word64 (BitVec.ofNat 64 ((List.range 64).takeWhile fun i => !(x.rd a).getLsbD i).length)) ∧
    Writes (.popc d a) [a] d (fun x => word64 (BitVec.ofNat 64 ((List.range 64).countP fun i => (x.rd a).getLsbD i)))

/-- R302: quotients round toward zero, remainders have the sign of the dividend; division by zero and −2^63 / −1 as the rule gives
them. Division never traps. -/
def Obligations.Division : Prop :=
  ∀ d a b : BitVec 6,
    Writes (.div d a b) [a, b] d (fun x => word64
      (if x.rd b = 0 then BitVec.ofNat 64 (2 ^ 64 - 1)
       else if x.rd a = BitVec.ofNat 64 (2 ^ 63) ∧ x.rd b = BitVec.ofNat 64 (2 ^ 64 - 1) then BitVec.ofNat 64 (2 ^ 63)
       else BitVec.ofInt 64 ((x.rd a).toInt.tdiv (x.rd b).toInt))) ∧
    Writes (.rem d a b) [a, b] d (fun x => word64
      (if x.rd b = 0 then x.rd a
       else if x.rd a = BitVec.ofNat 64 (2 ^ 63) ∧ x.rd b = BitVec.ofNat 64 (2 ^ 64 - 1) then 0
       else BitVec.ofInt 64 ((x.rd a).toInt - (x.rd a).toInt.tdiv (x.rd b).toInt * (x.rd b).toInt))) ∧
    Writes (.divn d a b) [a, b] d (fun x => word64
      (if x.rd b = 0 then BitVec.ofNat 64 (2 ^ 64 - 1) else BitVec.ofNat 64 ((x.rd a).toNat / (x.rd b).toNat))) ∧
    Writes (.remn d a b) [a, b] d (fun x => word64
      (if x.rd b = 0 then x.rd a else BitVec.ofNat 64 ((x.rd a).toNat % (x.rd b).toNat)))

/-- R303 to R306: the immediate forms, the immediate shifts, the bit fields and the constants, with their words. The bit-field forms are those
with p + w at most 64 (R305); w holds the width minus 1. Reserved words, and a field that does not fit, are no instruction. -/
def Obligations.IntegerImmediateResults : Prop :=
  ∀ (d a : BitVec 6) (i : BitVec 14) (n p w : BitVec 6) (k : BitVec 20),
    Writes (.addi d a i) [a] d (fun x => word64 (x.rd a + i.signExtend 64)) ∧
    Writes (.andi d a i) [a] d (fun x => word64 (x.rd a &&& i.signExtend 64)) ∧
    Writes (.ori d a i) [a] d (fun x => word64 (x.rd a ||| i.signExtend 64)) ∧
    Writes (.xori d a i) [a] d (fun x => word64 (x.rd a ^^^ i.signExtend 64)) ∧
    Writes (.slti d a i) [a] d (fun x => word64 (bit64 (decide ((x.rd a).toInt < i.toInt)))) ∧
    Writes (.sltni d a i) [a] d (fun x => word64 (bit64 (decide ((x.rd a).toNat < (i.signExtend 64).toNat)))) ∧
    Writes (.shli d a n) [a] d (fun x => word64 (x.rd a <<< n.toNat)) ∧
    Writes (.shri d a n) [a] d (fun x => word64 (x.rd a >>> n.toNat)) ∧
    Writes (.srai d a n) [a] d (fun x => word64 ((x.rd a).sshiftRight n.toNat)) ∧
    (p.toNat + w.toNat + 1 ≤ 64 →
      Writes (.extz d a p w) [a] d (fun x => word64 (BitVec.ofNat 64 ((x.rd a).toNat / 2 ^ p.toNat % 2 ^ (w.toNat + 1)))) ∧
      Writes (.exts d a p w) [a] d (fun x => word64
        (((x.rd a).extractLsb' p.toNat (w.toNat + 1)).signExtend 64)) ∧
      Writes (.ins d a p w) [d, a] d (fun x => word64 (BitVec.ofNat 64
        ((x.rd d).toNat % 2 ^ p.toNat + (x.rd a).toNat % 2 ^ (w.toNat + 1) * 2 ^ p.toNat +
          (x.rd d).toNat / 2 ^ (p.toNat + w.toNat + 1) * 2 ^ (p.toNat + w.toNat + 1))))) ∧
    Writes (.li d k) [] d (fun _ => word64 (k.signExtend 64)) ∧
    Writes (.lih d k) [d] d (fun x => word64 ((x.rd d <<< 20) ||| k.setWidth 64)) ∧
    decodeWord (0x02#6 ++ d ++ a ++ i) = some (.addi d a i) ∧ decodeWord (0x03#6 ++ d ++ a ++ i) = some (.andi d a i) ∧
    decodeWord (0x04#6 ++ d ++ a ++ i) = some (.ori d a i) ∧ decodeWord (0x05#6 ++ d ++ a ++ i) = some (.xori d a i) ∧
    decodeWord (0x07#6 ++ d ++ a ++ i) = some (.slti d a i) ∧ decodeWord (0x08#6 ++ d ++ a ++ i) = some (.sltni d a i) ∧
    decodeWord (0x06#6 ++ d ++ a ++ 0#2 ++ 0#6 ++ n) = some (.shli d a n) ∧ decodeWord (0x06#6 ++ d ++ a ++ 1#2 ++ 0#6 ++ n) = some (.shri d a n) ∧
    decodeWord (0x06#6 ++ d ++ a ++ 2#2 ++ 0#6 ++ n) = some (.srai d a n) ∧ decodeWord (0x06#6 ++ d ++ a ++ 3#2 ++ p ++ n) = none ∧
    (∀ o : BitVec 2, p ≠ 0 → decodeWord (0x06#6 ++ d ++ a ++ o ++ p ++ n) = none) ∧
    (p.toNat + w.toNat + 1 ≤ 64 → decodeWord (0x09#6 ++ d ++ a ++ 0#2 ++ p ++ w) = some (.exts d a p w) ∧
      decodeWord (0x09#6 ++ d ++ a ++ 1#2 ++ p ++ w) = some (.extz d a p w) ∧ decodeWord (0x09#6 ++ d ++ a ++ 2#2 ++ p ++ w) = some (.ins d a p w)) ∧
    (∀ o : BitVec 2, o = 3 ∨ 64 < p.toNat + w.toNat + 1 → decodeWord (0x09#6 ++ d ++ a ++ o ++ p ++ w) = none) ∧
    decodeWord (0x0A#6 ++ d ++ k) = some (.li d k) ∧ decodeWord (0x0B#6 ++ d ++ k) = some (.lih d k)

/-! ### Scalar FP32 -/

/-- R307 to R310: the scalar FP32 instructions read bits 31:0 of their operands, write bits 31:0 of d with zeros above, and OR their
exception bits into FFLAGS; minimum, maximum and the comparisons set none. -/
def Obligations.ScalarFloatResults : Prop :=
  ∀ d a b : BitVec 6,
    WritesFlags (.fadd d a b) [a, b] d (fun x => fadd32 x.frnd (x.rd32 a) (x.rd32 b)) ∧
    WritesFlags (.fsub d a b) [a, b] d (fun x => fsub32 x.frnd (x.rd32 a) (x.rd32 b)) ∧
    WritesFlags (.fmul d a b) [a, b] d (fun x => fmul32 x.frnd (x.rd32 a) (x.rd32 b)) ∧
    WritesFlags (.ffma d a b) [a, b, d] d (fun x => ffma32 x.frnd false false (x.rd32 a) (x.rd32 b) (x.rd32 d)) ∧
    WritesFlags (.fmin d a b) [a, b] d (fun x => (fmin32 (x.rd32 a) (x.rd32 b), 0)) ∧
    WritesFlags (.fmax d a b) [a, b] d (fun x => (fmax32 (x.rd32 a) (x.rd32 b), 0)) ∧
    WritesFlags (.fcmpEq d a b) [a, b] d (fun x => (if feq32 (x.rd32 a) (x.rd32 b) then 1 else 0, 0)) ∧
    WritesFlags (.fcmpLt d a b) [a, b] d (fun x => (if flt32 (x.rd32 a) (x.rd32 b) then 1 else 0, 0)) ∧
    WritesFlags (.fcmpLe d a b) [a, b] d
      (fun x => (if flt32 (x.rd32 a) (x.rd32 b) || feq32 (x.rd32 a) (x.rd32 b) then 1 else 0, 0)) ∧
    WritesFlags (.fcmpUn d a b) [a, b] d (fun x => (if isNan32 (x.rd32 a) || isNan32 (x.rd32 b) then 1 else 0, 0)) ∧
    WritesFlags (.fcvtiI32 d a) [a] d (fun x => fcvti32 x.frnd (-2147483648) 2147483647 (x.rd32 a)) ∧
    WritesFlags (.fcvtiN32 d a) [a] d (fun x => fcvti32 x.frnd 0 4294967295 (x.rd32 a)) ∧
    WritesFlags (.fcvtfI32 d a) [a] d (fun x => fcvtf32 x.frnd (x.rd32 a).toInt) ∧
    WritesFlags (.fcvtfN32 d a) [a] d (fun x => fcvtf32 x.frnd (x.rd32 a).toNat)

/-! ### Capabilities -/

/-- R312 to R315: what the capability instructions write to d; a query writes plain data. -/
def Obligations.CapabilityResults : Prop :=
  ∀ (d a b : BitVec 6) (i : BitVec 14),
    Writes (.cbnd d a b) [a, b] d (fun x => setBounds false (x.getG a) (x.rd b).toNat) ∧
    Writes (.cbndx d a b) [a, b] d (fun x => setBounds true (x.getG a) (x.rd b).toNat) ∧
    Writes (.cperm d a b) [a, b] d (fun x => setPerms (x.getG a) (x.rd b)) ∧
    Writes (.caddr d a b) [a, b] d (fun x => moveCap (x.getG a) (x.rd b).toNat) ∧
    Writes (.cinc d a b) [a, b] d (fun x => moveCap (x.getG a) (x.rd a + x.rd b).toNat) ∧
    Writes (.cinci d a i) [a] d (fun x => moveCap (x.getG a) (x.rd a + i.signExtend 64).toNat) ∧
    Writes (.cgetb d a) [a] d (fun x => word64 (BitVec.ofNat 64
      (if (x.getG a).tagged then (capOf (x.getG a).bits).base.toNat else 0))) ∧
    Writes (.cgetl d a) [a] d (fun x => word64 (BitVec.ofNat 64
      (if (x.getG a).tagged then min ((capOf (x.getG a).bits).top - (capOf (x.getG a).bits).base).toNat (2 ^ 64 - 1) else 0))) ∧
    Writes (.cgetp d a) [a] d (fun x => word64 (((x.getG a).bits.extractLsb' 64 12).setWidth 64)) ∧
    Writes (.ctagt d a) [a] d (fun x => word64 (bit64 (x.getG a).tagged)) ∧
    Writes (.cdom d a) [a] d (fun x => word64 (((x.getG a).bits.extractLsb' 122 6).setWidth 64)) ∧
    Writes (.cmov d a) [a] d (fun x => x.getG a) ∧
    Writes (.cclrt d a) [a] d (fun x => ⟨(x.getG a).bits, false⟩)

/-- R311: a capability that one of these instructions writes has the domain of its source, no further permission, is confined if its
source is, and has bounds within those of its source. -/
def Obligations.CapabilitiesNeverGrow : Prop :=
  ∀ (i : Instr) (d a b : BitVec 6) (k : BitVec 14) (s t : State) (x y : Strand),
    i ∈ [.cbnd d a b, .cbndx d a b, .cperm d a b, .caddr d a b, .cinc d a b, .cinci d a k, .cmov d a, .cclrt d a] →
    Alone s x → x.pending [d, a, b] = false → Sys2Proof.Machine.exec i s = .next t → t.strand s.cur = some y →
    (y.getG d).tagged = true → d ≠ 0 →
    let old := capOf (x.getG a).bits
    let new := capOf (y.getG d).bits
    (x.getG a).tagged = true ∧ new.domain = old.domain ∧ new.perms &&& ~~~old.perms &&& ~~~permConfined = 0 ∧
    (old.has permConfined = true → new.has permConfined = true) ∧ old.base ≤ new.base ∧ new.top ≤ old.top

/-! ### Control flow -/

/-- R316 to R318: a conditional branch goes to PC + 4·offset where its condition holds, else to the next word; JAL and JALR write the
address of the next word to d and go to their target, which JALR reads before it writes. No other register changes. A JALR target that is no multiple of 4 takes 0x06 with the target in TVAL, and nothing is
written. The words of these instructions and the reserved ones. -/
def Obligations.ControlFlow : Prop :=
  ∀ (s : State) (x : Strand) (d a b : BitVec 6) (w : BitVec 12) (j : BitVec 20), Alone s x → x.pending [d, a, b] = false →
    let dest := fun c : Bool => { x with pc := if c then ((x.pc + 4 * w.toInt) % (2 ^ 64 : Int)).toNat else (x.pc + 4) % 2 ^ 64 }
    Retires (.beq a b w) s s (dest (x.rd a == x.rd b)) ∧
    Retires (.bne a b w) s s (dest (x.rd a != x.rd b)) ∧
    Retires (.blt a b w) s s (dest (decide ((x.rd a).toInt < (x.rd b).toInt))) ∧
    Retires (.bge a b w) s s (dest (decide ((x.rd b).toInt ≤ (x.rd a).toInt))) ∧
    Retires (.bltn a b w) s s (dest (decide ((x.rd a).toNat < (x.rd b).toNat))) ∧
    Retires (.bgen a b w) s s (dest (decide ((x.rd b).toNat ≤ (x.rd a).toNat))) ∧
    Retires (.jal d j) s s
      { x.setG d (word64 (BitVec.ofNat 64 (x.pc + 4))) with pc := ((x.pc + 4 * j.toInt) % (2 ^ 64 : Int)).toNat } ∧
    ((x.rd a).toNat % 4 = 0 → Retires (.jalr d a) s s
      { x.setG d (word64 (BitVec.ofNat 64 (x.pc + 4))) with pc := (x.rd a).toNat }) ∧
    ((x.rd a).toNat % 4 ≠ 0 → x.wait = none → Traps (.jalr d a) s x 0x06 (x.rd a)) ∧
    decodeWord (0x18#6 ++ a ++ b ++ 0#2 ++ w) = some (.beq a b w) ∧ decodeWord (0x18#6 ++ a ++ b ++ 1#2 ++ w) = some (.bne a b w) ∧
    decodeWord (0x18#6 ++ a ++ b ++ 2#2 ++ w) = some (.blt a b w) ∧ decodeWord (0x18#6 ++ a ++ b ++ 3#2 ++ w) = some (.bge a b w) ∧
    decodeWord (0x19#6 ++ a ++ b ++ 0#2 ++ w) = some (.bltn a b w) ∧ decodeWord (0x19#6 ++ a ++ b ++ 1#2 ++ w) = some (.bgen a b w) ∧
    decodeWord (0x19#6 ++ a ++ b ++ 2#2 ++ w) = none ∧ decodeWord (0x19#6 ++ a ++ b ++ 3#2 ++ w) = none ∧
    decodeWord (0x1A#6 ++ d ++ j) = some (.jal d j) ∧
    decodeWord (0x1B#6 ++ d ++ a ++ b ++ 0#8) = if b = 0 then some (.jalr d a) else none

/-! ### System words and traps -/

/-- R415, R416, R419, R290: NOP only goes on; TRAP takes 0x12 with its immediate; a word that names no instruction takes 0x01 with the
word in TVAL; TRET clears active and goes on at TEPC, and without an active handler takes 0x01. -/
def Obligations.TrapsAndReturns : Prop :=
  ∀ (s : State) (x : Strand) (m : BitVec 20) (w : W32), Alone s x →
    Retires .nop s s (goOn x) ∧
    (x.active = true → Retires .tret s s
      { x.setCsr 0x22#7 (x.csrAt 0x22#7 &&& ~~~0x100#64) with pc := (x.csrAt 0x24#7).toNat }) ∧
    (x.wait = none → Traps (.trap m) s x 0x12 (m.signExtend 64) ∧ Traps (.illegalInstruction w) s x 0x01 (w.setWidth 64) ∧
      (x.active = false → Traps .tret s x 0x01 ((s.fetchWord s.cur x.pc).setWidth 64))) ∧
    decodeWord (0x21#6 ++ 0#6 ++ m) = some (.trap m) ∧ decodeWord 0x88000000 = some .nop ∧ decodeWord 0x88000001 = some .tret

/-! ### Loads and stores -/

/-- R323, R324, R327: a load that passes its checks and finds its bytes (in the own scratchpad, in its cache, or brought by a home's
reply) writes d: a byte, halfword or word extended as the form says; LDC all 128 bits, and the memory's tag where the capability holds
tag-load and the region may hold tags. Nothing else changes but the lookaside buffer (R208). -/
def Obligations.LoadsComplete : Prop :=
  ∀ (s : State) (x : Strand) (d a : BitVec 6) (c : BitVec 2) (o : BitVec 9) (g : Got), Alone s x → memReady x [d, a] = true →
    let addr := fun size : Nat => x.addrOf a (o.toInt * size)
    let z := fun size : Nat => (operands s x [a]).looks (atWord s x) s.cur a (addr size)
    let finds := fun (size : Nat) (views : Bool) =>
      checkOnce (atWord s x) s.cur (z size) ⟨a, addr size, size, permLoad, false, size, views, false⟩ = none ∧
      loadAt (atWord s x) s.cur (z size) (addr size) size c.toNat .load = .got g
    let dest := fun (size : Nat) (v : GReg) => goOn ((x.looks s s.cur a (addr size)).setG d v)
    (finds 1 false → Retires (.ldb d a c o) s s (dest 1 (word64 (extendTo64 1 true (numOf g.bytes)))) ∧
      Retires (.ldbn d a c o) s s (dest 1 (word64 (BitVec.ofNat 64 (numOf g.bytes))))) ∧
    (finds 2 false → Retires (.ldh d a c o) s s (dest 2 (word64 (extendTo64 2 true (numOf g.bytes)))) ∧
      Retires (.ldhn d a c o) s s (dest 2 (word64 (BitVec.ofNat 64 (numOf g.bytes))))) ∧
    (finds 4 true → Retires (.ldw d a c o) s s (dest 4 (word64 (extendTo64 4 true (numOf g.bytes))))) ∧
    (finds 4 false → Retires (.ldwn d a c o) s s (dest 4 (word64 (BitVec.ofNat 64 (numOf g.bytes))))) ∧
    (finds 8 true → Retires (.ldd d a c o) s s (dest 8 (word64 (BitVec.ofNat 64 (numOf g.bytes))))) ∧
    (finds 16 false → Retires (.ldc d a c o) s s (dest 16 ⟨BitVec.ofNat 128 (numOf g.bytes),
      g.tag && (capOf (x.getG a).bits).has permTagLoad && tagsAllowed s (z 16) s.cur (addr 16)⟩))

/-- R174, R178, R179, R186: what a load finds. In the own scratchpad in the raw view, its bytes and the tag of the first granule, at
once; in global memory, the bytes of the core's own cache line where it holds them all. -/
def Obligations.LoadsFindOwnBytes : Prop :=
  ∀ (s : State) (n : Nat) (x : Strand) (a size c off : Nat) (op : AccOp),
    (placeOf n a = .scratch n 0 off → x.absentLine off size = false → (s.scratchGot n off size).poison = none →
      slotClash s n x a size = none →
      loadAt s n x a size c op = .got ⟨s.scratch.readList (scratchAt n off) size, s.scratch.tag (scratchAt n off), none⟩) ∧
    (placeOf n a = .glob → 0 < size → a % 256 + size ≤ 256 → x.reply = none → x.fillBuf = [] →
      (x.cached (a / 256)).lacks (a % 256) size = 0 → (x.cached (a / 256)).poisonAt (a % 256) size = none →
      loadAt s n x a size c op = .got ⟨(List.range size).map (fun i => (x.cached (a / 256)).byte (a % 256 + i)),
        (x.cached (a / 256)).tag (a % 256), none⟩)

/-- R134, R139, R324: whatever becomes of a load (it ends, waits or traps), no byte of memory changes, no other core's strand changes,
and of the strand's registers only d can.
R134, R178, R216, R325: whatever becomes of a store, the only bytes of memory that can change are those behind its address in the
own scratchpad; no g, v or p register and no other core's strand changes. -/
def Obligations.MemoryFrames : Prop :=
  (∀ (s t : State) (x : Strand) (i : Instr) (d a : BitVec 6) (c : BitVec 2) (o : BitVec 9), Alone s x →
    i ∈ [.ldb d a c o, .ldbn d a c o, .ldh d a c o, .ldhn d a c o, .ldw d a c o, .ldwn d a c o, .ldd d a c o, .ldc d a c o] →
    Sys2Proof.Machine.exec i s = .next t →
    t.hbm = s.hbm ∧ t.host = s.host ∧ t.scratch = s.scratch ∧ t.chip = s.chip ∧ (∀ m, m ≠ s.cur → t.strand m = s.strand m) ∧
    ∃ y, t.strand s.cur = some y ∧ y.v = x.v ∧ y.p = x.p ∧ y.cache = x.cache ∧ ∀ r, r ≠ d → y.getG r = x.getG r) ∧
  (∀ (s t : State) (x : Strand) (a b : BitVec 6) (c : BitVec 2) (o : BitVec 9) (i : Instr) (size : Nat), Alone s x →
    (i, size) ∈ [(.stb a b c o, 1), (.sth a b c o, 2), (.stw a b c o, 4), (.std a b c o, 8), (.stc a b c o, 16)] →
    Sys2Proof.Machine.exec i s = .next t →
    t.hbm = s.hbm ∧ t.host = s.host ∧ t.chip = s.chip ∧
    (∀ k, t.scratch.read k ≠ s.scratch.read k → ∃ off len, rawRange s.cur (x.addrOf a (o.toInt * size)) size = (.scratch s.cur off, len) ∧
      scratchAt s.cur off ≤ k ∧ k < scratchAt s.cur off + len) ∧
    (∀ m, m ≠ s.cur → t.strand m = s.strand m) ∧
    ∃ y, t.strand s.cur = some y ∧ y.g = x.g ∧ y.v = x.v ∧ y.p = x.p)

/-- R325, R328, R200, R174: a store that passes its checks at an address of the own scratchpad in the raw view writes the low bytes of
s2 there, clears the tags of the granules it touches (STC: sets its granule's tag to that of s2), and writes no other byte; the lines
count as dirty (R127); no register changes. -/
def Obligations.StoresToOwnScratchpad : Prop :=
  ∀ (s : State) (x : Strand) (a b : BitVec 6) (c : BitVec 2) (o : BitVec 9) (off : Nat), Alone s x → s.scratch.wf = true → memReady x [a, b] = true →
    let z := operands s x [a, b]
    let addr := fun size : Nat => x.addrOf a (o.toInt * size)
    let stores := fun (i : Instr) (size : Nat) (views deny : Bool) (bs : List Byte) (tag : Bool) =>
      checkOnce (atWord s x) s.cur z ⟨a, addr size, size, permStore, true, size, views, deny⟩ = none →
      placeOf s.cur (addr size) = .scratch s.cur 0 off → x.absentLine off size = false →
      ∃ t y, Sys2Proof.Machine.exec i s = .next t ∧ t.strand s.cur = some y ∧ Ends (goOn (x.dirtyLines off size)) y ∧
        t.scratch.readList (scratchAt s.cur off) size = bs ∧ OnlyScratch s t s.cur off size ∧
        (∀ k, off ≤ k → k < off + size → t.scratch.tag (scratchAt s.cur k) = tag) ∧ ∀ m, m ≠ s.cur → t.strand m = s.strand m
    let v := x.getG b
    stores (.stb a b c o) 1 false false (bytesOf (x.rd b).toNat 1) false ∧
    stores (.sth a b c o) 2 false false (bytesOf (x.rd b).toNat 2) false ∧
    stores (.stw a b c o) 4 true false (bytesOf (x.rd b).toNat 4) false ∧
    stores (.std a b c o) 8 true false (bytesOf (x.rd b).toNat 8) false ∧
    stores (.stc a b c o) 16 false (v.tag && (!(capOf (x.getG a).bits).has permTagStore ||
        ((capOf v.bits).has permConfined && !confinedOk s.cur (addr 16)) || !tagsAllowed s x s.cur (addr 16)))
      (bytesOf v.bits.toNat 16) v.tag

/-- R186, R196 to R198: a store to global memory that passes its checks. Where the core's cache takes all its bytes (region and policy let it and
the page is none of the host's, or it holds their sectors) they are merged into their line of the cache; where it takes none they leave as a
masked write that the strand waits for at its next release. Memory itself and every other line of the cache stay as they are, and no register
changes. -/
def Obligations.StoresToCachedLine : Prop :=
  ∀ (s : State) (x : Strand) (a b : BitVec 6) (c : BitVec 2) (o : BitVec 9), Alone s x → memReady x [a, b] = true →
    let addr := fun size : Nat => x.addrOf a (o.toInt * size)
    let z := fun size : Nat => (operands s x [a, b]).looks (atWord s x) s.cur a (addr size)
    let stores := fun (i : Instr) (size : Nat) (views : Bool) =>
      checkOnce (atWord s x) s.cur (z size) ⟨a, addr size, size, permStore, true, size, views, false⟩ = none →
      placeOf s.cur (addr size) = .glob → addr size % 256 + size ≤ 256 →
      let l := lineOfBytes (addr size / 256) (addr size % 256) (bytesOf (x.rd b).toNat size) false
      let taken := l.mask &&& sectorMask (s.storeSectors x l.va c.toNat)
      (taken = l.mask → (x.cache.filter fun k => k.va != l.va && k.va % 64 == l.va % 64).length < 4 →
        Retires i s s (goOn ((x.seeRegion s (addr size)).putLine ((x.cached l.va).merge l)))) ∧
      (taken = 0 → Retires i s (s.send (.writeback s.cur x.id.part x.id.vd l c.toNat true))
        (goOn { x.seeRegion s (addr size) with unacked := x.unacked + 1 }))
    stores (.stb a b c o) 1 false ∧ stores (.sth a b c o) 2 false ∧ stores (.stw a b c o) 4 true ∧ stores (.std a b c o) 8 true

/-- R332: an atomic on the own scratchpad returns the old value zero-extended and writes the new one of its operation; a failed ACAS
writes nothing; no other byte changes, and no register but d. What it releases and acquires shows in the core's cache only. -/
def Obligations.AtomicsOnOwnScratchpad : Prop :=
  ∀ (s : State) (x : Strand) (d a b : BitVec 6) (z : BitVec 1) (sc c : BitVec 2) (off : Nat) (i : Instr) (op : Nat), Alone s x → s.scratch.wf = true →
    (i, op) ∈ [(.aadd d a b z sc c, 0), (.aand d a b z sc c, 1), (.aor d a b z sc c, 2), (.axor d a b z sc c, 3),
      (.amin d a b z sc c, 4), (.amax d a b z sc c, 5), (.axchg d a b z sc c, 6), (.acas d a b z sc c, 7)] →
    memReady x [d, a, b] = true → x.reply = none → (c.getLsbD 1 = true → sc ≠ 0 → Quiet x) →
    (c.getLsbD 0 = true → sc ≠ 0 → s.releasing s.cur = false) →
    let size := if z = 1 then 8 else 4
    checkOnce (atWord s x) s.cur (operands s x [a, b, d])
      ⟨a, x.addrOf a 0, size, permLoad ||| permStore, true, size, false, false⟩ = none →
    locOf s.cur (x.addrOf a 0) = .scratch s.cur off → x.absentLine off size = false → (s.scratchGot s.cur off size).poison = none →
    let old := numOf (s.scratch.readList (scratchAt s.cur off) size)
    let new := match op with
      | 0 => some ((old + (x.rd b).toNat % 2 ^ (8 * size)) % 2 ^ (8 * size))
      | 1 => some (old &&& (x.rd b).toNat % 2 ^ (8 * size))
      | 2 => some (old ||| (x.rd b).toNat % 2 ^ (8 * size))
      | 3 => some (old ^^^ (x.rd b).toNat % 2 ^ (8 * size))
      | 4 => some (if (BitVec.ofNat (8 * size) old).toInt < (BitVec.ofNat (8 * size) (x.rd b).toNat).toInt then old
          else (x.rd b).toNat % 2 ^ (8 * size))
      | 5 => some (if (BitVec.ofNat (8 * size) old).toInt < (BitVec.ofNat (8 * size) (x.rd b).toNat).toInt then
          (x.rd b).toNat % 2 ^ (8 * size) else old)
      | 6 => some ((x.rd b).toNat % 2 ^ (8 * size))
      | _ => if old = (x.rd d).toNat % 2 ^ (8 * size) then some ((x.rd b).toNat % 2 ^ (8 * size)) else none
    ∃ t y ca, Sys2Proof.Machine.exec i s = .next t ∧ t.strand s.cur = some y ∧
      Ends (goOn { (if new.isSome then x.dirtyLines off size else x).setG d (word64 (BitVec.ofNat 64 old)) with cache := ca }) y ∧
      t.scratch.readList (scratchAt s.cur off) size = bytesOf (new.getD old) size ∧ OnlyScratch s t s.cur off size ∧
      ∀ m, m ≠ s.cur → t.strand m = s.strand m

/-- R323, R329 to R331: PREF asks one by one for the sectors of the line that the core's cache lacks where the address is global and its checks pass (with
policy none one request walks the translation), and else does nothing.
WBR and INVR of length 0 do nothing; INVR drops the unwritten bytes of the range; WBR of a range with no written byte ends at once. A FENCE
at core scope does nothing; above it, where nothing is to be written back, it empties the cache (R194). Memory does not change. -/
def Obligations.CacheInstructions : Prop :=
  ∀ (s : State) (x : Strand) (a b : BitVec 6) (c sc : BitVec 2), Alone s x →
    (x.pending [a] = false →
      let z := (operands s x [a]).looks (atWord s x) s.cur a (x.addrOf a 0)
      let go := (checkRef (atWord s x) s.cur z ⟨a, x.addrOf a 0, 1, permLoad, false, 1, true, false⟩).isNone &&
        decide (placeOf s.cur (x.addrOf a 0) = .glob)
      let asked : List (BitVec 4) := if go then (if c = 3 then [15] else
        ((List.range 4).filter fun i => !(x.cached (x.addrOf a 0 / 256)).valid.getLsbD i).map fun i => 1#4 <<< i) else []
      Retires (.pref a c) s
        { s with flight := s.flight ++ asked.map fun v => .fill ⟨s.cur, x.id.part, x.id.vd, x.addrOf a 0 / 256, v, c.toNat, true⟩ }
        (goOn (x.looks s s.cur a (x.addrOf a 0)))) ∧
    (memReady x [a, b] = true →
      let len := (x.rd b).toNat
      let z := (operands s x [a, b]).looks (atWord s x) s.cur a (x.rd a).toNat
      let w := x.looks s s.cur a (x.rd a).toNat
      (len = 0 → Retires (.wbr a b) s s (goOn x) ∧ Retires (.invr a b) s s (goOn x)) ∧
      (0 < len → len ≤ 2 ^ 32 → checkRange (atWord s x) z s.cur a len = none →
        Retires (.invr a b) s s (goOn (w.invalRange (x.rd a).toNat len)) ∧
        (x.released = true → x.unacked = 0 → x.faulted = false → Retires (.wbr a b) s s (goOn w)) ∧
        (x.released = false → Quiet x → Retires (.wbr a b) s s (goOn { w with
          cache := x.cache.filter (fun l => !l.overlaps (x.rd a).toNat len) ++ cleanLines (x.cache.filter (·.overlaps (x.rd a).toNat len)) }))) ∧
      (2 ^ 32 < len → x.wait = none →
        Traps (.wbr a b) s x 0x01 ((s.fetchWord s.cur x.pc).setWidth 64) ∧
        Traps (.invr a b) s x 0x01 ((s.fetchWord s.cur x.pc).setWidth 64))) ∧
    (x.bobIdle = true → memReady x [] = true →
      Retires (.fence 0) s s (goOn x) ∧
      (sc ≠ 0 → Quiet x → Retires (.fence sc) s s (goOn { x with cache := [] })))

/-! ### Knots, monitors, tickets -/

/-- R334, R335, R85, R86: KINIT on a knot of the own scratchpad writes its count and clears everything else of it; SIG applies its signal
there: the count grows by s2, the chain becomes the larger of the knot's and the strand's own after the issue cycle, the last origin
is WID. Each tests the waits held at the knot again. No register and no byte outside the knot changes.
R333, R336 to R338, R84, R86: KPEEK reads the knot's first 16 bytes, of which bits 127:115 read as zero. WAIT and KJOIN at a knot of the own scratchpad change no register and
wait; the knot sends its snapshot at once where the count has reached the target (KJOIN: whatever the count), else it holds the wait. A WAIT above core scope issues once the strand's earlier releases have been performed (R225).
WAITM arms its monitor, or is answered 4 where the doubleword differs from d; its answer goes to d. A wait that is over ends. -/
def Obligations.Knots : Prop :=
  (∀ (s : State) (x : Strand) (a b : BitVec 6) (tr : BitVec 1) (sc : BitVec 2) (off : Nat), Alone s x → s.scratch.wf = true →
    memReady x [a, b] = true → locOf s.cur (x.addrOf a 0) = .scratch s.cur off → x.absentLine off 32 = false →
    let z := operands s x [a, b]
    let old := knotOf (s.scratch.readList (scratchAt s.cur off) 32)
    let held := fun (t : State) (k : Knot) => t.waits = s.waits.filter fun w =>
      !(w.knot == .scratch s.cur off && w.part == x.id.part && s.holderOf x.id.part w.vd w.knot == x.id.vd && w.met k.count s.tick)
    (knotRef (atWord s x) s.cur z a (permKnot ||| permStore) true = none →
      ∃ t y, Sys2Proof.Machine.exec (.kinit a b) s = .next t ∧ t.strand s.cur = some y ∧ Ends (goOn (x.dirtyLines off 32)) y ∧
        t.scratch.readList (scratchAt s.cur off) 32 = bytesOf (x.rd b).toNat 32 ∧ OnlyScratch s t s.cur off 32 ∧
        held t ⟨x.rd b, 0, false, false, false, 0, 0, 0⟩) ∧
    (knotRef (atWord s x) s.cur z a permKnot true = none → (sc ≠ 0 → Quiet x) → (tr = 0 ∨ x.traced = false) →
      ∃ t y ca, Sys2Proof.Machine.exec (.sig a b tr sc) s = .next t ∧ t.strand s.cur = some y ∧
        Ends (goOn { x.dirtyLines off 32 with cache := ca }) y ∧
        let new : Knot := { old with
          count := old.count + x.rd b
          chain := max old.chain y.chain
          maxOrigin := if old.chain < y.chain then x.wid else old.maxOrigin
          lastOrigin := x.wid
          tick := BitVec.ofNat 64 s.tick
          overflow := old.overflow || y.ovf }
        t.scratch.readList (scratchAt s.cur off) 32 = new.bytes ∧ OnlyScratch s t s.cur off 32 ∧ held t new)) ∧
  (∀ (s : State) (x : Strand) (d a b : BitVec 6) (sc : BitVec 2) (off : Nat), Alone s x → 0 < s.divOf s.cur →
    memReady x [d, a, b] = true →
    let k := knotOf (s.scratch.readList (scratchAt s.cur off) 32)
    let snap : Msg := .snapshot ⟨s.cur, k.chain, k.maxOrigin, k.lastOrigin, k.overflow, .core s.cur⟩
    let ok := fun (z : Strand) (size : Nat) (need : BitVec 12) =>
      checkRef (atWord s x) s.cur z ⟨a, x.addrOf a 0, size, need, false, size, false, false⟩ = none
    let waiting := fun (t : State) (y : Strand) => t.strand s.cur = some y ∧ Ends x { y with wait := none } ∧ OnlyScratch s t 0 0 0
    (x.stash = [1] → Retires (.wait d a b sc) s s (goOn x) ∧ Retires (.kjoin a) s s (goOn x) ∧ Retires (.waitm d a b) s s (goOn x)) ∧
    (x.stash = [] → ∀ r, x.reply = some r → r.fault = none →
      Retires (.waitm d a b) s s (goOn (x.setG d (word64 (BitVec.ofNat 64 r.value))))) ∧
    (x.stash = [] → x.reply = none → locOf s.cur (x.addrOf a 0) = .scratch s.cur off → x.absentLine off 32 = false →
      (checkOnce (atWord s x) s.cur (operands s x [a]) ⟨a, x.addrOf a 0, 32, permKnot, false, 32, false, false⟩ = none →
        (s.scratchGot s.cur off 16).poison = none → Retires (.kpeek d a) s s (goOn (x.setG d
          ⟨BitVec.ofNat 128 (numOf (s.scratch.readList (scratchAt s.cur off) 16) % 2 ^ 115), false⟩))) ∧
      (ok (operands s x [a, b, d]) 32 permKnot → (sc ≠ 0 → s.releasing s.cur = false) → ∃ t y dl since, Sys2Proof.Machine.exec (.wait d a b sc) s = .next t ∧ waiting t y ∧
        y.wait = some (.knot d dl sc since) ∧ (dl = none ↔ x.rd d = 0) ∧
        ((x.rd b).toInt ≤ k.count.toInt → t.flight = s.flight ++ [snap] ∧ t.waits = s.waits) ∧
        (k.count.toInt < (x.rd b).toInt → t.flight = s.flight ∧ t.waits = s.waits ++ [⟨s.cur, x.id.part, x.id.vd, .scratch s.cur off, 0, x.rd b, dl⟩])) ∧
      (ok (operands s x [a]) 32 permKnot → ∃ t y, Sys2Proof.Machine.exec (.kjoin a) s = .next t ∧ waiting t y ∧
        y.wait = some .kjoin ∧ t.flight = s.flight ++ [snap] ∧ t.waits = s.waits) ∧
      (ok (operands s x [a, b, d]) 8 permLoad → ∃ t y dl, Sys2Proof.Machine.exec (.waitm d a b) s = .next t ∧ waiting t y ∧
        y.wait = some (.monitor d dl) ∧ (dl = none ↔ x.rd b = 0) ∧
        let now := BitVec.ofNat 64 (numOf (s.scratch.readList (scratchAt s.cur off) 8))
        (now = x.rd d → t.flight = s.flight ∧ ∃ q, t.monitors = s.monitors ++ [(q, false)] ∧ q.knot = .scratch s.cur off ∧ q.core = s.cur) ∧
        (now ≠ x.rd d → t.monitors = s.monitors ∧ t.flight = s.flight ++ [.reply s.cur ⟨4, false, false, none, none⟩]))))

/-- R339, R80, R95: CHADD adds to CHN.chain in both modes, saturating at 2^48 − 1 with the overflow bit; in declared mode nothing else
is added, in measured mode the chain also takes the instruction's own cycles, so that it is at least that sum. -/
def Obligations.ChainAdd : Prop :=
  ∀ (s : State) (x : Strand) (a : BitVec 6), Alone s x → x.pending [a] = false →
    ∃ y, Sys2Proof.Machine.exec (.chadd a) s = .next (s.setStrand s.cur y) ∧ Ends (goOn x) y ∧
      min (x.chain + (x.rd a).toNat) (2 ^ 48 - 1) ≤ y.chain ∧
      (x.declared = true → y.chain = min (x.chain + (x.rd a).toNat) (2 ^ 48 - 1) ∧
        y.ovf = (x.ovf || decide (2 ^ 48 - 1 < x.chain + (x.rd a).toNat)))

/-- R344, R73: TICKET on the own scratchpad returns the old doubleword, increments it modulo 2^64, and sets TKT (CSR 0x2B) at every core
of the cluster that runs a strand of the launch; one placed and not started does not run (R61). -/
def Obligations.Ticket : Prop :=
  ∀ (s : State) (x : Strand) (d a : BitVec 6) (off : Nat), Alone s x → s.scratch.wf = true → memReady x [d, a] = true → x.reply = none →
    checkOnce (atWord s x) s.cur (operands s x [a]) ⟨a, x.addrOf a 0, 8, permLoad ||| permStore, true, 8, false, false⟩ = none →
    locOf s.cur (x.addrOf a 0) = .scratch s.cur off → x.absentLine off 8 = false → (s.scratchGot s.cur off 8).poison = none →
    let old := numOf (s.scratch.readList (scratchAt s.cur off) 8)
    ∃ t y, Sys2Proof.Machine.exec (.ticket d a) s = .next t ∧ t.strand s.cur = some y ∧
      Ends (goOn (((x.dirtyLines off 8).setCsr 0x2B#7 (BitVec.ofNat 64 old)).setG d (word64 (BitVec.ofNat 64 old)))) y ∧
      t.scratch.readList (scratchAt s.cur off) 8 = bytesOf ((old + 1) % 2 ^ 64) 8 ∧ OnlyScratch s t s.cur off 8 ∧
      ∀ m w, m ≠ s.cur → s.strand m = some w → t.strand m = some
        (if clusterOf m = clusterOf s.cur ∧ w.id.launch = x.id.launch ∧ w.id.part = x.id.part ∧ w.phase ≠ .placed then w.setCsr 0x2B#7 (BitVec.ofNat 64 old) else w)

/-! ### Work queues and device-built launches -/

/-- R340 to R342: QPUSH on a queue header in the own scratchpad, its descriptor there too, nothing to write back: on a first-in
first-out queue with room the entry holds the descriptor's payload, the strand's chain after the QPUSH's issue cycle (log 51) and the push count, and the push count grows; a
full or malformed queue only counts the push as refused.
R341, R343: QPOP on a queue header in the own scratchpad, no release of the strand on its way (R225): an empty queue gives 0, a malformed one bit 65; a first-in first-out queue
gives its oldest payload with bit 64 set, and the pop count grows. -/
def Obligations.WorkQueues : Prop :=
  (∀ (s : State) (x : Strand) (a b : BitVec 6) (off doff : Nat) (g : Got), Alone s x → s.scratch.wf = true →
    memReady x [a, b] = true → x.stash = [] → x.wait = none → x.lineAbsent = [] → x.released = false → Quiet x →
    let z := operands s x [a, b]
    queueRefs (atWord s x) s.cur z a b = none → locOf s.cur (x.addrOf a 0) = .scratch s.cur off →
    placeOf s.cur (x.addrOf b 0) = .scratch s.cur 0 doff → loadAt (atWord s x) s.cur z (x.addrOf b 0) 72 0 .load = .got g →
    let h := qheadOf (s.scratch.readList (scratchAt s.cur off) 64)
    let after := fun (t : State) (h' : QHead) =>
      t.scratch.readList (scratchAt s.cur (off + 8)) 24 = bytesOf h'.pushes 8 ++ bytesOf h'.pops 8 ++ bytesOf h'.refused 8
    ∃ t y ca, Sys2Proof.Machine.exec (.qpush a b) s = .next t ∧ t.strand s.cur = some y ∧
      y.g = x.g ∧ y.v = x.v ∧ y.p = x.p ∧ y.cache = ca ∧ y.pc = (x.pc + 4) % 2 ^ 64 ∧ y.wait = none ∧
      (h.malformed (x.spanOf a) = false → h.live ≠ 2 ^ h.log2 → h.ordered = false →
        after t { h with pushes := h.pushes + 1 } ∧
        t.scratch.readList (scratchAt s.cur (off + 64 + 32 * (h.pushes % 2 ^ h.log2))) 32 =
          entryBytes (numOf (g.bytes.take 8)) (z.issued (s.divOf s.cur)).chain h.pushes (z.issued (s.divOf s.cur)).ovf) ∧
      (h.malformed (x.spanOf a) = true ∨ h.live = 2 ^ h.log2 →
        after t { h with refused := h.refused + 1 } ∧ OnlyScratch s t s.cur (off + 8) 24)) ∧
  (∀ (s : State) (x : Strand) (d a b : BitVec 6) (off : Nat) (g : Got), Alone s x → s.scratch.wf = true →
    memReady x [d, a, b] = true → x.stash = [] → x.wait = none → x.reply = none → x.lineAbsent = [] → s.releasing s.cur = false →
    let z := (operands s x [a, b]).looksQueue (atWord s x) s.cur a b
    queueRefs (atWord s x) s.cur z a b = none → locOf s.cur (x.addrOf a 0) = .scratch s.cur off →
    loadAt (atWord s x) s.cur z (x.addrOf b 0) 72 0 .load = .got g →
    let h := qheadOf (s.scratch.readList (scratchAt s.cur off) 64)
    let ends := fun (v : Nat) (t : State) => ∃ y, Sys2Proof.Machine.exec (.qpop d a b) s = .next t ∧ t.strand s.cur = some y ∧
      y.getG d = (if d = 0 then ⟨0, false⟩ else ⟨BitVec.ofNat 128 v, false⟩) ∧ (∀ r, r ≠ d → y.getG r = x.getG r) ∧ y.v = x.v ∧
      y.p = x.p ∧ y.pc = (x.pc + 4) % 2 ^ 64 ∧ y.wait = none
    (h.malformed (x.spanOf a) = true → ∃ t, ends (2 ^ 65) t ∧ OnlyScratch s t 0 0 0) ∧
    (h.malformed (x.spanOf a) = false → h.live = 0 → ∃ t, ends 0 t ∧ OnlyScratch s t 0 0 0) ∧
    (h.malformed (x.spanOf a) = false → h.live ≠ 0 → h.ordered = false →
      ∃ t, ends (2 ^ 64 + numOf (s.scratch.readList (scratchAt s.cur (off + 64 + 32 * (h.pops % 2 ^ h.log2))) 8)) t ∧
        OnlyScratch s t s.cur (off + 8) 24 ∧
        t.scratch.readList (scratchAt s.cur (off + 8)) 24 = bytesOf h.pushes 8 ++ bytesOf (h.pops + 1) 8 ++ bytesOf h.refused 8))

/-- R345, R55: LAUNCH on a record queue in the own scratchpad: with room it writes the pair of g registers as an entry with the strand's
chain in bits 127:80 and the ready bit, and counts it appended; while the queue is full it waits; an odd or zero pair is illegal. -/
def Obligations.LaunchFromDevice : Prop :=
  ∀ (s : State) (x : Strand) (a b : BitVec 6) (off : Nat), Alone s x → s.scratch.wf = true → memReady x [a, b, b + 1] = true →
    ((b = 0 ∨ b.getLsbD 0 = true) → x.wait = none → Traps (.launch a b) s x 0x01 ((s.fetchWord s.cur x.pc).setWidth 64)) ∧
    (b ≠ 0 → b.getLsbD 0 = false → x.stash = [] → x.reply = none → x.lineAbsent = [] →
      let z := (operands s x [a, b, b + 1]).looks (atWord s x) s.cur a (x.addrOf a 0)
      let cap := recordCap (x.spanOf a)
      checkOnce (atWord s x) s.cur z ⟨a, x.addrOf a 0, 64, permKnot ||| permStore, true, 64, false, false⟩ = none →
      (cap < 16 → x.wait = none → Traps (.launch a b) s (x.looks s s.cur a (x.addrOf a 0)) 0x03 (x.rd a)) ∧
      (locOf s.cur (x.addrOf a 0) = .scratch s.cur off → 16 ≤ cap →
      let app := numOf (s.scratch.readList (scratchAt s.cur off) 4)
      let con := numOf (s.scratch.readList (scratchAt s.cur (off + 4)) 4)
      let pair := (x.getG b).bits.toNat + (x.getG (b + 1)).bits.toNat * 2 ^ 128
      ((app + 2 ^ 32 - con) % 2 ^ 32 < cap → ∃ t y, Sys2Proof.Machine.exec (.launch a b) s = .next t ∧ t.strand s.cur = some y ∧
        y.g = x.g ∧ y.v = x.v ∧ y.p = x.p ∧ y.pc = (x.pc + 4) % 2 ^ 64 ∧ y.wait = none ∧
        (let e := numOf (t.scratch.readList (scratchAt s.cur (off + 64 + 32 * (app % cap))) 32)
         e % 2 ^ 31 = pair % 2 ^ 31 ∧ e / 2 ^ 31 % 2 = 1 ∧ e / 2 ^ 32 % 2 ^ 48 = pair / 2 ^ 32 % 2 ^ 48 ∧
         e / 2 ^ 80 % 2 ^ 48 = z.chain ∧ e / 2 ^ 128 = pair / 2 ^ 128) ∧
        t.scratch.readList (scratchAt s.cur off) 4 = bytesOf ((app + 1) % 2 ^ 32) 4) ∧
      (cap ≤ (app + 2 ^ 32 - con) % 2 ^ 32 → ∃ t y, Sys2Proof.Machine.exec (.launch a b) s = .next t ∧ t.strand s.cur = some y ∧
        y.wait = some .own ∧ y.g = x.g ∧ y.pc = x.pc ∧ OnlyScratch s t 0 0 0)))

/-! ### Spools and streams -/

/-- R346: SPDEF whose operand keeps the limits, while nothing queued or in flight names the spool, defines it empty with every slot free,
zeroes its slot records and unbinds the streams bound to it; one that breaks a limit is illegal. It waits for queued vector memory instructions
(R224). -/
def Obligations.SpoolDefine : Prop :=
  ∀ (s : State) (x : Strand) (h a : BitVec 6) (hh : h.toNat < 16), Alone s x → s.scratch.wf = true → x.pending [a] = false →
    let p := spDefOf (x.getG a).bits
    (p.ok x = false → x.wait = none → Traps (.spdef h a) s x 0x01 ((s.fetchWord s.cur x.pc).setWidth 64)) ∧
    (p.ok x = true → memReady x [] = true → (s.matrixOf s.cur x).any (·.namesSpool s.cur h.toNat) = false → x.lineAbsent = [] →
      s.lockClash s.cur x p.recs (32 * (p.slotsM1 + 1)) true = none →
      (∀ l ∈ s.landings, l.spool ≠ x.spoolId s.cur h) →
      ∃ t y, Sys2Proof.Machine.exec (.spdef h a) s = .next t ∧ t.strand s.cur = some y ∧
        y.spools[h.toNat] = ⟨0, 0, 0, 0, p.slotsM1 + 1, 0, 0, p.recs, p.base, p.slotSize, p.slotsM1, true⟩ ∧
        (∀ k, (hk : k < 16) → k ≠ h.toNat → y.spools[k] = x.spools[k]) ∧
        (∀ k, (hk : k < 8) → y.streams[k] = if x.streams[k].bound && x.streams[k].handle == h.toNat then ⟨0, 0, 0, 0, false⟩ else x.streams[k]) ∧
        t.scratch.readList (scratchAt s.cur p.recs) (32 * (p.slotsM1 + 1)) = List.replicate (32 * (p.slotsM1 + 1)) 0 ∧
        OnlyScratch s t s.cur p.recs (32 * (p.slotsM1 + 1)) ∧
        y.g = x.g ∧ y.v = x.v ∧ y.p = x.p ∧ y.pc = (x.pc + 4) % 2 ^ 64 ∧ y.wait = none)

/-- R347: an advance or wait whose count is 0, larger than the spool, or of a spool not defined is illegal. Where the operand is legal,
SPADVC frees `c` filled slots: the consumer index and the free count grow, the fill count falls; SPADVP without another landing of the
spool waiting fills `c` free slots: the producer index and the fill count grow, the free count falls. Neither has anything to write back.
R347, R84, R92: SPWAITC with enough slots filled joins the fill chains of the next slots: the strand's chain is then no smaller than
any of them, and CHLAST is the last one's origin; SPWAITP does so with free records, whose count must be free. Each then acquires (the core's
cache drops its unwritten bytes). With too few slots they wait, in a join. No slot record that one of them reads or writes is locked (R229). -/
def Obligations.SpoolAdvancesAndWaits : Prop :=
  (∀ (s : State) (x : Strand) (h a : BitVec 6) (hh : h.toNat < 16), Alone s x → memReady x [a] = true →
    let sp := x.spools[h.toNat]
    let c := (x.rd a).toNat
    let legal := sp.defined = true ∧ 1 ≤ c ∧ c ≤ sp.slotsM1 + 1
    let word := (s.fetchWord s.cur x.pc).setWidth 64
    let ends := fun (i : Instr) (f : Spool → Prop) => ∃ t y, Sys2Proof.Machine.exec i s = .next t ∧ t.strand s.cur = some y ∧
      f y.spools[h.toNat] ∧ y.g = x.g ∧ y.v = x.v ∧ y.p = x.p ∧ y.pc = (x.pc + 4) % 2 ^ 64 ∧ y.wait = none ∧
      t.hbm = s.hbm ∧ t.host = s.host ∧ t.chip = s.chip
    (¬ legal → x.wait = none → Traps (.spadvp h a) s x 0x01 word ∧ Traps (.spadvc h a) s x 0x01 word ∧
      Traps (.spwaitp h a) s x 0x01 word ∧ Traps (.spwaitc h a) s x 0x01 word) ∧
    (legal → Quiet x → x.lineAbsent = [] → c ≤ sp.fill → x.boundTo h.toNat = false → recordClash s s.cur x sp sp.cons c true = none →
      ends (.spadvc h a) fun q => q.cons = (sp.cons + c) % (sp.slotsM1 + 1) ∧ q.fill = sp.fill - c ∧ q.free = sp.free + c ∧
        q.prod = sp.prod ∧ q.resv = sp.resv) ∧
    (legal → Quiet x → x.lineAbsent = [] → c ≤ sp.free → (∀ l ∈ s.landings, l.spool ≠ x.spoolId s.cur h) →
      (∀ l ∈ s.discards, l.spool ≠ x.spoolId s.cur h) → sp.prod ≤ sp.slotsM1 → recordClash s s.cur x sp sp.reserve c true = none →
      ends (.spadvp h a) fun q => q.prod = (sp.prod + c) % (sp.slotsM1 + 1) ∧ q.fill = sp.fill + c ∧ q.free = sp.free - c ∧
        q.cons = sp.cons ∧ q.resv = sp.resv)) ∧
  (∀ (s : State) (x : Strand) (h a : BitVec 6) (hh : h.toNat < 16), Alone s x → x.pending [a] = false → x.lineAbsent = [] →
    let sp := x.spools[h.toNat]
    let c := (x.rd a).toNat
    let k := x.spoolId s.cur h
    let ends := fun (i : Instr) (rec_ : Nat → SlotRec) (chain : SlotRec → Nat) (org : SlotRec → W32) =>
      ∃ y m, Sys2Proof.Machine.exec i s = .next (s.setStrand s.cur y) ∧
        Ends (goOn { (x.setCsr 0x11#7 m).setCsr 0x12#7 ((org (rec_ (c - 1))).setWidth 64) with cache := x.acquire.cache }) y ∧
        ∀ j, j < c → chain (rec_ j) ≤ y.chain
    sp.defined = true → 1 ≤ c → c ≤ sp.slotsM1 + 1 →
    (recordClash s s.cur x sp sp.cons c false = none → (c ≤ sp.fill → s.releasing s.cur = false → ends (.spwaitc h a) (fun j => s.slotRec k sp ((sp.cons + j) % sp.count)) (·.fill) (·.fillOrigin)) ∧
      (sp.fill < c → ∃ y, Sys2Proof.Machine.exec (.spwaitc h a) s = .next (s.setStrand s.cur y) ∧ y.wait = some .join ∧
        Ends x { y with wait := none })) ∧
    (recordClash s s.cur x sp sp.reserve c false = none →
      (c ≤ sp.free → s.releasing s.cur = false → ends (.spwaitp h a) (fun j => s.slotRec k sp ((sp.reserve + j) % sp.count)) (·.free) (·.freeOrigin)) ∧
      (sp.free < c → ∃ y, Sys2Proof.Machine.exec (.spwaitp h a) s = .next (s.setStrand s.cur y) ∧ y.wait = some .join ∧
        Ends x { y with wait := none })))

/-- R348, R349: SBIND binds a free stream register to a defined spool at its consumer index, and is illegal where the stream is bound,
the spool is, or is not defined; SUNBIND unbinds. SRD, once no vector memory instruction is queued before it (R224), of a bound stream whose element is there writes it to d; SRD of an
unbound one is illegal. -/
def Obligations.Streams : Prop :=
  ∀ (s : State) (x : Strand) (d t h ty : BitVec 6) (hh : h.toNat < 16), Alone s x →
    let word := (s.fetchWord s.cur x.pc).setWidth 64
    let free := x.spools[h.toNat].defined = true ∧ x.boundTo h.toNat = false ∧ (x.stream t.toNat).bound = false
    (free → Retires (.sbind t h ty) s s (goOn (x.setStream t.toNat ⟨0, x.spools[h.toNat].cons, ty.toNat, h.toNat, true⟩))) ∧
    (¬ free → x.wait = none → Traps (.sbind t h ty) s x 0x01 word) ∧
    Retires (.sunbind t) s s (goOn (x.setStream t.toNat ⟨0, 0, 0, 0, false⟩)) ∧
    (memReady x [d] = true → (x.stream t.toNat).bound = false → x.wait = none → Traps (.srd d t) s x 0x01 word) ∧
    (memReady x [d] = true → (x.stream t.toNat).bound = true → s.releasing s.cur = false → ∀ bs r sp,
      popBytes (atWord s x) s.cur (begun s x) (x.stream t.toNat) (srdBytes (x.stream t.toNat).typ) x.ftop = .got bs r sp →
      ∃ u y, Sys2Proof.Machine.exec (.srd d t) s = .next u ∧ u.strand s.cur = some y ∧
        y.getG d = (if d = 0 then ⟨0, false⟩ else word64 (BitVec.ofNat 64 (numOf (streamOut x.ftop (x.stream t.toNat).typ bs)))) ∧
        (∀ k, k ≠ d → y.getG k = x.getG k) ∧ y.v = x.v ∧ y.p = x.p ∧ y.pc = (x.pc + 4) % 2 ^ 64 ∧ y.wait = none ∧
        u.hbm = s.hbm ∧ u.host = s.host ∧ u.chip = s.chip)

/-! ### Barriers -/

/-- R94, R103, R104, R350, R411: an arrival at a barrier of which the strand is a participant, with nothing to wait for, is recorded once
its issue cycle has passed: the core among the arrived, its chain in the barrier's maximum, its WID as the last; while others are
missing the generation goes on. BARA retires, BAR and EXCH wait for the generation's release, .x and EXCH set the exchange flag. An arrival
at a barrier that the strand is no participant of is illegal. -/
def Obligations.BarrierArrival : Prop :=
  ∀ (s : State) (x : Strand) (n : BitVec 6) (f : BitVec 1) (i : Instr) (xf waits : Bool), Alone s x → x.wait = none → x.stash = [] →
    (i, xf, waits) ∈ [(.bara n f, false, false), (.baraX n f, true, false), (.bar n f, false, true), (.exch n f, true, true)] →
    let b := barIdOf n f
    (s.barOf s.cur x b = none → Traps i s x 0x01 ((s.fetchWord s.cur x.pc).setWidth 64)) ∧
    ∀ r : Bar, s.barOf s.cur x b = some r → x.arrivals.any (fun a => a.bar == b && a.gen == r.gen) = false → memReady x [] = true →
      x.sending = false → x.released = false → Quiet x →
      (∃ m ∈ r.members, m ≠ s.cur ∧ r.arrived.contains m = false) →
      (waits = true → ∀ h ∈ x.held, h.bar ≠ b) →
      ∃ t y r', Sys2Proof.Machine.exec i s = .next t ∧ t.strand s.cur = some y ∧ t.barOf s.cur x b = some r' ∧
        r'.arrived = insertNat s.cur r.arrived ∧ r'.members = r.members ∧ r'.gen = r.gen ∧ r'.last = x.wid ∧
        r'.xflag = (r.xflag || xf) ∧ r.chain ≤ r'.chain ∧ y.arrivals.any (fun a => a.bar == b && a.gen == r.gen) = true ∧
        y.exch.origin = none ∧ t.releases = s.releases ∧ y.g = x.g ∧ y.v = x.v ∧ y.p = x.p ∧
        (if waits then y.wait = some (.barrier b r.gen) ∧ y.pc = x.pc else y.wait = none ∧ y.pc = (x.pc + 4) % 2 ^ 64) ∧
        t.hbm = s.hbm ∧ t.host = s.host ∧ t.scratch = s.scratch ∧ t.chip = s.chip

/-- R94, R104, R105, R246: the last arrival at a team barrier or a domain, by BARA, BAR or EXCH, completes the generation: the barrier begins the next one
empty, and every participant whose arrival it was, the last one among them, is due a release that carries the generation's chain and origins, no earlier
than now, and an exchange origin where the generation has its flag. BARA then goes on, BAR and EXCH wait for that release. BARW (R84) takes the held
release of the generation that it waits for: it joins its chain, takes its last origin, acquires and goes on; without a held release it waits for
one. At a barrier that the strand is no participant of it is illegal. -/
def Obligations.BarrierReleases : Prop :=
  (∀ (s : State) (x : Strand) (n : BitVec 6) (f : BitVec 1) (i : Instr) (xf waits : Bool) (r : Bar), Alone s x → x.wait = none → x.stash = [] →
    (i, xf, waits) ∈ [(.bara n f, false, false), (.baraX n f, true, false), (.bar n f, false, true), (.exch n f, true, true)] →
    let b := barIdOf n f
    s.barOf s.cur x b = some r → x.arrivals.any (fun a => a.bar == b && a.gen == r.gen) = false → memReady x [] = true →
    x.sending = false → x.released = false → Quiet x →
    s.cur ∈ r.members → (∀ m ∈ r.members, m = s.cur ∨ r.arrived.contains m = true) → (waits = true → ∀ h ∈ x.held, h.bar ≠ b) →
    ∃ t y new, Sys2Proof.Machine.exec i s = .next t ∧ t.strand s.cur = some y ∧ t.releases = s.releases ++ new ∧
      (∃ q ∈ new, q.core = s.cur ∧ q.id = x.id) ∧
      (∀ q ∈ new, q.core ∈ r.members ∧ q.held.bar = b ∧ q.held.gen = r.gen ∧ r.chain ≤ q.held.chain ∧ q.held.last = x.wid ∧ s.tick ≤ q.comp ∧
        q.comp ≤ q.tick ∧ q.held.origin.isSome = (r.xflag || xf)) ∧
      t.barOf s.cur x b = some { r with arrived := [], chain := 0, max := 0, last := 0, ovf := false, xflag := false, gen := r.gen + 1 } ∧
      (if waits then y.wait = some (.barrier b r.gen) ∧ y.pc = x.pc else y.wait = none ∧ y.pc = (x.pc + 4) % 2 ^ 64) ∧ y.exch.origin = none ∧
      y.g = x.g ∧ y.v = x.v ∧ y.p = x.p) ∧
  ∀ (s : State) (x : Strand) (n : BitVec 6) (f : BitVec 1), Alone s x → s.releasing s.cur = false →
    let b := barIdOf n f
    (s.barOf s.cur x b = none → x.wait = none → Traps (.barw n f) s x 0x01 ((s.fetchWord s.cur x.pc).setWidth 64)) ∧
    ∀ r : Bar, s.barOf s.cur x b = some r →
      (∀ h, x.held.find? (fun h => h.bar == b && h.gen == x.barGen b r) = some h →
        ∃ y, Sys2Proof.Machine.exec (.barw n f) s = .next (s.setStrand s.cur y) ∧ y.pc = (x.pc + 4) % 2 ^ 64 ∧ y.wait = none ∧
          y.g = x.g ∧ y.v = x.v ∧ y.p = x.p ∧ y.held = x.held.filter (· != h) ∧ min h.chain (2 ^ 48 - 1) ≤ y.chain ∧
          y.csrAt 0x12#7 = h.last.setWidth 64 ∧ ∀ l ∈ y.cache, l.mask ≠ 0) ∧
      (x.held.find? (fun h => h.bar == b && h.gen == x.barGen b r) = none →
        ∃ y, Sys2Proof.Machine.exec (.barw n f) s = .next (s.setStrand s.cur y) ∧ y.wait = some (.barrier b (x.barGen b r)) ∧
          Ends x { y with wait := none })

/-! ### Granules, gangs, the bobbin -/

/-- R151 to R153, R351: VCLAIM of n positions that the cell can spare, nobody waiting before it, gives the strand n zeroed positions above
those it holds; one that would exceed 16 is illegal; one that the cell cannot spare waits in the cell's claim queue. VGIVE returns the
highest positions, but not the base. -/
def Obligations.Granules : Prop :=
  ∀ (s : State) (x : Strand) (n : BitVec 6), Alone s x → x.stash = [] →
    let c := s.poolOf s.cur
    let word := (s.fetchWord s.cur x.pc).setWidth 64
    (16 < x.holding + n.toNat → x.wait = none → Traps (.vclaim n) s x 0x01 word) ∧
    (x.holding + n.toNat ≤ 16 → x.bobIdle = true → (s.cell c).claims = [] → n.toNat ≤ s.freeGran c → x.wait ≠ some .reclaim →
      ∃ t y, Sys2Proof.Machine.exec (.vclaim n) s = .next t ∧ t.strand s.cur = some y ∧ y.holding = x.holding + n.toNat ∧
        (∀ k, (hk : k < 128) → y.v[k] = if x.holding ≤ k / 8 ∧ k / 8 < x.holding + n.toNat then 0 else x.v[k]) ∧
        y.g = x.g ∧ y.p = x.p ∧ y.pc = (x.pc + 4) % 2 ^ 64 ∧ y.wait = none ∧ (t.cell c).claims = [] ∧
        ∀ m, m ≠ s.cur → t.strand m = s.strand m) ∧
    (x.holding + n.toNat ≤ 16 → x.bobIdle = true → (s.cell c).claims = [] → s.freeGran c < n.toNat → x.wait ≠ some .reclaim →
      ∃ t y, Sys2Proof.Machine.exec (.vclaim n) s = .next t ∧ t.strand s.cur = some y ∧ y.wait = some (.claim n.toNat) ∧
        y.holding = x.holding ∧ y.v = x.v ∧ y.g = x.g ∧ y.pc = x.pc ∧ (t.cell c).claims = [(s.cur, n.toNat, s.tick)]) ∧
    (x.holding < x.baseGran + n.toNat → x.wait = none → Traps (.vgive n) s x 0x01 word) ∧
    (x.baseGran + n.toNat ≤ x.holding → x.vq = [] → x.bobIdle = true → s.accvBusy s.cur x = false → (s.cell c).claims = [] →
      Retires (.vgive n) s s (goOn { x with
        holding := x.holding - n.toNat
        granAbsent := x.granAbsent &&& ~~~granBits (x.holding - n.toNat) 16
        granDirty := x.granDirty &&& ~~~granBits (x.holding - n.toNat) 16 }))

/-- R65, R67, R352: TACK waits until every strand that its mask names has issued it; the last one forms the gang: each member goes on at the
next word, tacked to the first. A mask that R352 does not allow is illegal. UNTACK (R353) in a gang whose members can all run it ends the gang: each member goes on alone
at the next word; outside a gang it is illegal. -/
def Obligations.Gangs : Prop :=
  (∀ (s : State) (x : Strand) (a : BitVec 6), Alone s x → x.pending [a] = false →
    (tackCores x (x.rd a) = none → x.wait = none → Traps (.tack a) s x 0x01 ((s.fetchWord s.cur x.pc).setWidth 64)) ∧
    ∀ cs, tackCores x (x.rd a) = some cs → x.bobIdle = true →
      let issued := fun m => ∃ w, s.strand m = some w ∧ w.gang.tacking.isSome = true ∧ w.id.launch = x.id.launch ∧ w.id.index = x.id.index ∧
        w.id.stage = x.id.stage
      ((∃ m ∈ cs, m ≠ s.cur ∧ ¬ issued m) → ∃ y, Sys2Proof.Machine.exec (.tack a) s = .next (s.setStrand s.cur y) ∧
        y.wait = some .own ∧ y.gang.tacking = some (x.rd a &&& 0xFFFF) ∧ y.gang.tacked = false ∧ y.pc = x.pc ∧ y.g = x.g) ∧
      ((∀ m ∈ cs, m ≠ s.cur → issued m ∧ ∀ w, s.strand m = some w → w.gang.tacking = some (x.rd a &&& 0xFFFF) ∧ w.pc = x.pc ∧ w.selv = x.selv) →
        s.cur ∈ cs → cs.Nodup → ∃ t, Sys2Proof.Machine.exec (.tack a) s = .next t ∧
          ∀ m ∈ cs, ∃ w y, (if m = s.cur then some x else s.strand m) = some w ∧ t.strand m = some y ∧
            y.gang = ⟨cs.headD 0, cs, none, true, false⟩ ∧ y.pc = (w.pc + 4) % 2 ^ 64 ∧ y.g = w.g ∧ y.v = w.v ∧ y.wait = none)) ∧
  (∀ (s : State) (x : Strand), Alone s x → x.wait = none → Traps .untack s x 0x01 ((s.fetchWord s.cur x.pc).setWidth 64)) ∧
  ∀ (s : State) (x : Strand), s.strand s.cur = some x → x.runnable = true → x.gang.tacked = true → x.gang.members.Nodup →
    s.cur ∈ x.gang.members → x.gang.leader ∈ x.gang.members →
    (∀ m ∈ x.gang.members, ∃ w, s.strand m = some w ∧ w.gang = x.gang ∧ w.runnable = true ∧ w.bobIdle = true) → x.gang.noCode = false →
    ∃ t, Sys2Proof.Machine.exec .untack s = .next t ∧ ∀ m ∈ x.gang.members, ∃ w y, s.strand m = some w ∧ t.strand m = some y ∧
      y.gang.tacked = false ∧ y.pc = (w.pc + 4) % 2 ^ 64 ∧ y.g = w.g ∧ y.v = w.v ∧ y.wait = none

/-- R160 to R162, R354: BOB reads its body, captures its scalar operands, and goes on behind the body with the bobbin active at pass 0,
word 0; a stride or a pass that R161 does not allow is illegal. No line of the body has still to be filled (R129). -/
def Obligations.BobbinStart : Prop :=
  ∀ (s : State) (x : Strand) (n a : BitVec 6) (is : List Instr), Alone s x → x.pending [a] = false →
    let v := x.rd a
    let rs := a :: is.flatMap bodyRegs
    let b : Bobbin := ⟨is.map (captureWord x), (v.extractLsb' 12 4).toInt, (v.extractLsb' 16 4).toInt, (v.extractLsb' 20 4).toInt,
      (v.extractLsb' 24 13).toInt, (v.extractLsb' 0 12).toNat + 1, 0, 0, x.pc, true, false, s.tick⟩
    v.toNat < 2 ^ 37 → x.bobIdle = true → x.absentLine (x.pc + 4) (min (4 * (n.toNat + 1)) (x.selv - (x.pc + 4))) = false → readBody (atWord s x) s.cur (begun s x) (n.toNat + 1) (x.pc + 4) = .ok is → x.pending rs = false →
    let good := is.all (stridesOk b) && is.all (passesOk x b) && !is.any (sendsAccv s x)
    (good = true → Retires (.bob n a) s s { x with bobbin := b, pc := (x.pc + (4 + 4 * (n.toNat + 1))) % 2 ^ 64 }) ∧
    (good = false → x.wait = none → Traps (.bob n a) s x 0x01 ((s.fetchWord s.cur x.pc).setWidth 64))

/-! ### CSRs -/

/-- R77, R96, R166, R169, R172, R290, R400, R413, R414: a CSR access that may be made gives d the old value and, where it writes, changes the
bits that the CSR lets a write change (`csrMask`); CHN and CHSTALL lose bit 63 only by a 0 written to it, and a 1 does not set it; SELV takes the multiples of 256
from 256 to the end of the span; a CHLIM below the chain sets chpend. That the old value of CHN holds the operand wait, and that the issue cycle is added to
a written one, is the model's reading (log 23). An access to an absent CSR, or a write to one marked R, takes 0x01 with the word.
Where the access must wait (R166, R358, R400) it waits as own work. A read of EVCNT for an event off the allow-list notes the virtual device
in hidden_events (R34). -/
def Obligations.CsrAccess : Prop :=
  ∀ (s : State) (x : Strand) (i : Instr) (op o : BitVec 2) (d a b : BitVec 6) (c k : BitVec 7), Alone s x → x.pending [d, b] = false →
    (i, op, b, c) ∈ [(.csrr d k, 0, 0, k), (.csrw d a k, 1, a, k), (.csrs d a k, 2, a, k), (.csrc d a k, 3, a, k), (.selvWrite o d a, o, a, 0x20),
      (.chnWrite o d a false, o, a, 0x10), (.chnWrite o d a true, o, a, 0x14), (.chlimWrite o d a, o, a, 0x13), (.chmodeWrite o d a, o, a, 0x15),
      (.fpCsrAccess o d a k, o, a, k), (.rlthrRead d, 0, 0, 0x2D), (.evcntRead d, 0, 0, 0x39), (.capCsrRead d k, 0, 0, k),
      (.tcauseWrite o d a, o, a, 0x22)] →
    let z := atWord s x
    let r := operands s x [b]
    let writes := op = 1 ∨ (op ≠ 0 ∧ b ≠ 0)
    let old := if op = 0 then r.readHeld c (readCsr z s.cur r c) else readCsr z s.cur r c
    let v : W64 := if op = 1 then x.rd b else if op = 2 then old.bits.setWidth 64 ||| x.rd b else old.bits.setWidth 64 &&& ~~~x.rd b
    let new := (r.csrAt c &&& ~~~csrMask c) ||| (v &&& csrMask c)
    let legal := csrKind c ≠ .absent ∧ ¬ (csrKind c = .r ∧ writes) ∧ ¬ (op ≠ 0 ∧ 0x30 ≤ c.toNat ∧ c.toNat ≤ 0x32)
    let hides := c = 0x39 ∧ (z.readEvent (begun s x)).2 = true
    let word := (s.fetchWord s.cur x.pc).setWidth 64
    (¬ legal → x.wait = none → Traps i s x 0x01 word) ∧
    (legal → csrWaits z s.cur (begun s x) c (decide writes) = true →
      ∃ y, Sys2Proof.Machine.exec i s = .next (s.setStrand s.cur y) ∧ y.wait = some .own ∧ Ends x { y with wait := none }) ∧
    (legal → csrWaits z s.cur (begun s x) c (decide writes) = false →
      (¬ writes → Retires i s (if hides then s.onPart x.id.part fun q => { q with hidden := q.hidden ||| (1#64 <<< x.id.vd) } else s)
        (goOn (r.setG d old))) ∧
      (writes → c ∉ [0x10#7, 0x14#7, 0x20#7] → Retires i s s (goOn ((r.setCsr c new).setG d old))) ∧
      (writes → c = 0x20#7 →
        let dest := v.toNat % 2 ^ 19
        if dest % 256 = 0 ∧ 256 ≤ dest ∧ dest ≤ x.spanEnd then
          (dest ≤ x.selv ∨ z.lockMeets x.id.vd s.cur x.selv dest = none → Retires i s s (goOn ((r.setCsr c new).setG d old)))
        else x.wait = none → Traps i s x 0x01 word) ∧
      (writes → c = 0x10#7 → ∃ y, Sys2Proof.Machine.exec i s = .next (s.setStrand s.cur y) ∧
        let own := if x.declared || x.begun then 0 else s.divOf s.cur
        y.chain = min (2 ^ 48 - 1) (v.toNat % 2 ^ 48 + own) ∧ y.ovf = ((r.ovf && bit1 v 63) || decide (2 ^ 48 ≤ v.toNat % 2 ^ 48 + own)) ∧
        y.getG d = (if d = 0 then ⟨0, false⟩ else old) ∧ Keeps (goOn x) y [d] [] ∧ y.pc = (x.pc + 4) % 2 ^ 64) ∧
      (writes → c = 0x14#7 → ∃ y, Sys2Proof.Machine.exec i s = .next (s.setStrand s.cur y) ∧
        y.csrAt 0x14#7 = new &&& (v ||| 0x7FFFFFFFFFFFFFFF#64) ∧ y.getG d = (if d = 0 then ⟨0, false⟩ else old) ∧
        Keeps (goOn x) y [d] [] ∧ y.pc = (x.pc + 4) % 2 ^ 64) ∧
      (writes → c = 0x13#7 → above r.chain r.chlim = false → above r.chain (v.toNat % 2 ^ 48) = true → (∀ t ∈ r.async, t.1 ≠ 0x0C) →
        ∃ y, Sys2Proof.Machine.exec i s = .next (s.setStrand s.cur y) ∧ bit1 (y.csrAt 0x22#7) 11 = true))

/-! ### Ends, held traps, the supervisor -/

/-- R417, R418, R48: YIELD goes on, or waits to be saved where its virtual device has a stop request. DONE of a strand that has nothing queued
and nothing to release waits to end; a strand that ends leaves its core, its copy commands stay behind it, and its chain enters its launch's
completion chain. -/
def Obligations.YieldAndDone : Prop :=
  (∀ (s : State) (x : Strand), Alone s x → x.bobIdle = true → x.sending = false →
    (s.stopping x = false → Retires .yield s s (goOn x)) ∧
    (s.stopping x = true → ∃ y, Sys2Proof.Machine.exec .yield s = .next (s.setStrand s.cur y) ∧ y.wait = some .yield ∧
      Ends x { y with wait := none }) ∧
    (x.vq = [] → (∀ r ∈ x.vRdy, r.2 ≤ s.tick) → s.matrixOf s.cur x = [] → x.released = false → Quiet x →
      ∃ t y, Sys2Proof.Machine.exec .done_ s = .next t ∧ t.strand s.cur = some y ∧ y.wait = some .ending ∧ y.pc = x.pc ∧ y.g = x.g ∧
        y.v = x.v ∧ (∀ m, m ≠ s.cur → t.strand m = s.strand m) ∧ t.flight = s.flight)) ∧
  ∀ (s : State) (x : Strand), s.strand s.op.a = some x → x.phase = .live → x.halted = false → x.wait = some .ending → x.gang.tacked = false →
    s.strands.wf = true →
    ∃ t, Sys2Proof.Machine.exec .strandEnd s = .next t ∧ t.strand s.op.a = none ∧ t.orphans = s.orphans ++ x.cq ∧
      ∀ l, s.launchOf x.id.part x.id.launch = some l → ∃ k, t.launchOf x.id.part x.id.launch = some k ∧ x.chain ≤ k.finalChain ∧
        l.finalChain ≤ k.finalChain ∧ k.anyRan = true

/-- R136 to R138, R165: the held trap that comes first is taken at a boundary, to the strand's handler where it is delegated and no handler
is active, else to the supervisor; a PC at or above the selvage takes 0x07, one that is no multiple of 4 takes 0x06; the supervisor
resumes a strand at the PC that it chooses. -/
def Obligations.BoundaryTraps : Prop :=
  (∀ (s : State) (x : Strand) (a : Nat × W64 × Nat), s.strand s.cur = some x → x.gang.tacked = false → x.trapsNow = true → x.dueAsync = some a →
    a.1 < 256 → ∃ t y, Sys2Proof.Machine.exec .asyncTrapEntry s = .next t ∧ t.strand s.cur = some y ∧ (∀ m, m ≠ s.cur → t.strand m = s.strand m) ∧
      (∀ e ∈ y.async, e.1 ≠ a.1) ∧ y.g = x.g ∧ y.v = x.v ∧ t.scratch = s.scratch ∧
      if x.toSupervisor (asyncTrap a) then y.wait = some (.supervisor a.1 a.2.1 (BitVec.ofNat 64 x.pc) a.2.2) ∧ y.pc = x.pc
      else y.wait = none ∧ y.pc = (x.csrAt 0x21#7).toNat ∧ y.csrAt 0x24#7 = BitVec.ofNat 64 x.pc ∧ y.csrAt 0x23#7 = a.2.1 ∧
        (y.csrAt 0x22#7).toNat % 2 ^ 9 = 2 ^ 8 + a.1 ∧ bit1 (y.csrAt 0x22#7) 9 = (a.1 != 0x0C && a.1 != 0x11)) ∧
  (∀ (s : State) (x : Strand), Alone s x → x.wait = none →
    (x.selv ≤ x.pc → Traps .fetchFault s x 0x07 (BitVec.ofNat 64 x.pc)) ∧
    (x.pc < x.selv → x.pc % 4 ≠ 0 → Traps .fetchFault s x 0x06 (BitVec.ofNat 64 x.pc))) ∧
  ∀ (s : State) (x : Strand) (c d e f : _), s.strand s.op.a = some x → x.phase = .live → x.gang.tacked = false →
    x.wait = some (.supervisor c d e f) → s.op.c ≠ 1 → s.op.c ≠ 2 →
    ∃ y, Sys2Proof.Machine.exec .supervisorTrapResume s = .next (s.setStrand s.op.a y) ∧ Ends { x with pc := s.op.b % 2 ^ 64 } y

/-! ### Exchanges -/

/-- R246, R248, R249, R412: SENDX takes the next plan entry: in exchange mode it waits for its slot and traps with 0x0E when the slot has
passed, or for an entry whose receiver or payload lies outside (that this is its cause is the model's reading, log 32); without an entry it traps so at
once. Outside exchange mode it raises no slot fault (R246). Else its message leaves with the payload and the strand goes on; of what a payload would hold
beyond the scratchpad nothing is said (free, log 32). A message that arrives leaves flight and fills one slot of its receiver's spool. -/
def Obligations.Exchange : Prop :=
  (∀ (s : State) (x : Strand) (i : Instr), Alone s x → memReady x [] = true → x.absentLine (x.exch.planOff + 16 * x.exch.next) 16 = false →
    i = .sendx ∨ (i = .exchangeSend ∧ s.op.a = s.cur ∧ x.wait.isSome = true ∧ ∃ k, slotStart s s.cur x = some k ∧ k ≤ s.tick) →
    (nextEntry s s.cur x = none → x.wait = none → Traps i s x 0x0E (BitVec.ofNat 64 s.tick)) ∧
    ∀ e, nextEntry s s.cur x = some e →
      let timed := x.exch.origin.isSome = true
      let bad := timed ∧ (s.coreIn x.id.part e.dest = false ∨ e.fromOff < x.selv ∨ x.spanEnd < e.fromOff + 64 * e.beats)
      let k := min (64 * e.beats) (2 ^ 18 - e.fromOff)
      let late := ∃ o, x.exch.origin = some o ∧ o + e.start + e.width ≤ s.tick
      let early := ∃ o, x.exch.origin = some o ∧ s.tick < o + e.start
      (early → ∃ y, Sys2Proof.Machine.exec i s = .next (s.setStrand s.cur y) ∧ y.wait = some .own ∧ Ends x { y with wait := none }) ∧
      (¬ early → bad ∨ late → x.wait = none → Traps i s x 0x0E (BitVec.ofNat 64 s.tick)) ∧
      (¬ early → ¬ bad → ¬ late → (∀ o, x.exch.origin = some o → e.width ≠ 0) → x.absentLine e.fromOff (64 * e.beats) = false →
        s.lockClash s.cur x e.fromOff (64 * e.beats) false = none → (s.scratchGot s.cur e.fromOff k).poison = none →
        ∃ t y f m, Sys2Proof.Machine.exec i s = .next t ∧ t.strand s.cur = some y ∧ t.flight = f ++ [.exchange m] ∧ f.length = s.flight.length ∧
          (x.exch.origin = none → f = s.flight) ∧ m.src = s.cur ∧ m.dst = e.dest ∧ m.handle = e.handle ∧
          m.data.length = 64 * e.beats ∧ m.data.take k = s.scratch.readList (scratchAt s.cur e.fromOff) k ∧ m.timed = x.exch.origin.isSome ∧ m.origin = x.wid ∧ m.sent = s.tick ∧
          y.exch = { x.exch with next := x.exch.next + 1, inFlight := x.exch.inFlight + 1, sent := true } ∧
          y.pc = (x.pc + 4) % 2 ^ 64 ∧ y.wait = none ∧ y.g = x.g ∧ y.v = x.v ∧ t.scratch = s.scratch)) ∧
  ∀ (s : State) (m : Xmsg) (y : Strand) (hh : m.handle < 16), s.flight[s.op.a]? = some (.exchange m) → m.at_ ≤ s.tick →
    s.strand m.dst = some y → y.id.part = m.part → y.id.vd = m.vd → y.phase ≠ .placed →
    let sp := y.spools[m.handle]
    sp.defined = true → sp.bytes = m.data.length → 1 ≤ sp.free → sp.prod ≤ sp.slotsM1 →
    (∀ l ∈ s.landings, l.spool ≠ ⟨m.part, m.vd, m.dst, m.handle⟩) → (∀ l ∈ s.discards, l.spool ≠ ⟨m.part, m.vd, m.dst, m.handle⟩) →
    ∃ t z, Sys2Proof.Machine.exec .exchangeLanding s = .next t ∧ t.flight = s.flight.eraseIdx s.op.a ∧ t.strand m.dst = some z ∧
      let q := z.spools[m.handle]
      q.prod = (sp.prod + 1) % (sp.slotsM1 + 1) ∧ q.fill = sp.fill + 1 ∧ q.free = sp.free - 1 ∧ q.cons = sp.cons ∧ q.resv = sp.resv

/-! ### Commands -/

/-- R401, R402, R292, R228, R89: an ENQ.M or ENQ.C whose checks pass captures its command: it enters its core's queue behind the others, its ranges
enter the cluster's lock table, and the strand goes on (an MM.ACCV's strand waits for its command instead, R394). A check that fails is
the trap of the ENQ; an odd or zero register pair is illegal.
R410, R247: an ENQ.X whose checks pass, and XC.PLAN itself, locks the plan table against writers and sets the strand's next plan: its offset,
its valid entries, none of them sent. A table that is not aligned, that lies below the selvage, has no valid entry or comes in exchange mode is illegal. -/
def Obligations.Enqueue : Prop :=
  (∀ (s : State) (x : Strand) (i : Instr) (qu : CmdQueue) (d a b : BitVec 6), (i, qu) ∈ [(.enqM d a b, .matrix), (.enqC d a b, .copy)] → Alone s x →
    (x.stash = [1] → Retires i s s (goOn x)) ∧
    (x.stash = [] → x.pending [d, a, a + 1, b] = false →
      let z := operands s x [d, a, a + 1, b]
      let w := pairWord (x.getG a) (x.getG (a + 1))
      let iw := (s.fetchWord s.cur x.pc).setWidth 64
      let check := enqCheck (atWord s x) s.cur z qu w (b, x.getG b) (d, x.getG d) iw
      (a = 0 ∨ a.getLsbD 0 = true → x.wait = none → Traps i s x 0x01 iw) ∧
      (a ≠ 0 → a.getLsbD 0 = false →
        (∀ c v, check = .error (.precise c v) → x.wait = none → c ∉ [0x08, 0x0B, 0x13, 0x14] → Traps i s x c v) ∧
        ∀ p, check = .ok p → s.lockRoom s.cur (p.locks 0).length = true →
          (qu = .matrix → x.mq.length < 8 ∧ x.bobIdle = true ∧ (p.op = .accv → x.vq = [])) → (qu = .copy → s.orphansOf s.cur + x.cq.length < 8) →
          ∃ t y c, Sys2Proof.Machine.exec i s = .next t ∧ t.strand s.cur = some y ∧ (∀ m, m ≠ s.cur → t.strand m = s.strand m) ∧
            c.op = p.op ∧ c.word = w ∧ c.core = s.cur ∧ c.part = x.id.part ∧ c.launch = x.id.launch ∧ c.wid = x.wid ∧ c.id = s.cmdCtr ∧
            (x.declared = true → c.e0 = x.chain) ∧
            y.mq = (if qu = .matrix then x.mq ++ [c] else x.mq) ∧ y.cq = (if qu = .copy then x.cq ++ [c] else x.cq) ∧
            (t.cluster (clusterOf s.cur)).locks = (s.cluster (clusterOf s.cur)).locks ++ p.locks s.cmdCtr ∧ t.cmdCtr = s.cmdCtr + 1 ∧
            y.g = x.g ∧ y.v = x.v ∧ t.hbm = s.hbm ∧ t.scratch = s.scratch ∧
            if p.op = .accv then y.wait = some .own ∧ y.stash = [0] ∧ y.pc = x.pc else y.wait = none ∧ y.pc = (x.pc + 4) % 2 ^ 64))) ∧
  (∀ (s : State) (x : Strand) (i : Instr) (d a b : BitVec 6) (c : PlanBody) (off : Nat), Alone s x →
    let z := operands s x [a, a + 1, b]
    let w := pairWord (x.getG a) (x.getG (a + 1))
    let iw := (s.fetchWord s.cur x.pc).setWidth 64
    (i = .xcPlan c ∧ off = c.planOff.toNat) ∨ (i = .enqX d a b ∧ off = (decPlan w).planOff.toNat ∧ x.pending [a, a + 1, b] = false ∧
      a ≠ 0 ∧ a.getLsbD 0 = false ∧ (∃ p, enqCheck (atWord s x) s.cur z .exchange w (b, x.getG b) (d, x.getG d) iw = .ok p)) →
    let legal := off % 16 = 0 ∧ x.selv ≤ off ∧ x.exch.origin = none
    let n := countPlan s s.cur x off 64 0
    let locks := (s.cluster (clusterOf s.cur)).locks.filter fun k => !(k.cmd == planLock s.cur)
    (¬ legal → x.wait = none → Traps i s x 0x01 iw) ∧
    (legal → x.absentLine off (min 1024 (x.spanEnd - off)) = false → memReady x [] = true →
      (n = none ∨ n = some 0 → x.wait = none → Traps i s x 0x01 iw) ∧
      ∀ k, n = some (k + 1) →
        (i = .enqX d a b → itemFault s.cur z (b, x.getG b) (0, ⟨0, false⟩) (coreItem s.cur s.cur off (16 * (k + 1)) false false none) = none) →
        s.lockClash s.cur x off (16 * (k + 1)) false = none → (s.scratchGot s.cur off (16 * (k + 1))).poison = none → locks.length < 32 →
        ∃ t y, Sys2Proof.Machine.exec i s = .next t ∧ t.strand s.cur = some y ∧
          Ends (goOn { x with exch := { x.exch with planOff := off, planCount := k + 1, next := 0 } }) y ∧
          (t.cluster (clusterOf s.cur)).locks = locks ++ [⟨planLock s.cur, false, .scratch s.cur off, 16 * (k + 1)⟩] ∧
          t.scratch = s.scratch ∧ t.hbm = s.hbm))

/-! ### Vector instructions -/

/-- R356, R150: a vector instruction enters its queue with its scalar operand, FRND and FTOP captured. One without memory access retires at entry
(VEXT's g register is then pending), so does a store after its checks; a load, VSRD or VSIFT waits in the queue and retires once a lane group
has carried it out. A register position that is not held is illegal, and a check that fails is the trap of the instruction. The regions that the
checks looked up are then in the lookaside buffer (R204, R208). What a check reads is first written and filled (R129). The strand's wait for its queue counts
as the queue's head says (R93). -/
def Obligations.VectorEntry : Prop :=
  ∀ (s : State) (x : Strand) (i : Instr) (d a b : BitVec 7) (g : BitVec 6) (e f h p : BitVec 3) (c : BitVec 2) (o : BitVec 11) (u : BitVec 10),
    Alone s x →
    let iw := (s.fetchWord s.cur x.pc).setWidth 64
    let q := fun r : BitVec 6 => (⟨i, x.pc, x.getG r, x.frnd, x.ftop, none⟩ : VqEntry)
    let z := (operands s x [g]).looksUp (atWord s x) s.cur g i
    let w := { x with plb := z.plb }
    let span := fun write : Bool => spanCheck (atWord s x) s.cur z g (x.addrOf g (64 * o.toInt)) 0xFFFF write
    let priv := fun write : Bool => privateCheck (atWord s x) s.cur z g (x.addrOf g (4 * u.toNat)) (x.getP p) write
    let gath := fun write : Bool => gatherCheck (atWord s x) s.cur z g (x.getV a) (x.getP p) write
    let ready := fun (rs : List (BitVec 7)) (ps : List (BitVec 3)) => entryWait (atWord s x) s.cur (begun s x) rs ps = none
    let stream : Option Trap := if (x.stream a.toNat).bound then none else some (.precise 0x01 iw)
    (∀ r w : BitVec 6, (i, r, w) ∈ [(.vadd d a b p, 0, 0), (.vsub d a b p, 0, 0), (.vmul d a b p, 0, 0), (.vfma d a b p, 0, 0),
        (.vfms d a b p, 0, 0), (.vfnma d a b p, 0, 0), (.vmin d a b p, 0, 0), (.vmax d a b p, 0, 0), (.vabs d a p, 0, 0), (.vneg d a p, 0, 0),
        (.vrsqe d a p, 0, 0), (.vrcpe d a p, 0, 0), (.vcmp e f a b p, 0, 0), (.vsel d a b p, 0, 0), (.vbcst d g p, g, 0), (.vext g a b p, 0, g),
        (.vand d a b p, 0, 0), (.vor d a b p, 0, 0), (.vxor d a b p, 0, 0), (.vperm d a b p, 0, 0), (.vshl d a b p, 0, 0), (.vshr d a b p, 0, 0),
        (.vsra d a b p, 0, 0), (.viadd d a b p, 0, 0), (.visub d a b p, 0, 0), (.vimul d a b p, 0, 0), (.vimin d a b p, 0, 0),
        (.vimax d a b p, 0, 0), (.vcvt d a b p, 0, 0), (.vpack d a b p, 0, 0), (.vunpk d a b p, 0, 0), (.vreda d a p, 0, 0),
        (.vredx d a p, 0, 0), (.pset e g, g, 0), (.pand e f h, 0, 0), (.por e f h, 0, 0), (.pnot e f, 0, 0)] →
      (x.holdsAll i = false → x.wait = none → Traps i s x 0x01 iw) ∧
      (x.holdsAll i = true → x.pending [r, w] = false → x.vqFull = false →
        Retires i s s (goOn { x with vq := x.vq ++ [q r], gPend := if w = 0 then x.gPend else x.gPend ++ [w.toNat] }))) ∧
    (∀ check rs ps, (i, check, rs, ps) ∈ [(.vst d g c o, span true, [], []), (.vstl d g p u, priv true, [], [p]),
        (.vscat d a g p c, gath true, [a], [p])] →
      (x.holdsAll i = false → x.wait = none → Traps i s x 0x01 iw) ∧
      (x.holdsAll i = true → x.pending [g] = false → x.vqFull = false → ready rs ps →
        (check = none → Retires i s s (goOn { w with vq := x.vq ++ [q g] })) ∧
        (∀ k v, check = some (.precise k v) → x.wait = none → k ∉ [0x08, 0x0B, 0x13, 0x14] → Traps i s (w.seeTrap s (.precise k v)) k v))) ∧
    (∀ check r k rs ps, (i, check, r, k, rs, ps) ∈ [(.vld d g c o, span false, g, .own, [], []), (.vldl d g p u, priv false, g, .own, [], [p]),
        (.vgath d a g p c, gath false, g, .own, [a], [p]), (.vsrd d a p, stream, 0, .join, [], []), (.vsift d a b p, none, 0, .own, [], [])] →
      (x.stash = [1] → Retires i s s (goOn x)) ∧
      (x.stash = [] → x.holdsAll i = false → x.wait = none → Traps i s x 0x01 iw) ∧
      (x.stash = [] → x.holdsAll i = true → x.pending [r] = false → x.vqFull = false → ready rs ps →
        (check = none → ∃ y, Sys2Proof.Machine.exec i s = .next (s.setStrand s.cur y) ∧ y.wait = some (queueWait s s.cur y k) ∧ y.stash = [0] ∧
          Ends { w with vq := x.vq ++ [q r] } { y with wait := none }) ∧
        (∀ c v, check = some (.precise c v) → x.wait = none → c ∉ [0x08, 0x0B, 0x13, 0x14] → Traps i s (w.seeTrap s (.precise c v)) c v)))

/-- R156, R261, R357 to R371, R379: what a lane group writes for a vector instruction without memory access: the unmasked lanes hold the
result, the masked ones what they held (VSEL takes every lane from one of its sources), FFLAGS gains the flags of the unmasked
lanes, a predicate result is written bit by bit, VEXT writes one lane to its g register, and nothing else of the strand's registers changes. VREDA and
VREDX write the root of the tree of R261 over the unmasked lanes to lane 0, VREDA with the flags of each rounding (R371). -/
def Obligations.VectorLaneResults : Prop :=
  ∀ (q : VqEntry) (t : Nat) (x : Strand) (d a b l : BitVec 7) (g : BitVec 6) (e f h p c : BitVec 3),
    let y := vecEffect q t x
    let va := fun k => lane (x.getV a) k
    let vb := fun k => lane (x.getV b) k
    let vd := fun k => lane (x.getV d) k
    let on := fun k => (x.getP p).getLsbD k
    let rest := (∀ r, r ≠ d → y.getV r = x.getV r) ∧ y.p = x.p ∧ y.g = x.g
    let leaf := fun k => if on k then some (va k) else none
    let add := fun v w => (fadd32 q.frnd v w).1
    (∀ r : Nat → W32 × FFlags, (q.ins, r) ∈ [(.vadd d a b p, fun k => fadd32 q.frnd (va k) (vb k)), (.vsub d a b p, fun k => fsub32 q.frnd (va k) (vb k)),
        (.vmul d a b p, fun k => fmul32 q.frnd (va k) (vb k)), (.vfma d a b p, fun k => ffma32 q.frnd false false (va k) (vb k) (vd k)),
        (.vfms d a b p, fun k => ffma32 q.frnd false true (va k) (vb k) (vd k)), (.vfnma d a b p, fun k => ffma32 q.frnd true false (va k) (vb k) (vd k)),
        (.vmin d a b p, fun k => (fmin32 (va k) (vb k), 0)), (.vmax d a b p, fun k => (fmax32 (va k) (vb k), 0)),
        (.vabs d a p, fun k => (if isNan32 (va k) then nan32 else va k &&& 0x7FFFFFFF#32, 0)),
        (.vneg d a p, fun k => (if isNan32 (va k) then nan32 else va k ^^^ 0x80000000#32, 0)),
        (.vrsqe d a p, fun k => rsqe32 (va k)), (.vrcpe d a p, fun k => rcpe32 (va k)), (.vcvt d a b p, fun k => cvtLane b q.frnd q.ftop (va k)),
        (.vand d a b p, fun k => (va k &&& vb k, 0)), (.vor d a b p, fun k => (va k ||| vb k, 0)), (.vxor d a b p, fun k => (va k ^^^ vb k, 0)),
        (.vshl d a b p, fun k => (va k <<< ((vb k).toNat % 32), 0)), (.vshr d a b p, fun k => (va k >>> ((vb k).toNat % 32), 0)),
        (.vsra d a b p, fun k => ((va k).sshiftRight ((vb k).toNat % 32), 0)), (.viadd d a b p, fun k => (va k + vb k, 0)),
        (.visub d a b p, fun k => (va k - vb k, 0)), (.vimul d a b p, fun k => (va k * vb k, 0)),
        (.vimin d a b p, fun k => (if (va k).toInt < (vb k).toInt then va k else vb k, 0)),
        (.vimax d a b p, fun k => (if (va k).toInt < (vb k).toInt then vb k else va k, 0)),
        (.vbcst d g p, fun _ => (q.scalar.bits.setWidth 32, 0)), (.vperm d a b p, fun k => (va ((vb k).toNat % 16), 0)),
        (.vpack d a b p, fun k => ((if k < 8 then (va (2 * k + 1)).extractLsb' 0 16 ++ (va (2 * k)).extractLsb' 0 16
          else (vb (2 * k - 15)).extractLsb' 0 16 ++ (vb (2 * k - 16)).extractLsb' 0 16 : BitVec 32), 0)),
        (.vunpk d a b p, fun k => ((va ((vb k).toNat % 16) >>> (if (vb k).getLsbD 4 then 16 else 0)) &&& 0xFFFF, 0))] →
      (∀ k, k < 16 → lane (y.getV d) k = if on k then (r k).1 else vd k) ∧
      (∀ j, (y.csrAt 0x1A#7).getLsbD j = ((x.csrAt 0x1A#7).getLsbD j || (List.range 16).any fun k => on k && (r k).2.getLsbD j)) ∧ rest) ∧
    (q.ins = .vsel d a b p → (∀ k, k < 16 → lane (y.getV d) k = if on k then va k else vb k) ∧ rest) ∧
    (q.ins = .vredx d a p → (∀ k, k < 16 → 0 < k → lane (y.getV d) k = vd k) ∧ ((∀ k, k < 16 → on k = false) → lane (y.getV d) 0 = nan32) ∧
      (∀ k, k < 16 → (∀ m, m < 16 → on m = true ↔ m = k) → isNan32 (va k) = false → lane (y.getV d) 0 = va k) ∧
      lane (y.getV d) 0 = (treeNode fmax32 leaf 4 0).getD nan32 ∧ y.csrAt 0x1A#7 = x.csrAt 0x1A#7 ∧ rest) ∧
    (q.ins = .vreda d a p → (∀ k, k < 16 → 0 < k → lane (y.getV d) k = vd k) ∧ ((∀ k, k < 16 → on k = false) → lane (y.getV d) 0 = 0) ∧
      (∀ k, k < 16 → (∀ m, m < 16 → on m = true ↔ m = k) → lane (y.getV d) 0 = va k) ∧
      lane (y.getV d) 0 = (treeNode add leaf 4 0).getD 0 ∧
      (∀ j, (y.csrAt 0x1A#7).getLsbD j = ((x.csrAt 0x1A#7).getLsbD j || (List.range 4).any fun l => (List.range (2 ^ (3 - l))).any fun k =>
        match treeNode add leaf l (2 * k), treeNode add leaf l (2 * k + 1) with
        | some v, some w => (fadd32 q.frnd v w).2.getLsbD j
        | _, _ => false)) ∧ rest) ∧
    (q.ins = .vext g a l p → y.v = x.v ∧ y.p = x.p ∧ (∀ r, r ≠ g → y.getG r = x.getG r) ∧
      y.getG g = if g = 0 then ⟨0, false⟩ else if on l.toNat then word64 ((lane (x.getV a) l.toNat).setWidth 64) else x.getG g) ∧
    (∀ r : Nat → Bool, (q.ins, r) ∈ [(.vcmp c e a b p, fun k => if on k then cmpLane c (va k) (vb k) else (x.getP e).getLsbD k),
        (.pset e g, fun k => q.scalar.bits.getLsbD k), (.pand e f h, fun k => (x.getP f).getLsbD k && (x.getP h).getLsbD k),
        (.por e f h, fun k => (x.getP f).getLsbD k || (x.getP h).getLsbD k), (.pnot e f, fun k => !(x.getP f).getLsbD k)] →
      (∀ k, k < 16 → (y.getP e).getLsbD k = if e = 0 then true else r k) ∧ (∀ n, n ≠ e → y.getP n = x.getP n) ∧ y.v = x.v ∧ y.g = x.g)

/-- R68, R356: in a vector cycle in which one core of the cell is ready, a lane group is free and no bobbin runs, the head of that core's queue
leaves it and takes effect; a head without memory access changes its own strand alone. A cycle in which no core is ready only moves
the pointer. -/
def Obligations.VectorCycle : Prop :=
  ∀ s : State, s.op.a < 256 → (s.cell s.op.a).vtick ≤ s.tick → (∀ c x, c < 8 → s.strand (8 * s.op.a + c) = some x → x.bobbin.active = false) →
    (readyCores s s.op.a s.tick = [] → ∃ t, Sys2Proof.Machine.exec .vectorArbitrate s = .next t ∧ t.strands = s.strands ∧
      (t.cell s.op.a).vptr = ((s.cell s.op.a).vptr + (s.tick - (s.cell s.op.a).vtick) + 1) % 8 ∧ (t.cell s.op.a).vtick = s.tick + 1) ∧
    ∀ c x q rest, readyCores s s.op.a s.tick = [c] → (∃ g : Fin 4, (s.cell s.op.a).lanes[g] ≤ s.tick) →
      s.strand (8 * s.op.a + c) = some x → x.vq = q :: rest → isVectorMemory q.ins = false → (∀ d r p, q.ins ≠ .vsrd d r p) →
      let pass := fun m : Cmd => { m with after := m.after - 1 }
      ∃ t, Sys2Proof.Machine.exec .vectorArbitrate s = .next t ∧
        t.strand (8 * s.op.a + c) = some (vecEffect q s.tick { x.count 2#4 1 with vq := rest, mq := x.mq.map pass, cq := x.cq.map pass }) ∧
        (∀ m, m ≠ 8 * s.op.a + c → t.strand m = s.strand m) ∧ t.scratch = s.scratch ∧ t.hbm = s.hbm ∧ (t.cell s.op.a).vtick = s.tick + 1

/-! ### The matrix unit -/

/-- R383, R385, R387 to R400, R70, R397: a matrix command that its ENQ.M let through, at an idle port: a skipped one leaves the planes and
slots as they are, an eligible one before whose end no earlier consumer of its spool has still to free slots runs and completes. MM.SWAP exchanges the planes, the new active one owned by the command's core; MM.ZERO
clears the rows that it names; MM.RLDEF makes the slot ranked and empty; MM.ACCV writes its registers from the slot; MM.THR writes the
threshold of one list to RLTHR; MM.LDW owns the shadow plane and loads its rows from memory, code by code, or from a quilt; MM.ACCST stores the converted
elements and MM.RLST the lists (R271) to memory, and no other byte changes; MM.RLMRG offers the entries of a slot or of lists in memory to the slot's
lists and changes no memory; relslot and relplane release what they name. The memory operands stated are those in the own scratchpad in the raw view. -/
def Obligations.MatrixCommands : Prop :=
  ∀ (s : State) (x : Strand) (i : Instr) (o : CmdOp) (m : MatBody),
    (i, o) ∈ [(.mmLdw m, .ldw), (.mmLdwQ m, .ldwQ), (.mmSwap m, .swap), (.mmMma m, .mma), (.mmMmaQ m, .mmaQ), (.mmMmac m, .mmac),
      (.mmMmacQ m, .mmacQ), (.mmZero m, .zero), (.mmRldef m, .rldef), (.mmAccst m, .accst), (.mmAccstSat m, .accstSat), (.mmAccv m, .accv),
      (.mmRlst m, .rlst), (.mmRlmrg m, .rlmrg), (.mmThr m, .thr)] →
    s.strand s.cur = some x → x.phase = .live → matBodyOk o m s.cur x = true →
    let k := cellOf s.cur
    let c := commandNow s x o (encCommon m.com (encMat m) o.opcode)
    let s1 : State := { s with cmdCtr := s.cmdCtr + 1 }
    let u := s.cell k
    let old := u.slot m.slot
    let n := matRows m
    let row := fun i => m.row0.toNat + i
    let step := 8 * m.pitch.toNat
    let sz := fmtBytes m.fmt
    let mem := fun (t : State) (a len : Nat) => t.scratch.readList (scratchAt s.cur a) len
    (u.port (portOf o)).running = none →
    (skips s1 c = true → ∃ t, Sys2Proof.Machine.exec i s = .next t ∧ (m.relslot = false → (t.cell k).slots = u.slots) ∧
      (m.relplane = false → (t.cell k).active = u.active) ∧ (t.cell k).shadow = u.shadow ∧ (t.cell k).array = u.array) ∧
    let s2 := startMatrix s1 c (u.port (portOf o)).ptr (u.port (portOf o)).credit
    (skips s1 c = false → eligible s1 c = true → (∀ r, ((s2.cell k).port (portOf o)).running = some r → sourceFirst s2 r = true) →
      ∃ t y, Sys2Proof.Machine.exec i s = .next t ∧ t.strand s.cur = some y ∧ ∀ off : Nat,
      let v := t.cell k
      let new := v.slot m.slot
      let mine := x.lineAbsent = [] ∧ s.coreIn x.id.part s.cur = true ∧ s.scratch.wf = true
      let at_ := fun i => off + i * step
      let own := fun (i d len : Nat) => let a := m.addr.toNat + i * step + d
        locOf s.cur a = .scratch s.cur (at_ i + d) ∧ (placeOf s.cur a).view = 0 ∧ x.selv ≤ at_ i + d ∧ at_ i + d + len ≤ x.spanEnd
      let clean := fun (i len : Nat) => (s.scratchGot s.cur (at_ i) len).poison = none ∧
        narrowRead s ⟨x.id.part, x.id.vd, 0⟩ (.scratch s.cur (at_ i)) len (some x.ftop) = false
      v.port (portOf o) = u.port (portOf o) ∧ (m.relslot = true → new = Slot.zero) ∧ (m.relplane = true → v.active = Plane.zero) ∧
      (o = .ldw ∨ o = .ldwQ → v.shadow.owner = some s.cur) ∧
      (o = .swap → v.active = { u.shadow with owner := some s.cur, link := m.link, chain := v.active.chain } ∧
        v.shadow = { u.active with owner := none }) ∧
      (o = .ldw → m.src = 0 → mine → u.shadow.rows.wf = true → (∀ i, i < n → own i 0 (128 * sz) ∧ clean i (128 * sz)) →
        v.shadow.fmt = m.fmt.toNat ∧ v.shadow.ftop = x.ftop ∧
        (∀ i, i < n → v.shadow.poison.getLsbD (row i) = false ∧ ∀ j, j < 128 → v.shadow.code (row i) j = numOf (mem s (at_ i + j * sz) sz)) ∧
        (u.shadow.fmt = m.fmt.toNat → ∀ r, (∀ i, i < n → r ≠ row i) → v.shadow.rows.find r = u.shadow.rows.find r)) ∧
      (o = .ldwQ → mine → u.shadow.rows.wf = true → own 0 0 step → clean 0 step → ∀ d, decodeQuilt (mem s off step) = some d → d.ftop = x.ftop →
        d.fmt = m.fmt.toNat → 128 * n ≤ d.count → ∀ i j, i < n → j < 128 → v.shadow.code (row i) j = d.elems.getD (128 * i + j) 0 % 2 ^ 16) ∧
      (o = .accst ∨ o = .accstSat → m.src = 0 → mine → old.ranked = false → (∀ i, i < n → own i 0 (m.vcols.toNat * sz)) →
        OnlyScratch s t s.cur off ((n - 1) * step + m.vcols.toNat * sz) ∧ ∀ i j, i < n → j < m.vcols.toNat → mem t (at_ i + j * sz) sz =
          bytesOf (if m.fmt = 3 then (old.elem (row i) j).toNat
            else ((fmtOf m.fmt.toNat).narrowW x.ftop (o == .accstSat) x.frnd (old.elem (row i) j)).1) sz) ∧
      (o = .rlst → mine → old.ranked = true → n ≤ 1 ∨ 8 + 8 * old.k ≤ step → (∀ i, i < n → own i 0 (8 + 8 * old.k)) →
        OnlyScratch s t s.cur off ((n - 1) * step + 8 + 8 * old.k) ∧ ∀ i, i < n →
          let l := old.lists.getD (row i) default
          mem t (at_ i) 8 = bytesOf (old.k + l.pairs.length * 2 ^ 8 + b2n l.nan * 2 ^ 16 + b2n (old.poison.getLsbD (row i)) * 2 ^ 17) 8 ∧
          ∀ j, j < old.k → mem t (at_ i + 8 + 8 * j) 8 = match l.pairs[j]? with
            | some e => bytesOf e.1.toNat 4 ++ bytesOf e.2.toNat 4
            | none => List.replicate 8 0) ∧
      (m.relslot = false →
        (o = .zero → old.rows.wf = true → old.lists.wf = true → new.owner = some s.cur ∧ new.ranked = old.ranked ∧ ∀ r,
          if m.row0.toNat ≤ r ∧ r < m.row0.toNat + matRows m then
            new.rows.find r = none ∧ new.lists.find r = none ∧ new.poison.getLsbD r = false
          else new.rows.find r = old.rows.find r ∧ new.lists.find r = old.lists.find r ∧ new.poison.getLsbD r = old.poison.getLsbD r) ∧
        (o = .rldef → new = { Slot.zero with
          owner := some s.cur, ranked := true, k := m.kdimM1.toNat + 1, base := m.aux, vcols := m.vcols.toNat, chain := new.chain }) ∧
        (o = .accv → x.granAbsent = 0 → old.poison = 0 → ∀ j, j < accvRegs m → y.getV (BitVec.ofNat 7 (accvVd m + j)) =
          ofLanes fun l => old.word ((accvSeg m + j) / 8) (16 * ((accvSeg m + j) % 8) + l)) ∧
        (o = .rlmrg → old.ranked = true → old.lists.wf = true →
          let merged := fun (ps : Nat → List (W32 × W32)) (nan : Nat → Bool) => t.scratch = s.scratch ∧ ∀ i, i < n →
            let l := old.lists.getD (row i) default
            new.lists.getD (row i) default = ⟨(ps i).foldl (fun w e => (rankOffer old.k w e).1) l.pairs, l.nan || nan i || (ps i).any fun e => isNan32 e.1⟩
          (m.src = 3 → m.slot2 ≠ m.slot →
            let from_ := u.slot m.slot2
            merged (fun i => if from_.ranked then (from_.lists.getD (row i) default).pairs
                else (List.range m.vcols.toNat).map fun j => (from_.elem (row i) j, m.aux + BitVec.ofNat 32 j))
              (fun i => from_.ranked && (from_.lists.getD (row i) default).nan)) ∧
          (m.src = 0 → mine → ∀ (ks : Nat → Nat) (ls : Nat → RList), (∀ i, i < n → 1 ≤ ks i ∧ ks i ≤ 64 ∧ (ls i).pairs.length ≤ ks i ∧
              own i 0 8 ∧ own i 8 (8 * ks i) ∧ clean i (8 + 8 * ks i) ∧ mem s (at_ i) (8 + 8 * ks i) = listBytes (ks i) (ls i) false) →
            merged (fun i => (ls i).pairs) (fun i => (ls i).nan))) ∧
        (o = .thr → old.ranked = true → m.nrowsM1 = 0 → y.csrAt 0x2D#7 =
          ((((old.lists.getD m.row0.toNat default).pairs[old.k - 1]?).map (·.1)).getD 0xFF800000#32).setWidth 64)))

/-- R144, R383, R389, R390, R396: what one tile of MM.MMA or MM.MMAC does to its slot. In a plain slot every element of the named rows is the dot
product of the source row with its column of the plane, plus the old element for MM.MMAC, in the rounding mode captured; the other rows are
kept. In a ranked slot only the named rows' lists can change. The rows that poisoned operands reach are poisoned. -/
def Obligations.MatrixTile : Prop :=
  ∀ (c : Cmd) (m : MatBody) (p : Plane) (t : Slot) (rs : Rows) (chain : Nat) (ovf : Bool), m.row0.toNat + matRows m ≤ 128 →
    let v := (tile c m p t rs chain ovf).1
    let named := fun r => m.row0.toNat ≤ r ∧ r < m.row0.toNat + matRows m
    v.chain = ⟨chain, ovf, c.wid⟩ ∧ v.owner = t.owner ∧ v.ranked = t.ranked ∧
    (t.ranked = false → ∀ i j, i < matRows m → j < 128 → v.elem (m.row0.toNat + i) j =
      (dotFp32 c.frnd (if isMmac c.op then t.elem (m.row0.toNat + i) j else 0)
        (column p ((rs.codes.getD i []).map fun a => (fmtOf m.fmt.toNat).read c.ftop a) j)).1) ∧
    (t.ranked = false → v.lists = t.lists) ∧ (t.ranked = true → v.rows = t.rows) ∧
    (∀ r, ¬ named r → v.rows.find r = t.rows.find r ∧ v.lists.find r = t.lists.find r ∧ v.poison.getLsbD r = t.poison.getLsbD r) ∧
    (∀ i, i < matRows m → v.poison.getLsbD (m.row0.toNat + i) =
      (t.poison.getLsbD (m.row0.toNat + i) || rs.bad.getD i false || (List.range (m.kdimM1.toNat + 1)).any fun j => p.poison.getLsbD j))

/-- R69 to R71, R385, R386, R391: an idle port of a cell takes the head of the one core that has one there that may start, if it is eligible: it leaves
the queue and runs for its busy ticks. A forwarded tile that is due starts at its cell's idle array port, and the next one is due 2 ticks on. A command,
or a tile that has its rows, whose busy ticks have passed leaves its port; but an MM.ACCV one of whose granules has still to be filled stays, and its strand
waits for the fill (R129). -/
def Obligations.MatrixPorts : Prop :=
  (∀ (s : State) (n : Nat) (c : Cmd), s.op.b ≤ 1 → ((s.cell s.op.a).port s.op.b).running = none →
    (s.op.b = 1 → (s.cell s.op.a).tileDue s.tick = false) → ((s.cell s.op.a).port s.op.b).ptr < 8 → cellOf n = s.op.a →
    headCmd s n s.op.b = some c → (∀ m, cellOf m = s.op.a → m ≠ n → headCmd s m s.op.b = none ∧ ∀ d, rawHead s m s.op.b = some d → skips s d = false) →
    c.core = n → skips s c = false → eligible s c = true →
    ∃ t r x y, Sys2Proof.Machine.exec .matrixArbitrate s = .next t ∧ ((t.cell s.op.a).port s.op.b).running = some r ∧ r.cmd = c ∧
      r.endTick = s.tick + busyTicks s c ∧ s.strand n = some x ∧ t.strand n = some y ∧ y.mq = x.mq.erase c) ∧
  (∀ (s : State) (r : Running) (n : Nat) (rest : List (Running × Option Nat)), (s.cell s.op.a).forwards = (r, some n) :: rest →
    (s.cell s.op.a).array.running = none → n ≤ s.tick → s.op.a = cellOf r.cmd.core + r.lag →
    ∃ t q, Sys2Proof.Machine.exec .chainedTileForward s = .next t ∧ (t.cell s.op.a).forwards = rest ∧
      (t.cell s.op.a).array.running = some q ∧ q.cmd = r.cmd ∧ q.endTick = s.tick + r.busy ∧ t.strands = s.strands ∧
      ∀ e ∈ (t.cell (s.op.a + 1)).forwards, e.1.cmd.id = r.cmd.id → e.2 = some (s.tick + 2)) ∧
  ∀ (s : State) (r : Running), ((s.cell s.op.a).port s.op.b).running = some r → r.endTick ≤ s.tick →
    (if r.lag = 0 then (∀ l ∈ s.landings, l.cmd ≠ some r.cmd.id) ∧ matHeld s r.cmd = false ∧ sourceFirst s r = true else r.feed.isSome = true) →
    (r.lag ≠ 0 ∨ s.accvFill r.cmd = none → ∃ t, Sys2Proof.Machine.exec .matrixCommandComplete s = .next t ∧ ((t.cell s.op.a).port s.op.b).running = none) ∧
    ∀ x, r.lag = 0 → s.strand r.cmd.core = some x → r.cmd.op = .accv → r.cmd.waited = true → x.accvAbsent (decMat r.cmd.word) = true → x.wait ≠ some .lazy →
      ∃ t y, Sys2Proof.Machine.exec .matrixCommandComplete s = .next t ∧ ((t.cell s.op.a).port s.op.b).running = some r ∧
        t.strand r.cmd.core = some y ∧ y.wait = some .lazy

/-! ### Copy streamers -/

/-- R403 to R406, R231, R242, R244: the copy commands between ranges of the own scratchpad in the raw view, at a streamer with room: CP.COPY copies
its bytes, read before any is written; CP.FILL repeats its 8-byte pattern; CP.GATH gathers rows into one range and CP.SCAT scatters them; CP.MCAST
writes each of its receivers at the offset plus that receiver's MCBASE; CP.PEER sends its bytes on its entry's port. Nothing else of memory changes. With
a spool as its destination, or one of every receiver, a command fills the next slots of that spool with its bytes (R239). -/
def Obligations.CopyCommands : Prop :=
  ∀ (s : State) (x : Strand) (so dO : Nat), s.strand s.cur = some x → x.phase = .live → x.lineAbsent = [] → s.coreIn x.id.part s.cur = true →
    s.scratch.wf = true → (∀ k ∈ s.copies, k.cmd.id ≠ s.cmdCtr) → (∀ l ∈ s.landings, l.cmd ≠ some s.cmdCtr) →
    let own := fun (a off len : Nat) => locOf s.cur a = .scratch s.cur off ∧ (placeOf s.cur a).view = 0 ∧ x.selv ≤ off ∧ off + len ≤ x.spanEnd
    let bytes := fun (t : State) (n off len : Nat) => t.scratch.readList (scratchAt n off) len
    let clean := fun (off len : Nat) => (s.scratchGot s.cur off len).poison = none ∧
      narrowRead s ⟨x.id.part, x.id.vd, 0⟩ (.scratch s.cur off) len (some x.ftop) = false
    let room := fun (i : Instr) (o : CmdOp) => let c := s.capture s.cur x o ((encodeCommand i).getD 0)
      s.streaming (s.copySlice c none) < 4 ∧ startable s c = true
    (∀ b : CopyBody, b.dkind = 0 → b.len ≠ 0 → own b.dst.toNat dO b.len.toNat →
      (own b.src.toNat so b.len.toNat → clean so b.len.toNat → room (.cpCopy b) .copy →
        ∃ t, Sys2Proof.Machine.exec (.cpCopy b) s = .next t ∧ bytes t s.cur dO b.len.toNat = bytes s s.cur so b.len.toNat ∧
          OnlyScratch s t s.cur dO b.len.toNat) ∧
      (room (.cpFill b) .fill → ∃ t, Sys2Proof.Machine.exec (.cpFill b) s = .next t ∧
        bytes t s.cur dO b.len.toNat = (List.range b.len.toNat).map (fun j => b.src.extractLsb' (8 * (j % 8)) 8) ∧
        OnlyScratch s t s.cur dO b.len.toNat)) ∧
    (∀ b : StrideBody, b.dkind = 0 →
      let rows := b.rowsM1.toNat + 1
      let n := b.rlenM1.toNat + 1
      let p := b.pitch.toNat
      ((∀ r, r < rows → own (b.src.toNat + r * p) (so + r * p) n ∧ clean (so + r * p) n) → own b.dst.toNat dO (rows * n) →
        room (.cpGath b) .gath → ∃ t, Sys2Proof.Machine.exec (.cpGath b) s = .next t ∧
          (∀ r, r < rows → bytes t s.cur (dO + r * n) n = bytes s s.cur (so + r * p) n) ∧ OnlyScratch s t s.cur dO (rows * n)) ∧
      (n ≤ p → own b.src.toNat so (rows * n) → clean so (rows * n) → (∀ r, r < rows → own (b.dst.toNat + r * p) (dO + r * p) n) →
        room (.cpScat b) .scat → ∃ t, Sys2Proof.Machine.exec (.cpScat b) s = .next t ∧
          (∀ r, r < rows → bytes t s.cur (dO + r * p) n = bytes s s.cur (so + r * n) n) ∧ OnlyScratch s t s.cur dO (rows * p))) ∧
    (∀ b : McastBody, b.dkind = 0 → b.len ≠ 0 → own b.src.toNat so b.len.toNat → clean so b.len.toNat → room (.cpMcast b) .mcast →
      let at_ := fun w : Strand => b.off.toNat + (w.csrAt 0x2A#7).toNat
      let lands := fun r w => s.coreIn x.id.part r = true ∧ s.strand r = some w ∧ w.id.part = x.id.part ∧ w.id.vd = x.id.vd ∧ w.phase ≠ .placed ∧
        w.lineAbsent = [] ∧ w.selv ≤ at_ w ∧ at_ w + b.len.toNat ≤ w.spanEnd
      ∃ t, Sys2Proof.Machine.exec (.cpMcast b) s = .next t ∧
        (∀ r w, r ∈ mcastCores b → lands r w → mcastCores b = [r] ∨ (∀ n y, s.strand n = some y → y.spanEnd ≤ 2 ^ 18) → bytes t r (at_ w) b.len.toNat = bytes s s.cur so b.len.toNat) ∧
        ((∀ r ∈ mcastCores b, ∃ w, lands r w) → t.hbm = s.hbm ∧ t.host = s.host ∧ t.chip = s.chip ∧ ∀ k,
          (∀ r ∈ mcastCores b, ∀ w, s.strand r = some w → k < scratchAt r (at_ w) ∨ scratchAt r (at_ w) + b.len.toNat ≤ k) →
          t.scratch.read k = s.scratch.read k)) ∧
    (∀ h len : Nat,
      let spoolOk := fun (n : Nat) => ∃ w, s.strand n = some w ∧ w.id.part = x.id.part ∧ w.id.vd = x.id.vd ∧ w.phase ≠ .placed ∧ w.lineAbsent = [] ∧
        ∃ hh : h < 16, let sp := w.spools[h]
          sp.defined = true ∧ 0 < sp.slotSize ∧ sp.slotsM1 < 256 ∧ 0 < len ∧ len % sp.bytes = 0 ∧ len / sp.bytes ≤ sp.free ∧
          sp.prod + len / sp.bytes ≤ sp.count ∧ w.selv ≤ sp.base + sp.prod * sp.bytes ∧ sp.base + sp.count * sp.bytes ≤ 2 ^ 18 ∧
          sp.recs + 32 * sp.count ≤ 2 ^ 18 ∧ (sp.recs + 32 * sp.count ≤ sp.base ∨ sp.base + sp.count * sp.bytes ≤ sp.recs) ∧
          (∀ l ∈ s.landings, l.spool ≠ ⟨x.id.part, x.id.vd, n, h⟩) ∧ ∀ d ∈ s.discards, d.spool ≠ ⟨x.id.part, x.id.vd, n, h⟩
      let filled := fun (t : State) (n : Nat) (bs : List Byte) => ∀ w, s.strand n = some w → ∀ hh : h < 16, let sp := w.spools[h]
        ∃ z, t.strand n = some z ∧ let q := z.spools[h]
          q.prod = (sp.prod + len / sp.bytes) % sp.count ∧ q.fill = sp.fill + len / sp.bytes ∧ q.free = sp.free - len / sp.bytes ∧ q.cons = sp.cons ∧
          q.resv = sp.resv ∧ bytes t n (sp.base + sp.prod * sp.bytes) len = bs
      (∀ b : CopyBody, b.dkind = 1 → b.dst.toNat / 2 ^ 11 % 16 = h → b.len.toNat = len →
        let n := b.dst.toNat % 2 ^ 11
        spoolOk n →
          (own b.src.toNat so len → clean so len → room (.cpCopy b) .copy →
            ∃ t, Sys2Proof.Machine.exec (.cpCopy b) s = .next t ∧ filled t n (bytes s s.cur so len)) ∧
          (room (.cpFill b) .fill → ∃ t, Sys2Proof.Machine.exec (.cpFill b) s = .next t ∧
            filled t n ((List.range len).map fun j => b.src.extractLsb' (8 * (j % 8)) 8))) ∧
      (∀ b : StrideBody, b.dkind = 1 → b.dst.toNat / 2 ^ 11 % 16 = h → (b.rowsM1.toNat + 1) * (b.rlenM1.toNat + 1) = len →
        (∀ r, r < b.rowsM1.toNat + 1 → own (b.src.toNat + r * b.pitch.toNat) (so + r * b.pitch.toNat) (b.rlenM1.toNat + 1) ∧
          clean (so + r * b.pitch.toNat) (b.rlenM1.toNat + 1)) → spoolOk (b.dst.toNat % 2 ^ 11) → room (.cpGath b) .gath →
        ∃ t, Sys2Proof.Machine.exec (.cpGath b) s = .next t ∧ filled t (b.dst.toNat % 2 ^ 11)
          ((List.range (b.rowsM1.toNat + 1)).flatMap fun r => bytes s s.cur (so + r * b.pitch.toNat) (b.rlenM1.toNat + 1))) ∧
      ∀ b : McastBody, b.dkind = 1 → b.handle.toNat = h → b.len.toNat = len → own b.src.toNat so len → clean so len → room (.cpMcast b) .mcast →
        (∀ r ∈ mcastCores b, spoolOk r) →
        ∃ t, Sys2Proof.Machine.exec (.cpMcast b) s = .next t ∧ ∀ r ∈ mcastCores b, filled t r (bytes s s.cur so len)) ∧
    ∀ b : PeerBody, b.len ≠ 0 → own b.src.toNat so b.len.toNat → clean so b.len.toNat → room (.cpPeer b) .peer →
      let e := s.peerEntry x.id.part b.entry.toNat
      ∃ t, Sys2Proof.Machine.exec (.cpPeer b) s = .next t ∧ t.scratch = s.scratch ∧ t.hbm = s.hbm ∧
        (s.portUp e.port = true → b.off.toNat + b.len.toNat ≤ 4096 * e.pages → e.wrapped = false → b.rk = false → b.len.toNat ≤ 256 →
          t.out = s.out ++ [.frame e.port (e.base + b.off.toNat) (bytes s s.cur so b.len.toNat)])

/-- R231, R235, R236, R239, R242, R245, R97, R143, R402: the stages of a copy command. The first queue entry of a core without a buffer gets one at its
slice; a slice's first granted command starts while fewer than four run; a landing takes its free slots; the source is read once every
landing is granted, part by part in any order (R230), the last part once the busy cycles of R407 are over; slots are counted filled one by one; a receiver's
copy lands and the data is performed at once or in parts in any order; a command that is performed, or that fails, leaves its
buffer with its locks, and a failure is held for its issuer as 0x11. -/
def Obligations.CopySteps : Prop :=
  (∀ (s : State) (c : Cmd) (cs : List Cmd), s.copyQueue s.op.a = c :: cs → (∀ k ∈ s.copies, k.cmd.id ≠ c.id) → s.buffers (s.copySlice c none) < 32 →
    ∃ t k, Sys2Proof.Machine.exec .copyBufferGrant s = .next t ∧ t.copies = s.copies ++ [k] ∧ k.cmd = c ∧ k.queue = none ∧
      k.slice = s.copySlice c none ∧ k.phase = .granted ∧ t.strands = s.strands) ∧
  (∀ (s : State) (k : CopyCmd), s.copies.find? (fun j => j.slice == s.op.a && j.phase == .granted) = some k → s.streaming s.op.a < 4 →
    copyStartable s k = true → k.cmd.spools = [] → ∃ t j, Sys2Proof.Machine.exec .copyStart s = .next t ∧ t.copyOf k.cmd.id = some j ∧
      j.cmd = k.cmd ∧ j.phase = .started ∧ j.endTick = s.tick + streamerTicks k.cmd.copyCycles ∧ (k.queue = none → ∀ c ∈ t.orphans, c.id ≠ k.cmd.id)) ∧
  (∀ (s : State) (l : Landing) (y : Strand) (hh : l.spool.handle < 16), s.landings[s.op.a]? = some l → s.strand l.spool.core = some y →
    y.id.part = l.spool.part → y.id.vd = l.spool.vd → y.phase ≠ .placed →
    let sp := y.spools[l.spool.handle]
    sp.defined = true →
    (l.cmd.isSome = true → l.granted = false → s.grantable l = true →
      ∃ t z, Sys2Proof.Machine.exec .spoolReservationGrant s = .next t ∧ t.landings[s.op.a]? = some { l with granted := true } ∧
        t.strand l.spool.core = some z ∧ z.spools[l.spool.handle] = { sp with free := sp.free - l.slots, resv := sp.resv + l.slots }) ∧
    (l.cmd.isSome = true → l.ready = true → l.counted < l.slots → s.headLanding l.spool = some l → (∀ d ∈ s.discards, d.spool ≠ l.spool) →
      (∀ m ∈ s.landings, m.spool = l.spool → m.cmd.isSome = true) →
      ∃ t z, Sys2Proof.Machine.exec .spoolSlotCounted s = .next t ∧ t.strand l.spool.core = some z ∧
        let q := z.spools[l.spool.handle]
        q.prod = (sp.prod + 1) % (sp.slotsM1 + 1) ∧ q.fill = sp.fill + 1 ∧ q.resv = sp.resv - 1 ∧ q.free = sp.free ∧ q.cons = sp.cons)) ∧
  (∀ (s : State) (k : CopyCmd), s.copies[s.op.a]? = some k →
    (k.phase = .started → k.fail = none → (∀ l ∈ s.landings, isOf k.cmd.id l = false) → peerFits s k.cmd = true →
      let rest := fun n => readPieces k.cmd.who k (cutPieces k.cmd.sources k.data.length n) k.data.length s
      let placed := fun bs bad => (k.overlaid k.data.length bs bad).1
      (k.cmd.op = .fill → k.endTick ≤ s.tick → ∃ t j, Sys2Proof.Machine.exec .copySourceDone s = .next t ∧ t.copyOf k.cmd.id = some j ∧ j.phase = .sourceDone ∧
        j.data = fillBytes (decCopy k.cmd.word).src k.cmd.copyLen) ∧
      (k.cmd.op ≠ .fill → s.op.c = 0 → k.endTick ≤ s.tick → ∀ bs bad s1, rest k.cmd.copyLen = .ok (bs, bad, s1) → s1.copies = s.copies →
        (k.cmd.op = .peer → s1.portUp (s1.peerEntry k.cmd.part (decPeer k.cmd.word).entry.toNat).port = true) →
        ∃ t j, Sys2Proof.Machine.exec .copySourceDone s = .next t ∧ t.copyOf k.cmd.id = some j ∧ j.phase = .sourceDone ∧ j.data = k.data ++ placed bs bad) ∧
      (k.cmd.op ≠ .fill → 0 < s.op.c → s.op.d ≤ k.data.length → k.data.length + s.op.c < k.cmd.copyLen → ∀ bs bad s1, rest s.op.c = .ok (bs, bad, s1) →
        s1.copies = s.copies →
        ∃ t j, Sys2Proof.Machine.exec .copySourceDone s = .next t ∧ t.copyOf k.cmd.id = some j ∧ j.phase = .started ∧ j.data = k.data ++ placed bs bad) ∧
      (k.cmd.op ≠ .fill → 0 < s.op.c → k.data.length < s.op.d → s.op.d + s.op.c ≤ k.cmd.copyLen → ∀ bs bad s1,
        readPieces k.cmd.who k (cutPieces k.cmd.sources s.op.d s.op.c) 0 s = .ok (bs, bad, s1) → s1.copies = s.copies →
        ∃ t j, Sys2Proof.Machine.exec .copySourceDone s = .next t ∧ t.copyOf k.cmd.id = some j ∧ j = { k with ahead := k.ahead ++ [(s.op.d, bs, bad)] })) ∧
    (∀ r, k.phase = .sourceDone → k.cmd.toSpool = false → k.cmd.receivers.find? (·.1 == s.op.b) = some r → r.1 ∉ k.landed →
      (s.coreIn k.cmd.part r.1 = false → ∃ t j, Sys2Proof.Machine.exec .multicastLanding s = .next t ∧ t.copyOf k.cmd.id = some j ∧
        j.landed = k.landed ++ [r.1] ∧ j.fail = some 5) ∧
      (s.coreIn k.cmd.part r.1 = true → s.op.c = 0 → ∀ s1,
        writeRanges k.cmd.who k (k.cmd.receiverLoc r) (k.left (r.1 + 1) 0 k.data.length) s = .ok s1 → s1.copies = s.copies →
        ∃ t j, Sys2Proof.Machine.exec .multicastLanding s = .next t ∧ t.copyOf k.cmd.id = some j ∧ j.landed = k.landed ++ [r.1] ∧
          j.fail = k.fail ∧ t.scratch = s1.scratch) ∧
      (s.coreIn k.cmd.part r.1 = true → 0 < s.op.c → s.op.d + s.op.c ≤ k.data.length → ∀ s1,
        writeRanges k.cmd.who k (k.cmd.receiverLoc r) (k.left (r.1 + 1) s.op.d s.op.c) s = .ok s1 → s1.copies = s.copies →
        ∃ t j, Sys2Proof.Machine.exec .multicastLanding s = .next t ∧ t.copyOf k.cmd.id = some j ∧ j = k.wrote (r.1 + 1) s.op.d s.op.c ∧
          t.scratch = s1.scratch)) ∧
    (copyReady s k = true → s.op.c = 0 → ∃ t, Sys2Proof.Machine.exec .copyDataVisible s = .next t ∧ t.copyOf k.cmd.id = none ∧
      (k.queue = none → ∀ j ∈ (t.cluster (clusterOf k.cmd.core)).locks, j.cmd ≠ k.cmd.id)) ∧
    (copyReady s k = true → 0 < s.op.c → (k.wrote 0 s.op.d s.op.c).left 0 0 k.windowBytes ≠ [] → ∀ s1, writePart s k s.op.d s.op.c = (s1, none) →
      s1.copies = s.copies →
      ∃ t j, Sys2Proof.Machine.exec .copyDataVisible s = .next t ∧ t.copyOf k.cmd.id = some j ∧ j = k.wrote 0 s.op.d s.op.c ∧
        t.hbm = s1.hbm ∧ t.scratch = s1.scratch) ∧
    (∀ cls, k.phase ≠ .granted → k.cmd.op ≠ .mcast → k.fail = some cls → ∃ t, Sys2Proof.Machine.exec .engineFailure s = .next t ∧
      t.copyOf k.cmd.id = none ∧ ∀ y, k.queue = none → s.strand k.cmd.core = some y → k.cmd.byStrand y = true →
        y.async = [] → y.active = false → k.cmd.spools = [] →
        ∃ z, t.strand k.cmd.core = some z ∧ z.async = [(0x11, BitVec.ofNat 64 k.cmd.knot, cls)]))

/-! ### Messages and waits -/

/-- R85, R86, R139, R140, R178, R191, R194, R214, R216, R336, R337: what a message in flight does when none of its core goes before it. A signal adds to
its knot, and every wait that it meets gets a snapshot; a wait that is met gets one at once, one that is not is held. A load's bytes
go back in a reply, a store's land and are acknowledged; a trace request raises its ring's count and sends its record on (log 55). Written bytes of a cache
are held by a migration; else they are merged into the last-level line, or written to their frame where the line is not there and may not be kept (R197,
R198), and acknowledged; or, where they miss and have no translation, dropped with 0x0A held for their core. An acknowledgement and a reply reach their
strand. -/
def Obligations.Messages : Prop :=
  ∀ (s : State) (k : Nat), s.op.a = k → s.scratch.wf = true →
    let rest := s.flight.eraseIdx k
    let first := fun m => s.flight[k]? = some m ∧ s.inOrder k m = true
    let home := fun (c p v : Nat) => ∃ w, s.strand c = some w ∧ w.id.part = p ∧ w.id.vd = v ∧ w.phase ≠ .placed ∧ w.lineAbsent = []
    let knotAt := fun (u : State) (c off : Nat) => u.scratch.readList (scratchAt c off) 32
    let snap := fun (c : Nat) (n : Knot) (w : WaitReq) => Msg.snapshot ⟨w.core, n.chain, n.maxOrigin, n.lastOrigin, n.overflow, .core c⟩
    (∀ x c off, first (.signal x) → x.knot = .scratch c off → home c x.part x.vd →
      let old := knotOf (knotAt s c off)
      let new : Knot := ⟨old.count + x.delta, max old.chain x.chain, old.overflow || x.ovf, old.error || x.err, old.poisoned || x.psn,
        if old.chain < x.chain then x.origin else old.maxOrigin, x.origin, BitVec.ofNat 64 s.tick⟩
      let met := fun w : WaitReq => w.knot == x.knot && w.part == x.part && s.holderOf x.part w.vd x.knot == x.vd && w.target.sle new.count &&
        (w.deadline.map fun d => decide (s.tick ≤ d)).getD true
      ∃ t, Sys2Proof.Machine.exec .signalApply s = .next t ∧ knotAt t c off = new.bytes ∧ OnlyScratch s t c off 32 ∧
        t.waits = s.waits.filter (fun w => !met w) ∧
        t.flight = rest ++ (s.waits.filter met).map (snap c new) ++ (if x.ack then [.ack x.src] else [])) ∧
    (∀ q c off, first (.wait q) → q.kind ≤ 1 → q.knot = .scratch c off → home c q.part q.vd →
      let n := knotOf (knotAt s c off)
      (q.kind = 1 ∨ q.target.sle n.count = true → ∃ t, Sys2Proof.Machine.exec .waitHomeArrival s = .next t ∧
        t.flight = rest ++ [snap c n q] ∧ t.waits = s.waits ∧ t.scratch = s.scratch) ∧
      (q.kind = 0 → q.target.sle n.count = false → ∃ t, Sys2Proof.Machine.exec .waitHomeArrival s = .next t ∧
        t.flight = rest ∧ t.waits = s.waits ++ [q] ∧ t.scratch = s.scratch)) ∧
    (∀ r c off, first (.access r) → r.loc = .scratch c off → home c r.part r.vd →
      (r.op = .load → r.blocking = true → ∃ t v, Sys2Proof.Machine.exec .homeAccessArrival s = .next t ∧ t.flight = rest ++ [.reply r.core v] ∧
        v.value = numOf (s.scratch.readList (scratchAt c off) r.size) ∧ v.fault = none ∧ t.scratch = s.scratch) ∧
      (∀ tag, r.op = .storec tag → r.blocking = false → ∃ t, Sys2Proof.Machine.exec .homeAccessArrival s = .next t ∧
        t.flight = rest ++ [.ack r.core] ∧ t.scratch.readList (scratchAt c off) r.size = bytesOf r.value r.size ∧ OnlyScratch s t c off r.size) ∧
      (∀ ents, r.op = .trace ents → r.blocking = false →
        let i := numOf (s.scratch.readList (scratchAt c off) 8)
        ∃ t q, Sys2Proof.Machine.exec .homeAccessArrival s = .next t ∧ t.flight = rest ++ [.access q] ∧ q.op = .storec false ∧ q.core = r.core ∧
          q.loc = .scratch c (off + (64 + 32 * (i % ents))) ∧ q.value = r.value + i % 2 ^ 32 * 2 ^ 96 + s.tick % 2 ^ 64 * 2 ^ 192 ∧
          t.scratch.readList (scratchAt c off) 8 = bytesOf ((i + 1) % 2 ^ 64) 8 ∧ OnlyScratch s t c off 8)) ∧
    (∀ n p v l u d, first (.writeback n p v l u d) →
      (s.migrating (l.va * 256) = false → s.llcLine l.va = none → ∀ f, walk s (l.va * 256) true = .fault f → ∀ x, s.strand n = some x → x.async = [] → x.active = false →
        ∃ t y, Sys2Proof.Machine.exec .storeWritebackFault s = .next t ∧ t.flight = rest ++ [.ack n] ∧ t.hbm = s.hbm ∧ t.llc = s.llc ∧
          t.strand n = some y ∧ y.async = [(0x0A, BitVec.ofNat 64 l.lowest, transDetail f true)]) ∧
      (s.migrating (l.va * 256) = true → ∃ t, Sys2Proof.Machine.exec .llcWritebackArrival s = .next t ∧
        t.flight = rest ∧ t.heldWrites = s.heldWrites ++ [⟨n, p, v, l, u⟩] ∧ t.hbm = s.hbm ∧ t.llc = s.llc) ∧
      (s.migrating (l.va * 256) = false →
        let ends := fun (holds : State → Nat → Prop) => ∃ t, Sys2Proof.Machine.exec .llcWritebackArrival s = .next t ∧ .ack n ∈ t.flight ∧
          t.heldWrites = s.heldWrites ∧ ∀ o, o < 256 → l.mask.getLsbD o = true → holds t o
        let kept := fun (t : State) (o : Nat) => ∃ k, t.llcLine l.va = some k ∧ k.line.byte o = l.byte o ∧ k.line.mask.getLsbD o = true
        ((s.llcLine l.va).isSome = true → ends kept) ∧
        (s.llcLine l.va = none → ∀ e g, walk s (l.va * 256) true = .leaf e g →
          let at_ := fun o => s.frameOf (l.va * 256) e g + o
          (s.llcAllows (l.va * 256) e u = true → ends kept) ∧
          (s.llcAllows (l.va * 256) e u = false → s.hbm.wf = true → s.host.wf = true →
            (tState e = 2 → ends fun t o => t.host.read (at_ o) = l.byte o) ∧
            (tState e ≠ 2 → (∀ o, o < 256 → (s.dirtyBit (l.va * 256) g).1 ≠ at_ o) → ends fun t o => t.hbm.read (at_ o) = l.byte o))))) ∧
    (∀ n x, s.flight[k]? = some (.ack n) → s.strand n = some x → ∃ t, Sys2Proof.Machine.exec .writeAcknowledged s = .next t ∧
      t.flight = rest ∧ t.strand n = some { x with unacked := x.unacked - 1 } ∧ ∀ m, m ≠ n → t.strand m = s.strand m) ∧
    (∀ n r x, s.flight[k]? = some (.reply n r) → s.strand n = some x → x.wait = some (.data 1) → x.reply = none →
      ∃ t y, Sys2Proof.Machine.exec .loadDataArrival s = .next t ∧ t.flight = rest ∧ t.strand n = some y ∧ y.reply = some r ∧
        y.wait = some (.data 0) ∧ y.pc = x.pc ∧ y.g = x.g)

/-- R84, R86, R87, R102, R104, R105, R336 to R338: how a wait ends. A snapshot is joined and a WAIT answers 0; past its deadline it answers 1
without a join; a WAITM answers with what woke it. A release that is due is held for its participant, in place of an older one; one that waits for it
joins it and goes on, in a gang with the others. DOMLOAD reports 2 for a number of 64 or more and for an invalid record, 0 for a record that it loads with
a generation of phase 0: of these the 2 for 64 or more, the order of the checks and the phase are the model's choice (log 27). -/
def Obligations.Wakes : Prop :=
  (∀ (s : State) (p : Snapshot) (x : Strand), s.flight[s.op.a]? = some (.snapshot p) → s.strand p.core = some x →
    let joined := fun (t : State) (y : Strand) => t.flight = s.flight.eraseIdx s.op.a ∧ t.strand p.core = some y ∧ y.stash = [1] ∧
      y.wait = some .own ∧ y.pc = x.pc ∧ min p.chain (2 ^ 48 - 1) ≤ y.chain ∧ y.csrAt 0x12#7 = p.last.setWidth 64
    (∀ d dl sc since, x.wait = some (.knot d dl sc since) → ∃ t y, Sys2Proof.Machine.exec .snapshotJoin s = .next t ∧ joined t y ∧
      y.getG d = word64 0 ∧ (∀ r, r ≠ d → y.getG r = x.getG r) ∧ (sc ≠ 0 → ∀ l ∈ y.cache, l.mask ≠ 0)) ∧
    (x.wait = some .kjoin → ∃ t y, Sys2Proof.Machine.exec .snapshotJoin s = .next t ∧ joined t y ∧ y.g = x.g)) ∧
  (∀ (s : State) (x : Strand), s.strand s.op.a = some x →
    let answered := fun (t : State) (d : BitVec 6) (n : Nat) => ∃ y, t.strand s.op.a = some y ∧ y.stash = [1] ∧ y.wait = some .own ∧ y.pc = x.pc ∧
      y.getG d = (if d = 0 then ⟨0, false⟩ else word64 (BitVec.ofNat 64 n)) ∧ ∀ r, r ≠ d → y.getG r = x.getG r
    (∀ d n sc since, x.wait = some (.knot d (some n) sc since) → n < s.tick → s.waits.any (·.core == s.op.a) = true →
      ∃ t, Sys2Proof.Machine.exec .waitTimeout s = .next t ∧ answered t d 1 ∧ t.waits = s.waits.filter (·.core != s.op.a)) ∧
    (∀ d dl m, x.wait = some (.monitor d dl) → s.monitors.find? (fun m => m.1.core == s.op.a) = some m →
      (s.op.b = 0 ∧ m.2 = true) ∨ s.op.b = 1 ∨ (s.op.b = 2 ∧ ∃ n, dl = some n ∧ n ≤ s.tick) ∨ (s.op.b = 3 ∧ s.stopping x = true) →
      ∃ t, Sys2Proof.Machine.exec .waitmWake s = .next t ∧ answered t d s.op.b ∧ t.monitors = s.monitors.filter (·.1.core != s.op.a))) ∧
  (∀ (s : State) (r : Release) (x : Strand), s.releases[s.op.a]? = some r → r.tick ≤ s.tick → s.isAway r = false → s.strand r.core = some x → x.id.same r.id = true →
    ∃ t y, Sys2Proof.Machine.exec .barrierRelease s = .next t ∧ t.releases = s.releases.eraseIdx s.op.a ∧ t.strand r.core = some y ∧
      y.g = x.g ∧ y.v = x.v ∧
      let kept := x.held.filter (·.bar != r.held.bar)
      if x.wait = some (.barrier r.held.bar r.held.gen) then
        if x.gang.tacked then y.wait = some (.data 0) ∧ y.held = kept ++ [r.held] ∧ y.pc = x.pc
        else y.wait = none ∧ y.held = (kept ++ [r.held]).filter (· != r.held) ∧ y.pc = (x.pc + 4) % 2 ^ 64 ∧
          min r.held.chain (2 ^ 48 - 1) ≤ y.chain ∧ y.csrAt 0x12#7 = r.held.last.setWidth 64 ∧ ∀ l ∈ y.cache, l.mask ≠ 0
      else if x.held.any (fun k => k.bar == r.held.bar && decide (r.held.gen < k.gen)) then y = x
      else y = { x with held := kept ++ [r.held] }) ∧
  ∀ (s : State) (p : Partition), s.linkUp = true → s.part s.op.a = some p →
    (64 ≤ s.op.b → ∃ t q, Sys2Proof.Machine.exec .domload s = .next t ∧ t.part s.op.a = some q ∧ q.page.domStat = 2 ∧ q.domains = p.domains) ∧
    (s.op.b < 64 → ∀ g s1 p1, homeRead s ⟨s.op.a, 0, 0⟩ (.glob (p.page.domBase.toNat + 1024 * s.op.b)) 544 = .ok g s1 → s1.part s.op.a = some p1 →
      (g.poison.isSome = true ∨ domainRecord p.node g.bytes = none → ∃ t q, Sys2Proof.Machine.exec .domload s = .next t ∧
        t.part s.op.a = some q ∧ q.page.domStat = 2 ∧ q.domains = p1.domains) ∧
      (∀ r, g.poison = none → domainRecord p.node g.bytes = some r → (∀ d, p.domains.find s.op.b = some d → d.bar.arrived = []) →
        ∃ t q, Sys2Proof.Machine.exec .domload s = .next t ∧ t.part s.op.a = some q ∧ q.page.domStat = 0 ∧
          ∃ g, g % 2 = 0 ∧ q.domains = p1.domains.put s.op.b { r with bar := { r.bar with gen := g } }))


/-! ### The outside -/

/-- R10, R11, R13 to R16, R37, R38, R183, R191, R243: what the outside does to the device. A request on the host's link without IDE fails as
unsupported; a read outside every opened range gets poisoned data, one inside memory, at 3 GiB for each slice. Ports lose and regain lanes and links; what they
receive takes effect only inside their inbound entries, and is logged otherwise. A pull is answered with its data, then a signal.
Pulses latch the time. Detected errors are counted or logged. The supervisor lends ways and writes registers. (The frames of port traffic are log 14's
choice; that a restore pull is served only from an inbound entry, and unit records unsealed, is log 51's.) -/
def Obligations.OutsideAccess : Prop :=
  ∀ s : State,
    let w := s.op.w
    let i := s.op.a
    let logged := fun t : State => t.logCount = s.logCount + 1 ∧ t.flight = s.flight ∧ t.hbm = s.hbm ∧ t.scratch = s.scratch ∧ t.llc = s.llc
    (∀ h, s.op.b = h → h % 64 = 0 → h < 0x6000000000 →
      let pa := h / 0xC0000000 * 2 ^ 32 + h % 0xC0000000
      (s.linkUp = true → s.openedBy h = none → ∃ d, Sys2Proof.Machine.exec .hostWindowRead s = .next (s.emit (.hostRead d true))) ∧
      (∀ p, s.linkUp = true → s.openedBy h = some p → (∀ v, s.physLine p pa = some v → s.llcLine (v.1 / 256) = none) →
        Sys2Proof.Machine.exec .hostWindowRead s = .next (s.emit (.hostRead (s.hbm.readList pa 64) (s.hbm.poisoned pa)))) ∧
      (∀ p, s.linkUp = true → s.openedBy h = some p → s.physLine p pa = none → s.hbm.wf = true → s.op.data.length = 64 →
        ∃ t, Sys2Proof.Machine.exec .hostWindowWrite s = .next t ∧ t.hbm.readList pa 64 = s.op.data ∧
          ∀ k, k < pa ∨ pa + 64 ≤ k → t.hbm.read k = s.hbm.read k) ∧
      (s.linkUp = true → s.openedBy h = none → s.op.data.length = 64 → ∃ t, Sys2Proof.Machine.exec .hostWindowWrite s = .next t ∧ logged t)) ∧
    (s.linkUp = false → s.op.data.length = 64 → s.op.b % 64 = 0 → ∀ j ∈ [Instr.hostWindowRead, .hostWindowWrite, .lendWrite, .registerWrite, .domload,
      .tableBaseWrite, .bitmapBaseWrite, .doorbellWrite, .reqDivWrite, .powerCapWrite], Sys2Proof.Machine.exec j s = .next (s.emit .unsupported)) ∧
    (i < 12 → s.portUp i = false → ∃ t, Sys2Proof.Machine.exec .portUp s = .next t ∧ t.portUp i = true) ∧
    (s.portUp i = true →
      (∃ t, Sys2Proof.Machine.exec .portLaneFailure s = .next t ∧ t.portUp i = true ∧ (∀ h : i < 12, t.ports[i].lanes = 2) ∧ logged t) ∧
      (∃ t, Sys2Proof.Machine.exec .portDown s = .next t ∧ t.portUp i = false ∧ logged t ∧
        ∀ k ∈ t.copies, s.usesPort k.cmd i = true → k.phase ≠ .granted → k.fail.isSome = true) ∧
      (bitsN w 3 0 = 1 → bit1 w 4 = false → bitsN w 95 64 = 0 → bitsN w 223 211 = 0 →
        (∀ p e, s.inboundAt i (bitsN w 63 5 * 32) 32 = some (p, e) → Sys2Proof.Machine.exec .peerSignalRecord s =
          .next (s.send (.signal ⟨noCore, false, p, 0, locOf noCore (bitsN w 63 5 * 32), w.extractLsb' 96 64, bitsN w 207 160, w.extractLsb' 224 32,
            bit1 w 208, bit1 w 209, bit1 w 210⟩))) ∧
        (s.inboundAt i (bitsN w 63 5 * 32) 32 = none → ∃ t, Sys2Proof.Machine.exec .peerSignalRecord s = .next t ∧ logged t)) ∧
      (bitsN w 3 0 = 0 ∨ 3 < bitsN w 3 0 → ∃ t, Sys2Proof.Machine.exec .peerSignalRecord s = .next t ∧ logged t) ∧
      (bitsN w 11 4 = 0 →
        let knot := bitsN w 255 192
        let src := bitsN w 63 12 * 4096
        let units := bitsN w 191 160
        let answer := fun err => if knot = 0 then [] else [Output.frame i 0x00FFFFFFF000 (signalRecord knot 1 0 0 false err false)]
        let frames := fun (n a : Nat) (bs : List Byte) => (List.range n).map fun j => Output.frame i (a + 256 * j) ((bs.drop (256 * j)).take 256)
        (bitsN w 3 0 = 2 → bitsN w 159 128 = 0 → units ≠ 0 → bitsN w 127 64 % 4096 = 0 →
          (∀ bs e s1, pullRead s i src (4096 * units) = some (bs, false, e, s1) → bs.length = 4096 * units → e.wrapped = false →
            ∃ t, Sys2Proof.Machine.exec .peerPullRecord s = .next t ∧ t.out = s1.out ++ frames (16 * units) (bitsN w 127 64) bs ++ answer false) ∧
          (pullRead s i src (4096 * units) = none → ∃ t, Sys2Proof.Machine.exec .peerPullRecord s = .next t ∧ logged t ∧ t.out = s.out ++ answer true)) ∧
        (bitsN w 3 0 = 2 → bitsN w 159 128 ≠ 0 ∨ units = 0 ∨ bitsN w 127 64 % 4096 ≠ 0 →
          ∃ t, Sys2Proof.Machine.exec .peerPullRecord s = .next t ∧ logged t ∧ t.out = s.out ++ answer true) ∧
        (bitsN w 3 0 = 3 → bitsN w 127 64 = 0 →
          (∀ bs b e s1, units = 0 → pullRead s i src 4096 = some (bs, b, e, s1) → bs.length = 4096 → e.wrapped = false →
            ∃ t, Sys2Proof.Machine.exec .peerRestorePull s = .next t ∧ t.out = s1.out ++ frames 16 0x00FFFFFE0000 bs ++ answer false) ∧
          (∀ bs b e s1, units = 1 → pullRead s i (src + 0x1000 + 0x1010 * bitsN w 159 128) 0x1010 = some (bs, b, e, s1) → bs.length = 0x1010 →
            ∃ t, Sys2Proof.Machine.exec .peerRestorePull s = .next t ∧ t.out = s1.out ++ frames 17 0x00FFFFFE0000 bs ++ answer false))) ∧
      (0 < s.op.data.length → s.op.data.length ≤ 256 →
        (∀ p e s1, s.op.flag = false → s.inboundAt i s.op.b s.op.data.length = some (p, e) →
          engineWrite s ⟨p, 0, 0⟩ (locOf noCore s.op.b) s.op.data [] = .ok s1 → Sys2Proof.Machine.exec .peerInboundWrite s = .next s1) ∧
        (s.op.flag = true ∨ s.inboundAt i s.op.b s.op.data.length = none →
          ∃ t, Sys2Proof.Machine.exec .peerInboundWrite s = .next t ∧ logged t))) ∧
    (Sys2Proof.Machine.exec .ppsLatch s = .next { s with time := { s.time with
      ptpSec := BitVec.ofNat 48 s.op.a, ptpNs := BitVec.ofNat 30 s.op.b, syncTick := s.tick, latchSeq := s.time.latchSeq + 1
      valid := true, holdover := false } }) ∧
    (s.time.valid = true → s.time.holdover = false → s.time.syncTick + 4750000000 ≤ s.tick →
      Sys2Proof.Machine.exec .holdoverTimeout s = .next { s with time := { s.time with holdover := true } }) ∧
    (1 ≤ i → i ≤ 4 →
      (s.op.b = 1 → ∃ t k, Sys2Proof.Machine.exec .hardwareError s = .next t ∧ t.corrected.find k = some (s.corrected.getD k 0 + 1) ∧
        (∀ j, j ≠ k → t.corrected.find j = s.corrected.find j) ∧ t.logCount = s.logCount ∧ t.hbm = s.hbm) ∧
      (s.op.b = 2 ∨ s.op.b = 3 → ∃ t, Sys2Proof.Machine.exec .hardwareError s = .next t ∧ t.logCount = s.logCount + 1 ∧
        t.corrected = s.corrected ∧ t.hbm.bytes = s.hbm.bytes ∧ (∀ a, (0, a) ∈ s.op.pairs → t.hbm.poisoned a = true) ∧
        ((∀ e ∈ s.op.pairs, e.1 < 4) → t.strands = s.strands) ∧
        ∀ n a x k, (4 + n, a) ∈ s.op.pairs → s.strand n = some x → k ∈ x.cache → k.va = a / 256 →
          ∃ y j, t.strand n = some y ∧ j ∈ y.cache ∧ j.va = k.va ∧ j.poison.getLsbD (a / 64 % 4) = true)) ∧
    (∀ x, s.linkUp = true → s.part i = some x →
      let status := fun k => ∃ t q, Sys2Proof.Machine.exec .lendWrite s = .next t ∧ t.part i = some q ∧ q.page.lendStat = k ∧
        q.page.lend = if k = 0 then BitVec.ofNat 32 (s.op.b % 8) else x.page.lend
      (4 < s.op.b % 8 → status 2) ∧
      (s.op.b % 8 ≤ 4 → s.resident i = true ∨ s.engineBusy i = true → status 1) ∧
      (s.op.b % 8 ≤ 4 → s.resident i = false → s.engineBusy i = false → status 0)) ∧
    (s.linkUp = true → i = 0 → s.op.b = 0x9040 → Sys2Proof.Machine.exec .registerWrite s = .next { s with time := { s.time with stepPeriod := s.op.d % 2 ^ 32 } }) ∧
    (s.linkUp = true → i = 0 → s.op.b = 0xB080 → Sys2Proof.Machine.exec .registerWrite s = .next { s with power := { s.power with thermLimit := s.op.d % 2 ^ 8 } }) ∧
    ∀ x, s.linkUp = true → s.part s.op.c = some x → i = 1 →
      (s.op.b = 0x100 → Sys2Proof.Machine.exec .registerWrite s =
        .next (s.setPart s.op.c { x with page := { x.page with domBase := BitVec.ofNat 64 s.op.d } })) ∧
      (s.op.b = 0x110 → Sys2Proof.Machine.exec .registerWrite s =
        .next (s.setPart s.op.c { x with page := { x.page with grace := s.op.d % 2 ^ 32 } })) ∧
      (s.op.b = 0x1008 → s.op.d % 2 = 1 → Sys2Proof.Machine.exec .registerWrite s =
        .next (if x.page.mbBusy then s.setPart s.op.c x else s.setPart s.op.c { x with page := { x.page with
          mbBusy := true, mbDone := false, mbSent := (List.range (min x.page.reqLen.toNat 1792)).map x.page.mbReq.read } })) ∧
      ∀ j : Fin 16, s.op.b = 0xC00 + 32 * j → s.peerInUse s.op.c j = false → Sys2Proof.Machine.exec .registerWrite s =
        .next (s.setPart s.op.c { x with peers := x.peers.set j w })


/-- R11, R21, R23 to R26: booting measures the stages in order, and the first image that fails leaves the device in recovery. The responder
answers each request that has been passed to it (R38) and comes in order, a wrong order with ERROR 0x04 and other requests with ERROR 0x07; in recovery it answers
GET_VERSION, GET_CAPABILITIES and GET_MEASUREMENTS alone. Partition measurements are seen on the partition's own mailbox only. A FINISH on
the host's path establishes IDE. A tenant's checkpoint key is installed and removed inside a session of its mailbox. (Error codes, the order
and the bytes of measurements are the model's: log 15.) -/
def Obligations.Attestation : Prop :=
  ∀ s : State,
    (s.boot = .rom → ∃ t, Sys2Proof.Machine.exec .powerOnReset s = .next t ∧ t.measure[0] = Config.shake256 Config.romFuse ∧
      ((∀ k, 1 ≤ k → k ≤ 4 → imagePasses k = true) → t.boot = .running ∧ t.failStage = 0 ∧
        ∀ k : Fin 6, 1 ≤ k.val → k.val ≤ 4 → t.measure[k] = Config.shake256 (Config.firmware k)) ∧
      ∀ k, 1 ≤ k → k ≤ 4 → imagePasses k = false → (∀ j, 1 ≤ j → j < k → imagePasses j = true) → t.boot = .recovery ∧ t.failStage = k ∧
        ∀ j : Fin 6, 1 ≤ j.val → j.val ≤ 4 → t.measure[j] = if j.val < k then Config.shake256 (Config.firmware j) else 0) ∧
    ∀ x, s.spdmOf = some x → s.spdmPassed = true →
      let tells := fun (i : Instr) (code : Nat) (d : List Byte) (y : Spdm) => ∃ t, Sys2Proof.Machine.exec i s = .next t ∧
        t.out = s.out ++ [.spdm (spdmPath s) code d] ∧ t.spdmOf = some y ∧ t.measure = s.measure
      let answers := fun (i : Instr) (code : Nat) (y : Spdm) => ∃ d, tells i code d y
      let error := fun (i : Instr) (n : Nat) => tells i 0x7F [BitVec.ofNat 8 n] x
      let reads := fun (n : Nat) (m : BitVec 512) => s.op.b = n → tells .getMeasurements 0x60 (BitVec.ofNat 8 n :: bytesOf m.toNat 64) x
      (s.boot ≠ .rom →
        answers .getVersion 0x04 { Spdm.reset with version := true } ∧
        (x.version = true → answers .getCapabilities 0x61 { x with caps := true }) ∧
        (x.version = false → error .getCapabilities 4) ∧
        (x.algs = true ∨ (x.version = true ∧ s.boot = .recovery) → ∀ k : Fin 6, reads k s.measure[k])) ∧
      (s.boot = .running →
        (x.caps = true → answers .negotiateAlgorithms 0x63 { x with algs := true }) ∧
        (x.algs = true →
          tells .getDigests 0x01 (bytesOf (Config.shake256 Config.certChain).toNat 64) x ∧
          (s.op.b = 0 → tells .getCertificate 0x02 ((Config.certChain.drop s.op.c).take s.op.d) x ∧
            tells .challenge 0x03 (Config.identitySign s.op.data) x) ∧
          (s.op.b ≠ 0 → error .getCertificate 1 ∧ error .challenge 1) ∧
          (s.op.a = 0 → 0x10 ≤ s.op.b → s.op.b ≤ 0x12 → tells .getMeasurements 0x60 [] x) ∧
          (∀ q, s.op.a ≠ 0 → s.part (s.op.a - 1) = some q → reads 0x10 q.m10 ∧ reads 0x11 q.m11 ∧ reads 0x12 q.m12) ∧
          answers .keyExchange 0x64 { x with exchanged := true }) ∧
        (x.exchanged = true → answers .finish 0x65 { x with session := true } ∧
          (s.op.a = 0 → ∃ t, Sys2Proof.Machine.exec .finish s = .next t ∧ t.ide = true)) ∧
        (x.session = true → answers .keyUpdate 0x69 { x with updates := x.updates + 1 } ∧ answers .heartbeat 0x68 x ∧
          answers .endSession 0x6C { x with session := false, exchanged := false }) ∧
        (x.session = false → error .keyUpdate 4 ∧ error .heartbeat 4 ∧ error .endSession 4) ∧
        error .spdmUnsupported 7 ∧
        (s.op.a = 0 ∨ x.session = false → error .tckInstall 7 ∧ error .tckRemove 7) ∧
        (∀ q, s.op.a ≠ 0 → s.part (s.op.a - 1) = some q → x.session = true →
          let vendor := fun (i : Instr) (status : Nat) (k : Option (W64 × W256)) => tells i 0x7E (bytesOf status 4) x ∧
            ∃ t r, Sys2Proof.Machine.exec i s = .next t ∧ t.part (s.op.a - 1) = some r ∧ r.tck = k
          (s.op.c = 0 → 0 < s.op.b → s.op.b < 2 ^ 64 → vendor .tckInstall 0 (some (BitVec.ofNat 64 s.op.b, s.op.w))) ∧
          (s.op.c ≠ 0 ∨ s.op.b = 0 ∨ 2 ^ 64 ≤ s.op.b → vendor .tckInstall 2 q.tck) ∧
          (∀ id k, q.tck = some (id, k) → s.op.c = 0 → s.op.b = id.toNat → vendor .tckRemove 0 none) ∧
          (q.tck = none → vendor .tckRemove 2 none))) ∧
      (s.boot = .recovery → ∀ i ∈ [Instr.negotiateAlgorithms, .getDigests, .getCertificate, .challenge, .keyExchange, .finish, .keyUpdate, .heartbeat,
        .endSession, .tckInstall, .tckRemove, .spdmUnsupported], Sys2Proof.Machine.exec i s = .next s)


/-! ### Management -/

/-- R10, R19, R21, R22, R29 to R32, R41, R43, R50: the management commands. SPLIT and MERGE change the buddy tree of free nodes; CREATE makes a
partition with fresh keys over scrubbed slices, DESTROY stops one and its completion forgets it; RESERVE admits at most 4,096 of
utilisation; SQUOTA admits at most 63 slots; QON makes a queue idle and QOFF turns it off once its packets have completed; OPEN opens a range;
CHECKPOINT and RESTORE need a partition without contexts, send or ask for records, and complete as their digest says. A status is
written at the command's address. (UNRESERVE without a reservation, SPLIT and MERGE of node 0 or beyond the tree, and CREATE's lowest free number are log
39's choice; no port up, the manifest on the lowest port and the key epoch after a failed restore are log 40's; image layouts log 13's.) -/
def Obligations.ManagementCommands : Prop :=
  ∀ (s : State) (k : Pkt), Sys2Proof.Safety.MemoriesOk s → Sys2Proof.Safety.TablesOk s →
    let w := k.w
    let p := kNum w 32 1
    let v := kNum w 33 1
    let n := kNum w 32 2
    let st := kStatus w
    let ends := fun (i : Instr) (c : Nat) (P : State → Prop) => Answers i s st c P
    let same := fun t : State => t.parts = s.parts ∧ t.splits = s.splits
    (Commanded s 1 k →
      (n = 0 ∨ 128 ≤ n ∨ s.unsplitOver n = none → ends .split 2 same) ∧
      (0 < n → n < 128 → ∀ m, s.unsplitOver n = some m →
        ((s.holder m).isSome = true → ends .split 1 same) ∧
        (s.holder m = none → m ≠ n → ends .split 2 same) ∧
        (s.holder m = none → m = n → ends .split 0 fun t => t.splits = insertNat n s.splits ∧ t.parts = s.parts))) ∧
    (Commanded s 2 k →
      (n = 0 ∨ 128 ≤ n ∨ n ∉ s.splits → ends .merge 2 same) ∧
      (0 < n → n < 128 → n ∈ s.splits →
        (s.nodeIdle (2 * n) = true → s.nodeIdle (2 * n + 1) = true → ends .merge 0 fun t => t.splits = removeNat n s.splits ∧ t.parts = s.parts) ∧
        (s.nodeIdle (2 * n) = false ∨ s.nodeIdle (2 * n + 1) = false → ends .merge 1 same))) ∧
    (Commanded s 3 k →
      let base := kNum w 34 1
      let log2 := kNum w 35 1
      let vds := kNum w 36 1
      (n = 0 ∨ 256 ≤ n ∨ 7 < log2 ∨ base % 2 ^ log2 ≠ 0 ∨ 128 < base + 2 ^ log2 ∨ vds = 0 ∨ 64 < vds → ends .create 2 same) ∧
      ∀ q, createFault s n base log2 vds = none → q < 64 → s.part q = none → (∀ j, j < q → s.part j ≠ none) →
        ends .create 0 fun t => t.epoch = s.epoch + 1 ∧ (∀ j, j ≠ q → t.part j = s.part j) ∧
          (∃ x, t.part q = some x ∧ x.node = n ∧ x.sliceBase = base ∧ x.sliceLog2 = log2 ∧ x.state = 1 ∧ x.vdsAsked = vds ∧ x.keyEpoch = s.epoch + 1 ∧
            x.generation = 0 ∧ x.quota = 0 ∧ x.vds = [] ∧ x.page = Page.reset ∧ x.roots = rootCaps q n base log2) ∧
          ∀ j o, j < 2 ^ log2 → o < 0xBF800000 → (base + j) * 2 ^ 32 + o < st ∨ st + 4 ≤ (base + j) * 2 ^ 32 + o →
            t.hbm.read ((base + j) * 2 ^ 32 + o) = 0) ∧
    (Commanded s 4 k → (s.holder n = none → ends .destroy 2 same) ∧
      ∀ q x, s.holder n = some q → s.part q = some x → ∃ t y, Sys2Proof.Machine.exec .destroy s = .next t ∧ t.part q = some y ∧ y.state = 3 ∧ y.quota = 0 ∧
        y.saved = [] ∧ y.destroyStatus = some st) ∧
    (∀ x a, s.part s.op.a = some x → x.destroyStatus = some a → s.engineBusy s.op.a = false → Answers .destroyComplete s a 0 fun t =>
      t.part s.op.a = none ∧ (∀ e ∈ t.strands, e.2.id.part ≠ s.op.a) ∧ (∀ l ∈ t.launches, l.part ≠ s.op.a) ∧ (∀ l ∈ t.llc, l.part ≠ s.op.a)) ∧
    (Commanded s 5 k →
      let budget := kNum w 40 5
      let period := kNum w 48 5
      (s.part p = none → ends .reserve 2 same) ∧
      ∀ x, s.part p = some x →
        let sum := x.utilSum - (x.vd v).util + (4096 * budget + period - 1) / period
        (x.vdsAsked ≤ v ∨ budget = 0 ∨ period < budget → ends .reserve 2 same) ∧
        (v < x.vdsAsked → 0 < budget → budget ≤ period →
          (4096 < sum → ends .reserve 4 same) ∧
          (sum ≤ 4096 → ends .reserve 0 fun t => ∃ y, t.part p = some y ∧ y.utilSum = sum ∧
            if (x.vd v).rsv = none then (y.vd v).rsv = some (budget, period)
            else (y.vd v).rsv = (x.vd v).rsv ∧ (y.vd v).pendRsv = some (budget, period)))) ∧
    (Commanded s 6 k → ∀ x, s.part p = some x →
      (x.vdsAsked ≤ v ∨ (x.vd v).rsv = none → ends .unreserve 2 same) ∧
      (v < x.vdsAsked → (x.vd v).rsv ≠ none → ends .unreserve 0 fun t => ∃ y, t.part p = some y ∧ y.utilSum = x.utilSum - (x.vd v).util ∧
        (y.vd v).rsv = none ∧ (y.vd v).pendRsv = none)) ∧
    (Commanded s 7 k → ∀ x, s.part p = some x →
      let total := ((s.parts.map fun e => if e.1 = p then v else e.2.quota)).foldl (· + ·) 0
      (63 < total → ends .squota 2 same) ∧
      (total ≤ 63 → v < (s.slotsOf p).length → ends .squota 1 same) ∧
      (total ≤ 63 → (s.slotsOf p).length ≤ v → ends .squota 0 fun t => ∃ y, t.part p = some y ∧ y.quota = v)) ∧
    (Commanded s 8 k →
      let r := s.qRecord n
      (kNum w 34 1 = 1 → n < 4096 →
        (n = 0 ∨ qState r ≠ 0 → ends .qon 1 same) ∧
        (n ≠ 0 → qState r = 0 →
          (s.part (qPart r) = none ∨ qLog2 r < 4 ∨ 16 < qLog2 r ∨ qZero r = false → ends .qon 2 same) ∧
          (s.part (qPart r) ≠ none → 4 ≤ qLog2 r → qLog2 r ≤ 16 → qZero r = true → 2 ^ qLog2 r < qPending r → ends .qon 0 fun _ => True) ∧
          (s.part (qPart r) ≠ none → 4 ≤ qLog2 r → qLog2 r ≤ 16 → qZero r = true → qPending r ≤ 2 ^ qLog2 r →
            st + 4 ≤ s.tableBase.toNat + 64 * n ∨ s.tableBase.toNat + 64 * n + 64 ≤ st →
            ends .qon 0 fun t => t.qTable n = setField r 35 34 1))) ∧
      (kNum w 34 1 = 0 →
        (n = 0 → ends .qoff 2 same) ∧
        (n ≠ 0 → n < 4096 → qState r = 0 → ends .qoff 0 same) ∧
        (n ≠ 0 → n < 4096 → qState r ≠ 0 → ∃ t e, Sys2Proof.Machine.exec .qoff s = .next t ∧ t.slotOfQueue n = some e ∧
          e.2.stopping = true ∧ e.2.off = some st))) ∧
    (∀ j x a, s.slotOfQueue s.op.a = some (j, x) → x.off = some a → x.started = [] →
      ∃ z : State, Sys2Proof.Machine.exec .qoffComplete s = .next (z.mapNext (qPart (s.qRecord s.op.a))) ∧ z.hbm.readList a 4 = bytesOf 0 4) ∧
    (Commanded s 10 k → ∀ x, s.part p = some x →
      let base := kNum w 40 4
      let len := kNum w 44 4
      (len ≠ 0 → 1536 * 2 ^ x.sliceLog2 < base + len ∨ 1532 < base % 1536 + len → ends .openRange 2 same) ∧
      (len = 0 ∨ (base + len ≤ 1536 * 2 ^ x.sliceLog2 ∧ base % 1536 + len ≤ 1532) →
        ends .openRange 0 fun t => t.part p = some { x with openBase := base, openLen := len })) ∧
    (Commanded s 9 k → ∀ x, s.part p = some x →
      (s.portsOf (kNum w 34 2) = [] → ends .checkpoint 2 same) ∧
      (s.portsOf (kNum w 34 2) ≠ [] → kNum w 34 2 < 4096 →
        (s.resident p = true → ends .checkpoint 5 same) ∧
        (s.resident p = false → ∃ t y c, Sys2Proof.Machine.exec .checkpoint s = .next t ∧ t.part p = some y ∧ y.ckpt = some c ∧
          c.dirtyOnly = decide (v = 1) ∧ c.target = kNum w 40 8 ∧ c.status = st ∧ (v = 0 → c.units = 2 ^ x.sliceLog2 * 784384) ∧ s.out <+: t.out))) ∧
    (∀ x c, s.part s.op.a = some x → x.ckpt = some c → s.portsOf c.ports.toNat ≠ [] → Answers .checkpointComplete s c.status 0 fun t => s.out <+: t.out ∧
      t.part s.op.a = some { x with generation := x.generation + 1, ckpt := none }) ∧
    (Commanded s 11 k → ∀ x, s.part p = some x →
      (s.portsOf (kNum w 34 2) = [] → ends .restore 2 same) ∧
      ∀ port, (s.portsOf (kNum w 34 2)).head? = some port → kNum w 34 2 < 4096 → k.slot = 0 →
        (s.resident p = true ∨ s.engineBusy p = true ∨ s.slotsOf p ≠ [] → ends .restore 5 same) ∧
        (s.resident p = false → s.engineBusy p = false → s.slotsOf p = [] → ∃ t r, Sys2Proof.Machine.exec .restore s = .next t ∧
          t.part p = some { x with rest := some r } ∧ r.src = kNum w 40 8 ∧ r.manifest = none ∧ r.status = st ∧
          t.out = s.out ++ [.frame port 0x00FFFFFFF000 (restorePull (kNum w 40 8) 0 0)])) ∧
    ∀ x r, s.part s.op.a = some x → x.rest = some r →
      (r.manifest = none → s.op.data.length = 4096 → s.op.b ∈ s.portsOf r.ports.toNat →
        (manifestOk x s.op.data = false → Answers .restoreManifestArrival s r.status 2 fun t => t.part s.op.a = some { x with rest := none }) ∧
        (manifestOk x s.op.data = true → numAt s.op.data 40 8 = 0 → ∃ t, Sys2Proof.Machine.exec .restoreManifestArrival s = .next t ∧
          t.part s.op.a = some { x with rest := some { r with manifest := some s.op.data, units := numAt s.op.data 24 8 } } ∧ s.out <+: t.out)) ∧
      (∀ m, r.manifest = some m →
        (r.unwrapOk = true → r.got < r.units → s.op.data.length = 4112 → s.op.b ∈ s.portsOf r.ports.toNat →
          let rel := numAt s.op.data 0 8
          ∃ t y, Sys2Proof.Machine.exec .restoreUnitRecord s = .next t ∧ t.part s.op.a = some { x with rest := some y } ∧ y.got = r.got + 1 ∧
            (rel % 4096 = 0 → rel / 2 ^ 32 < 2 ^ x.sliceLog2 → rel % 2 ^ 32 < 0xBF800000 → ∀ i, i < 16 →
              t.hbm.readList (x.sliceBase * 2 ^ 32 + rel + 256 * i) 256 =
                padTo 256 (Config.xtsDecrypt x.keys (rel + 256 * i) ((s.op.data.drop (16 + 256 * i)).take 256)))) ∧
        (r.unwrapOk = true → r.units ≤ r.got →
          let good := (m.drop 160).take 64 = bytesOf (Config.shake256 (m.take 160 ++ r.digest)).toNat 64
          (good → Answers .restoreComplete s r.status 0 fun t => t.part s.op.a = some { x with rest := none, generation := numAt m 8 8, unread := List.range 64 }) ∧
          (¬ good → Answers .restoreComplete s r.status 6 fun t => ∃ y, t.part s.op.a = some y ∧ y.rest = none ∧ y.generation = x.generation ∧
            y.keyEpoch = s.epoch + 1)))


/-! ### Virtual devices and launches -/

/-- R33, R117, R118, R119, R127, R129, R133: a period start refills the budget less the debit, takes up a pending reservation and moves the deadline on;
a budget that has run out stops the virtual device; a stop request becomes a save at a superstep boundary, or by force after grace_tk; a
save first stops every strand, then writes the images and gives the cores back; a lazy fill brings one line or granule from the image. -/
def Obligations.VirtualDevices : Prop :=
  ∀ (s : State) (q : Partition), Sys2Proof.Safety.MemoriesOk s → Sys2Proof.Safety.TablesOk s → s.part s.op.a = some q →
    let p := s.op.a
    let v := s.op.b
    let d := q.vd v
    let mine := fun (n : Nat) (x : Strand) => s.strand n = some x ∧ x.id.part = p ∧ x.id.vd = v
    let es := s.strandsOf p v
    let saves := fun (i : Instr) (t0 : Nat) (forced : Bool) => ∃ t y, Sys2Proof.Machine.exec i s = .next t ∧ t.part p = some y ∧
      y.vd v = { d with debit := d.debit + (s.tick - t0), stop := some s.tick, saving := true, forced := forced } ∧
      ∀ n x, s.strand n = some x → t.strand n = some (if x.id.part = p ∧ x.id.vd = v then { x with stopReq := true } else x)
    (∀ r, d.rsv = some r → d.deadline ≤ s.tick → ∃ t y, Sys2Proof.Machine.exec .vdPeriodStart s = .next t ∧ t.part p = some y ∧
      let n := d.pendRsv.getD r
      let e := y.vd v
      e.rsv = some n ∧ e.pendRsv = none ∧ e.remaining = n.1 - d.debit ∧ e.debit = d.debit - n.1 ∧ e.deadline = d.deadline + n.2 ∧
      e.usedUj = d.overrunUj ∧ (e.exhausted = true ↔ d.quotaUj ≠ 0 ∧ d.quotaUj ≤ d.overrunUj)) ∧
    (q.vds.wf = true → d.rsv.isSome = true → d.running = true → d.stop = none → d.remaining ≤ s.tick - d.start → ∃ t y,
      Sys2Proof.Machine.exec .vdBudgetExhausted s = .next t ∧ t.part p = some y ∧ (y.vd v).remaining = 0 ∧
      (es ≠ [] → (y.vd v).stop = some s.tick) ∧ (es = [] → d.saving = false → (y.vd v).running = false)) ∧
    (∀ t0, d.stop = some t0 → d.saving = false →
      ((∀ e ∈ es, e.2.atBoundary = true) → s.inMesh p v = false → saves .superstepBoundary t0 false) ∧
      (t0 + q.page.grace ≤ s.tick → saves .vdGraceExpired t0 true)) ∧
    (d.saving = true →
      ((∃ e ∈ es, e.2.phase ≠ .saving) → (∀ e ∈ es, e.2.stoppable = true) → ∃ t, Sys2Proof.Machine.exec .saveComplete s = .next t ∧
        ∀ n x, mine n x → ∃ y, t.strand n = some y ∧ y.phase = .saving ∧ y.stopReq = false) ∧
      ((∀ e ∈ es, e.2.phase = .saving ∧ e.2.unacked = 0 ∧ s.runningOf e.1 = [] ∧ ∀ r ∈ e.2.vRdy, r.2 ≤ s.tick) →
        ∀ s1 ys, saveAll s.tick d.forced es s = some (s1, ys) → ∃ t y, Sys2Proof.Machine.exec .saveComplete s = .next t ∧
          t.part p = some y ∧ (y.vd v).saving = false ∧ (y.vd v).running = false ∧ (y.vd v).stop = none ∧
          ∀ n x, mine n x → t.strand n = none ∧ ∃ z ∈ y.saved, z.core = n ∧ z.vd = v ∧ z.strand.pc = x.pc ∧ z.strand.gen = x.gen + 1)) ∧
    ∀ x, s.strand s.op.a = some x →
      let base := s.imageBase x.id.part x.id.vd s.op.a
      let who : Who := ⟨x.id.part, x.id.vd, 0⟩
      (s.op.flag = false → s.op.b ∈ x.lineAbsent → ∀ g s1, globRead who (runsOf (base + 0x4000 + 256 * s.op.b) 256) s = .ok g s1 → g.bytes.length = 256 →
        ∃ t, Sys2Proof.Machine.exec .lazyFillComplete s = .next t ∧ t.scratch.readList (scratchAt s.op.a (256 * s.op.b)) 256 = g.bytes ∧
          t.strand s.op.a = some { x with lineAbsent := removeNat s.op.b x.lineAbsent }) ∧
      (s.op.flag = true → ∀ i : Fin 16, s.op.b = i → x.granAbsent.getLsbD i = true → ∀ g s1,
        globRead who (runsOf (base + 0x2000 + 512 * i) 512) s = .ok g s1 → ∃ t y, Sys2Proof.Machine.exec .lazyFillComplete s = .next t ∧
          t.strand s.op.a = some y ∧ y.granAbsent.getLsbD i = false ∧ y.g = x.g ∧
          ∀ r : BitVec 7, y.getV r = if r.toNat / 8 = i then BitVec.ofNat 512 (numOf ((g.bytes.drop (64 * (r.toNat % 8))).take 64)) else x.getV r)

/-- R49, R53, R55, R56, R59 to R61, R116: a team is placed in the first cluster of the ring that fits it, next_cluster moves on behind it, and
each of its strands has the state of dispatch; where nothing fits nothing is placed, and the top launch holds after 200,000 tk. An
entry of a built launch that is ready is consumed, one in error ends the consumption. A strand whose code has landed starts, in a large
step at its boundary; code that cannot be read ends the launch with its error flag. A launch all of whose teams have ended completes. (That a register no
rule names, p1 to p7 among them, is zero at dispatch is log 1's choice; the completion chain of a launch of which no team ran is log 51's.) -/
def Obligations.Launches : Prop :=
  ∀ s : State, Sys2Proof.Safety.MemoriesOk s → Sys2Proof.Safety.TablesOk s →
    (∀ (l : Launch) (e : TeamReq) (cs js : List Nat) (n j : Nat),
      let x := dispatchStrand l e cs js n j
      let r := l.recordFor e
      x.phase = .placed ∧ x.pc = rEntry r ∧ x.holding = rGran r ∧ x.baseGran = rGran r ∧ x.chain = e.chain % 2 ^ 48 ∧ x.chlim = bitsN r 623 576 ∧
      x.selv = rSelv r % 2 ^ 19 ∧ x.csrAt 0x07#7 = BitVec.ofNat 64 n ∧ x.csrAt 0x01#7 = BitVec.ofNat 64 j ∧
      x.csrAt 0x21#7 = BitVec.ofNat 64 (4 * bitsN r 497 482) ∧ (∀ k, x.getV k = 0) ∧ (∀ k : BitVec 3, k ≠ 0 → x.getP k = 0) ∧
      x.getG 3 = argCap l.part (rPerm r) (rArg r + e.argOff) (rArgLen r - e.argOff) ∧
      ∀ k : BitVec 6, k ≠ 3 → (rBuilt l.record = false ∨ (k ≠ 4 ∧ k ≠ 5)) → x.getG k = ⟨0, false⟩) ∧
    (∀ q, s.part s.op.a = some q → q.state ≠ 3 → q.free = true → q.saved = [] → q.unread = [] →
      ((∀ l ∈ s.ranked s.op.a, placeLaunch s l = none) → ∃ t, Sys2Proof.Machine.exec .dispatchPass s = .next t ∧ t.strands = s.strands ∧
        t.parts = s.parts ∧ t.clusters = s.clusters) ∧
      ∀ l e c cs js, s.ranked s.op.a = [l] → rBuilt l.record = false → rResident l.record = false → l.head = some e →
        e.stage + 1 = rStages l.record → e.index + 1 = l.teams → l.part = s.op.a →
        (clusterRing q.node q.nextCluster).findSome? (fun c => (fitsIn s l e c).map fun r => (c, r)) = some (c, cs, js) →
        ∃ t, Sys2Proof.Machine.exec .dispatchPass s = .next t ∧
          t.part s.op.a = some { q with nextCluster := nodeFirst q.node + (c + 1 - nodeFirst q.node) % nodeSize q.node } ∧
          (∀ (k : Nat) (h : k < cs.length), t.strand cs[k] = some { dispatchStrand l e cs js cs[k] k with plb := (s.coreCfg cs[k]).plb }) ∧ (∀ n, n ∉ cs → t.strand n = s.strand n)) ∧
    (∀ l b, s.launchOf s.op.a s.op.b = some l →
      (l.blocked = some b → l.inList = true → l.holds = false → b + 200000 ≤ s.tick →
        Sys2Proof.Machine.exec .launchHoldTimeout s = .next (s.setLaunch { l with holds := true })) ∧
      (rBuilt l.record = true → l.inList = true → l.closed = false → l.rest = [] →
        (packetRead s noCore l.part l.vd (rRq l.record + 64 + 32 * (l.consumed % 2 ^ rRqLog l.record)) 32 = none →
          ∃ t k, Sys2Proof.Machine.exec .builtEntryConsume s = .next t ∧ k ∈ t.launches ∧ k.id = l.id ∧ k.closed = true ∧ k.err = true ∧ k.inList = false) ∧
        ∀ bs s1 s2, packetRead s noCore l.part l.vd (rRq l.record + 64 + 32 * (l.consumed % 2 ^ rRqLog l.record)) 32 = some (bs, s1) →
          let e : W256 := BitVec.ofNat 256 (numOf bs)
          bit1 e 31 = true → bitsN e 15 0 < rTmpls l.record → bitsN e 71 64 ≤ 32 → bitsN e 71 64 = popcount32 (bitsN e 63 32) →
          bitsN e 223 192 ≤ rArgLen (l.tmpls.getD (bitsN e 15 0) 0) → bitsN e 79 72 = 0 → bitsN e 30 17 = 0 → consumeEntry s1 l e = .ok () s2 →
          ∃ k, Sys2Proof.Machine.exec .builtEntryConsume s = .next (s2.setLaunch k) ∧ k.id = l.id ∧ k.part = l.part ∧ k.consumed = l.consumed + 1 ∧
            k.closed = bit1 e 16 ∧ k.rest = if bitsN e 71 64 = 0 then [] else
              (List.range (rStages (l.tmpls.getD (bitsN e 15 0) 0))).map fun st =>
                ⟨l.consumed, st, bitsN e 15 0, e, bitsN e 223 192, max l.chain0 (bitsN e 127 80)⟩) ∧
      (l.stepHeld = true → l.blocked = some b → b ≤ s.tick → ∃ t, Sys2Proof.Machine.exec .largeStepStart s = .next t ∧
        ∀ n x, s.strand n = some x → t.strand n = some (if x.id.launch = l.id ∧ x.id.part = l.part ∧ x.phase = .placed ∧ x.stash = [3] then
          { x with phase := .live, stash := [], now := s.tick } else x)) ∧
      (∀ j y e, l.inList = false → l.err = false → (∀ k ∈ s.strands, ¬ (k.2.id.part = l.part ∧ k.2.id.launch = l.id)) → s.commandsOf l.part l.id = false →
        (∀ q, s.part l.part = some q → q.destroyStatus = none ∧ ∀ k ∈ q.saved, k.strand.id.launch ≠ l.id) →
        s.slotOfQueue l.queue = some (j, y) → y.started.find? (fun k => k.ref == 2 * l.id + 1) = some e →
        y.started.find? (fun k => k.index == e.index) = some e → e.knot ≠ 0 → ∃ t, Sys2Proof.Machine.exec .launchComplete s = .next t ∧
          (∀ k ∈ t.launches, ¬ (k.part = l.part ∧ k.id = l.id)) ∧
          t.flight = s.flight ++ [.signal ⟨noCore, false, qPart y.record, qVd y.record, packetLoc l.queue e.knot.toNat, e.delta,
            if l.anyRan then l.finalChain else l.chain0, queueOrigin l.queue, l.finalOvf, false, l.psn⟩])) ∧
    ∀ x l r, s.strand s.op.a = some x → s.recordOf x = some (l, r) → x.phase = .placed → x.stash = [] →
      (∀ bs s1, x.gang.tacked = false → x.id.team = [s.op.a] → readCode s x r = some (bs, s1) → s1.strands = s.strands →
        ∃ t y, t.strand s.op.a = some y ∧ Sys2Proof.Machine.exec .codeCopyLanded s = .next t ∧
          (s1.scratch.wf = true → t.scratch.readList (scratchAt s.op.a 0) bs.length = bs) ∧ y.pc = x.pc ∧ y.g = x.g ∧
          (l.stepHeld = false → y.phase = .live ∧ y.now = s.tick) ∧
          (l.stepHeld = true → s.tick < l.blocked.getD (s.boundary s.tick) → y.phase = .placed ∧ y.stash = [3])) ∧
      (readCode s x r = none → ∃ t, Sys2Proof.Machine.exec .codeCopyFailed s = .next t ∧
        (∀ n y, n ∈ x.id.team → s.strand n = some y → y.teamOf x = true → t.strand n = none) ∧
        ∀ k ∈ t.launches, k.part = l.part → k.id = l.id → k.err = true ∧ k.inList = false)


/-! ### Host queues and packets -/

/-- R39, R41, R42, R44 to R46: the table and bitmap bases change only while every queue but queue 0 is off. A notify moves the write index of an idle or
mapped queue: more pending packets than the ring holds are error 5, an idle queue is mapped into a free slot of its partition or
else becomes pending. A queue that is off or in error takes no note. A queue idle for 20,000 tk leaves its slot. -/
def Obligations.QueueNotifies : Prop :=
  ∀ s : State, Sys2Proof.Safety.MemoriesOk s → Sys2Proof.Safety.TablesOk s →
    (s.linkUp = true → s.queuesOff = true →
      (∃ t, Sys2Proof.Machine.exec .tableBaseWrite s = .next t ∧ t.tableBase = BitVec.ofNat 64 s.op.b ∧ t.qTable 0 = s.qRecord 0 ∧ t.bitmapBase = s.bitmapBase) ∧
      Sys2Proof.Machine.exec .bitmapBaseWrite s = .next { s with bitmapBase := BitVec.ofNat 64 s.op.b }) ∧
    (s.linkUp = true → s.queuesOff = false → Sys2Proof.Machine.exec .tableBaseWrite s = .next s ∧ Sys2Proof.Machine.exec .bitmapBaseWrite s = .next s) ∧
    (s.op.flag = true → s.linkUp = false ∨ (∀ q, q < 4096 → qDev (s.qRecord q) = true ∨ qState (s.qRecord q) = 0 ∨ qState (s.qRecord q) = 3 ∨
        qNotify (s.qRecord q) / 64 < s.op.b / 64 ∨ (s.op.b + s.op.data.length - 1) / 64 < qNotify (s.qRecord q) / 64) → Sys2Proof.Machine.exec .notifyWrite s = .next { s with host := s.host.writeList s.op.b s.op.data }) ∧
    (s.op.flag = false →
      let r := s.qRecord s.op.a
      (qState r = 0 ∨ qState r = 3 → Sys2Proof.Machine.exec .notifyWrite s = .next s) ∧
      (s.linkUp = false → qDev r = false → Sys2Proof.Machine.exec .notifyWrite s = .next s) ∧
      (qState r = 1 ∨ qState r = 2 → s.linkUp = true → qDev r = false → (∀ i, i < 8 → s.host.poisoned (qNotify r + i) = false) →
        Sys2Proof.Machine.exec .notifyWrite s = .next (s.notify s.op.a (numOf (s.host.readList (qNotify r) 4)))) ∧
      (qState r = 1 ∨ qState r = 2 → qDev r = true → ∀ bs s1, s.queueBytes s.op.a (qNotify r) 8 = some (bs, s1) →
        Sys2Proof.Machine.exec .notifyWrite s = .next (s1.notify s.op.a (numOf (bs.take 4))))) ∧
    (s.linkUp = true → s.op.a % 4096 = 0 → s.op.a / 4096 < 64 →
     let q := s.op.b / 2 ^ 52 % 4096
     let w := s.op.b % 2 ^ 32
     let r := s.qRecord q
     let pending := (w + 2 ^ 32 - qRead r) % 2 ^ 32
     (qState r = 0 ∨ qState r = 3 ∨ w = qWrite r → Sys2Proof.Machine.exec .doorbellWrite s = .next s) ∧
     (qState r = 1 ∨ qState r = 2 → w ≠ qWrite r →
       (2 ^ qLog2 r < pending →
         s.bitmapBase.toNat + q / 8 < s.tableBase.toNat + 64 * q ∨ s.tableBase.toNat + 64 * q + 64 ≤ s.bitmapBase.toNat + q / 8 → ∃ t, Sys2Proof.Machine.exec .doorbellWrite s = .next t ∧ qState (t.qRecord q) = 3 ∧ bitsN (t.qRecord q) 71 64 = 5 ∧
         qRead (t.qRecord q) = qRead r) ∧
       (pending ≤ 2 ^ qLog2 r →
         (∀ e, qState r = 2 → s.slotOfQueue q = some e → ∃ t, Sys2Proof.Machine.exec .doorbellWrite s = .next t ∧ qWrite (t.qRecord q) = w ∧
           qState (t.qRecord q) = 2 ∧ qRead (t.qRecord q) = qRead r) ∧
         (∀ x, qState r = 1 → s.slotOfQueue q = none → s.part (qPart r) = some x →
           (s.queueSlotsFree (qPart r) ≠ [] → ∃ t j y, Sys2Proof.Machine.exec .doorbellWrite s = .next t ∧ j ∈ s.queueSlotsFree (qPart r) ∧
             t.slotOfQueue q = some (j, y) ∧ qWrite y.record = w ∧ qState y.record = 2) ∧
           (s.queueSlotsFree (qPart r) = [] → s.victim (qPart r) = none → ∃ t,
             Sys2Proof.Machine.exec .doorbellWrite s = .next t ∧ t.pendingBit q = true ∧ t.slotOfQueue q = none))))) ∧
    ∀ x n, s.qslots.find s.op.a = some x → x.idle = some n → 1 ≤ s.op.a → s.op.a < 64 → qState x.record = 2 → x.stopping = false → n + 20000 ≤ s.tick →
      ∃ z : State, Sys2Proof.Machine.exec .slotIdleTimeout s = .next (z.mapNext (qPart x.record)) ∧ z.qslots.find s.op.a = none ∧
        qState (z.qTable x.queue) = 1

/-- R47 to R49, R51: the packets of a queue. The next packet of a queue starts once no packet before it holds it; a malformed one puts the queue into the
error state with its err_status, read_index at it. A signal packet completes at once with the queue's chain; a launch packet hands its
launch to the dispatcher; a copy packet becomes a copy command; a wait packet holds until its knot has the count, or until its timeout, which is error 6;
a fence packet sends back every written line of its partition. (That status 3 comes before 2 is log 51's choice, status 3 of a launch packet on queue 0 log
36's; what a wait and a fence hold and when they end are log 38's readings.) -/
def Obligations.Packets : Prop :=
  ∀ (s : State) (q : Nat), s.op.a = q →
    let signal := fun (p v : Nat) (knot delta : W64) (chain : Nat) (ovf err : Bool) => if knot = 0 then [] else
      [Msg.signal ⟨noCore, false, p, v, packetLoc q knot.toNat, delta, chain, queueOrigin q, ovf, err, false⟩]
    (∀ k s1, s.nextPacket q = some (.ok (k, s1)) → Sys2Proof.Safety.MemoriesOk s1 → Sys2Proof.Safety.TablesOk s1 → s1.slotOfQueue q = some (k.slot, k.x) →
      (∀ e ∈ k.x.started, e.index ≠ qRead k.qrec) → k.qrec = s1.qRecord q →
      let w := k.w
      let p := qPart k.qrec
      let next := (qRead k.qrec + 1) % 2 ^ 32
      let starts := fun (i : Instr) (P : State → Started → Prop) => ∃ t y e, Sys2Proof.Machine.exec i s = .next t ∧ t.slotOfQueue q = some (k.slot, y) ∧
        y.started = k.x.started ++ [e] ∧ e.index = qRead k.qrec ∧ e.knot = kKnot w ∧ e.delta = kDelta w ∧ P t e
      let completes := fun (i : Instr) (err : Bool) => ∃ t y, Sys2Proof.Machine.exec i s = .next t ∧ t.slotOfQueue q = some (k.slot, y) ∧
        y.started = k.x.started ∧ qRead y.record = next ∧ t.flight = s1.flight ++ signal p (qVd k.qrec) (kKnot w) (kDelta w) (qChain k.qrec) false err
      let fails := fun (i : Instr) (e : Nat) => ∃ t, Sys2Proof.Machine.exec i s = .next t ∧ qState (t.qRecord q) = 3 ∧ bitsN (t.qRecord q) 71 64 = e ∧
        qRead (t.qRecord q) = qRead k.qrec ∧ t.flight = s1.flight
      (∀ e, headerFault s1 k = some e → ∀ i ∈ [Instr.launchPacket, .copyPacket, .signalPacket, .waitPacket, .fencePacket], fails i e) ∧
      (headerFault s1 k = none → (kOrder w = true → k.x.started = []) →
        (kType w = 3 → (bitsN w 511 192 = 0 → completes .signalPacket false) ∧ (bitsN w 511 192 ≠ 0 → fails .signalPacket 2)) ∧
        (kType w = 1 →
          (∀ e, readLaunch s1 k = .error e → fails .launchPacket e) ∧
          ∀ l s2, readLaunch s1 k = .ok (l, s2) → s2.qslots = s1.qslots → s2.tableBase = s1.tableBase →
            l.part = p ∧ l.vd = qVd k.qrec ∧ l.queue = q ∧ l.knot = kKnot w ∧ l.chain0 = qChain k.qrec ∧ recordOk l.record l.vd = true ∧
            (rResident l.record = false ∨ trialPlace (s2.emptied l.part) l ≠ none → ∃ t, Sys2Proof.Machine.exec .launchPacket s = .next t ∧
              t.launches = s2.launches ++ [l] ∧ t.launchCtr = s2.launchCtr + 1) ∧
            (rResident l.record = true → trialPlace (s2.emptied l.part) l = none → ∃ t, Sys2Proof.Machine.exec .launchPacket s = .next t ∧
              t.launches = s2.launches ∧ t.flight = s2.flight ++ signal p (qVd k.qrec) (kKnot w) (kDelta w) (qChain k.qrec) false true)) ∧
        (kType w = 2 →
          (bitsN w 511 360 ≠ 0 ∨ kNum w 40 4 = 0 ∨ (kNum w 44 1 ≠ 1 ∧ kNum w 44 1 ≠ 2) → fails .copyPacket 2) ∧
          (bitsN w 511 360 = 0 → kNum w 40 4 ≠ 0 → kNum w 44 1 = 1 ∨ kNum w 44 1 = 2 →
            (packetRange s1 q p (kNum w 24 8) 1 = false ∨ packetRange s1 q p (kNum w 32 8) 1 = false → fails .copyPacket 3) ∧
            (packetRange s1 q p (kNum w 24 8) 1 = true → packetRange s1 q p (kNum w 32 8) 1 = true → (∀ j, s1.buffers j < 32) →
              starts .copyPacket fun t _ => ∃ c, t.copies = s1.copies ++ [c] ∧ c.queue = some q ∧ c.phase = .granted ∧ c.cmd.op = .copy ∧
                (decCopy c.cmd.word).src.toNat = kNum w 24 8 ∧ (decCopy c.cmd.word).dst.toNat = kNum w 32 8 ∧
                (decCopy c.cmd.word).len.toNat = kNum w 40 4 ∧ c.chain = qChain k.qrec))) ∧
        (kType w = 4 →
          (bitsN w 511 384 ≠ 0 → fails .waitPacket 2) ∧
          (bitsN w 511 384 = 0 → kNum w 24 8 % 32 ≠ 0 ∨ packetRange s1 q p (kNum w 24 8) 32 = false → fails .waitPacket 3) ∧
          (bitsN w 511 384 = 0 → kNum w 24 8 % 32 = 0 → packetRange s1 q p (kNum w 24 8) 32 = true → starts .waitPacket fun t e =>
            qRead (t.qRecord q) = qRead k.qrec ∧ t.flight = s1.flight ∧ e.hold = some (.wait (packetLoc q (kNum w 24 8)) (BitVec.ofNat 64 (kNum w 32 8))
              (if kNum w 40 8 = 0 then none else some (s1.tick + kNum w 40 8))))) ∧
        (kType w = 5 → (bitsN w 511 192 ≠ 0 → fails .fencePacket 2) ∧
          (bitsN w 511 192 = 0 → k.x.started = [] → starts .fencePacket fun t e => e.hold = some .fence ∧
            (q ≠ 0 → ∀ n x, s1.strand n = some x → x.id.part = p → ∃ y, t.strand n = some y ∧ (∀ l ∈ y.cache, l.mask = 0) ∧ y.g = x.g))))) ∧
    ∀ j x e, s.holding q = some (j, x, e) → s.slotOfQueue q = some (j, x) → x.started.find? (fun k => k.index == e.index) = some e →
      Sys2Proof.Safety.MemoriesOk s → Sys2Proof.Safety.TablesOk s →
      let r := s.qRecord q
      let from_ := if j < 64 then r else x.record
      (∀ l target dl, e.hold = some (.wait l target dl) →
        (∀ g s1, homeRead s ⟨qPart r, qVd r, 0⟩ l 32 = .ok g s1 → s1.qslots = s.qslots → s1.tableBase = s.tableBase → s1.hbm.wf = true →
          s1.qRecord q = r →
          let n := knotOf g.bytes
          target.sle n.count = true → (∀ d, dl = some d → s.tick ≤ d) → ∃ t, Sys2Proof.Machine.exec .waitPacketSatisfied s = .next t ∧
            qChain (t.qRecord q) = max (qChain r) n.chain ∧ qRead (t.qRecord q) = (qRead r + 1) % 2 ^ 32 ∧
            t.flight = s1.flight ++ signal (qPart from_) (qVd from_) e.knot e.delta (max (qChain r) n.chain) n.overflow false) ∧
        (∀ d, dl = some d → d < s.tick → waitMet s q e = none →
          j < 64 ∨ s.bitmapBase.toNat + q / 8 < s.tableBase.toNat + 64 * q ∨ s.tableBase.toNat + 64 * q + 64 ≤ s.bitmapBase.toNat + q / 8 →
          ∃ t, Sys2Proof.Machine.exec .waitPacketTimeout s = .next t ∧
          qState (t.qRecord q) = 3 ∧ bitsN (t.qRecord q) 71 64 = 6 ∧ qRead (t.qRecord q) = qRead r ∧ t.flight = s.flight)) ∧
      (e.hold = some .fence → q = 0 ∨ s.backing (qPart r) = false → ∃ t, Sys2Proof.Machine.exec .fencePacketComplete s = .next t ∧
        t.flight = s.flight ++ signal (qPart x.record) (qVd x.record) e.knot e.delta (qChain r) false false)


/-! ### Power and the debugger -/

/-- R109 to R114, R133: a core takes a larger effective divider at once and a smaller one once its rail has risen; a cap and floors that do not fit are
refused; a period's grants meet the demands within the cap, and each core's throttle divider follows its tier's draw; an idle core is switched
off. A strand too hot moves to the coolest free core, which exchanges sites with its own, or its divider doubles; a strand of an exhausted virtual device
runs at divider 16 from its next instruction boundary on. (That a larger divider counts at once, the doubling and the choice of the move's target are log
41's; draws, demands and temperatures are inputs, log 16.) -/
def Obligations.PowerAndHeat : Prop :=
  ∀ s : State, Sys2Proof.Safety.TablesOk s →
    let n := s.op.a
    let c := s.coreCfg n
    let p := s.power
    let w := s.op.b % 2 ^ 32
    let tuned := fun (t : State) (m : Nat) => let e := t.effDiv m
      ((s.coreCfg m).div ≤ e → (t.coreCfg m).div = e ∧ (t.coreCfg m).rail = none) ∧
      (e < (s.coreCfg m).div → (t.coreCfg m).div = (s.coreCfg m).div ∧ ∃ k, (t.coreCfg m).rail = some (e, k))
    let hot := ∃ t, Sys2Proof.Machine.exec .thermalMove s = .next t ∧ (t.coreCfg n).hot = true ∧ tuned t n ∧
      ∀ m y, s.strand m = some y → ∃ z, t.strand m = some z ∧ z.pc = y.pc ∧ z.g = y.g ∧ z.v = y.v
    (s.linkUp = true →
     let v := s.op.b % 32
     (2048 ≤ n ∨ v = 0 ∨ 16 < v → Sys2Proof.Machine.exec .reqDivWrite s = .next s) ∧
     (n < 2048 → 1 ≤ v → v ≤ 16 → ∃ t, Sys2Proof.Machine.exec .reqDivWrite s = .next t ∧ (t.coreCfg n).reqDiv = v ∧ tuned t n ∧
       (s.strand n = none → c.hot = false → t.effDiv n = max v (min 16 c.throttle)))) ∧
    (∀ d k, c.rail = some (d, k) → Sys2Proof.Machine.exec .dividerRailReady s =
      .next (((s.settleCycles n).redivide n c.div d).setCore n { c with div := d, rail := none })) ∧
    (s.linkUp = true → n = 0 → Sys2Proof.Machine.exec .powerCapWrite s = .next { s with power :=
      if w ≤ 2000000 ∧ p.floor[0] + p.floor[1] + p.floor[2] + p.floor[3] ≤ w then { p with capMw := w } else { p with refused := true } }) ∧
    (∀ i : Fin 4, s.linkUp = true → n = i + 1 → p.capMw ≤ 2000000 →
      let f := p.floor.set i w
      Sys2Proof.Machine.exec .powerCapWrite s = .next { s with power :=
        if f[0] + f[1] + f[2] + f[3] ≤ p.capMw then { p with floor := f } else { p with refused := true } }) ∧
    (c.powered = true → s.strand n = none → (∀ e ∈ s.parts, ∀ y ∈ e.2.saved, y.core ≠ n) → s.engineInto n = false → c.idle + 20000 ≤ s.tick →
      Sys2Proof.Machine.exec .corePowerOff s = .next (s.setCore n { c with powered := false })) ∧
    (p.nextPeriod ≤ s.tick → ∃ t, Sys2Proof.Machine.exec .powerPeriod s = .next t ∧ t.power.nextPeriod = p.nextPeriod + 19000 ∧ t.power.untiered = n ∧
      let want := fun i : Fin 4 => s.op.nats.getD (4 + i) 0
      let g := t.power.grant
      (∀ i : Fin 4, t.power.demand[i] = want i ∧ g[i] ≤ want i) ∧ g[0] + g[1] + g[2] + g[3] ≤ p.capMw - n ∧
      (want 0 + want 1 + want 2 + want 3 ≤ p.capMw - n → ∀ i : Fin 4, g[i] = want i) ∧
      (min (want 0) p.floor[0] + min (want 1) p.floor[1] + min (want 2) p.floor[2] + min (want 3) p.floor[3] ≤ p.capMw - n →
        ∀ i : Fin 4, min (want i) p.floor[i] ≤ g[i]) ∧
      ∀ m x (i : Fin 4), s.strand m = some x → s.tierOf m = some i.val →
        let k := (s.coreCfg m).throttle
        let draw := s.op.nats.getD i 0
        tuned t m ∧ (t.coreCfg m).throttle = if p.grant[i] < draw then min 16 (k + 1) else if 10 * draw < 9 * p.grant[i] then max 1 (k - 1) else k) ∧
    (∀ x, s.strand n = some x → p.thermLimit < Tbl.getD s.op.pairs n 0 → x.phase = .live → c.moveTo = none →
      (x.gang.tacked = true ∨ x.halted = true → hot) ∧
      (x.gang.tacked = false → x.halted = false →
        (moveTargetOf s s.op.pairs n x = none → hot) ∧
        ∀ m, moveTargetOf s s.op.pairs n x = some m → x.wait = none → s.engineInto n = false → s.runningOf n = [] →
          ∃ t y, Sys2Proof.Machine.exec .thermalMove s = .next t ∧ (t.coreCfg n).moveTo = some m ∧ t.strand n = some y ∧ y.phase = .moving ∧
            y.pc = x.pc ∧ y.g = x.g)) ∧
    (∀ x m, s.strand n = some x → c.moveTo = some m → m ≠ n → x.phase = .moving → (∀ k ∈ (s.cell (s.poolOf n)).claims, k.1 ≠ n) → ∃ t y, Sys2Proof.Machine.exec .thermalMoveDone s = .next t ∧
      (t.coreCfg n).site = (s.coreCfg m).site ∧ (t.coreCfg m).site = c.site ∧ (t.coreCfg n).moveTo = none ∧ t.strand n = some y ∧
      y.phase = .live ∧ y.pc = x.pc ∧ y.g = x.g) ∧
    (c.hot = true → s.op.b < p.thermLimit → ∃ t, Sys2Proof.Machine.exec .thermLimitCleared s = .next t ∧ (t.coreCfg n).hot = false ∧ tuned t n) ∧
    ∀ q, s.part n = some q → let d := q.vd s.op.b
      (d.quotaUj = 0 ∨ s.op.c < d.quotaUj → d.usedUj ≤ s.op.c →
        Sys2Proof.Machine.exec .energyExhausted s = .next (s.setPart n (q.setVd s.op.b { d with usedUj := s.op.c }))) ∧
      (d.quotaUj ≠ 0 → d.quotaUj ≤ s.op.c → d.usedUj ≤ s.op.c → ∃ t y, Sys2Proof.Machine.exec .energyExhausted s = .next t ∧ t.part n = some y ∧
        y.vd s.op.b = { d with usedUj := s.op.c, overrunUj := s.op.c - d.quotaUj, exhausted := true } ∧
        ∀ m x, s.strand m = some x → x.id.part = n → x.id.vd = s.op.b →
          ((s.coreCfg m).slow = true → 16 ≤ t.effDiv m) ∧
          ((s.coreCfg m).slow = false → s.between m x = true → 16 ≤ t.effDiv m ∧ tuned t m) ∧
          ((s.coreCfg m).slow = false → s.between m x = false → t.coreCfg m = s.coreCfg m))

/-- R145, R146: the debugger's commands answer 2 for a core outside the partition. HALT stops a strand and its gang at a boundary, or in an instruction that
R420 abandons, or is busy until then;
RESUME and STEP let them go on; BREAK sets a breakpoint; RDREG and WRREG read and write the registers of a halted strand, a tag only on
a valid capability of the partition; CANCEL removes the later entries of a queue. (HALT inside an instruction answered 1, RESUME ending a supervisor trap and
CANCEL of queue 3 answered 2 are log 42's readings.) -/
def Obligations.Debugger : Prop :=
  ∀ (s : State) (q : Partition), s.linkUp = true → s.part s.op.a = some q →
    let p := s.op.a
    let n := s.op.b % 2 ^ 16
    let arg := s.op.c % 2 ^ 32
    let answers := fun (i : Instr) (st : Nat) (P : State → Page → Prop) => ∃ t y, Sys2Proof.Machine.exec i s = .next t ∧ t.part p = some y ∧
      y.page.dbgStat = BitVec.ofNat 32 st ∧ P t y.page
    (2048 ≤ n ∨ s.coreIn p n = false → ∀ i ∈ [Instr.halt, .resume, .step, .rdreg, .cancel, .breakpoint, .wrreg],
      answers i 2 fun t _ => t.strands = s.strands ∧ t.cores = s.cores) ∧
    (n < 2048 → s.coreIn p n = true →
      (answers .breakpoint 0 fun t _ => ∀ h : arg % 4 < 4, (t.coreCfg n).breaks[arg % 4] = arg / 4 * 4 ∧ t.strands = s.strands) ∧
      ∀ x, s.strand n = some x → x.phase ≠ .placed → x.id.part = p →
        let ms := x.members n
        (x.halted = false → (answers .rdreg 1 fun t _ => t.strands = s.strands) ∧ (answers .wrreg 1 fun t _ => t.strands = s.strands)) ∧
        ((∀ m ∈ ms, ∀ y, s.strand m = some y → s.rests m y = true) → answers .halt 0 fun t _ => ∀ m ∈ ms, ∀ y, s.strand m = some y →
          ∃ z, t.strand m = some z ∧ z.halted = true ∧ z.haltReq = false ∧ z.pc = y.pc ∧ z.g = y.g) ∧
        ((∃ m ∈ ms, ∃ y, s.strand m = some y ∧ s.rests m y = false) → answers .halt 1 fun t _ => ∀ m ∈ ms, ∀ y, s.strand m = some y →
          t.strand m = some { y with haltReq := true }) ∧
        (∀ step : Bool, answers (if step then .step else .resume) 0 fun t _ => ∀ m ∈ ms, ∀ y, s.strand m = some y → ∃ z, t.strand m = some z ∧
          z.halted = false ∧ z.haltReq = false ∧ z.stepping = step ∧ z.pc = y.pc ∧ z.g = y.g ∧
          ∀ a b e f, y.wait = some (.supervisor a b e f) → z.wait = none) ∧
        (x.halted = true →
          let id := arg % 2 ^ 16
          (∀ r : BitVec 6, id = r.toNat →
            (answers .rdreg 0 fun t g => g.dbgData = (x.getG r).bits.setWidth 512 ∧ g.dbgTag = (x.getG r).tag ∧ t.strands = s.strands) ∧
            (let v : W128 := q.page.dbgData.setWidth 128
             answers .wrreg 0 fun t _ => ∃ y, t.strand n = some y ∧ (∀ k, k ≠ r → y.getG k = x.getG k) ∧ y.pc = x.pc ∧ y.getG r =
              if r = 0 then ⟨0, false⟩ else ⟨v, q.page.dbgTag && (capOf v).ok && (capOf v).domain == p⟩)) ∧
          (∀ r : BitVec 7, id = 0x100 + r.toNat →
            (x.holds r.toNat = false → answers .rdreg 2 fun t _ => t.strands = s.strands) ∧
            (x.holds r.toNat = true → x.granAbsent.getLsbD (r.toNat / 8) = false → answers .rdreg 0 fun t g => g.dbgData = x.getV r ∧ t.strands = s.strands)) ∧
          (id = 0x400 → (answers .rdreg 0 fun t g => g.dbgData = BitVec.ofNat 512 x.pc ∧ t.strands = s.strands) ∧
            answers .wrreg 0 fun t _ => t.strand n = some { x with pc := (q.page.dbgData.setWidth 64).toNat })) ∧
        (let i := arg % 16
         (arg / 16 % 4 = 0 → answers .cancel 0 fun t _ => ∃ y, t.strand n = some y ∧ y.vq = x.vq.take i ∧ y.pc = x.pc) ∧
         (arg / 16 % 4 = 1 → answers .cancel 0 fun t _ => t.strand n = some { x with mq := x.mq.take i }) ∧
         (arg / 16 % 4 = 2 → answers .cancel 0 fun t _ => t.strand n = some { x with cq := x.cq.take i }) ∧
         (arg / 16 % 4 = 3 → answers .cancel 2 fun t _ => t.strands = s.strands)))


/-! ### Translation commands -/

/-- R206 to R215: the supervisor's translation commands. MAPR maps a free region and UNMAPR takes one away while nothing of the partition is in flight;
MAPP writes a level-1 word, its old word the result; DIRTY writes a page's bitmap and clears it on request; MIGRATE marks the page and its
completion puts the target word in force, or the old one again where the copy failed, releases held writes and signals its knot. What a
command may not name is answered 2, what is in use 1. (R212 does not say what UNMAPR of an unmapped or another partition's region answers, nor R213 which
chain the knot gets: log 43's ok, invalid and 0.) -/
def Obligations.Translation : Prop :=
  ∀ (s : State) (q : Partition), Sys2Proof.Safety.MemoriesOk s → Sys2Proof.Safety.TablesOk s → s.linkUp = true → s.part s.op.a = some q →
    let p := s.op.a
    let a := q.page.trArg0.toNat
    let w := q.page.trArg1
    let k := q.page.trArg2
    let answers := fun (i : Instr) (st : Nat) (P : State → Page → Prop) => ∃ t y, Sys2Proof.Machine.exec i s = .next t ∧ t.part p = some y ∧
      y.page.trStat = BitVec.ofNat 32 st ∧ P t y.page
    let kept := fun (t : State) (_ : Page) => t.dir = s.dir ∧ t.hbm = s.hbm ∧ t.llc = s.llc ∧ t.strands = s.strands
    let mapped := fun (t : State) (d : DirEntry) => t.hbmWord (pageEntryAt d a)
    (s.op.b % 256 = 0 ∨ 5 < s.op.b % 256 → answers .translationOpInvalid 2 kept) ∧
    (maprInvalid s p q a w k = true → answers .mapr 2 kept) ∧
    (a < 0x10000000000 ∨ a % 2 ^ 30 ≠ 0 ∨ 2 ^ 57 ≤ a ∨ bitsN k 63 58 ≠ p → answers .mapr 2 kept) ∧
    (maprInvalid s p q a w k = false →
      ((s.region a).isSome = true → answers .mapr 1 kept) ∧
      (s.region a = none → answers .mapr 0 fun t _ => t.dir.find (a / 2 ^ 30) = some ⟨w, k⟩ ∧ (∀ g, g ≠ a / 2 ^ 30 → t.dir.find g = s.dir.find g) ∧
        ∀ n x, s.strand n = some x → x.id.part = p → t.strand n = some { x with plb := x.plb.del (a / 2 ^ 30) })) ∧
    (s.resident p = true ∨ s.engineBusy p = true → answers .unmapr 1 kept) ∧
    (s.resident p = false → s.engineBusy p = false → s.region a = none → answers .unmapr 0 kept) ∧
    (∀ d, s.resident p = false → s.engineBusy p = false → s.region a = some d →
      (bitsN d.r 63 58 ≠ p → answers .unmapr 2 kept) ∧
      (bitsN d.r 63 58 = p → answers .unmapr 0 fun t _ => t.dir.find (a / 2 ^ 30) = none ∧
        (∀ g, g ≠ a / 2 ^ 30 → t.dir.find g = s.dir.find g) ∧ ∀ l ∈ t.llc, l.line.va * 256 / 2 ^ 30 ≠ a / 2 ^ 30)) ∧
    (s.nodeRegion p a = none → answers .mapp 2 kept ∧ answers .migrate 2 kept) ∧
    (∀ d, s.nodeRegion p a = some d →
      let old := s.hbmWord (pageEntryAt d a)
      (a % 2 ^ 21 ≠ 0 → answers .mapp 2 kept ∧ answers .migrate 2 kept) ∧
      (a % 2 ^ 21 = 0 → tMig w = false → (bitsN w 55 50 = 0 ∨ tState w = 3) → (tState w = 1 ∨ tState w = 2 → tLeaf w = true) → s.frameOk p d.r w 21 (some a) = true →
        s.saveOk p q a d.r w 21 = true →
        ((tState old ≠ 3 ∧ tMig old = true) ∨ (∃ m ∈ q.migrations, m.page = a) → answers .mapp 1 kept) ∧
        (tState old = 3 ∨ tMig old = false → (∀ m ∈ q.migrations, m.page ≠ a) → answers .mapp 0 fun t g => mapped t d = w ∧ g.trRes = old ∧
          (tState old = 1 ∨ tState old = 2 → ∀ l ∈ t.llc, l.line.va * 256 / 2 ^ 21 ≠ a / 2 ^ 21))) ∧
      (a % 2 ^ 21 = 0 →
        ((tState old ≠ 3 ∧ tMig old = true) ∨ (∃ m ∈ q.migrations, m.page = a) → answers .migrate 1 kept) ∧
        (tState old = 3 ∨ tMig old = false → (∀ m ∈ q.migrations, m.page ≠ a) →
          (sourceBad s p q d a old = true ∨ targetOk s p d w = false → answers .migrate 2 kept) ∧
          (sourceBad s p q d a old = false → targetOk s p d w = true → k = 0 → ∃ t y, Sys2Proof.Machine.exec .migrate s = .next t ∧ t.part p = some y ∧
            y.page.trStat = 0 ∧ y.migrations = q.migrations ++ [⟨a, w, k, old⟩] ∧
            mapped t d = old ||| (1#64 <<< 61) ∧ (tState old ≠ 3 → t.out = s.out) ∧
            (tState old = 3 → t.out = s.out ++
              [.frame (peerOf old).1 0x00FFFFFFF000 (pullRecord (peerOf old).2 a 512 0)]))))) ∧
    (s.region a = none → answers .dirty 2 kept) ∧
    (∀ d z s1, s.region a = some d → z = s.setPart p { q with page := { q.page with trCmd := 4 } } → bitsN d.r 63 58 = p → tState d.t = 1 → w.toNat % 64 = 0 →
      packetRange s noCore p w.toNat 64 = true → homeWrite z ⟨p, 0, 0⟩ (locOf noCore w.toNat) (z.bitmapOf d a) false = .ok () s1 →
      (bit1 k 0 = false → Sys2Proof.Machine.exec .dirty s = .next (s1.trStatus p 0 none)) ∧
      (bit1 k 0 = true → tLeaf d.t = true → s1.hbm.wf = true → ∃ t, Sys2Proof.Machine.exec .dirty s = .next t ∧
        t.hbm.readList (bitmapAt d a) 64 = List.replicate 64 0)) ∧
    ∀ m d, q.migrations.find? (·.page == s.op.b) = some m → s.nodeRegion p s.op.b = some d →
      let e := pageEntryAt d m.page
      let ends := fun (t : State) (word : W64) (err : Bool) => t.hbmWord e = word ∧ (∃ y, t.part p = some y ∧ ∀ j ∈ y.migrations, j.page ≠ m.page) ∧
        (∀ h ∈ t.heldWrites, h.line.va * 256 / 2 ^ 21 ≠ m.page / 2 ^ 21) ∧
        (m.knot ≠ 0 → .signal ⟨noCore, false, p, 0, locOf noCore m.knot.toNat, 1, 0, 0, false, err, false⟩ ∈ t.flight)
      (s.op.flag = true → ∃ t, Sys2Proof.Machine.exec .migrationComplete s = .next t ∧ ends t m.old true) ∧
      (s.op.flag = false → tState m.old = 1 → tState m.target = 2 →
        (∀ j ∈ s.llc, j.line.va * 256 / 2 ^ 21 = m.page / 2 ^ 21 → j.line.mask = 0) → m.page % 2 ^ 21 = 0 →
        ∃ t, Sys2Proof.Machine.exec .migrationComplete s = .next t ∧ ends t m.target false ∧ ∀ i, i < 8192 →
          t.host.readList (s.frameOf (m.page + 256 * i) m.target 21) 256 = s.hbm.readList (s.frameOf (m.page + 256 * i) m.old 21) 256)

/-! ### Fetching and decoding -/

/-- R274 to R289, R292, R295: words written out from the encodings, at least one of each family, and the instructions that they are; a
reserved func value and a reserved major are none (R290). -/
def Obligations.DecodedWords : Prop :=
  decodeWord 0x04518700 = some (.add 5 6 7) ∧ decodeWord 0x18412003 = some (.srai 4 4 3) ∧
  decodeWord 0x2492120F = some (.extz 9 8 8 15) ∧ decodeWord 0x30A2CC03 = some (.ffma 10 11 12) ∧
  decodeWord 0x35451500 = some (.cbnd 20 20 21) ∧ decodeWord 0x3940C100 = some (.cinci 20 3 0x100) ∧
  decodeWord 0x4080B1FE = some (.ldd 8 2 0 0x1FE) ∧ decodeWord 0x45426002 = some (.stw 20 9 0 2) ∧
  decodeWord 0x4C51071B = some (.aadd 5 4 7 1 2 3) ∧ decodeWord 0x48000012 = some (.fence 2) ∧
  decodeWord 0x60401FFD = some (.bne 4 0 0xFFD) ∧ decodeWord 0x68100040 = some (.jal 1 0x40) ∧
  decodeWord 0x7005560A = some (.sig 21 22 0 2) ∧ decodeWord 0x71755812 = some (.wait 23 21 24 2) ∧
  decodeWord 0x70630028 = some (.ticket 6 12) ∧ decodeWord 0x74378000 = some (.spdef 3 30) ∧
  decodeWord 0x78014009 = some (.bar 5 1) ∧ decodeWord 0x7801400B = some (.exch 5 1) ∧
  decodeWord 0x7C134000 = some (.bob 1 13) ∧ decodeWord 0x8001E01A = some (.csrs 0 7 0x1A) ∧
  decodeWord 0x80025020 = some (.csrw 0 9 0x20) ∧ decodeWord 0x84000123 = some (.trap 0x123) ∧
  decodeWord 0x88000008 = some .sendx ∧ decodeWord 0x8CA50C01 = some (.enqC 10 20 12) ∧
  decodeWord 0xC1010603 = some (.vfma 32 16 48 0) ∧ decodeWord 0xCC508120 = some (.vcmp 1 2 8 9 0) ∧
  decodeWord 0xDCF1F2C0 = some (.vcvt 30 31 22 0) ∧ decodeWord 0xE4187000 = some (.pset 3 7) ∧
  decodeWord 0xE9429181 = some (.vgath 40 41 12 0 1) ∧ decodeWord 0xF0828002 = some (.vld 16 20 0 2) ∧
  decodeWord 0xF8C04C02 = some (.vldl 24 2 3 2) ∧ decodeWord 0x04518709 = none ∧ decodeWord 0x3C000000 = none ∧
  decodeCommand map2 (BitVec.ofNat 256 (0x10 * 2 ^ 192 + 0x400 * 2 ^ 128 + 0x10000 * 2 ^ 64 + 2 * 2 ^ 62 + 256 * 2 ^ 16 + 2 ^ 10 + 0x200)) =
    some (.cpCopy ⟨⟨0, 0x10, false, false, 1⟩, 0x400, 0x10000, 2, 256⟩) ∧
  decodeCommand map2 (BitVec.ofNat 256 (0x400 * 2 ^ 128 + 256 * 2 ^ 80 + 5 * 2 ^ 53 + 127 * 2 ^ 46 + 2 ^ 18 + 0x100)) =
    some (.mmLdw ⟨⟨0, 0, false, false, 0⟩, 0x400, 0, 256, 0, 0, 5, 127, 0, 0, 0, 0, 0, 0, 0, false, false, true⟩)

/-- R165, R272: when it is core n's turn (the agenda of log 3 names it, or no device step is due and it comes first), nothing that
is bounded in time falls before it (R109, R114, R249), its strand has no trap, halt, fill or breakpoint due (R138), and the four bytes at
its PC in its code core's scratchpad, the least significant first, are a word that decodes to i, the step runs i; a word that decodes to nothing runs as an illegal instruction (R290). A strand that waits replays its
word (log 9). No strand of its gang waits for the line of its PC (R129), and a VCLAIM first lets a lower core of its pool whose turn has come enter its claim
(R151). A step that the agenda names is that device step, with its operands. -/
def Obligations.StepRunsDecodedInstruction : Prop :=
  ∀ (s : State) (rest : List Turn), s.boot = .running →
    (∀ i op, s.agenda = .device i op :: rest → Sys2Proof.Machine.step s = Sys2Proof.Machine.exec i { s with agenda := rest, op := op }) ∧
    ∀ n x, s.agenda = .core n :: rest ∨ (s.agenda = [] ∧ rest = [] ∧ firstStep s s.steps = none ∧ nextCore s = some n) →
      s.strand n = some x → x.turns n = true → x.stepping = false → s.firstDue (max s.tick x.turnAt) = none →
      (∀ m ∈ x.members n, ∀ y, s.strand m = some y → y.async = [] ∧ y.haltReq = false) → x.absentLine x.pc 4 = false →
      x.fetchWait = false →
      let z : State := { s with agenda := rest, cur := n, tick := max s.tick x.turnAt }
      (x.wait = none → ∀ m, claimFirst z n x = some m → Sys2Proof.Machine.step s = .next { z with agenda := .core m :: .core n :: rest }) ∧
      (x.wait ≠ none ∨ (claimFirst z n x = none ∧ (∀ m ∈ x.members n, ∀ b ∈ (s.coreCfg m).breaks.toList, b = 0 ∨ b ≠ x.pc) ∧ x.pc < x.selv ∧
        x.pc % 4 = 0 ∧ s.scratch.poisoned (scratchAt n x.pc) = false) →
      ∀ w : W32, (∀ j, j < 4 → s.scratch.read (scratchAt n (x.pc + j)) = w.extractLsb' (8 * j) 8) →
        (∀ i, decodeWord w = some i → Sys2Proof.Machine.step s = Sys2Proof.Machine.exec i z) ∧
        (decodeWord w = none → Sys2Proof.Machine.step s = Sys2Proof.Machine.exec (.illegalInstruction w) z))

/-- Decoding and encoding agree (R272 to R289, R291, R295): a well-formed instruction with a control word, and one with a command word of map 2,
decodes from its word to itself with every operand; a control word is read from its bytes, the least significant first (R165); and a word
that decodes to an instruction is the word of that instruction, so no two words mean one instruction and no bit is dropped. -/
def Obligations.EncodingRoundTrip : Prop :=
  ∀ i : Instr,
    (i.wf = true →
      (∀ w, encodeWord i = some w → decodeWord w = some i ∧ ∀ rest, decodeBytes (encode i ++ rest) = some (i, rest)) ∧
      ∀ w, encodeCommand i = some w → decodeCommand map2 w = some i ∧ encode i = bytesOf w.toNat 32) ∧
    (∀ w, decodeWord w = some i → i.wf = true ∧ encodeWord i = some w) ∧
    ∀ w, decodeCommand map2 w = some i → i.wf = true ∧ encodeCommand i = some w

/-! ### The whole machine -/

/-- Reset: the ROM is about to run (R23); no partition, strand, command or message exists; the power block's fields read as R110's Reset column
says and the step-start fields as R115's; queue 0 alone is mapped, in slot 0 (R39); every memory is blank and every table in its canonical
form. What no rule gives is log 1's, and an unwritten byte reads as log 2 says. -/
def Obligations.ResetState : Prop :=
  let s := State.reset
  s.boot = .rom ∧ s.parts = [] ∧ s.strands = [] ∧ s.launches = [] ∧ s.copies = [] ∧ s.flight = [] ∧ s.agenda = [] ∧
    s.power.capMw = 2000000 ∧ s.power.thermLimit = 105 ∧ s.power.refused = false ∧ s.power.short = false ∧
    s.power.floor = Vector.replicate 4 0 ∧ s.power.grant = Vector.replicate 4 0 ∧ s.power.demand = Vector.replicate 4 0 ∧
    s.power.throttled = Vector.replicate 4 0 ∧ s.power.untiered = 0 ∧ s.time.stepPeriod = 0 ∧ s.time.stepOffset = 0 ∧ s.time.stepCells = 32 ∧
    (∃ q, s.qslots = [(0, q)] ∧ q.queue = 0) ∧ (∀ a, s.hbm.read a = 0 ∧ s.host.read a = 0 ∧ s.scratch.read a = 0 ∧ s.chip.read a = 0) ∧
    Sys2Proof.Safety.MemoriesOk s ∧ Sys2Proof.Safety.TablesOk s

/-- R23: in recovery the device answers three SPDM requests and does nothing else: it stays in recovery, and no strand, memory, launch,
message, measurement or key moves. From ROM it comes to run, or to recovery at the first stage that fails. -/
def Obligations.RecoveryStays : Prop :=
  ∀ s t : State, Sys2Proof.Machine.step s = .next t →
    (Sys2Proof.Safety.InRecovery s → Sys2Proof.Safety.InRecovery t ∧ t.strands = s.strands ∧ t.cores = s.cores ∧ t.hbm = s.hbm ∧ t.host = s.host ∧
      t.scratch = s.scratch ∧ t.chip = s.chip ∧ t.llc = s.llc ∧ t.launches = s.launches ∧ t.copies = s.copies ∧ t.flight = s.flight ∧
      t.measure = s.measure ∧ t.ide = s.ide ∧ t.epoch = s.epoch ∧
      ∀ i op rest, s.agenda = .device i op :: rest → i ∉ [Instr.getVersion, .getCapabilities, .getMeasurements] → t = { s with agenda := rest }) ∧
    (s.boot = .rom → t.strands = s.strands ∧ t.hbm = s.hbm ∧ t.scratch = s.scratch ∧
      (t.boot = .running ∧ t.failStage = 0 ∧ (∀ k, 1 ≤ k → k ≤ 4 → imagePasses k = true) ∨
       t.boot = .recovery ∧ 1 ≤ t.failStage ∧ t.failStage ≤ 4 ∧ imagePasses t.failStage = false ∧
        ∀ k, 1 ≤ k → k < t.failStage → imagePasses k = true)) ∧
    (s.boot = .running → t.boot = .running)

/-- Every step keeps the canonical form of every memory and of every table of the state. -/
def Obligations.StepKeepsCanonicalForm : Prop :=
  ∀ s t : State, Sys2Proof.Safety.MemoriesOk s → Sys2Proof.Safety.TablesOk s → Sys2Proof.Machine.step s = .next t →
    Sys2Proof.Safety.MemoriesOk t ∧ Sys2Proof.Safety.TablesOk t
end

