-- ==== Sys2Proof/Laws/State.lean ====
section
/-! SUPPORT. One lemma for each field and each update of the state and of a strand: the field written reads what was written, every
other field stays. All hold by unfolding one record update. -/
namespace Sys2Proof.Machine

/-! ### A strand is written -/

@[simp] theorem State.setStrand_agenda (s : State) (n : Nat) (x : Strand) : (s.setStrand n x).agenda = s.agenda := rfl
@[simp] theorem State.setStrand_cur (s : State) (n : Nat) (x : Strand) : (s.setStrand n x).cur = s.cur := rfl
@[simp] theorem State.setStrand_op (s : State) (n : Nat) (x : Strand) : (s.setStrand n x).op = s.op := rfl
@[simp] theorem State.setStrand_freeCtr (s : State) (n : Nat) (x : Strand) : (s.setStrand n x).freeCtr = s.freeCtr := rfl
@[simp] theorem State.setStrand_out (s : State) (n : Nat) (x : Strand) : (s.setStrand n x).out = s.out := rfl
@[simp] theorem State.setStrand_tick (s : State) (n : Nat) (x : Strand) : (s.setStrand n x).tick = s.tick := rfl
@[simp] theorem State.setStrand_boot (s : State) (n : Nat) (x : Strand) : (s.setStrand n x).boot = s.boot := rfl
@[simp] theorem State.setStrand_failStage (s : State) (n : Nat) (x : Strand) : (s.setStrand n x).failStage = s.failStage := rfl
@[simp] theorem State.setStrand_debugUnlocked (s : State) (n : Nat) (x : Strand) : (s.setStrand n x).debugUnlocked = s.debugUnlocked := rfl
@[simp] theorem State.setStrand_measure (s : State) (n : Nat) (x : Strand) : (s.setStrand n x).measure = s.measure := rfl
@[simp] theorem State.setStrand_ide (s : State) (n : Nat) (x : Strand) : (s.setStrand n x).ide = s.ide := rfl
@[simp] theorem State.setStrand_hostSpdm (s : State) (n : Nat) (x : Strand) : (s.setStrand n x).hostSpdm = s.hostSpdm := rfl
@[simp] theorem State.setStrand_epoch (s : State) (n : Nat) (x : Strand) : (s.setStrand n x).epoch = s.epoch := rfl
@[simp] theorem State.setStrand_time (s : State) (n : Nat) (x : Strand) : (s.setStrand n x).time = s.time := rfl
@[simp] theorem State.setStrand_power (s : State) (n : Nat) (x : Strand) : (s.setStrand n x).power = s.power := rfl
@[simp] theorem State.setStrand_tableBase (s : State) (n : Nat) (x : Strand) : (s.setStrand n x).tableBase = s.tableBase := rfl
@[simp] theorem State.setStrand_tableSet (s : State) (n : Nat) (x : Strand) : (s.setStrand n x).tableSet = s.tableSet := rfl
@[simp] theorem State.setStrand_bitmapBase (s : State) (n : Nat) (x : Strand) : (s.setStrand n x).bitmapBase = s.bitmapBase := rfl
@[simp] theorem State.setStrand_qslots (s : State) (n : Nat) (x : Strand) : (s.setStrand n x).qslots = s.qslots := rfl
@[simp] theorem State.setStrand_mapOrder (s : State) (n : Nat) (x : Strand) : (s.setStrand n x).mapOrder = s.mapOrder := rfl
@[simp] theorem State.setStrand_ports (s : State) (n : Nat) (x : Strand) : (s.setStrand n x).ports = s.ports := rfl
@[simp] theorem State.setStrand_log (s : State) (n : Nat) (x : Strand) : (s.setStrand n x).log = s.log := rfl
@[simp] theorem State.setStrand_logCount (s : State) (n : Nat) (x : Strand) : (s.setStrand n x).logCount = s.logCount := rfl
@[simp] theorem State.setStrand_corrected (s : State) (n : Nat) (x : Strand) : (s.setStrand n x).corrected = s.corrected := rfl
@[simp] theorem State.setStrand_splits (s : State) (n : Nat) (x : Strand) : (s.setStrand n x).splits = s.splits := rfl
@[simp] theorem State.setStrand_parts (s : State) (n : Nat) (x : Strand) : (s.setStrand n x).parts = s.parts := rfl
@[simp] theorem State.setStrand_launches (s : State) (n : Nat) (x : Strand) : (s.setStrand n x).launches = s.launches := rfl
@[simp] theorem State.setStrand_launchCtr (s : State) (n : Nat) (x : Strand) : (s.setStrand n x).launchCtr = s.launchCtr := rfl
@[simp] theorem State.setStrand_strands (s : State) (n : Nat) (x : Strand) : (s.setStrand n x).strands = s.strands.put n x := rfl
@[simp] theorem State.setStrand_cores (s : State) (n : Nat) (x : Strand) : (s.setStrand n x).cores = s.cores := rfl
@[simp] theorem State.setStrand_cells (s : State) (n : Nat) (x : Strand) : (s.setStrand n x).cells = s.cells := rfl
@[simp] theorem State.setStrand_clusters (s : State) (n : Nat) (x : Strand) : (s.setStrand n x).clusters = s.clusters := rfl
@[simp] theorem State.setStrand_releases (s : State) (n : Nat) (x : Strand) : (s.setStrand n x).releases = s.releases := rfl
@[simp] theorem State.setStrand_flight (s : State) (n : Nat) (x : Strand) : (s.setStrand n x).flight = s.flight := rfl
@[simp] theorem State.setStrand_passed (s : State) (n : Nat) (x : Strand) : (s.setStrand n x).passed = s.passed := rfl
@[simp] theorem State.setStrand_waits (s : State) (n : Nat) (x : Strand) : (s.setStrand n x).waits = s.waits := rfl
@[simp] theorem State.setStrand_monitors (s : State) (n : Nat) (x : Strand) : (s.setStrand n x).monitors = s.monitors := rfl
@[simp] theorem State.setStrand_copies (s : State) (n : Nat) (x : Strand) : (s.setStrand n x).copies = s.copies := rfl
@[simp] theorem State.setStrand_orphans (s : State) (n : Nat) (x : Strand) : (s.setStrand n x).orphans = s.orphans := rfl
@[simp] theorem State.setStrand_landings (s : State) (n : Nat) (x : Strand) : (s.setStrand n x).landings = s.landings := rfl
@[simp] theorem State.setStrand_discards (s : State) (n : Nat) (x : Strand) : (s.setStrand n x).discards = s.discards := rfl
@[simp] theorem State.setStrand_cmdCtr (s : State) (n : Nat) (x : Strand) : (s.setStrand n x).cmdCtr = s.cmdCtr := rfl
@[simp] theorem State.setStrand_dir (s : State) (n : Nat) (x : Strand) : (s.setStrand n x).dir = s.dir := rfl
@[simp] theorem State.setStrand_dirNodes (s : State) (n : Nat) (x : Strand) : (s.setStrand n x).dirNodes = s.dirNodes := rfl
@[simp] theorem State.setStrand_llc (s : State) (n : Nat) (x : Strand) : (s.setStrand n x).llc = s.llc := rfl
@[simp] theorem State.setStrand_heldWrites (s : State) (n : Nat) (x : Strand) : (s.setStrand n x).heldWrites = s.heldWrites := rfl
@[simp] theorem State.setStrand_hbm (s : State) (n : Nat) (x : Strand) : (s.setStrand n x).hbm = s.hbm := rfl
@[simp] theorem State.setStrand_host (s : State) (n : Nat) (x : Strand) : (s.setStrand n x).host = s.host := rfl
@[simp] theorem State.setStrand_scratch (s : State) (n : Nat) (x : Strand) : (s.setStrand n x).scratch = s.scratch := rfl
@[simp] theorem State.setStrand_chip (s : State) (n : Nat) (x : Strand) : (s.setStrand n x).chip = s.chip := rfl

/-! ### A strand is taken away -/

@[simp] theorem State.delStrand_agenda (s : State) (n : Nat) : (s.delStrand n).agenda = s.agenda := rfl
@[simp] theorem State.delStrand_cur (s : State) (n : Nat) : (s.delStrand n).cur = s.cur := rfl
@[simp] theorem State.delStrand_op (s : State) (n : Nat) : (s.delStrand n).op = s.op := rfl
@[simp] theorem State.delStrand_freeCtr (s : State) (n : Nat) : (s.delStrand n).freeCtr = s.freeCtr := rfl
@[simp] theorem State.delStrand_out (s : State) (n : Nat) : (s.delStrand n).out = s.out := rfl
@[simp] theorem State.delStrand_tick (s : State) (n : Nat) : (s.delStrand n).tick = s.tick := rfl
@[simp] theorem State.delStrand_boot (s : State) (n : Nat) : (s.delStrand n).boot = s.boot := rfl
@[simp] theorem State.delStrand_failStage (s : State) (n : Nat) : (s.delStrand n).failStage = s.failStage := rfl
@[simp] theorem State.delStrand_debugUnlocked (s : State) (n : Nat) : (s.delStrand n).debugUnlocked = s.debugUnlocked := rfl
@[simp] theorem State.delStrand_measure (s : State) (n : Nat) : (s.delStrand n).measure = s.measure := rfl
@[simp] theorem State.delStrand_ide (s : State) (n : Nat) : (s.delStrand n).ide = s.ide := rfl
@[simp] theorem State.delStrand_hostSpdm (s : State) (n : Nat) : (s.delStrand n).hostSpdm = s.hostSpdm := rfl
@[simp] theorem State.delStrand_epoch (s : State) (n : Nat) : (s.delStrand n).epoch = s.epoch := rfl
@[simp] theorem State.delStrand_time (s : State) (n : Nat) : (s.delStrand n).time = s.time := rfl
@[simp] theorem State.delStrand_power (s : State) (n : Nat) : (s.delStrand n).power = s.power := rfl
@[simp] theorem State.delStrand_tableBase (s : State) (n : Nat) : (s.delStrand n).tableBase = s.tableBase := rfl
@[simp] theorem State.delStrand_tableSet (s : State) (n : Nat) : (s.delStrand n).tableSet = s.tableSet := rfl
@[simp] theorem State.delStrand_bitmapBase (s : State) (n : Nat) : (s.delStrand n).bitmapBase = s.bitmapBase := rfl
@[simp] theorem State.delStrand_qslots (s : State) (n : Nat) : (s.delStrand n).qslots = s.qslots := rfl
@[simp] theorem State.delStrand_mapOrder (s : State) (n : Nat) : (s.delStrand n).mapOrder = s.mapOrder := rfl
@[simp] theorem State.delStrand_ports (s : State) (n : Nat) : (s.delStrand n).ports = s.ports := rfl
@[simp] theorem State.delStrand_log (s : State) (n : Nat) : (s.delStrand n).log = s.log := rfl
@[simp] theorem State.delStrand_logCount (s : State) (n : Nat) : (s.delStrand n).logCount = s.logCount := rfl
@[simp] theorem State.delStrand_corrected (s : State) (n : Nat) : (s.delStrand n).corrected = s.corrected := rfl
@[simp] theorem State.delStrand_splits (s : State) (n : Nat) : (s.delStrand n).splits = s.splits := rfl
@[simp] theorem State.delStrand_parts (s : State) (n : Nat) : (s.delStrand n).parts = s.parts := rfl
@[simp] theorem State.delStrand_launches (s : State) (n : Nat) : (s.delStrand n).launches = s.launches := rfl
@[simp] theorem State.delStrand_launchCtr (s : State) (n : Nat) : (s.delStrand n).launchCtr = s.launchCtr := rfl
@[simp] theorem State.delStrand_strands (s : State) (n : Nat) : (s.delStrand n).strands = s.strands.del n := rfl
@[simp] theorem State.delStrand_cores (s : State) (n : Nat) : (s.delStrand n).cores = s.cores := rfl
@[simp] theorem State.delStrand_cells (s : State) (n : Nat) : (s.delStrand n).cells = s.cells := rfl
@[simp] theorem State.delStrand_clusters (s : State) (n : Nat) : (s.delStrand n).clusters = s.clusters := rfl
@[simp] theorem State.delStrand_releases (s : State) (n : Nat) : (s.delStrand n).releases = s.releases := rfl
@[simp] theorem State.delStrand_flight (s : State) (n : Nat) : (s.delStrand n).flight = s.flight := rfl
@[simp] theorem State.delStrand_passed (s : State) (n : Nat) : (s.delStrand n).passed = s.passed := rfl
@[simp] theorem State.delStrand_waits (s : State) (n : Nat) : (s.delStrand n).waits = s.waits := rfl
@[simp] theorem State.delStrand_monitors (s : State) (n : Nat) : (s.delStrand n).monitors = s.monitors := rfl
@[simp] theorem State.delStrand_copies (s : State) (n : Nat) : (s.delStrand n).copies = s.copies := rfl
@[simp] theorem State.delStrand_orphans (s : State) (n : Nat) : (s.delStrand n).orphans = s.orphans := rfl
@[simp] theorem State.delStrand_landings (s : State) (n : Nat) : (s.delStrand n).landings = s.landings := rfl
@[simp] theorem State.delStrand_discards (s : State) (n : Nat) : (s.delStrand n).discards = s.discards := rfl
@[simp] theorem State.delStrand_cmdCtr (s : State) (n : Nat) : (s.delStrand n).cmdCtr = s.cmdCtr := rfl
@[simp] theorem State.delStrand_dir (s : State) (n : Nat) : (s.delStrand n).dir = s.dir := rfl
@[simp] theorem State.delStrand_dirNodes (s : State) (n : Nat) : (s.delStrand n).dirNodes = s.dirNodes := rfl
@[simp] theorem State.delStrand_llc (s : State) (n : Nat) : (s.delStrand n).llc = s.llc := rfl
@[simp] theorem State.delStrand_heldWrites (s : State) (n : Nat) : (s.delStrand n).heldWrites = s.heldWrites := rfl
@[simp] theorem State.delStrand_hbm (s : State) (n : Nat) : (s.delStrand n).hbm = s.hbm := rfl
@[simp] theorem State.delStrand_host (s : State) (n : Nat) : (s.delStrand n).host = s.host := rfl
@[simp] theorem State.delStrand_scratch (s : State) (n : Nat) : (s.delStrand n).scratch = s.scratch := rfl
@[simp] theorem State.delStrand_chip (s : State) (n : Nat) : (s.delStrand n).chip = s.chip := rfl

/-! ### A core is written -/

@[simp] theorem State.setCore_agenda (s : State) (n : Nat) (c : CoreCfg) : (s.setCore n c).agenda = s.agenda := rfl
@[simp] theorem State.setCore_cur (s : State) (n : Nat) (c : CoreCfg) : (s.setCore n c).cur = s.cur := rfl
@[simp] theorem State.setCore_op (s : State) (n : Nat) (c : CoreCfg) : (s.setCore n c).op = s.op := rfl
@[simp] theorem State.setCore_freeCtr (s : State) (n : Nat) (c : CoreCfg) : (s.setCore n c).freeCtr = s.freeCtr := rfl
@[simp] theorem State.setCore_out (s : State) (n : Nat) (c : CoreCfg) : (s.setCore n c).out = s.out := rfl
@[simp] theorem State.setCore_tick (s : State) (n : Nat) (c : CoreCfg) : (s.setCore n c).tick = s.tick := rfl
@[simp] theorem State.setCore_boot (s : State) (n : Nat) (c : CoreCfg) : (s.setCore n c).boot = s.boot := rfl
@[simp] theorem State.setCore_failStage (s : State) (n : Nat) (c : CoreCfg) : (s.setCore n c).failStage = s.failStage := rfl
@[simp] theorem State.setCore_debugUnlocked (s : State) (n : Nat) (c : CoreCfg) : (s.setCore n c).debugUnlocked = s.debugUnlocked := rfl
@[simp] theorem State.setCore_measure (s : State) (n : Nat) (c : CoreCfg) : (s.setCore n c).measure = s.measure := rfl
@[simp] theorem State.setCore_ide (s : State) (n : Nat) (c : CoreCfg) : (s.setCore n c).ide = s.ide := rfl
@[simp] theorem State.setCore_hostSpdm (s : State) (n : Nat) (c : CoreCfg) : (s.setCore n c).hostSpdm = s.hostSpdm := rfl
@[simp] theorem State.setCore_epoch (s : State) (n : Nat) (c : CoreCfg) : (s.setCore n c).epoch = s.epoch := rfl
@[simp] theorem State.setCore_time (s : State) (n : Nat) (c : CoreCfg) : (s.setCore n c).time = s.time := rfl
@[simp] theorem State.setCore_power (s : State) (n : Nat) (c : CoreCfg) : (s.setCore n c).power = s.power := rfl
@[simp] theorem State.setCore_tableBase (s : State) (n : Nat) (c : CoreCfg) : (s.setCore n c).tableBase = s.tableBase := rfl
@[simp] theorem State.setCore_tableSet (s : State) (n : Nat) (c : CoreCfg) : (s.setCore n c).tableSet = s.tableSet := rfl
@[simp] theorem State.setCore_bitmapBase (s : State) (n : Nat) (c : CoreCfg) : (s.setCore n c).bitmapBase = s.bitmapBase := rfl
@[simp] theorem State.setCore_qslots (s : State) (n : Nat) (c : CoreCfg) : (s.setCore n c).qslots = s.qslots := rfl
@[simp] theorem State.setCore_mapOrder (s : State) (n : Nat) (c : CoreCfg) : (s.setCore n c).mapOrder = s.mapOrder := rfl
@[simp] theorem State.setCore_ports (s : State) (n : Nat) (c : CoreCfg) : (s.setCore n c).ports = s.ports := rfl
@[simp] theorem State.setCore_log (s : State) (n : Nat) (c : CoreCfg) : (s.setCore n c).log = s.log := rfl
@[simp] theorem State.setCore_logCount (s : State) (n : Nat) (c : CoreCfg) : (s.setCore n c).logCount = s.logCount := rfl
@[simp] theorem State.setCore_corrected (s : State) (n : Nat) (c : CoreCfg) : (s.setCore n c).corrected = s.corrected := rfl
@[simp] theorem State.setCore_splits (s : State) (n : Nat) (c : CoreCfg) : (s.setCore n c).splits = s.splits := rfl
@[simp] theorem State.setCore_parts (s : State) (n : Nat) (c : CoreCfg) : (s.setCore n c).parts = s.parts := rfl
@[simp] theorem State.setCore_launches (s : State) (n : Nat) (c : CoreCfg) : (s.setCore n c).launches = s.launches := rfl
@[simp] theorem State.setCore_launchCtr (s : State) (n : Nat) (c : CoreCfg) : (s.setCore n c).launchCtr = s.launchCtr := rfl
@[simp] theorem State.setCore_strands (s : State) (n : Nat) (c : CoreCfg) : (s.setCore n c).strands = s.strands := rfl
@[simp] theorem State.setCore_cores (s : State) (n : Nat) (c : CoreCfg) : (s.setCore n c).cores = s.cores.put n c := rfl
@[simp] theorem State.setCore_cells (s : State) (n : Nat) (c : CoreCfg) : (s.setCore n c).cells = s.cells := rfl
@[simp] theorem State.setCore_clusters (s : State) (n : Nat) (c : CoreCfg) : (s.setCore n c).clusters = s.clusters := rfl
@[simp] theorem State.setCore_releases (s : State) (n : Nat) (c : CoreCfg) : (s.setCore n c).releases = s.releases := rfl
@[simp] theorem State.setCore_flight (s : State) (n : Nat) (c : CoreCfg) : (s.setCore n c).flight = s.flight := rfl
@[simp] theorem State.setCore_passed (s : State) (n : Nat) (c : CoreCfg) : (s.setCore n c).passed = s.passed := rfl
@[simp] theorem State.setCore_waits (s : State) (n : Nat) (c : CoreCfg) : (s.setCore n c).waits = s.waits := rfl
@[simp] theorem State.setCore_monitors (s : State) (n : Nat) (c : CoreCfg) : (s.setCore n c).monitors = s.monitors := rfl
@[simp] theorem State.setCore_copies (s : State) (n : Nat) (c : CoreCfg) : (s.setCore n c).copies = s.copies := rfl
@[simp] theorem State.setCore_orphans (s : State) (n : Nat) (c : CoreCfg) : (s.setCore n c).orphans = s.orphans := rfl
@[simp] theorem State.setCore_landings (s : State) (n : Nat) (c : CoreCfg) : (s.setCore n c).landings = s.landings := rfl
@[simp] theorem State.setCore_discards (s : State) (n : Nat) (c : CoreCfg) : (s.setCore n c).discards = s.discards := rfl
@[simp] theorem State.setCore_cmdCtr (s : State) (n : Nat) (c : CoreCfg) : (s.setCore n c).cmdCtr = s.cmdCtr := rfl
@[simp] theorem State.setCore_dir (s : State) (n : Nat) (c : CoreCfg) : (s.setCore n c).dir = s.dir := rfl
@[simp] theorem State.setCore_dirNodes (s : State) (n : Nat) (c : CoreCfg) : (s.setCore n c).dirNodes = s.dirNodes := rfl
@[simp] theorem State.setCore_llc (s : State) (n : Nat) (c : CoreCfg) : (s.setCore n c).llc = s.llc := rfl
@[simp] theorem State.setCore_heldWrites (s : State) (n : Nat) (c : CoreCfg) : (s.setCore n c).heldWrites = s.heldWrites := rfl
@[simp] theorem State.setCore_hbm (s : State) (n : Nat) (c : CoreCfg) : (s.setCore n c).hbm = s.hbm := rfl
@[simp] theorem State.setCore_host (s : State) (n : Nat) (c : CoreCfg) : (s.setCore n c).host = s.host := rfl
@[simp] theorem State.setCore_scratch (s : State) (n : Nat) (c : CoreCfg) : (s.setCore n c).scratch = s.scratch := rfl
@[simp] theorem State.setCore_chip (s : State) (n : Nat) (c : CoreCfg) : (s.setCore n c).chip = s.chip := rfl

/-! ### A cell is written -/

@[simp] theorem State.setCell_agenda (s : State) (n : Nat) (c : Cell) : (s.setCell n c).agenda = s.agenda := rfl
@[simp] theorem State.setCell_cur (s : State) (n : Nat) (c : Cell) : (s.setCell n c).cur = s.cur := rfl
@[simp] theorem State.setCell_op (s : State) (n : Nat) (c : Cell) : (s.setCell n c).op = s.op := rfl
@[simp] theorem State.setCell_freeCtr (s : State) (n : Nat) (c : Cell) : (s.setCell n c).freeCtr = s.freeCtr := rfl
@[simp] theorem State.setCell_out (s : State) (n : Nat) (c : Cell) : (s.setCell n c).out = s.out := rfl
@[simp] theorem State.setCell_tick (s : State) (n : Nat) (c : Cell) : (s.setCell n c).tick = s.tick := rfl
@[simp] theorem State.setCell_boot (s : State) (n : Nat) (c : Cell) : (s.setCell n c).boot = s.boot := rfl
@[simp] theorem State.setCell_failStage (s : State) (n : Nat) (c : Cell) : (s.setCell n c).failStage = s.failStage := rfl
@[simp] theorem State.setCell_debugUnlocked (s : State) (n : Nat) (c : Cell) : (s.setCell n c).debugUnlocked = s.debugUnlocked := rfl
@[simp] theorem State.setCell_measure (s : State) (n : Nat) (c : Cell) : (s.setCell n c).measure = s.measure := rfl
@[simp] theorem State.setCell_ide (s : State) (n : Nat) (c : Cell) : (s.setCell n c).ide = s.ide := rfl
@[simp] theorem State.setCell_hostSpdm (s : State) (n : Nat) (c : Cell) : (s.setCell n c).hostSpdm = s.hostSpdm := rfl
@[simp] theorem State.setCell_epoch (s : State) (n : Nat) (c : Cell) : (s.setCell n c).epoch = s.epoch := rfl
@[simp] theorem State.setCell_time (s : State) (n : Nat) (c : Cell) : (s.setCell n c).time = s.time := rfl
@[simp] theorem State.setCell_power (s : State) (n : Nat) (c : Cell) : (s.setCell n c).power = s.power := rfl
@[simp] theorem State.setCell_tableBase (s : State) (n : Nat) (c : Cell) : (s.setCell n c).tableBase = s.tableBase := rfl
@[simp] theorem State.setCell_tableSet (s : State) (n : Nat) (c : Cell) : (s.setCell n c).tableSet = s.tableSet := rfl
@[simp] theorem State.setCell_bitmapBase (s : State) (n : Nat) (c : Cell) : (s.setCell n c).bitmapBase = s.bitmapBase := rfl
@[simp] theorem State.setCell_qslots (s : State) (n : Nat) (c : Cell) : (s.setCell n c).qslots = s.qslots := rfl
@[simp] theorem State.setCell_mapOrder (s : State) (n : Nat) (c : Cell) : (s.setCell n c).mapOrder = s.mapOrder := rfl
@[simp] theorem State.setCell_ports (s : State) (n : Nat) (c : Cell) : (s.setCell n c).ports = s.ports := rfl
@[simp] theorem State.setCell_log (s : State) (n : Nat) (c : Cell) : (s.setCell n c).log = s.log := rfl
@[simp] theorem State.setCell_logCount (s : State) (n : Nat) (c : Cell) : (s.setCell n c).logCount = s.logCount := rfl
@[simp] theorem State.setCell_corrected (s : State) (n : Nat) (c : Cell) : (s.setCell n c).corrected = s.corrected := rfl
@[simp] theorem State.setCell_splits (s : State) (n : Nat) (c : Cell) : (s.setCell n c).splits = s.splits := rfl
@[simp] theorem State.setCell_parts (s : State) (n : Nat) (c : Cell) : (s.setCell n c).parts = s.parts := rfl
@[simp] theorem State.setCell_launches (s : State) (n : Nat) (c : Cell) : (s.setCell n c).launches = s.launches := rfl
@[simp] theorem State.setCell_launchCtr (s : State) (n : Nat) (c : Cell) : (s.setCell n c).launchCtr = s.launchCtr := rfl
@[simp] theorem State.setCell_strands (s : State) (n : Nat) (c : Cell) : (s.setCell n c).strands = s.strands := rfl
@[simp] theorem State.setCell_cores (s : State) (n : Nat) (c : Cell) : (s.setCell n c).cores = s.cores := rfl
@[simp] theorem State.setCell_cells (s : State) (n : Nat) (c : Cell) : (s.setCell n c).cells = s.cells.put n c := rfl
@[simp] theorem State.setCell_clusters (s : State) (n : Nat) (c : Cell) : (s.setCell n c).clusters = s.clusters := rfl
@[simp] theorem State.setCell_releases (s : State) (n : Nat) (c : Cell) : (s.setCell n c).releases = s.releases := rfl
@[simp] theorem State.setCell_flight (s : State) (n : Nat) (c : Cell) : (s.setCell n c).flight = s.flight := rfl
@[simp] theorem State.setCell_passed (s : State) (n : Nat) (c : Cell) : (s.setCell n c).passed = s.passed := rfl
@[simp] theorem State.setCell_waits (s : State) (n : Nat) (c : Cell) : (s.setCell n c).waits = s.waits := rfl
@[simp] theorem State.setCell_monitors (s : State) (n : Nat) (c : Cell) : (s.setCell n c).monitors = s.monitors := rfl
@[simp] theorem State.setCell_copies (s : State) (n : Nat) (c : Cell) : (s.setCell n c).copies = s.copies := rfl
@[simp] theorem State.setCell_orphans (s : State) (n : Nat) (c : Cell) : (s.setCell n c).orphans = s.orphans := rfl
@[simp] theorem State.setCell_landings (s : State) (n : Nat) (c : Cell) : (s.setCell n c).landings = s.landings := rfl
@[simp] theorem State.setCell_discards (s : State) (n : Nat) (c : Cell) : (s.setCell n c).discards = s.discards := rfl
@[simp] theorem State.setCell_cmdCtr (s : State) (n : Nat) (c : Cell) : (s.setCell n c).cmdCtr = s.cmdCtr := rfl
@[simp] theorem State.setCell_dir (s : State) (n : Nat) (c : Cell) : (s.setCell n c).dir = s.dir := rfl
@[simp] theorem State.setCell_dirNodes (s : State) (n : Nat) (c : Cell) : (s.setCell n c).dirNodes = s.dirNodes := rfl
@[simp] theorem State.setCell_llc (s : State) (n : Nat) (c : Cell) : (s.setCell n c).llc = s.llc := rfl
@[simp] theorem State.setCell_heldWrites (s : State) (n : Nat) (c : Cell) : (s.setCell n c).heldWrites = s.heldWrites := rfl
@[simp] theorem State.setCell_hbm (s : State) (n : Nat) (c : Cell) : (s.setCell n c).hbm = s.hbm := rfl
@[simp] theorem State.setCell_host (s : State) (n : Nat) (c : Cell) : (s.setCell n c).host = s.host := rfl
@[simp] theorem State.setCell_scratch (s : State) (n : Nat) (c : Cell) : (s.setCell n c).scratch = s.scratch := rfl
@[simp] theorem State.setCell_chip (s : State) (n : Nat) (c : Cell) : (s.setCell n c).chip = s.chip := rfl

/-! ### A cluster is written -/

@[simp] theorem State.setCluster_agenda (s : State) (n : Nat) (c : Cluster) : (s.setCluster n c).agenda = s.agenda := rfl
@[simp] theorem State.setCluster_cur (s : State) (n : Nat) (c : Cluster) : (s.setCluster n c).cur = s.cur := rfl
@[simp] theorem State.setCluster_op (s : State) (n : Nat) (c : Cluster) : (s.setCluster n c).op = s.op := rfl
@[simp] theorem State.setCluster_freeCtr (s : State) (n : Nat) (c : Cluster) : (s.setCluster n c).freeCtr = s.freeCtr := rfl
@[simp] theorem State.setCluster_out (s : State) (n : Nat) (c : Cluster) : (s.setCluster n c).out = s.out := rfl
@[simp] theorem State.setCluster_tick (s : State) (n : Nat) (c : Cluster) : (s.setCluster n c).tick = s.tick := rfl
@[simp] theorem State.setCluster_boot (s : State) (n : Nat) (c : Cluster) : (s.setCluster n c).boot = s.boot := rfl
@[simp] theorem State.setCluster_failStage (s : State) (n : Nat) (c : Cluster) : (s.setCluster n c).failStage = s.failStage := rfl
@[simp] theorem State.setCluster_debugUnlocked (s : State) (n : Nat) (c : Cluster) : (s.setCluster n c).debugUnlocked = s.debugUnlocked := rfl
@[simp] theorem State.setCluster_measure (s : State) (n : Nat) (c : Cluster) : (s.setCluster n c).measure = s.measure := rfl
@[simp] theorem State.setCluster_ide (s : State) (n : Nat) (c : Cluster) : (s.setCluster n c).ide = s.ide := rfl
@[simp] theorem State.setCluster_hostSpdm (s : State) (n : Nat) (c : Cluster) : (s.setCluster n c).hostSpdm = s.hostSpdm := rfl
@[simp] theorem State.setCluster_epoch (s : State) (n : Nat) (c : Cluster) : (s.setCluster n c).epoch = s.epoch := rfl
@[simp] theorem State.setCluster_time (s : State) (n : Nat) (c : Cluster) : (s.setCluster n c).time = s.time := rfl
@[simp] theorem State.setCluster_power (s : State) (n : Nat) (c : Cluster) : (s.setCluster n c).power = s.power := rfl
@[simp] theorem State.setCluster_tableBase (s : State) (n : Nat) (c : Cluster) : (s.setCluster n c).tableBase = s.tableBase := rfl
@[simp] theorem State.setCluster_tableSet (s : State) (n : Nat) (c : Cluster) : (s.setCluster n c).tableSet = s.tableSet := rfl
@[simp] theorem State.setCluster_bitmapBase (s : State) (n : Nat) (c : Cluster) : (s.setCluster n c).bitmapBase = s.bitmapBase := rfl
@[simp] theorem State.setCluster_qslots (s : State) (n : Nat) (c : Cluster) : (s.setCluster n c).qslots = s.qslots := rfl
@[simp] theorem State.setCluster_mapOrder (s : State) (n : Nat) (c : Cluster) : (s.setCluster n c).mapOrder = s.mapOrder := rfl
@[simp] theorem State.setCluster_ports (s : State) (n : Nat) (c : Cluster) : (s.setCluster n c).ports = s.ports := rfl
@[simp] theorem State.setCluster_log (s : State) (n : Nat) (c : Cluster) : (s.setCluster n c).log = s.log := rfl
@[simp] theorem State.setCluster_logCount (s : State) (n : Nat) (c : Cluster) : (s.setCluster n c).logCount = s.logCount := rfl
@[simp] theorem State.setCluster_corrected (s : State) (n : Nat) (c : Cluster) : (s.setCluster n c).corrected = s.corrected := rfl
@[simp] theorem State.setCluster_splits (s : State) (n : Nat) (c : Cluster) : (s.setCluster n c).splits = s.splits := rfl
@[simp] theorem State.setCluster_parts (s : State) (n : Nat) (c : Cluster) : (s.setCluster n c).parts = s.parts := rfl
@[simp] theorem State.setCluster_launches (s : State) (n : Nat) (c : Cluster) : (s.setCluster n c).launches = s.launches := rfl
@[simp] theorem State.setCluster_launchCtr (s : State) (n : Nat) (c : Cluster) : (s.setCluster n c).launchCtr = s.launchCtr := rfl
@[simp] theorem State.setCluster_strands (s : State) (n : Nat) (c : Cluster) : (s.setCluster n c).strands = s.strands := rfl
@[simp] theorem State.setCluster_cores (s : State) (n : Nat) (c : Cluster) : (s.setCluster n c).cores = s.cores := rfl
@[simp] theorem State.setCluster_cells (s : State) (n : Nat) (c : Cluster) : (s.setCluster n c).cells = s.cells := rfl
@[simp] theorem State.setCluster_clusters (s : State) (n : Nat) (c : Cluster) : (s.setCluster n c).clusters = s.clusters.put n c := rfl
@[simp] theorem State.setCluster_releases (s : State) (n : Nat) (c : Cluster) : (s.setCluster n c).releases = s.releases := rfl
@[simp] theorem State.setCluster_flight (s : State) (n : Nat) (c : Cluster) : (s.setCluster n c).flight = s.flight := rfl
@[simp] theorem State.setCluster_passed (s : State) (n : Nat) (c : Cluster) : (s.setCluster n c).passed = s.passed := rfl
@[simp] theorem State.setCluster_waits (s : State) (n : Nat) (c : Cluster) : (s.setCluster n c).waits = s.waits := rfl
@[simp] theorem State.setCluster_monitors (s : State) (n : Nat) (c : Cluster) : (s.setCluster n c).monitors = s.monitors := rfl
@[simp] theorem State.setCluster_copies (s : State) (n : Nat) (c : Cluster) : (s.setCluster n c).copies = s.copies := rfl
@[simp] theorem State.setCluster_orphans (s : State) (n : Nat) (c : Cluster) : (s.setCluster n c).orphans = s.orphans := rfl
@[simp] theorem State.setCluster_landings (s : State) (n : Nat) (c : Cluster) : (s.setCluster n c).landings = s.landings := rfl
@[simp] theorem State.setCluster_discards (s : State) (n : Nat) (c : Cluster) : (s.setCluster n c).discards = s.discards := rfl
@[simp] theorem State.setCluster_cmdCtr (s : State) (n : Nat) (c : Cluster) : (s.setCluster n c).cmdCtr = s.cmdCtr := rfl
@[simp] theorem State.setCluster_dir (s : State) (n : Nat) (c : Cluster) : (s.setCluster n c).dir = s.dir := rfl
@[simp] theorem State.setCluster_dirNodes (s : State) (n : Nat) (c : Cluster) : (s.setCluster n c).dirNodes = s.dirNodes := rfl
@[simp] theorem State.setCluster_llc (s : State) (n : Nat) (c : Cluster) : (s.setCluster n c).llc = s.llc := rfl
@[simp] theorem State.setCluster_heldWrites (s : State) (n : Nat) (c : Cluster) : (s.setCluster n c).heldWrites = s.heldWrites := rfl
@[simp] theorem State.setCluster_hbm (s : State) (n : Nat) (c : Cluster) : (s.setCluster n c).hbm = s.hbm := rfl
@[simp] theorem State.setCluster_host (s : State) (n : Nat) (c : Cluster) : (s.setCluster n c).host = s.host := rfl
@[simp] theorem State.setCluster_scratch (s : State) (n : Nat) (c : Cluster) : (s.setCluster n c).scratch = s.scratch := rfl
@[simp] theorem State.setCluster_chip (s : State) (n : Nat) (c : Cluster) : (s.setCluster n c).chip = s.chip := rfl

/-! ### A partition is written -/

@[simp] theorem State.setPart_agenda (s : State) (p : Nat) (q : Partition) : (s.setPart p q).agenda = s.agenda := rfl
@[simp] theorem State.setPart_cur (s : State) (p : Nat) (q : Partition) : (s.setPart p q).cur = s.cur := rfl
@[simp] theorem State.setPart_op (s : State) (p : Nat) (q : Partition) : (s.setPart p q).op = s.op := rfl
@[simp] theorem State.setPart_freeCtr (s : State) (p : Nat) (q : Partition) : (s.setPart p q).freeCtr = s.freeCtr := rfl
@[simp] theorem State.setPart_out (s : State) (p : Nat) (q : Partition) : (s.setPart p q).out = s.out := rfl
@[simp] theorem State.setPart_tick (s : State) (p : Nat) (q : Partition) : (s.setPart p q).tick = s.tick := rfl
@[simp] theorem State.setPart_boot (s : State) (p : Nat) (q : Partition) : (s.setPart p q).boot = s.boot := rfl
@[simp] theorem State.setPart_failStage (s : State) (p : Nat) (q : Partition) : (s.setPart p q).failStage = s.failStage := rfl
@[simp] theorem State.setPart_debugUnlocked (s : State) (p : Nat) (q : Partition) : (s.setPart p q).debugUnlocked = s.debugUnlocked := rfl
@[simp] theorem State.setPart_measure (s : State) (p : Nat) (q : Partition) : (s.setPart p q).measure = s.measure := rfl
@[simp] theorem State.setPart_ide (s : State) (p : Nat) (q : Partition) : (s.setPart p q).ide = s.ide := rfl
@[simp] theorem State.setPart_hostSpdm (s : State) (p : Nat) (q : Partition) : (s.setPart p q).hostSpdm = s.hostSpdm := rfl
@[simp] theorem State.setPart_epoch (s : State) (p : Nat) (q : Partition) : (s.setPart p q).epoch = s.epoch := rfl
@[simp] theorem State.setPart_time (s : State) (p : Nat) (q : Partition) : (s.setPart p q).time = s.time := rfl
@[simp] theorem State.setPart_power (s : State) (p : Nat) (q : Partition) : (s.setPart p q).power = s.power := rfl
@[simp] theorem State.setPart_tableBase (s : State) (p : Nat) (q : Partition) : (s.setPart p q).tableBase = s.tableBase := rfl
@[simp] theorem State.setPart_tableSet (s : State) (p : Nat) (q : Partition) : (s.setPart p q).tableSet = s.tableSet := rfl
@[simp] theorem State.setPart_bitmapBase (s : State) (p : Nat) (q : Partition) : (s.setPart p q).bitmapBase = s.bitmapBase := rfl
@[simp] theorem State.setPart_qslots (s : State) (p : Nat) (q : Partition) : (s.setPart p q).qslots = s.qslots := rfl
@[simp] theorem State.setPart_mapOrder (s : State) (p : Nat) (q : Partition) : (s.setPart p q).mapOrder = s.mapOrder := rfl
@[simp] theorem State.setPart_ports (s : State) (p : Nat) (q : Partition) : (s.setPart p q).ports = s.ports := rfl
@[simp] theorem State.setPart_log (s : State) (p : Nat) (q : Partition) : (s.setPart p q).log = s.log := rfl
@[simp] theorem State.setPart_logCount (s : State) (p : Nat) (q : Partition) : (s.setPart p q).logCount = s.logCount := rfl
@[simp] theorem State.setPart_corrected (s : State) (p : Nat) (q : Partition) : (s.setPart p q).corrected = s.corrected := rfl
@[simp] theorem State.setPart_splits (s : State) (p : Nat) (q : Partition) : (s.setPart p q).splits = s.splits := rfl
@[simp] theorem State.setPart_parts (s : State) (p : Nat) (q : Partition) : (s.setPart p q).parts = s.parts.put p q := rfl
@[simp] theorem State.setPart_launches (s : State) (p : Nat) (q : Partition) : (s.setPart p q).launches = s.launches := rfl
@[simp] theorem State.setPart_launchCtr (s : State) (p : Nat) (q : Partition) : (s.setPart p q).launchCtr = s.launchCtr := rfl
@[simp] theorem State.setPart_strands (s : State) (p : Nat) (q : Partition) : (s.setPart p q).strands = s.strands := rfl
@[simp] theorem State.setPart_cores (s : State) (p : Nat) (q : Partition) : (s.setPart p q).cores = s.cores := rfl
@[simp] theorem State.setPart_cells (s : State) (p : Nat) (q : Partition) : (s.setPart p q).cells = s.cells := rfl
@[simp] theorem State.setPart_clusters (s : State) (p : Nat) (q : Partition) : (s.setPart p q).clusters = s.clusters := rfl
@[simp] theorem State.setPart_releases (s : State) (p : Nat) (q : Partition) : (s.setPart p q).releases = s.releases := rfl
@[simp] theorem State.setPart_flight (s : State) (p : Nat) (q : Partition) : (s.setPart p q).flight = s.flight := rfl
@[simp] theorem State.setPart_passed (s : State) (p : Nat) (q : Partition) : (s.setPart p q).passed = s.passed := rfl
@[simp] theorem State.setPart_waits (s : State) (p : Nat) (q : Partition) : (s.setPart p q).waits = s.waits := rfl
@[simp] theorem State.setPart_monitors (s : State) (p : Nat) (q : Partition) : (s.setPart p q).monitors = s.monitors := rfl
@[simp] theorem State.setPart_copies (s : State) (p : Nat) (q : Partition) : (s.setPart p q).copies = s.copies := rfl
@[simp] theorem State.setPart_orphans (s : State) (p : Nat) (q : Partition) : (s.setPart p q).orphans = s.orphans := rfl
@[simp] theorem State.setPart_landings (s : State) (p : Nat) (q : Partition) : (s.setPart p q).landings = s.landings := rfl
@[simp] theorem State.setPart_discards (s : State) (p : Nat) (q : Partition) : (s.setPart p q).discards = s.discards := rfl
@[simp] theorem State.setPart_cmdCtr (s : State) (p : Nat) (q : Partition) : (s.setPart p q).cmdCtr = s.cmdCtr := rfl
@[simp] theorem State.setPart_dir (s : State) (p : Nat) (q : Partition) : (s.setPart p q).dir = s.dir := rfl
@[simp] theorem State.setPart_dirNodes (s : State) (p : Nat) (q : Partition) : (s.setPart p q).dirNodes = s.dirNodes := rfl
@[simp] theorem State.setPart_llc (s : State) (p : Nat) (q : Partition) : (s.setPart p q).llc = s.llc := rfl
@[simp] theorem State.setPart_heldWrites (s : State) (p : Nat) (q : Partition) : (s.setPart p q).heldWrites = s.heldWrites := rfl
@[simp] theorem State.setPart_hbm (s : State) (p : Nat) (q : Partition) : (s.setPart p q).hbm = s.hbm := rfl
@[simp] theorem State.setPart_host (s : State) (p : Nat) (q : Partition) : (s.setPart p q).host = s.host := rfl
@[simp] theorem State.setPart_scratch (s : State) (p : Nat) (q : Partition) : (s.setPart p q).scratch = s.scratch := rfl
@[simp] theorem State.setPart_chip (s : State) (p : Nat) (q : Partition) : (s.setPart p q).chip = s.chip := rfl

/-! ### A message is sent -/

@[simp] theorem State.send_agenda (s : State) (m : Msg) : (s.send m).agenda = s.agenda := rfl
@[simp] theorem State.send_cur (s : State) (m : Msg) : (s.send m).cur = s.cur := rfl
@[simp] theorem State.send_op (s : State) (m : Msg) : (s.send m).op = s.op := rfl
@[simp] theorem State.send_freeCtr (s : State) (m : Msg) : (s.send m).freeCtr = s.freeCtr := rfl
@[simp] theorem State.send_out (s : State) (m : Msg) : (s.send m).out = s.out := rfl
@[simp] theorem State.send_tick (s : State) (m : Msg) : (s.send m).tick = s.tick := rfl
@[simp] theorem State.send_boot (s : State) (m : Msg) : (s.send m).boot = s.boot := rfl
@[simp] theorem State.send_failStage (s : State) (m : Msg) : (s.send m).failStage = s.failStage := rfl
@[simp] theorem State.send_debugUnlocked (s : State) (m : Msg) : (s.send m).debugUnlocked = s.debugUnlocked := rfl
@[simp] theorem State.send_measure (s : State) (m : Msg) : (s.send m).measure = s.measure := rfl
@[simp] theorem State.send_ide (s : State) (m : Msg) : (s.send m).ide = s.ide := rfl
@[simp] theorem State.send_hostSpdm (s : State) (m : Msg) : (s.send m).hostSpdm = s.hostSpdm := rfl
@[simp] theorem State.send_epoch (s : State) (m : Msg) : (s.send m).epoch = s.epoch := rfl
@[simp] theorem State.send_time (s : State) (m : Msg) : (s.send m).time = s.time := rfl
@[simp] theorem State.send_power (s : State) (m : Msg) : (s.send m).power = s.power := rfl
@[simp] theorem State.send_tableBase (s : State) (m : Msg) : (s.send m).tableBase = s.tableBase := rfl
@[simp] theorem State.send_tableSet (s : State) (m : Msg) : (s.send m).tableSet = s.tableSet := rfl
@[simp] theorem State.send_bitmapBase (s : State) (m : Msg) : (s.send m).bitmapBase = s.bitmapBase := rfl
@[simp] theorem State.send_qslots (s : State) (m : Msg) : (s.send m).qslots = s.qslots := rfl
@[simp] theorem State.send_mapOrder (s : State) (m : Msg) : (s.send m).mapOrder = s.mapOrder := rfl
@[simp] theorem State.send_ports (s : State) (m : Msg) : (s.send m).ports = s.ports := rfl
@[simp] theorem State.send_log (s : State) (m : Msg) : (s.send m).log = s.log := rfl
@[simp] theorem State.send_logCount (s : State) (m : Msg) : (s.send m).logCount = s.logCount := rfl
@[simp] theorem State.send_corrected (s : State) (m : Msg) : (s.send m).corrected = s.corrected := rfl
@[simp] theorem State.send_splits (s : State) (m : Msg) : (s.send m).splits = s.splits := rfl
@[simp] theorem State.send_parts (s : State) (m : Msg) : (s.send m).parts = s.parts := rfl
@[simp] theorem State.send_launches (s : State) (m : Msg) : (s.send m).launches = s.launches := rfl
@[simp] theorem State.send_launchCtr (s : State) (m : Msg) : (s.send m).launchCtr = s.launchCtr := rfl
@[simp] theorem State.send_strands (s : State) (m : Msg) : (s.send m).strands = s.strands := rfl
@[simp] theorem State.send_cores (s : State) (m : Msg) : (s.send m).cores = s.cores := rfl
@[simp] theorem State.send_cells (s : State) (m : Msg) : (s.send m).cells = s.cells := rfl
@[simp] theorem State.send_clusters (s : State) (m : Msg) : (s.send m).clusters = s.clusters := rfl
@[simp] theorem State.send_releases (s : State) (m : Msg) : (s.send m).releases = s.releases := rfl
@[simp] theorem State.send_flight (s : State) (m : Msg) : (s.send m).flight = s.flight ++ [m] := rfl
@[simp] theorem State.send_passed (s : State) (m : Msg) : (s.send m).passed = s.passed := rfl
@[simp] theorem State.send_waits (s : State) (m : Msg) : (s.send m).waits = s.waits := rfl
@[simp] theorem State.send_monitors (s : State) (m : Msg) : (s.send m).monitors = s.monitors := rfl
@[simp] theorem State.send_copies (s : State) (m : Msg) : (s.send m).copies = s.copies := rfl
@[simp] theorem State.send_orphans (s : State) (m : Msg) : (s.send m).orphans = s.orphans := rfl
@[simp] theorem State.send_landings (s : State) (m : Msg) : (s.send m).landings = s.landings := rfl
@[simp] theorem State.send_discards (s : State) (m : Msg) : (s.send m).discards = s.discards := rfl
@[simp] theorem State.send_cmdCtr (s : State) (m : Msg) : (s.send m).cmdCtr = s.cmdCtr := rfl
@[simp] theorem State.send_dir (s : State) (m : Msg) : (s.send m).dir = s.dir := rfl
@[simp] theorem State.send_dirNodes (s : State) (m : Msg) : (s.send m).dirNodes = s.dirNodes := rfl
@[simp] theorem State.send_llc (s : State) (m : Msg) : (s.send m).llc = s.llc := rfl
@[simp] theorem State.send_heldWrites (s : State) (m : Msg) : (s.send m).heldWrites = s.heldWrites := rfl
@[simp] theorem State.send_hbm (s : State) (m : Msg) : (s.send m).hbm = s.hbm := rfl
@[simp] theorem State.send_host (s : State) (m : Msg) : (s.send m).host = s.host := rfl
@[simp] theorem State.send_scratch (s : State) (m : Msg) : (s.send m).scratch = s.scratch := rfl
@[simp] theorem State.send_chip (s : State) (m : Msg) : (s.send m).chip = s.chip := rfl

/-! ### Something goes outside -/

@[simp] theorem State.emit_agenda (s : State) (q : Output) : (s.emit q).agenda = s.agenda := rfl
@[simp] theorem State.emit_cur (s : State) (q : Output) : (s.emit q).cur = s.cur := rfl
@[simp] theorem State.emit_op (s : State) (q : Output) : (s.emit q).op = s.op := rfl
@[simp] theorem State.emit_freeCtr (s : State) (q : Output) : (s.emit q).freeCtr = s.freeCtr := rfl
@[simp] theorem State.emit_out (s : State) (q : Output) : (s.emit q).out = s.out ++ [q] := rfl
@[simp] theorem State.emit_tick (s : State) (q : Output) : (s.emit q).tick = s.tick := rfl
@[simp] theorem State.emit_boot (s : State) (q : Output) : (s.emit q).boot = s.boot := rfl
@[simp] theorem State.emit_failStage (s : State) (q : Output) : (s.emit q).failStage = s.failStage := rfl
@[simp] theorem State.emit_debugUnlocked (s : State) (q : Output) : (s.emit q).debugUnlocked = s.debugUnlocked := rfl
@[simp] theorem State.emit_measure (s : State) (q : Output) : (s.emit q).measure = s.measure := rfl
@[simp] theorem State.emit_ide (s : State) (q : Output) : (s.emit q).ide = s.ide := rfl
@[simp] theorem State.emit_hostSpdm (s : State) (q : Output) : (s.emit q).hostSpdm = s.hostSpdm := rfl
@[simp] theorem State.emit_epoch (s : State) (q : Output) : (s.emit q).epoch = s.epoch := rfl
@[simp] theorem State.emit_time (s : State) (q : Output) : (s.emit q).time = s.time := rfl
@[simp] theorem State.emit_power (s : State) (q : Output) : (s.emit q).power = s.power := rfl
@[simp] theorem State.emit_tableBase (s : State) (q : Output) : (s.emit q).tableBase = s.tableBase := rfl
@[simp] theorem State.emit_tableSet (s : State) (q : Output) : (s.emit q).tableSet = s.tableSet := rfl
@[simp] theorem State.emit_bitmapBase (s : State) (q : Output) : (s.emit q).bitmapBase = s.bitmapBase := rfl
@[simp] theorem State.emit_qslots (s : State) (q : Output) : (s.emit q).qslots = s.qslots := rfl
@[simp] theorem State.emit_mapOrder (s : State) (q : Output) : (s.emit q).mapOrder = s.mapOrder := rfl
@[simp] theorem State.emit_ports (s : State) (q : Output) : (s.emit q).ports = s.ports := rfl
@[simp] theorem State.emit_log (s : State) (q : Output) : (s.emit q).log = s.log := rfl
@[simp] theorem State.emit_logCount (s : State) (q : Output) : (s.emit q).logCount = s.logCount := rfl
@[simp] theorem State.emit_corrected (s : State) (q : Output) : (s.emit q).corrected = s.corrected := rfl
@[simp] theorem State.emit_splits (s : State) (q : Output) : (s.emit q).splits = s.splits := rfl
@[simp] theorem State.emit_parts (s : State) (q : Output) : (s.emit q).parts = s.parts := rfl
@[simp] theorem State.emit_launches (s : State) (q : Output) : (s.emit q).launches = s.launches := rfl
@[simp] theorem State.emit_launchCtr (s : State) (q : Output) : (s.emit q).launchCtr = s.launchCtr := rfl
@[simp] theorem State.emit_strands (s : State) (q : Output) : (s.emit q).strands = s.strands := rfl
@[simp] theorem State.emit_cores (s : State) (q : Output) : (s.emit q).cores = s.cores := rfl
@[simp] theorem State.emit_cells (s : State) (q : Output) : (s.emit q).cells = s.cells := rfl
@[simp] theorem State.emit_clusters (s : State) (q : Output) : (s.emit q).clusters = s.clusters := rfl
@[simp] theorem State.emit_releases (s : State) (q : Output) : (s.emit q).releases = s.releases := rfl
@[simp] theorem State.emit_flight (s : State) (q : Output) : (s.emit q).flight = s.flight := rfl
@[simp] theorem State.emit_passed (s : State) (q : Output) : (s.emit q).passed = s.passed := rfl
@[simp] theorem State.emit_waits (s : State) (q : Output) : (s.emit q).waits = s.waits := rfl
@[simp] theorem State.emit_monitors (s : State) (q : Output) : (s.emit q).monitors = s.monitors := rfl
@[simp] theorem State.emit_copies (s : State) (q : Output) : (s.emit q).copies = s.copies := rfl
@[simp] theorem State.emit_orphans (s : State) (q : Output) : (s.emit q).orphans = s.orphans := rfl
@[simp] theorem State.emit_landings (s : State) (q : Output) : (s.emit q).landings = s.landings := rfl
@[simp] theorem State.emit_discards (s : State) (q : Output) : (s.emit q).discards = s.discards := rfl
@[simp] theorem State.emit_cmdCtr (s : State) (q : Output) : (s.emit q).cmdCtr = s.cmdCtr := rfl
@[simp] theorem State.emit_dir (s : State) (q : Output) : (s.emit q).dir = s.dir := rfl
@[simp] theorem State.emit_dirNodes (s : State) (q : Output) : (s.emit q).dirNodes = s.dirNodes := rfl
@[simp] theorem State.emit_llc (s : State) (q : Output) : (s.emit q).llc = s.llc := rfl
@[simp] theorem State.emit_heldWrites (s : State) (q : Output) : (s.emit q).heldWrites = s.heldWrites := rfl
@[simp] theorem State.emit_hbm (s : State) (q : Output) : (s.emit q).hbm = s.hbm := rfl
@[simp] theorem State.emit_host (s : State) (q : Output) : (s.emit q).host = s.host := rfl
@[simp] theorem State.emit_scratch (s : State) (q : Output) : (s.emit q).scratch = s.scratch := rfl
@[simp] theorem State.emit_chip (s : State) (q : Output) : (s.emit q).chip = s.chip := rfl

/-! ### A stored CSR is written -/

@[simp] theorem Strand.setCsr_id (x : Strand) (c : BitVec 7) (w : W64) : (x.setCsr c w).id = x.id := rfl
@[simp] theorem Strand.setCsr_phase (x : Strand) (c : BitVec 7) (w : W64) : (x.setCsr c w).phase = x.phase := rfl
@[simp] theorem Strand.setCsr_pc (x : Strand) (c : BitVec 7) (w : W64) : (x.setCsr c w).pc = x.pc := rfl
@[simp] theorem Strand.setCsr_g (x : Strand) (c : BitVec 7) (w : W64) : (x.setCsr c w).g = x.g := rfl
@[simp] theorem Strand.setCsr_v (x : Strand) (c : BitVec 7) (w : W64) : (x.setCsr c w).v = x.v := rfl
@[simp] theorem Strand.setCsr_p (x : Strand) (c : BitVec 7) (w : W64) : (x.setCsr c w).p = x.p := rfl
@[simp] theorem Strand.setCsr_csr (x : Strand) (c : BitVec 7) (w : W64) : (x.setCsr c w).csr = x.csr.set c.toNat w c.isLt := rfl
@[simp] theorem Strand.setCsr_streams (x : Strand) (c : BitVec 7) (w : W64) : (x.setCsr c w).streams = x.streams := rfl
@[simp] theorem Strand.setCsr_spools (x : Strand) (c : BitVec 7) (w : W64) : (x.setCsr c w).spools = x.spools := rfl
@[simp] theorem Strand.setCsr_bobbin (x : Strand) (c : BitVec 7) (w : W64) : (x.setCsr c w).bobbin = x.bobbin := rfl
@[simp] theorem Strand.setCsr_holding (x : Strand) (c : BitVec 7) (w : W64) : (x.setCsr c w).holding = x.holding := rfl
@[simp] theorem Strand.setCsr_baseGran (x : Strand) (c : BitVec 7) (w : W64) : (x.setCsr c w).baseGran = x.baseGran := rfl
@[simp] theorem Strand.setCsr_spanEnd (x : Strand) (c : BitVec 7) (w : W64) : (x.setCsr c w).spanEnd = x.spanEnd := rfl
@[simp] theorem Strand.setCsr_granAbsent (x : Strand) (c : BitVec 7) (w : W64) : (x.setCsr c w).granAbsent = x.granAbsent := rfl
@[simp] theorem Strand.setCsr_granDirty (x : Strand) (c : BitVec 7) (w : W64) : (x.setCsr c w).granDirty = x.granDirty := rfl
@[simp] theorem Strand.setCsr_lineAbsent (x : Strand) (c : BitVec 7) (w : W64) : (x.setCsr c w).lineAbsent = x.lineAbsent := rfl
@[simp] theorem Strand.setCsr_lineClean (x : Strand) (c : BitVec 7) (w : W64) : (x.setCsr c w).lineClean = x.lineClean := rfl
@[simp] theorem Strand.setCsr_vq (x : Strand) (c : BitVec 7) (w : W64) : (x.setCsr c w).vq = x.vq := rfl
@[simp] theorem Strand.setCsr_mq (x : Strand) (c : BitVec 7) (w : W64) : (x.setCsr c w).mq = x.mq := rfl
@[simp] theorem Strand.setCsr_cq (x : Strand) (c : BitVec 7) (w : W64) : (x.setCsr c w).cq = x.cq := rfl
@[simp] theorem Strand.setCsr_cache (x : Strand) (c : BitVec 7) (w : W64) : (x.setCsr c w).cache = x.cache := rfl
@[simp] theorem Strand.setCsr_fillBuf (x : Strand) (c : BitVec 7) (w : W64) : (x.setCsr c w).fillBuf = x.fillBuf := rfl
@[simp] theorem Strand.setCsr_plb (x : Strand) (c : BitVec 7) (w : W64) : (x.setCsr c w).plb = x.plb := rfl
@[simp] theorem Strand.setCsr_unacked (x : Strand) (c : BitVec 7) (w : W64) : (x.setCsr c w).unacked = x.unacked := rfl
@[simp] theorem Strand.setCsr_released (x : Strand) (c : BitVec 7) (w : W64) : (x.setCsr c w).released = x.released := rfl
@[simp] theorem Strand.setCsr_wait (x : Strand) (c : BitVec 7) (w : W64) : (x.setCsr c w).wait = x.wait := rfl
@[simp] theorem Strand.setCsr_begun (x : Strand) (c : BitVec 7) (w : W64) : (x.setCsr c w).begun = x.begun := rfl
@[simp] theorem Strand.setCsr_reply (x : Strand) (c : BitVec 7) (w : W64) : (x.setCsr c w).reply = x.reply := rfl
@[simp] theorem Strand.setCsr_stash (x : Strand) (c : BitVec 7) (w : W64) : (x.setCsr c w).stash = x.stash := rfl
@[simp] theorem Strand.setCsr_arrivals (x : Strand) (c : BitVec 7) (w : W64) : (x.setCsr c w).arrivals = x.arrivals := rfl
@[simp] theorem Strand.setCsr_held (x : Strand) (c : BitVec 7) (w : W64) : (x.setCsr c w).held = x.held := rfl
@[simp] theorem Strand.setCsr_exch (x : Strand) (c : BitVec 7) (w : W64) : (x.setCsr c w).exch = x.exch := rfl
@[simp] theorem Strand.setCsr_gang (x : Strand) (c : BitVec 7) (w : W64) : (x.setCsr c w).gang = x.gang := rfl
@[simp] theorem Strand.setCsr_async (x : Strand) (c : BitVec 7) (w : W64) : (x.setCsr c w).async = x.async := rfl
@[simp] theorem Strand.setCsr_gen (x : Strand) (c : BitVec 7) (w : W64) : (x.setCsr c w).gen = x.gen := rfl
@[simp] theorem Strand.setCsr_now (x : Strand) (c : BitVec 7) (w : W64) : (x.setCsr c w).now = x.now := rfl
@[simp] theorem Strand.setCsr_gRdy (x : Strand) (c : BitVec 7) (w : W64) : (x.setCsr c w).gRdy = x.gRdy := rfl
@[simp] theorem Strand.setCsr_vRdy (x : Strand) (c : BitVec 7) (w : W64) : (x.setCsr c w).vRdy = x.vRdy := rfl
@[simp] theorem Strand.setCsr_gPend (x : Strand) (c : BitVec 7) (w : W64) : (x.setCsr c w).gPend = x.gPend := rfl
@[simp] theorem Strand.setCsr_evts (x : Strand) (c : BitVec 7) (w : W64) : (x.setCsr c w).evts = x.evts := rfl
@[simp] theorem Strand.setCsr_halted (x : Strand) (c : BitVec 7) (w : W64) : (x.setCsr c w).halted = x.halted := rfl
@[simp] theorem Strand.setCsr_stepping (x : Strand) (c : BitVec 7) (w : W64) : (x.setCsr c w).stepping = x.stepping := rfl
@[simp] theorem Strand.setCsr_haltReq (x : Strand) (c : BitVec 7) (w : W64) : (x.setCsr c w).haltReq = x.haltReq := rfl
@[simp] theorem Strand.setCsr_stopReq (x : Strand) (c : BitVec 7) (w : W64) : (x.setCsr c w).stopReq = x.stopReq := rfl
@[simp] theorem Strand.setCsr_after (x : Strand) (c : BitVec 7) (w : W64) : (x.setCsr c w).after = x.after := rfl

/-! ### An event is counted -/

@[simp] theorem Strand.count_id (x : Strand) (e : BitVec 4) (k : Nat) : (x.count e k).id = x.id := rfl
@[simp] theorem Strand.count_phase (x : Strand) (e : BitVec 4) (k : Nat) : (x.count e k).phase = x.phase := rfl
@[simp] theorem Strand.count_pc (x : Strand) (e : BitVec 4) (k : Nat) : (x.count e k).pc = x.pc := rfl
@[simp] theorem Strand.count_g (x : Strand) (e : BitVec 4) (k : Nat) : (x.count e k).g = x.g := rfl
@[simp] theorem Strand.count_v (x : Strand) (e : BitVec 4) (k : Nat) : (x.count e k).v = x.v := rfl
@[simp] theorem Strand.count_p (x : Strand) (e : BitVec 4) (k : Nat) : (x.count e k).p = x.p := rfl
@[simp] theorem Strand.count_csr (x : Strand) (e : BitVec 4) (k : Nat) : (x.count e k).csr = x.csr := rfl
@[simp] theorem Strand.count_streams (x : Strand) (e : BitVec 4) (k : Nat) : (x.count e k).streams = x.streams := rfl
@[simp] theorem Strand.count_spools (x : Strand) (e : BitVec 4) (k : Nat) : (x.count e k).spools = x.spools := rfl
@[simp] theorem Strand.count_bobbin (x : Strand) (e : BitVec 4) (k : Nat) : (x.count e k).bobbin = x.bobbin := rfl
@[simp] theorem Strand.count_holding (x : Strand) (e : BitVec 4) (k : Nat) : (x.count e k).holding = x.holding := rfl
@[simp] theorem Strand.count_baseGran (x : Strand) (e : BitVec 4) (k : Nat) : (x.count e k).baseGran = x.baseGran := rfl
@[simp] theorem Strand.count_spanEnd (x : Strand) (e : BitVec 4) (k : Nat) : (x.count e k).spanEnd = x.spanEnd := rfl
@[simp] theorem Strand.count_granAbsent (x : Strand) (e : BitVec 4) (k : Nat) : (x.count e k).granAbsent = x.granAbsent := rfl
@[simp] theorem Strand.count_granDirty (x : Strand) (e : BitVec 4) (k : Nat) : (x.count e k).granDirty = x.granDirty := rfl
@[simp] theorem Strand.count_lineAbsent (x : Strand) (e : BitVec 4) (k : Nat) : (x.count e k).lineAbsent = x.lineAbsent := rfl
@[simp] theorem Strand.count_lineClean (x : Strand) (e : BitVec 4) (k : Nat) : (x.count e k).lineClean = x.lineClean := rfl
@[simp] theorem Strand.count_vq (x : Strand) (e : BitVec 4) (k : Nat) : (x.count e k).vq = x.vq := rfl
@[simp] theorem Strand.count_mq (x : Strand) (e : BitVec 4) (k : Nat) : (x.count e k).mq = x.mq := rfl
@[simp] theorem Strand.count_cq (x : Strand) (e : BitVec 4) (k : Nat) : (x.count e k).cq = x.cq := rfl
@[simp] theorem Strand.count_cache (x : Strand) (e : BitVec 4) (k : Nat) : (x.count e k).cache = x.cache := rfl
@[simp] theorem Strand.count_fillBuf (x : Strand) (e : BitVec 4) (k : Nat) : (x.count e k).fillBuf = x.fillBuf := rfl
@[simp] theorem Strand.count_plb (x : Strand) (e : BitVec 4) (k : Nat) : (x.count e k).plb = x.plb := rfl
@[simp] theorem Strand.count_unacked (x : Strand) (e : BitVec 4) (k : Nat) : (x.count e k).unacked = x.unacked := rfl
@[simp] theorem Strand.count_released (x : Strand) (e : BitVec 4) (k : Nat) : (x.count e k).released = x.released := rfl
@[simp] theorem Strand.count_wait (x : Strand) (e : BitVec 4) (k : Nat) : (x.count e k).wait = x.wait := rfl
@[simp] theorem Strand.count_begun (x : Strand) (e : BitVec 4) (k : Nat) : (x.count e k).begun = x.begun := rfl
@[simp] theorem Strand.count_reply (x : Strand) (e : BitVec 4) (k : Nat) : (x.count e k).reply = x.reply := rfl
@[simp] theorem Strand.count_stash (x : Strand) (e : BitVec 4) (k : Nat) : (x.count e k).stash = x.stash := rfl
@[simp] theorem Strand.count_arrivals (x : Strand) (e : BitVec 4) (k : Nat) : (x.count e k).arrivals = x.arrivals := rfl
@[simp] theorem Strand.count_held (x : Strand) (e : BitVec 4) (k : Nat) : (x.count e k).held = x.held := rfl
@[simp] theorem Strand.count_exch (x : Strand) (e : BitVec 4) (k : Nat) : (x.count e k).exch = x.exch := rfl
@[simp] theorem Strand.count_gang (x : Strand) (e : BitVec 4) (k : Nat) : (x.count e k).gang = x.gang := rfl
@[simp] theorem Strand.count_async (x : Strand) (e : BitVec 4) (k : Nat) : (x.count e k).async = x.async := rfl
@[simp] theorem Strand.count_gen (x : Strand) (e : BitVec 4) (k : Nat) : (x.count e k).gen = x.gen := rfl
@[simp] theorem Strand.count_now (x : Strand) (e : BitVec 4) (k : Nat) : (x.count e k).now = x.now := rfl
@[simp] theorem Strand.count_gRdy (x : Strand) (e : BitVec 4) (k : Nat) : (x.count e k).gRdy = x.gRdy := rfl
@[simp] theorem Strand.count_vRdy (x : Strand) (e : BitVec 4) (k : Nat) : (x.count e k).vRdy = x.vRdy := rfl
@[simp] theorem Strand.count_gPend (x : Strand) (e : BitVec 4) (k : Nat) : (x.count e k).gPend = x.gPend := rfl
@[simp] theorem Strand.count_evts (x : Strand) (e : BitVec 4) (k : Nat) : (x.count e k).evts = x.evts.set e.toNat (x.evts[e.toNat]'e.isLt + k) e.isLt := rfl
@[simp] theorem Strand.count_halted (x : Strand) (e : BitVec 4) (k : Nat) : (x.count e k).halted = x.halted := rfl
@[simp] theorem Strand.count_stepping (x : Strand) (e : BitVec 4) (k : Nat) : (x.count e k).stepping = x.stepping := rfl
@[simp] theorem Strand.count_haltReq (x : Strand) (e : BitVec 4) (k : Nat) : (x.count e k).haltReq = x.haltReq := rfl
@[simp] theorem Strand.count_stopReq (x : Strand) (e : BitVec 4) (k : Nat) : (x.count e k).stopReq = x.stopReq := rfl
@[simp] theorem Strand.count_after (x : Strand) (e : BitVec 4) (k : Nat) : (x.count e k).after = x.after := rfl

/-! ### A vector register is written -/

@[simp] theorem Strand.setV_id (x : Strand) (r : BitVec 7) (w : W512) : (x.setV r w).id = x.id := rfl
@[simp] theorem Strand.setV_phase (x : Strand) (r : BitVec 7) (w : W512) : (x.setV r w).phase = x.phase := rfl
@[simp] theorem Strand.setV_pc (x : Strand) (r : BitVec 7) (w : W512) : (x.setV r w).pc = x.pc := rfl
@[simp] theorem Strand.setV_g (x : Strand) (r : BitVec 7) (w : W512) : (x.setV r w).g = x.g := rfl
@[simp] theorem Strand.setV_v (x : Strand) (r : BitVec 7) (w : W512) : (x.setV r w).v = x.v.set r.toNat w r.isLt := rfl
@[simp] theorem Strand.setV_p (x : Strand) (r : BitVec 7) (w : W512) : (x.setV r w).p = x.p := rfl
@[simp] theorem Strand.setV_csr (x : Strand) (r : BitVec 7) (w : W512) : (x.setV r w).csr = x.csr := rfl
@[simp] theorem Strand.setV_streams (x : Strand) (r : BitVec 7) (w : W512) : (x.setV r w).streams = x.streams := rfl
@[simp] theorem Strand.setV_spools (x : Strand) (r : BitVec 7) (w : W512) : (x.setV r w).spools = x.spools := rfl
@[simp] theorem Strand.setV_bobbin (x : Strand) (r : BitVec 7) (w : W512) : (x.setV r w).bobbin = x.bobbin := rfl
@[simp] theorem Strand.setV_holding (x : Strand) (r : BitVec 7) (w : W512) : (x.setV r w).holding = x.holding := rfl
@[simp] theorem Strand.setV_baseGran (x : Strand) (r : BitVec 7) (w : W512) : (x.setV r w).baseGran = x.baseGran := rfl
@[simp] theorem Strand.setV_spanEnd (x : Strand) (r : BitVec 7) (w : W512) : (x.setV r w).spanEnd = x.spanEnd := rfl
@[simp] theorem Strand.setV_granAbsent (x : Strand) (r : BitVec 7) (w : W512) : (x.setV r w).granAbsent = x.granAbsent := rfl
@[simp] theorem Strand.setV_granDirty (x : Strand) (r : BitVec 7) (w : W512) : (x.setV r w).granDirty = x.granDirty ||| (1#16 <<< (r.toNat / 8)) := rfl
@[simp] theorem Strand.setV_lineAbsent (x : Strand) (r : BitVec 7) (w : W512) : (x.setV r w).lineAbsent = x.lineAbsent := rfl
@[simp] theorem Strand.setV_lineClean (x : Strand) (r : BitVec 7) (w : W512) : (x.setV r w).lineClean = x.lineClean := rfl
@[simp] theorem Strand.setV_vq (x : Strand) (r : BitVec 7) (w : W512) : (x.setV r w).vq = x.vq := rfl
@[simp] theorem Strand.setV_mq (x : Strand) (r : BitVec 7) (w : W512) : (x.setV r w).mq = x.mq := rfl
@[simp] theorem Strand.setV_cq (x : Strand) (r : BitVec 7) (w : W512) : (x.setV r w).cq = x.cq := rfl
@[simp] theorem Strand.setV_cache (x : Strand) (r : BitVec 7) (w : W512) : (x.setV r w).cache = x.cache := rfl
@[simp] theorem Strand.setV_fillBuf (x : Strand) (r : BitVec 7) (w : W512) : (x.setV r w).fillBuf = x.fillBuf := rfl
@[simp] theorem Strand.setV_plb (x : Strand) (r : BitVec 7) (w : W512) : (x.setV r w).plb = x.plb := rfl
@[simp] theorem Strand.setV_unacked (x : Strand) (r : BitVec 7) (w : W512) : (x.setV r w).unacked = x.unacked := rfl
@[simp] theorem Strand.setV_released (x : Strand) (r : BitVec 7) (w : W512) : (x.setV r w).released = x.released := rfl
@[simp] theorem Strand.setV_wait (x : Strand) (r : BitVec 7) (w : W512) : (x.setV r w).wait = x.wait := rfl
@[simp] theorem Strand.setV_begun (x : Strand) (r : BitVec 7) (w : W512) : (x.setV r w).begun = x.begun := rfl
@[simp] theorem Strand.setV_reply (x : Strand) (r : BitVec 7) (w : W512) : (x.setV r w).reply = x.reply := rfl
@[simp] theorem Strand.setV_stash (x : Strand) (r : BitVec 7) (w : W512) : (x.setV r w).stash = x.stash := rfl
@[simp] theorem Strand.setV_arrivals (x : Strand) (r : BitVec 7) (w : W512) : (x.setV r w).arrivals = x.arrivals := rfl
@[simp] theorem Strand.setV_held (x : Strand) (r : BitVec 7) (w : W512) : (x.setV r w).held = x.held := rfl
@[simp] theorem Strand.setV_exch (x : Strand) (r : BitVec 7) (w : W512) : (x.setV r w).exch = x.exch := rfl
@[simp] theorem Strand.setV_gang (x : Strand) (r : BitVec 7) (w : W512) : (x.setV r w).gang = x.gang := rfl
@[simp] theorem Strand.setV_async (x : Strand) (r : BitVec 7) (w : W512) : (x.setV r w).async = x.async := rfl
@[simp] theorem Strand.setV_gen (x : Strand) (r : BitVec 7) (w : W512) : (x.setV r w).gen = x.gen := rfl
@[simp] theorem Strand.setV_now (x : Strand) (r : BitVec 7) (w : W512) : (x.setV r w).now = x.now := rfl
@[simp] theorem Strand.setV_gRdy (x : Strand) (r : BitVec 7) (w : W512) : (x.setV r w).gRdy = x.gRdy := rfl
@[simp] theorem Strand.setV_vRdy (x : Strand) (r : BitVec 7) (w : W512) : (x.setV r w).vRdy = x.vRdy := rfl
@[simp] theorem Strand.setV_gPend (x : Strand) (r : BitVec 7) (w : W512) : (x.setV r w).gPend = x.gPend := rfl
@[simp] theorem Strand.setV_evts (x : Strand) (r : BitVec 7) (w : W512) : (x.setV r w).evts = x.evts := rfl
@[simp] theorem Strand.setV_halted (x : Strand) (r : BitVec 7) (w : W512) : (x.setV r w).halted = x.halted := rfl
@[simp] theorem Strand.setV_stepping (x : Strand) (r : BitVec 7) (w : W512) : (x.setV r w).stepping = x.stepping := rfl
@[simp] theorem Strand.setV_haltReq (x : Strand) (r : BitVec 7) (w : W512) : (x.setV r w).haltReq = x.haltReq := rfl
@[simp] theorem Strand.setV_stopReq (x : Strand) (r : BitVec 7) (w : W512) : (x.setV r w).stopReq = x.stopReq := rfl
@[simp] theorem Strand.setV_after (x : Strand) (r : BitVec 7) (w : W512) : (x.setV r w).after = x.after := rfl

end Sys2Proof.Machine
end

