-- ==== Sys2Proof/Laws/Table.lean ====
section
/-! SUPPORT. What tables, memories and banks do: a read after a write, and that every operation keeps the canonical form. -/
namespace Sys2Proof.Machine

/-! ### Tables -/

/-- A table gives what was written last under a key. -/
@[simp] theorem Tbl.find_put_same {α : Type} (t : Tbl α) (k : Nat) (x : α) : (t.put k x).find k = some x := by
  induction t with
  | nil => simp [Tbl.put, Tbl.find]
  | cons e t ih =>
    obtain ⟨j, y⟩ := e
    by_cases h1 : k < j
    · simp [Tbl.put, Tbl.find, h1]
    · by_cases h2 : k = j
      · simp [Tbl.put, Tbl.find, h2]
      · have h3 : ¬ j = k := fun h => h2 h.symm
        simp [Tbl.put, Tbl.find, h1, h2, h3, ih]

/-- A write leaves every other key alone. -/
theorem Tbl.find_put_other {α : Type} (t : Tbl α) {k m : Nat} (x : α) (h : m ≠ k) : (t.put k x).find m = t.find m := by
  induction t with
  | nil => simp [Tbl.put, Tbl.find, Ne.symm h]
  | cons e t ih =>
    obtain ⟨j, y⟩ := e
    by_cases h1 : k < j
    · simp [Tbl.put, Tbl.find, h1, Ne.symm h]
    · by_cases h2 : k = j
      · subst h2; simp [Tbl.put, Tbl.find, Ne.symm h]
      · simp [Tbl.put, Tbl.find, h1, h2, ih]

/-- The second of two writes under one key counts. -/
@[simp] theorem Tbl.put_put {α : Type} (t : Tbl α) (k : Nat) (x y : α) : (t.put k x).put k y = t.put k y := by
  induction t with
  | nil => simp [Tbl.put]
  | cons e t ih =>
    obtain ⟨j, z⟩ := e
    by_cases h1 : k < j
    · simp [Tbl.put, h1]
    · by_cases h2 : k = j
      · simp [Tbl.put, h2]
      · simp [Tbl.put, h1, h2, ih]

/-- An entry removed from a table that rises strictly is gone; the others stay. -/
theorem Tbl.find_del_other {α : Type} (t : Tbl α) {k m : Nat} (h : m ≠ k) : (t.del k).find m = t.find m := by
  induction t with
  | nil => rfl
  | cons e t ih =>
    obtain ⟨j, y⟩ := e
    by_cases h1 : j = k
    · subst h1; simp [Tbl.del, Tbl.find, Ne.symm h]
    · simp [Tbl.del, Tbl.find, h1, ih]

/-- A table that rises from above `k` holds nothing under `k`. -/
theorem Tbl.find_none_of_sorted {α : Type} (t : Tbl α) {lo k : Nat} (h : Tbl.sortedFrom lo t = true) (hk : k < lo) :
    t.find k = none := by
  induction t generalizing lo with
  | nil => rfl
  | cons e t ih =>
    obtain ⟨j, y⟩ := e
    simp only [Tbl.sortedFrom, Bool.and_eq_true, decide_eq_true_eq] at h
    have hj : ¬ j = k := by omega
    simp only [Tbl.find, if_neg hj]
    exact ih h.2 (by omega)

/-- The entry removed is gone. -/
theorem Tbl.find_del_same {α : Type} (t : Tbl α) {lo k : Nat} (h : Tbl.sortedFrom lo t = true) : (t.del k).find k = none := by
  induction t generalizing lo with
  | nil => rfl
  | cons e t ih =>
    obtain ⟨j, y⟩ := e
    simp only [Tbl.sortedFrom, Bool.and_eq_true, decide_eq_true_eq] at h
    by_cases h1 : j = k
    · subst h1; simp only [Tbl.del, if_true]; exact Tbl.find_none_of_sorted t h.2 (by omega)
    · simp only [Tbl.del, if_neg h1, Tbl.find]; exact ih h.2

/-- A lower bound may be lowered. -/
theorem Tbl.sortedFrom_mono {α : Type} (t : Tbl α) {a b : Nat} (hab : a ≤ b) (h : Tbl.sortedFrom b t = true) :
    Tbl.sortedFrom a t = true := by
  cases t with
  | nil => rfl
  | cons e t =>
    obtain ⟨j, y⟩ := e
    simp only [Tbl.sortedFrom, Bool.and_eq_true, decide_eq_true_eq] at h ⊢
    exact ⟨by omega, h.2⟩

/-- A write keeps the keys strictly rising. -/
theorem Tbl.sortedFrom_put {α : Type} (t : Tbl α) {lo k : Nat} (x : α) (hk : lo ≤ k) (h : Tbl.sortedFrom lo t = true) :
    Tbl.sortedFrom lo (t.put k x) = true := by
  induction t generalizing lo with
  | nil => simp [Tbl.put, Tbl.sortedFrom, hk]
  | cons e t ih =>
    obtain ⟨j, y⟩ := e
    simp only [Tbl.sortedFrom, Bool.and_eq_true, decide_eq_true_eq] at h
    by_cases h1 : k < j
    · simp only [Tbl.put, if_pos h1, Tbl.sortedFrom, Bool.and_eq_true, decide_eq_true_eq]
      exact ⟨hk, by omega, h.2⟩
    · by_cases h2 : k = j
      · subst h2; simp only [Tbl.put, lt_irrefl, if_false, if_true, Tbl.sortedFrom, Bool.and_eq_true, decide_eq_true_eq]
        exact ⟨hk, h.2⟩
      · simp only [Tbl.put, if_neg h1, if_neg h2, Tbl.sortedFrom, Bool.and_eq_true, decide_eq_true_eq]
        exact ⟨h.1, ih (by omega) h.2⟩

/-- A removal keeps the keys strictly rising. -/
theorem Tbl.sortedFrom_del {α : Type} (t : Tbl α) {lo k : Nat} (h : Tbl.sortedFrom lo t = true) :
    Tbl.sortedFrom lo (t.del k) = true := by
  induction t generalizing lo with
  | nil => rfl
  | cons e t ih =>
    obtain ⟨j, y⟩ := e
    simp only [Tbl.sortedFrom, Bool.and_eq_true, decide_eq_true_eq] at h
    by_cases h1 : j = k
    · simp only [Tbl.del, if_pos h1]; exact Tbl.sortedFrom_mono t (by omega) h.2
    · simp only [Tbl.del, if_neg h1, Tbl.sortedFrom, Bool.and_eq_true, decide_eq_true_eq]; exact ⟨h.1, ih h.2⟩

/-- Tables stay in their canonical form. -/
theorem Tbl.wf_put {α : Type} (t : Tbl α) (k : Nat) (x : α) (h : t.wf = true) : (t.put k x).wf = true :=
  Tbl.sortedFrom_put t x (Nat.zero_le k) h
/-- Tables stay in their canonical form. -/
theorem Tbl.wf_del {α : Type} (t : Tbl α) (k : Nat) (h : t.wf = true) : (t.del k).wf = true := Tbl.sortedFrom_del t h

/-! ### Memories -/

/-- An unlisted address reads as blank. -/
theorem Memory.read_blank_of_wf (m : Memory) {lo a : Nat} (h : Memory.wfFrom lo m = true) (ha : a < lo) :
    m.read a = Memory.blank := by
  induction m generalizing lo with
  | nil => rfl
  | cons e m ih =>
    obtain ⟨j, y⟩ := e
    simp only [Memory.wfFrom, Bool.and_eq_true, decide_eq_true_eq] at h
    have hj : ¬ j = a := by omega
    simp only [Memory.read, if_neg hj]
    exact ih h.2 (by omega)

/-- A lower bound may be lowered. -/
theorem Memory.wfFrom_mono (m : Memory) {a b : Nat} (hab : a ≤ b) (h : Memory.wfFrom b m = true) : Memory.wfFrom a m = true := by
  cases m with
  | nil => rfl
  | cons e m =>
    obtain ⟨j, y⟩ := e
    simp only [Memory.wfFrom, Bool.and_eq_true, decide_eq_true_eq] at h ⊢
    exact ⟨⟨by omega, h.1.2⟩, h.2⟩

/-- A write keeps the canonical form. -/
theorem Memory.wfFrom_write (m : Memory) {lo a : Nat} (x : Byte) (ha : lo ≤ a) (h : Memory.wfFrom lo m = true) :
    Memory.wfFrom lo (m.write a x) = true := by
  induction m generalizing lo with
  | nil => by_cases hx : x = Memory.blank <;> simp [Memory.write, Memory.wfFrom, hx, ha]
  | cons e m ih =>
    obtain ⟨j, y⟩ := e
    have h' := h
    simp only [Memory.wfFrom, Bool.and_eq_true, decide_eq_true_eq] at h
    by_cases h1 : a < j
    · by_cases hx : x = Memory.blank
      · simp only [Memory.write, if_pos h1, if_pos hx]; exact h'
      · simp only [Memory.write, if_pos h1, if_neg hx, Memory.wfFrom, Bool.and_eq_true, decide_eq_true_eq]
        exact ⟨⟨ha, hx⟩, ⟨by omega, h.1.2⟩, h.2⟩
    · by_cases h2 : a = j
      · by_cases hx : x = Memory.blank
        · simp only [Memory.write, if_neg h1, if_pos h2, if_pos hx]; exact Memory.wfFrom_mono m (by omega) h.2
        · simp only [Memory.write, if_neg h1, if_pos h2, if_neg hx, Memory.wfFrom, Bool.and_eq_true, decide_eq_true_eq]
          exact ⟨⟨ha, hx⟩, by rw [h2]; exact h.2⟩
      · simp only [Memory.write, if_neg h1, if_neg h2, Memory.wfFrom, Bool.and_eq_true, decide_eq_true_eq]
        exact ⟨h.1, ih (by omega) h.2⟩

/-- A write keeps the canonical form. -/
theorem Memory.wf_write (m : Memory) (a : Nat) (x : Byte) (h : m.wf = true) : (m.write a x).wf = true :=
  Memory.wfFrom_write m x (Nat.zero_le a) h

/-- A read after a write to the same address gives what was written. -/
theorem Memory.read_write_same (m : Memory) {lo a : Nat} (x : Byte) (h : Memory.wfFrom lo m = true) : (m.write a x).read a = x := by
  induction m generalizing lo with
  | nil => by_cases hx : x = Memory.blank <;> simp [Memory.write, Memory.read, hx]
  | cons e m ih =>
    obtain ⟨j, y⟩ := e
    simp only [Memory.wfFrom, Bool.and_eq_true, decide_eq_true_eq] at h
    by_cases h1 : a < j
    · by_cases hx : x = Memory.blank
      · have hj : ¬ j = a := by omega
        simp only [Memory.write, if_pos h1, if_pos hx, Memory.read, if_neg hj]
        rw [hx]; exact Memory.read_blank_of_wf m h.2 (by omega)
      · simp [Memory.write, h1, hx, Memory.read]
    · by_cases h2 : a = j
      · by_cases hx : x = Memory.blank
        · simp only [Memory.write, if_neg h1, if_pos h2, if_pos hx]
          rw [hx]; exact Memory.read_blank_of_wf m h.2 (by omega)
        · simp [Memory.write, h2, hx, Memory.read]
      · have hj : ¬ j = a := fun q => h2 q.symm
        simp only [Memory.write, if_neg h1, if_neg h2, Memory.read, if_neg hj]
        exact ih h.2

/-- A write leaves every other address alone. -/
theorem Memory.read_write_other (m : Memory) {a b : Nat} (x : Byte) (h : b ≠ a) : (m.write a x).read b = m.read b := by
  induction m with
  | nil => by_cases hx : x = Memory.blank <;> simp [Memory.write, Memory.read, hx, Ne.symm h]
  | cons e m ih =>
    obtain ⟨j, y⟩ := e
    by_cases h1 : a < j
    · by_cases hx : x = Memory.blank <;> simp [Memory.write, Memory.read, h1, hx, Ne.symm h]
    · by_cases h2 : a = j
      · subst h2; by_cases hx : x = Memory.blank <;> simp [Memory.write, Memory.read, hx, Ne.symm h]
      · simp [Memory.write, Memory.read, h1, h2, ih]

/-! ### Lists of numbers -/

/-- A lower bound may be lowered. -/
theorem risingFrom_mono (t : List Nat) {a b : Nat} (hab : a ≤ b) (h : risingFrom b t = true) : risingFrom a t = true := by
  cases t with
  | nil => rfl
  | cons j t =>
    simp only [risingFrom, Bool.and_eq_true, decide_eq_true_eq] at h ⊢
    exact ⟨by omega, h.2⟩

/-- An insertion keeps the list strictly rising. -/
theorem risingFrom_insert (t : List Nat) {lo k : Nat} (hk : lo ≤ k) (h : risingFrom lo t = true) :
    risingFrom lo (insertNat k t) = true := by
  induction t generalizing lo with
  | nil => simp [insertNat, risingFrom, hk]
  | cons j t ih =>
    have h' := h
    simp only [risingFrom, Bool.and_eq_true, decide_eq_true_eq] at h
    by_cases h1 : k < j
    · simp only [insertNat, if_pos h1, risingFrom, Bool.and_eq_true, decide_eq_true_eq]
      exact ⟨hk, by omega, h.2⟩
    · by_cases h2 : k = j
      · simp only [insertNat, if_neg h1, if_pos h2]; exact h'
      · simp only [insertNat, if_neg h1, if_neg h2, risingFrom, Bool.and_eq_true, decide_eq_true_eq]
        exact ⟨h.1, ih (by omega) h.2⟩

/-- A removal keeps the list strictly rising. -/
theorem risingFrom_remove (t : List Nat) {lo k : Nat} (h : risingFrom lo t = true) : risingFrom lo (removeNat k t) = true := by
  induction t generalizing lo with
  | nil => rfl
  | cons j t ih =>
    simp only [risingFrom, Bool.and_eq_true, decide_eq_true_eq] at h
    by_cases h1 : j = k
    · simp only [removeNat, if_pos h1]; exact risingFrom_mono t (by omega) h.2
    · simp only [removeNat, if_neg h1, risingFrom, Bool.and_eq_true, decide_eq_true_eq]; exact ⟨h.1, ih h.2⟩

/-- What is left of a rising list is rising. -/
theorem risingFrom_filter (f : Nat → Bool) (t : List Nat) {lo : Nat} (h : risingFrom lo t = true) :
    risingFrom lo (t.filter f) = true := by
  induction t generalizing lo with
  | nil => rfl
  | cons j t ih =>
    simp only [risingFrom, Bool.and_eq_true, decide_eq_true_eq] at h
    by_cases hf : f j = true
    · simp only [List.filter_cons, hf, if_true, risingFrom, Bool.and_eq_true, decide_eq_true_eq]; exact ⟨h.1, ih h.2⟩
    · simp only [List.filter_cons, if_neg hf]; exact risingFrom_mono _ (by omega) (ih h.2)

/-- What is left of a sorted table is sorted. -/
theorem Tbl.sortedFrom_filter {α : Type} (f : Nat × α → Bool) (t : Tbl α) {lo : Nat} (h : Tbl.sortedFrom lo t = true) :
    Tbl.sortedFrom lo (List.filter f t) = true := by
  induction t generalizing lo with
  | nil => rfl
  | cons e t ih =>
    obtain ⟨j, y⟩ := e
    simp only [Tbl.sortedFrom, Bool.and_eq_true, decide_eq_true_eq] at h
    by_cases hf : f (j, y) = true
    · simp only [List.filter_cons, hf, if_true, Tbl.sortedFrom, Bool.and_eq_true, decide_eq_true_eq]; exact ⟨h.1, ih h.2⟩
    · simp only [List.filter_cons, if_neg hf]; exact Tbl.sortedFrom_mono _ (by omega) (ih h.2)

/-- What is left of a canonical memory is canonical. -/
theorem Memory.wfFrom_filter (f : Host.Cell → Bool) (m : Memory) {lo : Nat} (h : Memory.wfFrom lo m = true) :
    Memory.wfFrom lo (List.filter f m) = true := by
  induction m generalizing lo with
  | nil => rfl
  | cons e m ih =>
    obtain ⟨j, y⟩ := e
    simp only [Memory.wfFrom, Bool.and_eq_true, decide_eq_true_eq] at h
    by_cases hf : f (j, y) = true
    · simp only [List.filter_cons, hf, if_true, Memory.wfFrom, Bool.and_eq_true, decide_eq_true_eq]; exact ⟨h.1, ih h.2⟩
    · simp only [List.filter_cons, if_neg hf]; exact Memory.wfFrom_mono _ (by omega) (ih h.2)

/-! ### Banks -/

/-- The three parts of a bank's canonical form. -/
theorem Bank.wf_iff (b : Bank) : b.wf = true ↔ b.bytes.wf = true ∧ risingFrom 0 b.tags = true ∧ b.poison.wf = true := by
  simp [Bank.wf, Bool.and_eq_true, and_assoc]

/-- Noting a write keeps the table of poison sorted. -/
theorem wf_poisonWrite (p : Tbl (BitVec 64)) (a : Nat) (h : p.wf = true) : (poisonWrite p a).wf = true := by
  unfold poisonWrite
  split
  · exact h
  · dsimp only
    split
    · exact Tbl.wf_del _ _ h
    · exact Tbl.wf_put _ _ _ h

/-- A write keeps a bank's canonical form. -/
theorem Bank.wf_write (b : Bank) (a : Nat) (x : Byte) (h : b.wf = true) : (b.write a x).wf = true := by
  rw [Bank.wf_iff] at h ⊢
  exact ⟨Memory.wf_write _ _ _ h.1, risingFrom_remove _ h.2.1, wf_poisonWrite _ _ h.2.2⟩

/-- Writing a list of bytes keeps a bank's canonical form. -/
theorem Bank.wf_writeList (bs : List Byte) (b : Bank) (a : Nat) (h : b.wf = true) : (b.writeList a bs).wf = true := by
  induction bs generalizing b a with
  | nil => exact h
  | cons x xs ih => exact ih _ _ (Bank.wf_write b a x h)

/-- Setting or clearing a tag keeps a bank's canonical form. -/
theorem Bank.wf_setTag (b : Bank) (a : Nat) (t : Bool) (h : b.wf = true) : (b.setTag a t).wf = true := by
  rw [Bank.wf_iff] at h ⊢
  cases t
  · exact ⟨h.1, risingFrom_remove _ h.2.1, h.2.2⟩
  · exact ⟨h.1, risingFrom_insert _ (Nat.zero_le _) h.2.1, h.2.2⟩

/-- Marking poison keeps a bank's canonical form. -/
theorem Bank.wf_setPoison (b : Bank) (a : Nat) (h : b.wf = true) : (b.setPoison a).wf = true := by
  rw [Bank.wf_iff] at h ⊢
  exact ⟨h.1, h.2.1, Tbl.wf_put _ _ _ h.2.2⟩

/-- Clearing poison keeps a bank's canonical form. -/
theorem Bank.wf_clearPoison (b : Bank) (a : Nat) (h : b.wf = true) : (b.clearPoison a).wf = true := by
  rw [Bank.wf_iff] at h ⊢
  exact ⟨h.1, h.2.1, Tbl.wf_del _ _ h.2.2⟩

/-- A scrub keeps a bank's canonical form. -/
theorem Bank.wf_scrub (b : Bank) (lo hi : Nat) (h : b.wf = true) : (b.scrub lo hi).wf = true := by
  rw [Bank.wf_iff] at h ⊢
  exact ⟨Memory.wfFrom_filter _ _ h.1, risingFrom_filter _ _ h.2.1, Tbl.sortedFrom_filter _ _ h.2.2⟩

/-- A bank reads back the byte written last at an address. -/
theorem Bank.read_write_same (b : Bank) (a : Nat) (x : Byte) (h : b.bytes.wf = true) : (b.write a x).read a = x :=
  Memory.read_write_same b.bytes x h

/-- A write to a bank leaves every other byte alone. -/
theorem Bank.read_write_other (b : Bank) {a c : Nat} (x : Byte) (h : c ≠ a) : (b.write a x).read c = b.read c :=
  Memory.read_write_other b.bytes x h

/-- Bytes outside a list that is written stay. -/
theorem Bank.read_writeList_other (bs : List Byte) (b : Bank) {a c : Nat} (h : c < a ∨ a + bs.length ≤ c) :
    (b.writeList a bs).read c = b.read c := by
  induction bs generalizing b a with
  | nil => rfl
  | cons x xs ih =>
    have hl : (x :: xs).length = xs.length + 1 := rfl
    rw [hl] at h
    simp only [Bank.writeList]
    rw [ih _ (by omega), Bank.read_write_other b x (by omega)]

/-- A list of bytes reads back after it is written. -/
theorem Bank.readList_writeList (bs : List Byte) (b : Bank) (a : Nat) (h : b.wf = true) :
    (b.writeList a bs).readList a bs.length = bs := by
  induction bs generalizing b a with
  | nil => rfl
  | cons x xs ih =>
    simp only [Bank.writeList, List.length_cons, Bank.readList]
    have hw := Bank.wf_write b a x h
    rw [ih _ _ hw, Bank.read_writeList_other xs _ (Or.inl (Nat.lt_succ_self a)),
      Bank.read_write_same b a x ((Bank.wf_iff b).1 h).1]

end Sys2Proof.Machine
end

