-- ==== Sys2Proof/Laws/Registers.lean ====
section
/-! SUPPORT. Registers: a read after a write, and what a write leaves alone (R148, R150, R156). -/
namespace Sys2Proof.Machine

/-- g0 reads as zero with tag 0 (R148). -/
@[simp] theorem Strand.getG_zero (x : Strand) : x.getG 0 = ⟨0, false⟩ := rfl

/-- A write to g0 is discarded (R148). -/
@[simp] theorem Strand.setG_zero (x : Strand) (v : GReg) : x.setG 0 v = x := rfl

/-- A g register reads what was written to it. -/
theorem Strand.getG_setG_same (x : Strand) {d : BitVec 6} (v : GReg) (h : d ≠ 0) : (x.setG d v).getG d = v := by
  unfold Strand.getG Strand.setG
  rw [if_neg h, if_neg h]
  simp

/-- Writing one g register leaves the others. -/
theorem Strand.getG_setG_other (x : Strand) {d r : BitVec 6} (v : GReg) (h : r ≠ d) : (x.setG d v).getG r = x.getG r := by
  unfold Strand.getG Strand.setG
  split
  · rfl
  · split
    · rfl
    · have : d.toNat ≠ r.toNat := fun q => h (BitVec.eq_of_toNat_eq q.symm)
      simp [this]

/-- A write of a g register changes nothing but the g registers. -/
theorem Strand.setG_eq (x : Strand) (d : BitVec 6) (v : GReg) : x.setG d v = { x with g := (x.setG d v).g } := by
  unfold Strand.setG; split <;> rfl

/-- A v register reads what was written to it. -/
@[simp] theorem Strand.getV_setV_same (x : Strand) (d : BitVec 7) (w : W512) : (x.setV d w).getV d = w := by
  simp [Strand.getV]

/-- Writing one v register leaves the others. -/
theorem Strand.getV_setV_other (x : Strand) {d r : BitVec 7} (w : W512) (h : r ≠ d) : (x.setV d w).getV r = x.getV r := by
  have : d.toNat ≠ r.toNat := fun q => h (BitVec.eq_of_toNat_eq q.symm)
  simp [Strand.getV, this]

/-- p0 reads as all ones (R156). -/
@[simp] theorem Strand.getP_zero (x : Strand) : x.getP 0 = 0xFFFF#16 := rfl

/-- A write to p0 is discarded (R156). -/
@[simp] theorem Strand.setP_zero (x : Strand) (w : BitVec 16) : x.setP 0 w = x := rfl

/-- A predicate reads what was written to it. -/
theorem Strand.getP_setP_same (x : Strand) {d : BitVec 3} (w : BitVec 16) (h : d ≠ 0) : (x.setP d w).getP d = w := by
  unfold Strand.getP Strand.setP
  rw [if_neg h, if_neg h]
  simp

/-- Writing one predicate leaves the others. -/
theorem Strand.getP_setP_other (x : Strand) {d r : BitVec 3} (w : BitVec 16) (h : r ≠ d) : (x.setP d w).getP r = x.getP r := by
  unfold Strand.getP Strand.setP
  split
  · rfl
  · split
    · rfl
    · have : d.toNat ≠ r.toNat := fun q => h (BitVec.eq_of_toNat_eq q.symm)
      simp [this]

/-- A write of a predicate changes nothing but the predicates. -/
theorem Strand.setP_eq (x : Strand) (d : BitVec 3) (w : BitVec 16) : x.setP d w = { x with p := (x.setP d w).p } := by
  unfold Strand.setP; split <;> rfl

/-- A stored CSR reads what was written to it. -/
@[simp] theorem Strand.csrAt_setCsr_same (x : Strand) (c : BitVec 7) (w : W64) : (x.setCsr c w).csrAt c = w := by
  simp [Strand.csrAt]

/-- Writing one stored CSR leaves the others. -/
theorem Strand.csrAt_setCsr_other (x : Strand) {c r : BitVec 7} (w : W64) (h : r ≠ c) : (x.setCsr c w).csrAt r = x.csrAt r := by
  have : c.toNat ≠ r.toNat := fun q => h (BitVec.eq_of_toNat_eq q.symm)
  simp [Strand.csrAt, this]

/-! ### The strand of a core -/

/-- The strand that was put on a core is there. -/
@[simp] theorem State.strand_setStrand_same (s : State) (n : Nat) (x : Strand) : (s.setStrand n x).strand n = some x := by
  simp [State.strand, State.setStrand]

/-- The other cores keep theirs. -/
theorem State.strand_setStrand_other (s : State) {n m : Nat} (x : Strand) (h : m ≠ n) : (s.setStrand n x).strand m = s.strand m := by
  simp [State.strand, State.setStrand, Tbl.find_put_other _ _ h]

/-- The second of two strands put on a core counts. -/
@[simp] theorem State.setStrand_setStrand (s : State) (n : Nat) (x y : Strand) : (s.setStrand n x).setStrand n y = s.setStrand n y := by
  simp [State.setStrand]

end Sys2Proof.Machine
end

