-- ==== Sys2Proof/Laws/Time.lean ====
section
/-! SUPPORT. What the passing of cycles can do to a strand (R78, R93, R96): its clock, CHN, CHSTALL, the chpend bit of TCAUSE, a
held chain-limit trap and its event counts change; nothing else. -/
namespace Sys2Proof.Machine

/-- `y` is `x` after some cycles: only the clock, the event counts, the held traps and CHN, CHSTALL and TCAUSE may differ. -/
def Strand.TimedTo (x y : Strand) : Prop :=
  y = { x with csr := y.csr, async := y.async, now := y.now, evts := y.evts } ∧
  (∀ c : BitVec 7, c ≠ 0x10#7 → c ≠ 0x14#7 → c ≠ 0x22#7 → y.csrAt c = x.csrAt c) ∧
  y.csrAt 0x22#7 &&& ~~~0x800#64 = x.csrAt 0x22#7 &&& ~~~0x800#64

theorem Strand.TimedTo.refl (x : Strand) : x.TimedTo x := ⟨rfl, fun _ _ _ _ => rfl, rfl⟩

theorem Strand.TimedTo.trans {x y z : Strand} (h : x.TimedTo y) (k : y.TimedTo z) : x.TimedTo z := by
  refine ⟨?_, fun c a b d => (k.2.1 c a b d).trans (h.2.1 c a b d), k.2.2.trans h.2.2⟩
  have h1 := h.1
  have k1 := k.1
  rw [h1] at k1
  exact k1

theorem Strand.markCross_timed (x : Strand) : x.TimedTo x.markCross := by
  unfold Strand.markCross
  split
  · exact .refl x
  · refine ⟨rfl, fun c _ _ h => ?_, ?_⟩
    · show (x.setCsr 0x22#7 _).csrAt c = _
      exact x.csrAt_setCsr_other _ h
    · show (x.setCsr 0x22#7 _).csrAt 0x22#7 &&& _ = _
      rw [x.csrAt_setCsr_same]
      ext i hi
      simp only [BitVec.getElem_and, BitVec.getElem_or, BitVec.getElem_not]
      cases (x.csrAt 34#7)[i] <;> simp

theorem Strand.limitCheck_timed (x : Strand) (a b : Nat) : x.TimedTo (x.limitCheck a b) := by
  unfold Strand.limitCheck
  split
  · exact x.markCross_timed
  · exact .refl x

theorem Strand.setCsr_timed (x : Strand) {c : BitVec 7} (w : W64) (h : c = 0x10#7 ∨ c = 0x14#7) : x.TimedTo (x.setCsr c w) := by
  refine ⟨rfl, fun r h1 h2 _ => x.csrAt_setCsr_other _ ?_, ?_⟩
  · rcases h with h | h <;> subst h <;> assumption
  · rw [x.csrAt_setCsr_other _ (by rcases h with h | h <;> subst h <;> decide)]

theorem Strand.count_timed (x : Strand) (e : BitVec 4) (k : Nat) : x.TimedTo (x.count e k) := ⟨rfl, fun _ _ _ _ => rfl, rfl⟩

theorem Strand.setChain_timed (x : Strand) (v : Nat) (o : Bool) : x.TimedTo (x.setChain v o) :=
  (x.setCsr_timed _ (.inl rfl)).trans (Strand.limitCheck_timed _ _ _)

theorem Strand.addChain_timed (x : Strand) (t : Nat) : x.TimedTo (x.addChain t) := x.setChain_timed _ _

theorem Strand.own_timed (x : Strand) (t : Nat) : x.TimedTo (x.own t) := by
  unfold Strand.own
  split
  · exact .refl x
  · exact x.addChain_timed t

theorem Strand.stall_timed (x : Strand) (t : Nat) : x.TimedTo (x.stall t) :=
  (x.setCsr_timed _ (.inr rfl)).trans (Strand.count_timed _ _ _)

theorem Strand.now_timed (x : Strand) (t : Nat) : x.TimedTo { x with now := t } := ⟨rfl, fun _ _ _ _ => rfl, rfl⟩

theorem Strand.ownCycles_timed (x : Strand) (k d : Nat) : x.TimedTo (x.ownCycles k d) := by
  unfold Strand.ownCycles
  dsimp only
  split
  · exact x.own_timed _
  · exact (x.own_timed _).trans (Strand.own_timed _ _)

theorem Strand.spend_timed (x : Strand) (c t : Nat) : x.TimedTo (x.spend c t) := by
  have h := x.now_timed (x.now + t)
  unfold Strand.spend
  dsimp only
  split
  · exact h.trans (Strand.own_timed _ _)
  · split
    · exact h
    · exact h.trans (Strand.stall_timed _ _)

theorem Strand.cycles_timed (x : Strand) (k d : Nat) : x.TimedTo (x.cycles k d) := (x.now_timed _).trans (Strand.ownCycles_timed _ _ _)

theorem Strand.settleAs_timed (x : Strand) (c t d : Nat) : x.TimedTo (x.settleAs c t d) := by
  have h : x.TimedTo (if c = 0 then x.cycles (gapTicks x.now t d / d) d else x.spend c (gapTicks x.now t d)) := by
    split
    · exact x.cycles_timed _ _
    · exact x.spend_timed _ _
  unfold Strand.settleAs
  dsimp only
  split
  · exact h.trans (Strand.count_timed _ _ _)
  · exact h.trans (Strand.count_timed _ _ _)
  · exact h

theorem Strand.settle_timed (x : Strand) (t d : Nat) : x.TimedTo (x.settle t d) := x.settleAs_timed _ _ _

/-- What cycles leave alone. -/
theorem Strand.TimedTo.keeps {x y : Strand} (h : x.TimedTo y) :
    y.id = x.id ∧ y.phase = x.phase ∧ y.pc = x.pc ∧ y.g = x.g ∧ y.v = x.v ∧ y.p = x.p ∧ y.wait = x.wait ∧ y.gang = x.gang ∧
    y.stash = x.stash ∧ y.gPend = x.gPend ∧ y.vq = x.vq ∧ y.mq = x.mq ∧ y.cq = x.cq ∧ y.holding = x.holding ∧ y.reply = x.reply := by
  rw [h.1]; exact ⟨rfl, rfl, rfl, rfl, rfl, rfl, rfl, rfl, rfl, rfl, rfl, rfl, rfl, rfl, rfl⟩

theorem Strand.TimedTo.getG {x y : Strand} (h : x.TimedTo y) (r : BitVec 6) : y.getG r = x.getG r := by
  rw [h.1]; rfl
theorem Strand.TimedTo.rd {x y : Strand} (h : x.TimedTo y) (r : BitVec 6) : y.rd r = x.rd r := by
  rw [h.1]; rfl
theorem Strand.TimedTo.getV {x y : Strand} (h : x.TimedTo y) (r : BitVec 7) : y.getV r = x.getV r := by
  rw [h.1]; rfl
theorem Strand.TimedTo.getP {x y : Strand} (h : x.TimedTo y) (r : BitVec 3) : y.getP r = x.getP r := by
  rw [h.1]; rfl
theorem Strand.TimedTo.pending {x y : Strand} (h : x.TimedTo y) (rs : List (BitVec 6)) : y.pending rs = x.pending rs := by
  rw [h.1]; rfl
theorem Strand.TimedTo.frnd {x y : Strand} (h : x.TimedTo y) : y.frnd = x.frnd := by
  unfold Strand.frnd; rw [h.2.1 0x19#7 (by decide) (by decide) (by decide)]
theorem Strand.TimedTo.selv {x y : Strand} (h : x.TimedTo y) : y.selv = x.selv := by
  unfold Strand.selv; rw [h.2.1 0x20#7 (by decide) (by decide) (by decide)]

end Sys2Proof.Machine
end

