-- ==== Sys2Proof/Laws/Control.lean ====
section
/-! SUPPORT. What the shapes shared by control words do: a word of a strand that runs alone, the end of an instruction, a wait, a
computation from g registers (R78, R165, R300, R356). -/
namespace Sys2Proof.Machine

/-- The current core's strand is `x`, it can run a word now, and it runs alone. -/
def State.Alone (s : State) (x : Strand) : Prop := s.strand s.cur = some x ∧ x.runnable = true ∧ x.gang.tacked = false

/-- A word of a strand that runs alone: its ticks are settled first, then the word is done on it. -/
theorem word_alone {s : State} {x : Strand} (h : s.Alone x) (f : State → Nat → Strand → Eff) :
    word s f = .next (runAlone f s.cur (s.setStrand s.cur (x.settle s.tick (s.divOf s.cur)))) := by
  simp [word, h.1, h.2.1, h.2.2]

/-- A word that its function does at once. -/
theorem word_done {s t : State} {x : Strand} (h : s.Alone x) {f : State → Nat → Strand → Eff}
    (hf : f (s.setStrand s.cur (x.settle s.tick (s.divOf s.cur))) s.cur (x.settle s.tick (s.divOf s.cur)) = .done t) :
    word s f = .next t := by
  rw [word_alone h]; simp [runAlone, hf]

/-- A word that traps, with the strand `y` that has waited for its operands. -/
theorem word_trap {s : State} {x y : Strand} (h : s.Alone x) {f : State → Nat → Strand → Eff} {t : Trap}
    (hf : f (s.setStrand s.cur (x.settle s.tick (s.divOf s.cur))) s.cur (x.settle s.tick (s.divOf s.cur)) = .trap y t) :
    word s f = .next ((s.setStrand s.cur (x.settle s.tick (s.divOf s.cur))).trapOn s.cur y t) := by
  rw [word_alone h]; simp [runAlone, hf]

/-- A word that waits. -/
theorem word_block {s t : State} {x : Strand} (h : s.Alone x) {f : State → Nat → Strand → Eff} {k : WaitKind}
    (hf : f (s.setStrand s.cur (x.settle s.tick (s.divOf s.cur))) s.cur (x.settle s.tick (s.divOf s.cur)) = .block t k) :
    word s f = .next (t.blockOn s.cur k) := by
  rw [word_alone h]; simp [runAlone, hf]

/-- `y` is `x` after an instruction has ended and the PC is `pc`: cycles have passed, and what belongs to the instruction is gone. -/
def Strand.EndedAt (x y : Strand) (pc : Nat) : Prop :=
  ∃ (w : Strand) (q : Tbl Nat), x.TimedTo w ∧
    y = { w with pc := pc, wait := none, begun := false, reply := none, stash := [], fillBuf := [], released := false, gRdy := q }

/-- The end of an instruction. -/
theorem Strand.finish_ended (x : Strand) (k d pc : Nat) : x.EndedAt (x.finish k d pc) pc :=
  ⟨(x.cycles (if x.begun then k - 1 else k) d).count 1#4 1, _, (x.cycles_timed _ _).trans (Strand.count_timed _ _ _), rfl⟩

/-- Noting when a result is ready changes nothing else. -/
theorem Strand.later_eq (x : Strand) (r : BitVec 6) (k d : Nat) : ∃ q, x.later r k d = { x with gRdy := q } := by
  unfold Strand.later; split <;> exact ⟨_, rfl⟩

theorem Strand.EndedAt.later {x y : Strand} {pc : Nat} (h : x.EndedAt y pc) (r : BitVec 6) (k d : Nat) : x.EndedAt (y.later r k d) pc := by
  obtain ⟨w, q, hw, hy⟩ := h
  obtain ⟨q', hq⟩ := y.later_eq r k d
  exact ⟨w, q', hw, by rw [hq, hy]⟩

/-- What the end of an instruction leaves alone. -/
theorem Strand.EndedAt.keeps {x y : Strand} {pc : Nat} (h : x.EndedAt y pc) :
    y.id = x.id ∧ y.phase = x.phase ∧ y.pc = pc ∧ y.g = x.g ∧ y.v = x.v ∧ y.p = x.p ∧ y.wait = none ∧ y.gang = x.gang ∧ y.stash = [] := by
  obtain ⟨w, _, hw, hy⟩ := h
  obtain ⟨h1, h2, _, h4, h5, h6, _, h8, _⟩ := hw.keeps
  rw [hy]; exact ⟨h1, h2, rfl, h4, h5, h6, rfl, h8, rfl⟩

theorem Strand.EndedAt.getG {x y : Strand} {pc : Nat} (h : x.EndedAt y pc) (r : BitVec 6) : y.getG r = x.getG r := by
  unfold Strand.getG; rw [h.keeps.2.2.2.1]

/-- The stored CSRs that an instruction's end leaves alone. -/
theorem Strand.EndedAt.csrAt {x y : Strand} {pc : Nat} (h : x.EndedAt y pc) {c : BitVec 7} (h1 : c ≠ 0x10#7) (h2 : c ≠ 0x14#7)
    (h3 : c ≠ 0x22#7) : y.csrAt c = x.csrAt c := by
  obtain ⟨w, _, hw, hy⟩ := h
  rw [← hw.2.1 c h1 h2 h3, hy]; rfl

/-- The end of the instruction of core `n` is written over its strand. -/
theorem State.retire_eq (s : State) (n : Nat) (x : Strand) (k : Nat) :
    s.retire n x k = s.setStrand n (x.finish k (s.divOf n) (x.pcPlus 4)) := rfl

/-- A computation from g registers of a strand alone, none of them pending: exec goes on, and nothing but the strand changes; the
strand is what `f` makes of it, cycles aside, ended at the next word. -/
theorem compute_alone {s : State} {x : Strand} (h : s.Alone x) (srcs : List (BitVec 6)) (d : BitVec 6) (k lat : Nat)
    (f : Strand → Strand) (hp : x.pending (d :: srcs) = false) :
    ∃ z y, x.TimedTo z ∧ (f z).EndedAt y ((x.pc + 4) % 2 ^ 64) ∧ word s (compute srcs d k lat f) = .next (s.setStrand s.cur y) := by
  have ht := x.settle_timed s.tick (s.divOf s.cur)
  generalize hw : x.settle s.tick (s.divOf s.cur) = w at ht
  have hp' : w.pending (d :: srcs) = false := by rw [ht.pending]; exact hp
  have hpc : w.pc = x.pc := ht.keeps.2.2.1
  have hpp : w.pcPlus 4 = (x.pc + 4) % 2 ^ 64 := by unfold Strand.pcPlus; rw [hpc]
  let dv := (s.setStrand s.cur w).divOf s.cur
  let z := w.cycles (w.readyCycles srcs dv) dv
  have he : (f z).EndedAt (((f z).finish k dv (w.pcPlus 4)).later d (lat + 1 - k) dv) (w.pcPlus 4) :=
    ((f z).finish_ended k dv (w.pcPlus 4)).later d (lat + 1 - k) dv
  rw [hpp] at he
  refine ⟨z, _, ht.trans (w.cycles_timed _ _), he, ?_⟩
  have hf : compute srcs d k lat f (s.setStrand s.cur w) s.cur w =
      .done (s.setStrand s.cur (((f z).finish k dv (w.pcPlus 4)).later d (lat + 1 - k) dv)) := by
    simp only [compute, hp', z, dv]
    simp
  rw [word_done h (by rw [hw]; exact hf), hpp]

end Sys2Proof.Machine
end

