-- ==== Sys2Proof/Laws/Claims.lean ====
section
/-! SUPPORT. How the words of the statements follow from what control words do: an instruction that retires, one that traps, one that
writes a register. -/
namespace Sys2Proof.Claim
open Sys2Proof.Machine

theorem timed_rest {x y : Strand} (h : x.TimedTo y) : ∃ (c : Vector W64 128) (a : List (Nat × W64 × Nat)) (n : Nat) (e : Vector Nat 16),
    y = { x with csr := c, async := a, now := n, evts := e } := ⟨_, _, _, _, h.1⟩

/-- What cycles do to a strand keeps everything that a frame names but the wait. -/
theorem keeps_of_timed {x w : Strand} (h : x.TimedTo w) (p : Nat) (r : Option Reply) (b : List Byte) (f : List Line) (q : Bool) (g : Tbl Nat) :
    Keeps x { w with pc := p, wait := none, begun := false, reply := r, stash := b, fillBuf := f, released := q, gRdy := g } [] [] := by
  obtain ⟨c, a, n, e, h1⟩ := timed_rest h
  refine ⟨?_, ?_, ?_, fun k a b d _ => h.2.1 k a b d, h.2.2, ?_, ?_, ?_, ?_, ?_, ?_, ?_, rfl⟩
  · intro k _
    rw [h1]; rfl
  all_goals first | (rw [h1]; done) | (rw [h1]; trivial)

theorem timed_pc {x w : Strand} (h : x.TimedTo w) (p : Nat) : Strand.TimedTo { x with pc := p } { w with pc := p } := by
  obtain ⟨c, a, n, e, h1⟩ := timed_rest h
  exact ⟨by rw [h1], fun k a b d => h.2.1 k a b d, h.2.2⟩

/-- The end of an instruction. -/
theorem ends_finish_later {x w : Strand} (h : x.TimedTo w) (k d pc : Nat) (r : BitVec 6) (j e : Nat) :
    Ends { x with pc := pc } ((w.finish k d pc).later r j e) := by
  obtain ⟨q, hq⟩ := (w.finish k d pc).later_eq r j e
  rw [hq]
  exact ⟨keeps_of_timed (timed_pc ((h.trans (w.cycles_timed (if w.begun then k - 1 else k) d)).trans (Strand.count_timed _ 1#4 1)) pc)
    pc none [] [] false q, rfl⟩

theorem ends_finish {x w : Strand} (h : x.TimedTo w) (k d pc : Nat) : Ends { x with pc := pc } (w.finish k d pc) :=
  ⟨keeps_of_timed (timed_pc ((h.trans (w.cycles_timed (if w.begun then k - 1 else k) d)).trans (Strand.count_timed _ 1#4 1)) pc)
    pc none [] [] false (w.finish k d pc).gRdy, rfl⟩

/-- Writing a register and the passing of cycles do not disturb each other. -/
theorem timed_setG {x w : Strand} (h : x.TimedTo w) (d : BitVec 6) (v : GReg) : (x.setG d v).TimedTo (w.setG d v) := by
  obtain ⟨c, a, n, e, h1⟩ := timed_rest h
  have hg : (w.setG d v).g = (x.setG d v).g := by rw [h1]; unfold Strand.setG; split <;> rfl
  have hc : ∀ k, (w.setG d v).csrAt k = w.csrAt k := by intro k; rw [Strand.setG_eq]; rfl
  have hx : ∀ k, (x.setG d v).csrAt k = x.csrAt k := by intro k; rw [Strand.setG_eq]; rfl
  refine ⟨?_, fun k p q r => ?_, ?_⟩
  · rw [w.setG_eq, x.setG_eq, hg, h1]
  · rw [hc, hx, h.2.1 k p q r]
  · rw [hc, hx, h.2.2]

/-- Writing a CSR that cycles leave alone. -/
theorem timed_setCsr {x w : Strand} (h : x.TimedTo w) (c : BitVec 7) (v : W64) : (x.setCsr c v).TimedTo (w.setCsr c v) := by
  obtain ⟨cc, a, n, e, h1⟩ := timed_rest h
  refine ⟨?_, fun k p q r => ?_, ?_⟩
  · rw [h1]; rfl
  · by_cases hk : k = c
    · subst hk; simp
    · rw [Strand.csrAt_setCsr_other _ _ hk, Strand.csrAt_setCsr_other _ _ hk, h.2.1 k p q r]
  · by_cases hk : (0x22#7) = c
    · subst hk; simp
    · rw [Strand.csrAt_setCsr_other _ _ hk, Strand.csrAt_setCsr_other _ _ hk, h.2.2]

theorem begun_timed (s : State) (x : Strand) : x.TimedTo (begun s x) := x.settle_timed _ _

theorem ready_timed (s : State) (n : Nat) (x : Strand) (rs : List (BitVec 6)) : x.TimedTo (s.ready n x rs) := x.cycles_timed _ _

theorem operands_timed (s : State) (x : Strand) (rs : List (BitVec 6)) : x.TimedTo (operands s x rs) :=
  (begun_timed s x).trans (ready_timed _ _ _ _)

/-- The strand of a device whose word begins. -/
@[simp] theorem strand_atWord (s : State) (x : Strand) : (atWord s x).strand s.cur = some (begun s x) := by simp [atWord]

@[simp] theorem cur_atWord (s : State) (x : Strand) : (atWord s x).cur = s.cur := rfl

@[simp] theorem setStrand_atWord (s : State) (x y : Strand) : (atWord s x).setStrand s.cur y = s.setStrand s.cur y := by simp [atWord]

/-- A word that is done with one strand written over the strand that it began with. -/
theorem retires_done {i : Instr} {s : State} {x x' y : Strand} {f : State → Nat → Strand → Eff} (h : Alone s x)
    (hi : Sys2Proof.Machine.exec i s = word s f) (hf : f (atWord s x) s.cur (begun s x) = .done ((atWord s x).setStrand s.cur y))
    (he : Ends x' y) : Retires i s s x' :=
  ⟨y, by rw [hi, word_done h hf, setStrand_atWord], he⟩

/-- A word that retires. -/
theorem retires_retire {i : Instr} {s : State} {x x' w : Strand} {f : State → Nat → Strand → Eff} {k : Nat} (h : Alone s x)
    (hi : Sys2Proof.Machine.exec i s = word s f) (hf : f (atWord s x) s.cur (begun s x) = .done ((atWord s x).retire s.cur w k))
    (ht : x'.TimedTo w) : Retires i s s (goOn x') :=
  retires_done h hi (by rw [hf, State.retire_eq]) (by
    have : w.pcPlus 4 = (x'.pc + 4) % 2 ^ 64 := by unfold Strand.pcPlus; rw [ht.keeps.2.2.1]
    rw [this]; exact ends_finish ht _ _ _)

/-- A computation from g registers (R300). -/
theorem retires_compute {i : Instr} {s : State} {x : Strand} {srcs : List (BitVec 6)} {d : BitVec 6} {k lat : Nat} {f : Strand → Strand}
    (x' : Strand) (h : Alone s x) (hi : Sys2Proof.Machine.exec i s = word s (compute srcs d k lat f)) (hp : x.pending (d :: srcs) = false)
    (hx : x'.pc = x.pc) (hf : ∀ z, x.TimedTo z → x'.TimedTo (f z)) : Retires i s s (goOn x') := by
  have ht := begun_timed s x
  have hp' : (begun s x).pending (d :: srcs) = false := by rw [ht.pending]; exact hp
  refine retires_done (y := (((f ((begun s x).cycles ((begun s x).readyCycles srcs ((atWord s x).divOf s.cur)) ((atWord s x).divOf s.cur))).finish k
    ((atWord s x).divOf s.cur) ((begun s x).pcPlus 4)).later d (lat + 1 - k) ((atWord s x).divOf s.cur))) h hi ?_ ?_
  · simp [compute, hp']
  · have hpc : (begun s x).pcPlus 4 = (x'.pc + 4) % 2 ^ 64 := by unfold Strand.pcPlus; rw [ht.keeps.2.2.1, hx]
    rw [hpc]
    exact ends_finish_later (hf _ (ht.trans (Strand.cycles_timed _ _ _))) _ _ _ _ _ _

/-- The issue cycle is charged once and noted: cycles aside, nothing else changes. -/
theorem issued_eq (x : Strand) (d : Nat) : ∃ (w : Strand) (b : Bool), x.TimedTo w ∧ x.issued d = { w with begun := b } := by
  unfold Strand.issued
  split
  · exact ⟨x, x.begun, .refl x, rfl⟩
  · exact ⟨_, true, x.cycles_timed 1 d, rfl⟩

/-- Taking a trap, a strand forgets whether its issue cycle has been charged. -/
theorem takeTrap_begun (w : Strand) (b : Bool) (t : Trap) (pc : Nat) : ({ w with begun := b } : Strand).takeTrap t pc = w.takeTrap t pc := by
  unfold Strand.takeTrap
  dsimp only
  split <;> rfl

/-- A trap that is not of an absent region leaves the lookaside buffer alone. -/
theorem seeTrap_other (x : Strand) (s : State) {t : Trap} (h : t.cause ≠ 9) : x.seeTrap s t = x := by
  simp [Strand.seeTrap, h]

/-- What a trap looks up does not depend on cycles. -/
theorem timed_seeTrap {x w : Strand} (h : x.TimedTo w) (s : State) (t : Trap) : (x.seeTrap s t).TimedTo (w.seeTrap s t) := by
  obtain ⟨c, a, n, e, h1⟩ := timed_rest h
  have hp : w.plb = x.plb := by rw [h1]
  unfold Strand.seeTrap
  split
  · unfold Strand.seeRegion
    rw [hp]
    split
    · exact h
    · exact ⟨by dsimp only; rw [h1], h.2.1, h.2.2⟩
  · exact h

/-- A precise trap of an instruction that has not waited (R134, R136), but for the poison that the launch takes note of (R144). -/
theorem trapOn_now (s : State) (n : Nat) {x : Strand} (t : Trap) (hw : x.wait = none) (hc : t.cause ≠ 0x0B) :
    s.trapOn n x t = s.setStrand n (((x.seeTrap s t).issued (s.divOf n)).takeTrap t x.pc) := by
  simp [State.trapOn, hw, hc]

/-- Where a precise trap without detail goes, and how it leaves the strand (R136). -/
theorem takeTrap_precise (x : Strand) {c : Nat} (v : W64) (pc : Nat) (hc : c ∉ [0x08, 0x13, 0x14]) :
    x.takeTrap (.precise c v) pc = if bit1 (x.csrAt 0x22#7) 8 || !bit1 (x.csrAt 0x25#7) c
      then x.toSteward (.precise c v) pc else x.enter (.precise c v) pc := by
  simp only [List.mem_cons, List.not_mem_nil, or_false, not_or] at hc
  have h1 : (Trap.precise c v).cause = c := rfl
  have hs : x.toSupervisor (.precise c v) = (bit1 (x.csrAt 0x22#7) 8 || !bit1 (x.csrAt 0x25#7) c) := by
    have h2 : (Trap.precise c v).detail = 0 := rfl
    simp [Strand.toSupervisor, h1, h2, beq_eq_false_iff_ne.mpr hc.2.1, beq_eq_false_iff_ne.mpr hc.2.2, Strand.active]
  simp only [Strand.takeTrap, h1, if_neg hc.1, hs]

theorem timed_bit {x w : Strand} (h : x.TimedTo w) {i : Nat} (hi : i ≠ 11) : bit1 (w.csrAt 0x22#7) i = bit1 (x.csrAt 0x22#7) i := by
  have h2 := congrArg (fun b : W64 => b.getLsbD i) h.2.2
  have h3 : (0x800#64).getLsbD i = false := by
    rw [show (0x800#64) = BitVec.twoPow 64 11 from rfl, BitVec.getLsbD_twoPow]; simp; omega
  by_cases hl : i < 64
  · simp only [BitVec.getLsbD_and, BitVec.getLsbD_not, h3, hl, decide_true, Bool.not_false, Bool.and_self, Bool.and_true] at h2
    exact h2
  · unfold bit1
    rw [BitVec.getLsbD_of_ge _ _ (Nat.le_of_not_lt hl), BitVec.getLsbD_of_ge _ _ (Nat.le_of_not_lt hl)]

/-- A word that traps precisely (R134, R136), its strand having waited for its operands: the strand has looked up the region of an access
that finds none. -/
theorem traps_seen {i : Instr} {s : State} {x z : Strand} {f : State → Nat → Strand → Eff} {c : Nat} {v : W64} (h : Alone s x)
    (hi : Sys2Proof.Machine.exec i s = word s f) (hw : x.wait = none) (hc : c ∉ [0x08, 0x0B, 0x13, 0x14])
    (hz : x.TimedTo z) (hf : f (atWord s x) s.cur (begun s x) = .trap z (.precise c v)) :
    Traps i s (x.seeTrap s (.precise c v)) c v := by
  have hwb : z.wait = none := by rw [hz.keeps.2.2.2.2.2.2.1, hw]
  have hpc : z.pc = x.pc := hz.keeps.2.2.1
  have hc1 : c ∉ [0x08, 0x13, 0x14] := by simp at hc ⊢; tauto
  have hc2 : c ≠ 0x0B := by simp at hc; tauto
  have ht1 : (x.seeTrap s (.precise c v)).TimedTo (z.seeTrap (atWord s x) (.precise c v)) := timed_seeTrap hz s _
  have hxp : (x.seeTrap s (.precise c v)).pc = x.pc := by
    unfold Strand.seeTrap Strand.seeRegion; split
    · split <;> rfl
    · rfl
  obtain ⟨w, b, hw1, hwd⟩ := issued_eq (z.seeTrap (atWord s x) (.precise c v)) ((atWord s x).divOf s.cur)
  have ht2 := ht1.trans hw1
  generalize x.seeTrap s (.precise c v) = x at ht2 hxp
  rw [← hxp] at hpc
  refine ⟨w.takeTrap (.precise c v) x.pc, ?_, ?_⟩
  · rw [hi, word_trap h hf]
    show Host.Outcome.next ((atWord s _).trapOn s.cur z (.precise c v)) = _
    rw [trapOn_now _ _ _ hwb hc2, setStrand_atWord, hwd, takeTrap_begun, hpc]
  · have hdel : w.csrAt 0x25#7 = x.csrAt 0x25#7 := ht2.2.1 _ (by decide) (by decide) (by decide)
    rw [takeTrap_precise _ _ _ hc1, timed_bit ht2 (by decide), hdel]
    split
    · refine ⟨rfl, ?_, ht2.keeps.2.2.1⟩
      exact keeps_of_timed ht2 w.pc none [] [] false w.gRdy
    · have hv : w.csrAt 0x21#7 = x.csrAt 0x21#7 := ht2.2.1 _ (by decide) (by decide) (by decide)
      have hg := ht2.getG
      obtain ⟨cc, a, n, e, h1⟩ := timed_rest ht2
      have hc3 : ∀ k, (w.enter (.precise c v) x.pc).csrAt k = ((((w.drop.setCsr 0x24#7 (BitVec.ofNat 64 x.pc)).setCsr 0x23#7 v).setCsr 0x22#7
          (tcauseOf (w.csrAt 0x22#7) (.precise c v))).csrAt k) := fun _ => rfl
      have hd : ∀ k, w.drop.csrAt k = w.csrAt k := fun _ => rfl
      have hi3 : ∀ k, (inHandler x c v).csrAt k = ((((x.setCsr 0x24#7 (BitVec.ofNat 64 x.pc)).setCsr 0x23#7 v).setCsr 0x22#7
          ((x.csrAt 0x22#7 &&& 0x1800#64) ||| BitVec.ofNat 64 (0x100 + c))).csrAt k) := fun _ => rfl
      refine ⟨⟨fun r _ => hg r, ?_, ?_, fun k p q r _ => ?_, ?_, ?_, ?_, ?_, ?_, ?_, ?_, ?_, rfl⟩, congrArg BitVec.toNat hv⟩
      · rw [h1]; rfl
      · rw [h1]; rfl
      · rw [hc3, hi3, Strand.csrAt_setCsr_other _ _ r, Strand.csrAt_setCsr_other _ _ r]
        by_cases k3 : k = 0x23#7
        · subst k3; simp
        · rw [Strand.csrAt_setCsr_other _ _ k3, Strand.csrAt_setCsr_other _ _ k3]
          by_cases k4 : k = 0x24#7
          · subst k4; simp
          · rw [Strand.csrAt_setCsr_other _ _ k4, Strand.csrAt_setCsr_other _ _ k4, hd, ht2.2.1 k p q r]
      · rw [hc3, hi3, Strand.csrAt_setCsr_same, Strand.csrAt_setCsr_same]
        have hb : ∀ q : W64, (q &&& 0x1800#64) &&& ~~~0x800#64 = (q &&& ~~~0x800#64) &&& 0x1800#64 := fun q => by
          rw [BitVec.and_assoc, BitVec.and_comm (0x1800#64), ← BitVec.and_assoc]
        have hn : BitVec.ofNat 64 (c + 2 ^ 8 + (if (Trap.precise c v).imprecise then 2 ^ 9 else 0) + (Trap.precise c v).detail % 256 * 2 ^ 16)
            = BitVec.ofNat 64 (0x100 + c) := by
          have : (Trap.precise c v).imprecise = false := rfl
          have h0 : (Trap.precise c v).detail = 0 := rfl
          rw [this, h0]; congr 1; simp; omega
        have hor : ∀ q r m : W64, (q ||| r) &&& m = (q &&& m) ||| (r &&& m) := fun q r m => by
          ext j hj; simp [Bool.and_or_distrib_right]
        have hcc : (Trap.precise c v).cause = c := rfl
        unfold tcauseOf
        rw [hcc, hn, hor, hor, hb, hb, ht2.2.2]
      all_goals first | (rw [h1]; done) | (rw [h1]; exact ⟨rfl, rfl, rfl⟩) | (rw [h1]; exact ⟨rfl, rfl, rfl, rfl⟩) |
        (rw [h1]; exact ⟨rfl, rfl, rfl, rfl, rfl⟩) | (rw [h1]; exact ⟨rfl, rfl, rfl, rfl, rfl, rfl, rfl⟩)

/-- A word that traps precisely (R134, R136), for another reason than an absent region. -/
theorem traps_of {i : Instr} {s : State} {x z : Strand} {f : State → Nat → Strand → Eff} {c : Nat} {v : W64} (h : Alone s x)
    (hi : Sys2Proof.Machine.exec i s = word s f) (hw : x.wait = none) (hc : c ∉ [0x08, 0x0B, 0x13, 0x14]) (h9 : c ≠ 9)
    (hz : x.TimedTo z) (hf : f (atWord s x) s.cur (begun s x) = .trap z (.precise c v)) : Traps i s x c v := by
  have k := traps_seen h hi hw hc hz hf
  rwa [seeTrap_other x s (t := .precise c v) h9] at k

end Sys2Proof.Claim
end

