-- ==== Sys2Proof/Laws/Memory.lean ====
section
/-! SUPPORT. Every operation over the memories of the device keeps their canonical form and that of the tables, and reset has it. -/
namespace Sys2Proof.Machine
open Sys2Proof.Safety

/-- Every memory and every table is in its canonical form. -/
def Canonical (s : State) : Prop := MemoriesOk s ∧ TablesOk s

/-- Reset has the canonical form. -/
theorem canonical_reset : Canonical State.reset := by
  unfold Canonical MemoriesOk TablesOk
  decide +kernel

/-! ### Replacing one memory or one table -/

theorem Canonical.hbm {s : State} (h : Canonical s) {b : Bank} (k : b.wf = true) : Canonical { s with hbm := b } :=
  ⟨⟨k, h.1.2.1, h.1.2.2.1, h.1.2.2.2⟩, h.2⟩
theorem Canonical.host {s : State} (h : Canonical s) {b : Bank} (k : b.wf = true) : Canonical { s with host := b } :=
  ⟨⟨h.1.1, k, h.1.2.2.1, h.1.2.2.2⟩, h.2⟩
theorem Canonical.scratch {s : State} (h : Canonical s) {b : Bank} (k : b.wf = true) : Canonical { s with scratch := b } :=
  ⟨⟨h.1.1, h.1.2.1, k, h.1.2.2.2⟩, h.2⟩
theorem Canonical.chip {s : State} (h : Canonical s) {b : Bank} (k : b.wf = true) : Canonical { s with chip := b } :=
  ⟨⟨h.1.1, h.1.2.1, h.1.2.2.1, k⟩, h.2⟩
theorem Canonical.setStrand {s : State} (h : Canonical s) (n : Nat) (x : Strand) : Canonical (s.setStrand n x) :=
  ⟨h.1, Tbl.wf_put _ _ _ h.2.1, h.2.2⟩
theorem Canonical.delStrand {s : State} (h : Canonical s) (n : Nat) : Canonical (s.delStrand n) :=
  ⟨h.1, Tbl.wf_del _ _ h.2.1, h.2.2⟩
theorem Canonical.onStrand {s : State} (h : Canonical s) (n : Nat) (f : Strand → Strand) : Canonical (s.onStrand n f) := by
  unfold State.onStrand; split
  · exact h.setStrand _ _
  · exact h
theorem Canonical.setCore {s : State} (h : Canonical s) (n : Nat) (c : CoreCfg) : Canonical (s.setCore n c) :=
  ⟨h.1, h.2.1, Tbl.wf_put _ _ _ h.2.2.1, h.2.2.2⟩
theorem Canonical.setCell {s : State} (h : Canonical s) (n : Nat) (c : Cell) : Canonical (s.setCell n c) :=
  ⟨h.1, h.2.1, h.2.2.1, Tbl.wf_put _ _ _ h.2.2.2.1, h.2.2.2.2⟩
theorem Canonical.setCluster {s : State} (h : Canonical s) (n : Nat) (c : Cluster) : Canonical (s.setCluster n c) :=
  ⟨h.1, h.2.1, h.2.2.1, h.2.2.2.1, Tbl.wf_put _ _ _ h.2.2.2.2.1, h.2.2.2.2.2⟩
theorem Canonical.setPart {s : State} (h : Canonical s) (p : Nat) (x : Partition) : Canonical (s.setPart p x) :=
  ⟨h.1, h.2.1, h.2.2.1, h.2.2.2.1, h.2.2.2.2.1, Tbl.wf_put _ _ _ h.2.2.2.2.2.1, h.2.2.2.2.2.2⟩
theorem Canonical.onPart {s : State} (h : Canonical s) (p : Nat) (f : Partition → Partition) : Canonical (s.onPart p f) := by
  unfold State.onPart; split
  · exact h.setPart _ _
  · exact h
theorem Canonical.onVd {s : State} (h : Canonical s) (p v : Nat) (f : Vd → Vd) : Canonical (s.onVd p v f) := h.onPart _ _
theorem Canonical.llc {s : State} (h : Canonical s) (ls : List LlcLine) : Canonical { s with llc := ls } := h
theorem Canonical.free {s : State} (h : Canonical s) (n : Nat) : Canonical (s.free n).2 := h
theorem Canonical.send {s : State} (h : Canonical s) (m : Msg) : Canonical (s.send m) := h
theorem Canonical.emit {s : State} (h : Canonical s) (o : Output) : Canonical (s.emit o) := h
theorem Canonical.touch {s : State} (h : Canonical s) (l : Loc) (n : Nat) : Canonical (s.touch l n) := h
theorem Canonical.charge {s : State} (h : Canonical s) (p v e k : Nat) : Canonical (s.charge p v e k) := by
  unfold State.charge; split
  · exact h.onVd _ _ _
  · exact h
theorem Canonical.counter {s : State} (h : Canonical s) (n : Nat) : Canonical { s with freeCtr := n } := h
theorem Canonical.chargeFill {s : State} (h : Canonical s) (p v k : Nat) : Canonical (s.chargeFill p v k) :=
  (((h.charge _ _ _ _).charge _ _ _ _).onVd _ _ _).counter _
/-- A fold of steps that each keep the form keeps it. -/
theorem Canonical.foldl {α : Type} {f : State → α → State} (hf : ∀ s x, Canonical s → Canonical (f s x)) (xs : List α) :
    ∀ {s : State}, Canonical s → Canonical (xs.foldl f s) := by
  induction xs with
  | nil => exact fun h => h
  | cons x xs ih => exact fun h => ih (hf _ _ h)

/-! ### Banks -/

/-- A fold of bank operations that each keep a bank's form keeps it. -/
theorem Bank.wf_foldl {α : Type} {f : Bank → α → Bank} (hf : ∀ b x, b.wf = true → (f b x).wf = true) (xs : List α) :
    ∀ {b : Bank}, b.wf = true → (xs.foldl f b).wf = true := by
  induction xs with
  | nil => exact fun h => h
  | cons x xs ih => exact fun h => ih (hf _ _ h)
/-- Bytes written raw keep a memory's form. -/
theorem wf_writeRaw (bs : List Byte) : ∀ (m : Memory) (a : Nat), m.wf = true → (writeRaw m a bs).wf = true := by
  induction bs with
  | nil => exact fun _ _ h => h
  | cons x xs ih => exact fun m a h => ih _ _ (Memory.wf_write m a x h)
/-- A bank whose bytes are replaced by bytes in form. -/
theorem Bank.wf_bytes {b : Bank} (h : b.wf = true) {m : Memory} (k : m.wf = true) : ({ b with bytes := m } : Bank).wf = true := by
  rw [Bank.wf_iff] at h ⊢
  exact ⟨k, h.2⟩
/-- A line written to a bank keeps its form. -/
theorem Bank.wf_writeLine (b : Bank) (pa : Nat) (l : Line) (t : Bool) (h : b.wf = true) : (b.writeLine pa l t).wf = true := by
  unfold Bank.writeLine
  refine Bank.wf_foldl (fun b i hb => ?_) _ (Bank.wf_foldl (fun b i hb => ?_) _ (Bank.wf_foldl (fun b i hb => ?_) _ h))
  · split
    · exact Bank.wf_setPoison _ _ hb
    · exact hb
  · split
    · exact Bank.wf_setTag _ _ _ hb
    · exact hb
  · split
    · exact Bank.wf_write _ _ _ hb
    · exact hb

/-- Sectors poisoned where a test says so. -/
theorem Bank.wf_poisonIf (f : Nat → Bool) (a : Nat → Nat) (xs : List Nat) {b : Bank} (h : b.wf = true) :
    (xs.foldl (fun (b : Bank) k => if f k then b.setPoison (a k) else b) b).wf = true := by
  refine Bank.wf_foldl (fun b k hb => ?_) _ h
  split
  · exact Bank.wf_setPoison _ _ hb
  · exact hb

/-! ### Memory behind the last-level cache, and the cache -/

theorem Canonical.markDirty {s : State} (h : Canonical s) (a plog : Nat) : Canonical (s.markDirty a plog) := by
  unfold State.markDirty; dsimp only; split
  · exact h
  · exact h.hbm (Bank.wf_bytes h.1.1 (Memory.wf_write _ _ _ ((Bank.wf_iff _).mp h.1.1).1))
theorem Canonical.memWrite {s : State} (h : Canonical s) (a : Nat) (l : Line) (t : W64) (plog : Nat) : Canonical (s.memWrite a l t plog) := by
  unfold State.memWrite; dsimp only; split
  · exact h.host (Bank.wf_writeLine _ _ _ _ h.1.2.1)
  · exact (h.hbm (Bank.wf_writeLine _ _ _ _ h.1.1)).markDirty _ _
theorem Canonical.writeFrame {s : State} (h : Canonical s) (l : Line) : Canonical (s.writeFrame l).1 := by
  unfold State.writeFrame; dsimp only; split
  · split <;> exact h.memWrite _ _ _ _
  · exact h
theorem Canonical.llcClean {s : State} (h : Canonical s) (k : LlcLine) : Canonical (s.llcClean k) := by
  have hw := h.writeFrame k.line
  unfold State.llcClean
  split
  · exact h
  · dsimp only
    generalize s.writeFrame k.line = r at hw
    generalize r.1.llc.map _ = ls
    have hl := hw.llc ls
    split
    · split
      · exact hl.charge _ _ _ _
      · exact hl.setPart _ _
    · exact hl
theorem Canonical.llcDrop {s : State} (h : Canonical s) (n : Nat) : Canonical (s.llcDrop n) := h
theorem Canonical.llcPut {s : State} (h : Canonical s) (k : LlcLine) : Canonical (s.llcPut k) := by
  unfold State.llcPut; dsimp only; split
  · exact h
  · split
    · exact h
    · exact (h.free _).llcClean _
theorem Canonical.llcUnalias {s : State} (h : Canonical s) (n : Nat) (t : W64) (plog : Nat) : Canonical (s.llcUnalias n t plog) := by
  unfold State.llcUnalias
  exact Canonical.foldl (fun s x hs => (hs.llcClean x).llcDrop _) _ h

/-- What holds of the state that a home's answer carries, where it carries one. -/
def HomeR.Good {α : Type} (P : State → Prop) : HomeR α → Prop
  | .ok _ s => P s
  | .fault _ _ => True
  | .held => True

theorem good_llcRead {s : State} (h : Canonical s) (w : Who) (n : Nat) (v : BitVec 4) : (llcRead s w n v).Good Canonical := by
  unfold llcRead; dsimp only; split
  · exact h
  · split
    · exact True.intro
    · split
      · exact ((h.llcUnalias _ _ _).chargeFill _ _ _).llcPut _
      · exact h.llcUnalias _ _ _
theorem good_llcWrite {s : State} (h : Canonical s) (w : Who) (l : Line) : (llcWrite s w l).Good Canonical := by
  unfold llcWrite; dsimp only; split
  · exact True.intro
  · split
    · exact h.llcPut _
    · split
      · exact True.intro
      · split
        · exact (h.llcUnalias _ _ _).llcPut _
        · exact (h.llcUnalias _ _ _).memWrite _ _ _ _
theorem good_globRead (w : Who) (rs : List (Nat × Nat × Nat)) : ∀ {s : State}, Canonical s → (globRead w rs s).Good Canonical := by
  induction rs with
  | nil => exact fun h => h
  | cons r rs ih =>
    intro s h
    obtain ⟨line, off, n⟩ := r
    have h1 := good_llcRead h w line (maskSectors (maskRange off n))
    unfold globRead
    split
    · exact True.intro
    · exact True.intro
    · rename_i l s1 he
      rw [he] at h1
      have h2 := ih (s := s1) h1
      split
      · rename_i g s2 he2
        rw [he2] at h2
        exact h2
      · exact h2
theorem good_globWrite (w : Who) (tag : Bool) (rs : List (Nat × Nat × Nat)) :
    ∀ (bs : List Byte) {s : State}, Canonical s → (globWrite w tag rs bs s).Good Canonical := by
  induction rs with
  | nil => exact fun _ _ h => h
  | cons r rs ih =>
    intro bs s h
    obtain ⟨line, off, n⟩ := r
    have h1 := good_llcWrite h w (lineOfBytes line off (bs.take n) tag)
    unfold globWrite
    split
    · rename_i a s1 he
      rw [he] at h1
      exact ih _ h1
    · exact True.intro
    · exact h1

/-! ### Scratchpads and images -/

theorem Canonical.fillLine {s : State} (h : Canonical s) (n i : Nat) : Canonical (s.fillLine n i) := by
  unfold State.fillLine; split
  · exact h
  · rename_i x _
    split
    · have h1 := good_globRead ⟨x.id.part, x.id.vd, 0⟩ (runsOf (s.imageBase x.id.part x.id.vd n + 0x4000 + 256 * i) 256) h
      split
      · rename_i g s1 he
        rw [he] at h1
        exact (h1.scratch (Bank.wf_poisonIf _ _ _ (Bank.wf_bytes h1.1.2.2.1 (wf_writeRaw _ _ _ ((Bank.wf_iff _).mp h1.1.2.2.1).1)))).setStrand _ _
      · exact h.setStrand _ _
    · exact h
theorem Canonical.fillGran {s : State} (h : Canonical s) (n i : Nat) : Canonical (s.fillGran n i) := by
  unfold State.fillGran; split
  · exact h
  · rename_i x _
    have h1 := good_globRead ⟨x.id.part, x.id.vd, 0⟩ (runsOf (s.imageBase x.id.part x.id.vd n + 0x2000 + 512 * i) 512) h
    split
    · rename_i g s1 he
      rw [he] at h1
      exact Canonical.setStrand h1 _ _
    · exact h.setStrand _ _
theorem Canonical.fillRange {s : State} (h : Canonical s) (n off len : Nat) : Canonical (s.fillRange n off len) := by
  unfold State.fillRange
  refine Canonical.foldl (fun s i hs => ?_) _ h
  split
  · exact hs.fillLine _ _
  · exact hs
theorem Canonical.scratchPut {s : State} (h : Canonical s) (n off : Nat) (bs : List Byte) (tag : Bool) : Canonical (s.scratchPut n off bs tag) := by
  unfold State.scratchPut; dsimp only
  refine Canonical.onStrand (h.scratch ?_) _ _
  split
  · exact Bank.wf_setTag _ _ _ (Bank.wf_writeList _ _ _ h.1.2.2.1)
  · exact Bank.wf_writeList _ _ _ h.1.2.2.1
theorem Canonical.imageWrite {s : State} (h : Canonical s) (p v base off : Nat) (bs : List Byte) : Canonical (s.imageWrite p v base off bs) := by
  have h1 := good_globWrite ⟨p, v, 0⟩ false (runsOf (base + off) bs.length) bs (h.touch (.glob (base + off)) bs.length)
  unfold State.imageWrite; split
  · rename_i a s1 he
    rw [he] at h1
    exact h1
  · exact h
theorem Canonical.imageFetch {s : State} (h : Canonical s) (p v base off n : Nat) : Canonical (s.imageFetch p v base off n).2 := by
  have h1 := good_globRead ⟨p, v, 0⟩ (runsOf (base + off) n) h
  unfold State.imageFetch; split
  · rename_i a s1 he
    rw [he] at h1
    exact h1
  · exact h
theorem Canonical.imageBit {s : State} (h : Canonical s) (p v base off i : Nat) (b : Bool) : Canonical (s.imageBit p v base off i b) :=
  (h.imageFetch _ _ _ _ _).imageWrite _ _ _ _ _
theorem Canonical.reseal {s : State} (h : Canonical s) (p v base : Nat) : Canonical (s.reseal p v base) :=
  Canonical.imageWrite (h.imageFetch p v base 0 0x2000) _ _ _ _ _
theorem Canonical.imageNote {s : State} (h : Canonical s) (p v base off len : Nat) (tag : Bool) :
    Canonical (s.imageNote p v base off len tag) := by
  unfold State.imageNote; split
  · exact h
  · exact Canonical.reseal (Canonical.foldl (fun _ _ hs => hs.imageBit _ _ _ _ _ _) _
      (Canonical.foldl (fun _ _ hs => hs.imageBit _ _ _ _ _ _) _ h)) _ _ _

/-! ### Homes -/

/-- A read at a home keeps the form. -/
theorem good_homeRead {s : State} (h : Canonical s) (w : Who) (l : Loc) (n : Nat) : (homeRead s w l n).Good Canonical := by
  unfold homeRead; split
  · exact good_globRead _ _ h
  · exact h
  · exact h
  · split
    · split
      · rename_i y _
        have h1 := good_globRead w (runsOf (y.image + 0x4000 + ‹Nat›) n) h
        split
        · rename_i g s1 he
          rw [he] at h1
          exact Canonical.imageFetch h1 _ _ _ _ _
        · exact h1
      · exact True.intro
    · exact h.fillRange _ _ _
/-- A read that goes on to write keeps the form. -/
theorem good_homeReadW {s : State} (h : Canonical s) (w : Who) (l : Loc) (n : Nat) : (homeReadW s w l n).Good Canonical := by
  unfold homeReadW; split
  · exact True.intro
  · exact good_homeRead h w l n
/-- A write at a home keeps the form. -/
theorem good_homeWrite {s : State} (h : Canonical s) (w : Who) (l : Loc) (bs : List Byte) (tag : Bool) :
    (homeWrite s w l bs tag).Good Canonical := by
  have ht : Canonical (s.touch l bs.length) := h
  unfold homeWrite; dsimp only; split
  · exact good_globWrite _ _ _ _ ht
  · refine ht.chip ?_
    split
    · exact Bank.wf_setTag _ _ _ (Bank.wf_writeList _ _ _ ht.1.2.2.2)
    · exact Bank.wf_writeList _ _ _ ht.1.2.2.2
  · refine ht.hbm ?_
    split
    · exact Bank.wf_setTag _ _ _ (Bank.wf_writeList _ _ _ ht.1.1)
    · exact Bank.wf_writeList _ _ _ ht.1.1
  · split
    · split
      · rename_i y _
        have h1 := good_globWrite w false (runsOf (y.image + 0x4000 + ‹Nat›) bs.length) bs ht
        split
        · rename_i g s1 he
          rw [he] at h1
          exact Canonical.imageNote h1 _ _ _ _ _ _
        · exact h1
      · exact True.intro
    · exact (ht.fillRange _ _ _).scratchPut _ _ _ _
theorem good_readCuts (w : Who) (l : Loc) (cs : List (Nat × Nat)) : ∀ {s : State}, Canonical s → (readCuts w l cs s).Good Canonical := by
  induction cs with
  | nil => exact fun h => h
  | cons c cs ih =>
    intro s h
    obtain ⟨o, m⟩ := c
    have h1 := good_homeRead h w (l.plus o) m
    unfold readCuts
    split
    · exact True.intro
    · exact True.intro
    · rename_i g s1 he
      rw [he] at h1
      have h2 := ih (s := s1) h1
      split
      · rename_i r s2 he2
        rw [he2] at h2
        exact h2
      · exact h2
theorem good_homeReadBad {s : State} (h : Canonical s) (w : Who) (l : Loc) (n : Nat) : (homeReadBad s w l n).Good Canonical := good_readCuts _ _ _ h
/-- Poison marked at a home keeps the form. -/
theorem Canonical.markPoison {s : State} (h : Canonical s) (w : Who) (l : Loc) : Canonical (Sys2Proof.Machine.markPoison s w l) := by
  have hg : ∀ a, Canonical (match s.llcLine (a / 256) with
      | some k => s.llcPut { k with line := { k.line with poison := k.line.poison ||| (1#4 <<< (a % 256 / 64)) } }
      | none =>
        match walk s a true with
        | .fault _ => s
        | .leaf t plog =>
          let pa := s.frameOf a t plog + a % 256
          if tState t = 2 then { s with host := s.host.setPoison pa } else { s with hbm := s.hbm.setPoison pa }) := by
    intro a
    split
    · exact h.llcPut _
    · split
      · exact h
      · dsimp only
        split
        · exact h.host (Bank.wf_setPoison _ _ h.1.2.1)
        · exact h.hbm (Bank.wf_setPoison _ _ h.1.1)
  unfold Sys2Proof.Machine.markPoison; dsimp only; split
  · exact hg _
  · exact h.chip (Bank.wf_setPoison _ _ h.1.2.2.2)
  · exact h.hbm (Bank.wf_setPoison _ _ h.1.1)
  · split
    · split
      · exact hg _
      · exact h
    · exact h.scratch (Bank.wf_setPoison _ _ h.1.2.2.1)
theorem good_homeWriteBad {s : State} (h : Canonical s) (w : Who) (l : Loc) (bs : List Byte) (bad : List (Nat × Nat)) :
    (homeWriteBad s w l bs bad).Good Canonical := by
  have h1 := good_homeWrite h w l bs false
  unfold homeWriteBad; split
  · rename_i a s1 he
    rw [he] at h1
    exact Canonical.foldl (fun _ _ hs => Canonical.foldl (fun _ _ hz => hz.markPoison _ _) _ hs) _ h1
  · exact h1
/-- An engine's read keeps the form. -/
theorem engineRead_canonical {s t : State} (h : Canonical s) {w : Who} {l : Loc} {n : Nat} {f : Option Bool} {bs : List Byte}
    {bad : List (Nat × Nat)} (e : engineRead s w l n f = .ok (bs, bad, t)) : Canonical t := by
  have h1 := good_homeReadBad h w l n
  unfold engineRead at e
  split at e
  · cases e
  · split at e
    · cases e
    · split at e
      · rename_i g s1 he
        rw [he] at h1
        cases e
        exact h1
      · cases e
/-- An engine's write keeps the form. -/
theorem engineWrite_canonical {s t : State} (h : Canonical s) {w : Who} {l : Loc} {bs : List Byte} {bad : List (Nat × Nat)}
    (e : engineWrite s w l bs bad = .ok t) : Canonical t := by
  have h1 := good_homeWriteBad h w l bs bad
  unfold engineWrite at e
  split at e
  · cases e
  · split at e
    · rename_i g s1 he
      rw [he] at h1
      cases e
      exact h1
    · cases e

/-! ### Queues, partitions, tables in memory -/

theorem Canonical.setTable {s : State} (h : Canonical s) (q : Nat) (r : W512) : Canonical (s.setTable q r) :=
  h.hbm (Bank.wf_writeList _ _ _ h.1.1)
theorem Canonical.setPending {s : State} (h : Canonical s) (q : Nat) (b : Bool) : Canonical (s.setPending q b) :=
  h.hbm (Bank.wf_write _ _ _ h.1.1)
theorem Canonical.putSlot {s : State} (h : Canonical s) (k : Nat) (x : QSlot) : Canonical { s with qslots := s.qslots.put k x } :=
  ⟨h.1, h.2.1, h.2.2.1, h.2.2.2.1, h.2.2.2.2.1, h.2.2.2.2.2.1, Tbl.wf_put _ _ _ h.2.2.2.2.2.2.1, h.2.2.2.2.2.2.2⟩
theorem Canonical.setRecord {s : State} (h : Canonical s) (q : Nat) (r : W512) : Canonical (s.setRecord q r) := by
  unfold State.setRecord; split
  · split
    · dsimp only
      split
      · exact h.putSlot _ _
      · exact (h.putSlot _ _).setTable _ _
    · exact h.setTable _ _
  · exact h.setTable _ _
theorem Canonical.setHbmWord {s : State} (h : Canonical s) (pa : Nat) (w : W64) : Canonical (s.setHbmWord pa w) :=
  h.hbm (Bank.wf_writeList _ _ _ h.1.1)
theorem Canonical.putEntry {s : State} (h : Canonical s) (k : Nat) (d : DirEntry) : Canonical { s with dir := s.dir.put k d } :=
  ⟨h.1, h.2.1, h.2.2.1, h.2.2.2.1, h.2.2.2.2.1, h.2.2.2.2.2.1, h.2.2.2.2.2.2.1, Tbl.wf_put _ _ _ h.2.2.2.2.2.2.2⟩
theorem Canonical.delEntry {s : State} (h : Canonical s) (k : Nat) : Canonical { s with dir := s.dir.del k } :=
  ⟨h.1, h.2.1, h.2.2.1, h.2.2.2.1, h.2.2.2.2.1, h.2.2.2.2.2.1, h.2.2.2.2.2.2.1, Tbl.wf_del _ _ h.2.2.2.2.2.2.2⟩
theorem Canonical.scrubSlices {s : State} (h : Canonical s) (sl : List Nat) : Canonical (s.scrubSlices sl) := by
  unfold State.scrubSlices
  exact Canonical.chip (Canonical.hbm h (Bank.wf_foldl (fun _ _ hb => Bank.wf_scrub _ _ _ hb) _ h.1.1))
    (Bank.wf_foldl (fun _ _ hb => Bank.wf_scrub _ _ _ hb) _ h.1.2.2.2)

/-- A table whose entries are changed under their keys keeps its order. -/
theorem Tbl.sortedFrom_map {α : Type} (f : Nat × α → α) (t : Tbl α) {lo : Nat} (h : Tbl.sortedFrom lo t = true) :
    Tbl.sortedFrom lo (t.map fun e => (e.1, f e)) = true := by
  induction t generalizing lo with
  | nil => rfl
  | cons e t ih =>
    obtain ⟨j, x⟩ := e
    simp only [Tbl.sortedFrom, List.map_cons, Bool.and_eq_true] at h ⊢
    exact ⟨h.1, ih h.2⟩

end Sys2Proof.Machine
end

