-- ==== Sys2Proof/Machine/Reads.lean ====
section
/-! DEFINITION. What a read of the management region (BAR0) and of a partition's management page returns (R12, R16 to R18, R30, R35, R37 to
R39, R110, R115, R118, R123, R133, R145, R183, R212, R243). The host and the supervisor read them; no row of the table does. Each
function gives the doubleword at an offset that is a multiple of 8; what no rule names reads as zero. -/
namespace Sys2Proof.Machine

/-- Doubleword `j` of a wider word. -/
def dword {n : Nat} (w : BitVec n) (j : Nat) : W64 := w.extractLsb' (64 * j) 64

/-- Two 32-bit fields. -/
def pair32 (lo hi : Nat) : W64 := BitVec.ofNat 64 (lo % 2 ^ 32 + hi % 2 ^ 32 * 2 ^ 32)

/-- A number of which each listed place is a bit. -/
def bitsAt (ks : List Nat) : Nat := ks.foldl (fun v k => v ||| 2 ^ k) 0

/-! ### Logs (R37) -/

/-- The record in place `i` of a ring of `n`, of which `l` holds the latest and `c` have been appended: zero before the first. -/
def ringAt (n c : Nat) (l : List W256) (i : Nat) : W256 :=
  if c ≤ i then 0
  else
    let k := i + (c - 1 - i) / n * n
    if c - k ≤ l.length then l.getD (l.length - (c - k)) 0 else 0

/-- A log of `n` records: the append count, then the records from offset 0x20 on. -/
def logWord (n c : Nat) (l : List W256) (o : Nat) : W64 :=
  if o = 0 then BitVec.ofNat 64 c
  else if 0x20 ≤ o ∧ o < 0x20 + 32 * n then dword (ringAt n c l ((o - 0x20) / 32)) (o / 8 % 4)
  else 0

/-! ### BAR0 -/

/-- The bodies of the feature list, in order of their identifiers 1 to 7 (R18). -/
def State.features (s : State) : List W64 :=
  [64, 1, 0x101, 1, 1, BitVec.ofNat 64 (12 + 2 ^ 16 * bitsAt ((List.range 12).filter s.portUp)), BitVec.ofNat 64 (0x60000000 + 4 * 2 ^ 48)]

/-- A doubleword of the feature list (R17, R18): headers and bodies by turns. -/
def State.featureWord (s : State) (o : Nat) : W64 :=
  let i := (o - 0x100) / 16
  if 7 ≤ i then 0
  else if o % 16 = 8 then s.features.getD i 0
  else BitVec.ofNat 64 (i + 1 + (Config.featureVersion (i + 1)).toNat * 2 ^ 16 + 16 * 2 ^ 24 + (if i = 6 then 0 else o + 16) * 2 ^ 32)

/-- A doubleword of the time block (R16, R115). -/
def TimeRegs.word (t : TimeRegs) (o : Nat) : W64 :=
  match o with
  | 0x00 => t.ptpSec.setWidth 64
  | 0x08 => t.ptpNs.setWidth 64
  | 0x10 => BitVec.ofNat 64 t.syncTick
  | 0x18 => pair32 (b2n t.holdover + 2 * b2n t.valid) t.latchSeq.toNat
  | 0x40 => BitVec.ofNat 64 t.stepPeriod
  | 0x48 => BitVec.ofNat 64 t.stepOffset
  | 0x50 => BitVec.ofNat 64 t.stepCells
  | _ => 0

/-- A doubleword of the power block (R110). -/
def State.powerWord (s : State) (o : Nat) : W64 :=
  let p := s.power
  if o = 0x00 then BitVec.ofNat 64 p.capMw
  else if o = 0x08 then BitVec.ofNat 64 (b2n p.refused + 2 * b2n p.short)
  else if 0x10 ≤ o ∧ o < 0x50 then
    let i := (o - 0x10) / 16
    if o % 16 = 0 then pair32 (at4 p.floor i) (at4 p.grant i) else pair32 (at4 p.demand i) (at4 p.throttled i)
  else if o = 0x80 then BitVec.ofNat 64 p.thermLimit
  else if o = 0x88 then BitVec.ofNat 64 p.untiered
  else if 0x100 ≤ o ∧ o < 0x900 then BitVec.ofNat 64 (numOf ((List.range 8).map fun k => BitVec.ofNat 8 (s.coreCfg (o - 0x100 + k)).reqDiv))
  else 0

/-- A doubleword of BAR0 (R12). -/
def State.bar0Word (s : State) (o : Nat) : W64 :=
  if o < 0x100 then BitVec.ofNat 64 (numOf ((Config.identity.drop o).take 8))
  else if o < 0x8000 then s.featureWord o
  else if o < 0x9000 then logWord 127 s.logCount s.log (o - 0x8000)
  else if o < 0xA000 then s.time.word (o - 0x9000)
  else if o = 0xA000 then s.tableBase
  else if o = 0xA008 then s.bitmapBase
  else if 0xA100 ≤ o ∧ o < 0xA300 then ((s.part ((o - 0xA100) / 8)).map (·.slots)).getD 0
  else if 0xB000 ≤ o ∧ o < 0xC000 then s.powerWord (o - 0xB000)
  else 0

/-- A doubleword of BAR2 (R12, R42): the doorbell of slot `o` / 4096 gives the queue mapped there, and bit 0 while there is one. -/
def State.bar2Word (s : State) (o : Nat) : W64 :=
  if o % 4096 = 0 then
    match s.qslots.find (o / 4096) with
    | some x => if o / 4096 < 64 then BitVec.ofNat 64 (x.queue * 2 ^ 52 + 1) else 0
    | none => 0
  else 0

/-! ### Management pages (R38) -/

/-- The state that the partition record shows (R30): an active partition whose contexts are all saved is quiesced (R19, R22; log 51). -/
def State.partState (s : State) (p : Nat) (x : Partition) : Nat :=
  if x.state = 1 ∧ !x.saved.isEmpty ∧ !s.resident p then 2 else x.state

/-- The partition record (R30), `st` its state. vd_count counts the virtual devices that hold a reservation. -/
def Partition.record (x : Partition) (p st : Nat) : W256 :=
  BitVec.ofNat 256 (x.node + x.sliceBase * 2 ^ 24 + x.sliceLog2 * 2 ^ 32 + p * 2 ^ 40 + st * 2 ^ 48 +
    (x.vds.filter fun e => e.2.rsv.isSome).length * 2 ^ 56 + x.utilSum % 2 ^ 64 * 2 ^ 64 + x.openLen * 2 ^ 128 + x.openBase * 2 ^ 160 +
    x.hidden.toNat * 2 ^ 192)

/-- A doubleword of the registers from offset 0x100 up to the save bases. -/
def Page.word (g : Page) (gen epoch o : Nat) : W64 :=
  match o with
  | 0x100 => g.domBase
  | 0x108 => pair32 g.domload.toNat g.domStat.toNat
  | 0x110 => BitVec.ofNat 64 g.grace
  | 0x118 => pair32 g.lend.toNat g.lendStat.toNat
  | 0x120 => BitVec.ofNat 64 gen
  | 0x128 => BitVec.ofNat 64 epoch
  | 0x140 => g.trCmd
  | 0x148 => g.trArg0
  | 0x150 => g.trArg1
  | 0x158 => g.trArg2
  | 0x160 => g.trStat.setWidth 64
  | 0x168 => g.trRes
  | _ => 0

/-- A doubleword of the debugger block (R145). -/
def Page.debugWord (g : Page) (o : Nat) : W64 :=
  if o = 0x00 then g.dbgCmd
  else if o = 0x08 then g.dbgStat.setWidth 64
  else if o = 0x10 then g.dbgAddr
  else if o = 0x18 then BitVec.ofNat 64 (b2n g.dbgTag)
  else if 0x40 ≤ o ∧ o < 0x80 then dword g.dbgData ((o - 0x40) / 8)
  else 0

/-- A doubleword of the mailbox (R38); go reads as zero. -/
def Page.mailWord (g : Page) (o : Nat) : W64 :=
  let at8 := fun (m : Memory) (k : Nat) => BitVec.ofNat 64 (numOf ((List.range 8).map fun j => m.read (k + j)))
  if o = 0x00 then pair32 g.reqLen.toNat g.rspLen.toNat
  else if o = 0x08 then BitVec.ofNat 64 (2 * b2n g.mbDone + 4 * b2n g.mbBusy)
  else if 0x100 ≤ o ∧ o < 0x800 then at8 g.mbReq (o - 0x100)
  else if 0x800 ≤ o ∧ o < 0x1000 then at8 g.mbRsp (o - 0x800)
  else 0

/-- A doubleword of the page of partition `p` (R38); a page without a partition reads as zero. -/
def State.pageWord (s : State) (p o : Nat) : W64 :=
  match s.part p with
  | none => 0
  | some x =>
    if o < 0x20 then dword (x.record p (s.partState p x)) (o / 8)
    else if o < 0x200 then x.page.word x.generation x.keyEpoch o
    else if o < 0x400 then (x.vd ((o - 0x200) / 8)).saveBase
    else if o < 0x800 then
      let d := x.vd ((o - 0x400) / 16)
      if o % 16 = 0 then pair32 d.quotaUj d.usedUj else pair32 d.overrunUj 0
    else if o < 0x900 then x.page.debugWord (o - 0x800)
    else if 0xC00 ≤ o ∧ o < 0xE00 then dword (x.peers.getD ((o - 0xC00) / 32) 0) (o / 8 % 4)
    else if 0x1000 ≤ o ∧ o < 0x2000 then x.page.mailWord (o - 0x1000)
    else if 0x2000 ≤ o ∧ o < 0x4000 then logWord 255 x.logCount x.log (o - 0x2000)
    else if 0x20000 ≤ o ∧ o < 0x40000 then s.eventCount p ((o - 0x20000) / 0x800) (o % 0x800 / 8)
    else 0

/-- A read of the doubleword at offset `o` of BAR0, BAR2 or BAR4 (R12), the number `bar`: none before IDE is established, when it fails with
unsupported-request status (R11). -/
def State.barRead (s : State) (bar o : Nat) : Option W64 :=
  if !s.linkUp then none
  else some (if bar = 0 then s.bar0Word o else if bar = 2 then s.bar2Word o else if bar = 4 then s.pageWord (o / 0x40000) (o % 0x40000) else 0)

end Sys2Proof.Machine
end

