-- ==== Sys2Proof/Tests/Slice0.lean ====
section
/-! SUPPORT. Tests: words written out from the encodings, ill-formed terms, worked examples of the spec, and for every statement with
hypotheses a state that meets them. -/
namespace Sys2Proof.Tests
open Sys2Proof.Machine Sys2Proof.Claim
set_option Elab.async false

/-! ### Small states -/

/-- A 64-bit number in a g register. -/
def num (n : Nat) : GReg := ⟨BitVec.ofNat 128 n, false⟩
/-- A tagged capability in a g register: bits 127:64 and the address. -/
def capReg (hi addr : Nat) : GReg := ⟨BitVec.ofNat 128 (hi * 2 ^ 64 + addr), true⟩
/-- A strand of core 0 with these g registers. -/
def strandOf (rs : List (BitVec 6 × GReg)) : Strand := rs.foldl (fun x r => x.setG r.1 r.2) (blankStrand 0)
/-- The device with this one strand on core 0. -/
def box (x : Strand) : State := { State.reset with boot := .running, strands := [(0, x)] }
/-- The strand of core 0 after an instruction. -/
def after (i : Instr) (x : Strand) : Option Strand :=
  match Sys2Proof.Machine.exec i (box x) with
  | .next t => t.strand 0
  | _ => none
/-- A g register after an instruction. -/
def reg (i : Instr) (x : Strand) (r : BitVec 6) : Option GReg := (after i x).map (·.getG r)

theorem test_div : reg (.div 5 6 7) (strandOf [(6, num 0xFFFFFFFFFFFFFFF9), (7, num 2)]) 5 = some (num 0xFFFFFFFFFFFFFFFD) := by decide +kernel

/-! ### Words written out from the encodings (R272 to R296) -/

theorem test_words_integer : decodeWord 0x04518700 = some (.add 5 6 7) ∧ decodeWord 0x18412003 = some (.srai 4 4 3) ∧
    decodeWord 0x2492120F = some (.extz 9 8 8 15) ∧ decodeWord 0x28700001 = some (.li 7 1) ∧ decodeWord 0x2C701234 = some (.lih 7 0x1234) ∧
    decodeWord 0x29500200 = some (.li 21 0x200) := by decide +kernel
theorem test_words_float : decodeWord 0x30A2CC03 = some (.ffma 10 11 12) := by decide +kernel
theorem test_words_capability : decodeWord 0x3940C100 = some (.cinci 20 3 0x100) ∧ decodeWord 0x35451500 = some (.cbnd 20 20 21) ∧
    decodeWord 0x35650009 = some (.cgetl 22 20) ∧ decodeWord 0x35851502 = some (.cperm 24 20 21) ∧
    decodeWord 0x35A0D904 = some (.cinc 26 3 25) := by decide +kernel
theorem test_words_memory : decodeWord 0x4080B1FE = some (.ldd 8 2 0 0x1FE) ∧ decodeWord 0x41E0F802 = some (.ldc 30 3 0 2) ∧
    decodeWord 0x45426002 = some (.stw 20 9 0 2) ∧ decodeWord 0x48000012 = some (.fence 2) := by decide +kernel
theorem test_words_atomic : decodeWord 0x4C51071B = some (.aadd 5 4 7 1 2 3) ∧ decodeWord 0x4C5107E9 = some (.acas 5 4 7 0 2 1) := by
  decide +kernel
theorem test_words_branch : decodeWord 0x60401FFD = some (.bne 4 0 0xFFD) ∧ decodeWord 0x60026FFC = some (.blt 0 9 0xFFC) ∧
    decodeWord 0x64928005 = some (.bltn 9 10 5) ∧ decodeWord 0x68100040 = some (.jal 1 0x40) ∧ decodeWord 0x6C004000 = some (.jalr 0 1) := by
  decide +kernel
theorem test_words_sync : decodeWord 0x7005560A = some (.sig 21 22 0 2) ∧ decodeWord 0x71755812 = some (.wait 23 21 24 2) ∧
    decodeWord 0x70024020 = some (.chadd 9) ∧ decodeWord 0x70630028 = some (.ticket 6 12) := by decide +kernel
theorem test_words_spool : decodeWord 0x74378000 = some (.spdef 3 30) ∧ decodeWord 0x76808010 = some (.srd 40 2) := by decide +kernel
theorem test_words_barrier : decodeWord 0x78014009 = some (.bar 5 1) ∧ decodeWord 0x7801400B = some (.exch 5 1) ∧
    decodeWord 0x78010010 = some (.vclaim 4) ∧ decodeWord 0x7C134000 = some (.bob 1 13) := by decide +kernel
theorem test_words_system : decodeWord 0x80500010 = some (.csrr 5 0x10) ∧ decodeWord 0x80025020 = some (.csrw 0 9 0x20) ∧
    decodeWord 0x8001E01A = some (.csrs 0 7 0x1A) ∧ decodeWord 0x84000123 = some (.trap 0x123) ∧ decodeWord 0x88000008 = some .sendx := by
  decide +kernel
theorem test_words_enqueue : decodeWord 0x8CA50C01 = some (.enqC 10 20 12) ∧ decodeWord 0x8CA50A00 = some (.enqM 10 20 10) := by decide +kernel
theorem test_words_vector : decodeWord 0xC1010603 = some (.vfma 32 16 48 0) ∧ decodeWord 0xC0409144 = some (.vadd 8 9 10 1) ∧
    decodeWord 0xCC508120 = some (.vcmp 1 2 8 9 0) ∧ decodeWord 0xCC609002 = some (.vbcst 12 9 0) ∧ decodeWord 0xCC289063 = some (.vext 5 9 3 0) ∧
    decodeWord 0xDCF1F2C0 = some (.vcvt 30 31 22 0) ∧ decodeWord 0xDC802003 = some (.vsrd 16 2 0) ∧
    decodeWord 0xE02050C2 = some (.vsift 4 5 6 0) := by decide +kernel
theorem test_words_vector_memory : decodeWord 0xE4187000 = some (.pset 3 7) ∧ decodeWord 0xE9429181 = some (.vgath 40 41 12 0 1) ∧
    decodeWord 0xF0828002 = some (.vld 16 20 0 2) ∧ decodeWord 0xF8C04C02 = some (.vldl 24 2 3 2) := by decide +kernel
/-- The worked command word of file 18: 32 rows of E4M3 from spool h2 into a1, with a knot at cluster offset 0x2002_0000. -/
theorem test_words_matrix : decodeCommand map2 (BitVec.ofNat 256 (0x01001000 * 2 ^ 192 + 0x2007FF8020200504)) =
    some (.mmMma ⟨⟨0, 0x01001000, false, false, 1⟩, 0, 0, 0, 0, 2, 0, 31, 127, 0, 1, 0, 0, 0, 1, false, false, false⟩) := by decide +kernel
theorem test_words_copy : decodeCommand map2 (BitVec.ofNat 256 (0x400 * 2 ^ 128 + 0x10000 * 2 ^ 64 + 2 * 2 ^ 62 + 256 * 2 ^ 16 + 0x200)) =
    some (.cpCopy ⟨⟨0, 0, false, false, 0⟩, 0x400, 0x10000, 2, 256⟩) := by decide +kernel
/-- The worked S200 command of file 14: under map 1 opcode 0x013 is MM.MMA, under map 2 nothing; two knots are too many (R291). -/
theorem test_words_maps : (decodeCommand map1 0x0413).isSome = true ∧ decodeCommand map2 0x0413 = none ∧ decodeCommand map1 0x0813 = none := by
  decide +kernel
theorem test_words_illegal : decodeWord 0 = none ∧ decodeWord 0x3C000000 = none ∧ decodeWord 0x50000000 = none ∧ decodeWord 0x90000000 = none ∧
    decodeWord 0x04518709 = none ∧ decodeWord 0x04000128 = none ∧ decodeWord 0x18413003 = none ∧ decodeWord 0x24921E0F = none := by
  decide +kernel
theorem test_encode_words : encodeWord (.srai 4 4 3) = some 0x18412003 ∧ encode (.srai 4 4 3) = [0x03, 0x20, 0x41, 0x18] := by decide +kernel

/-! ### Ill-formed terms: each check of WellFormed refuses one (R276, R284, R285, R288, R290, R291, R305, R368) -/

theorem test_wf_refuses_fields : Instr.wf (.exts 1 2 32 32) = false ∧ Instr.wf (.extz 1 2 56 15) = false ∧ Instr.wf (.ins 1 2 63 1) = false ∧
    Instr.wf (.extz 1 2 48 15) = true := by decide +kernel
theorem test_wf_refuses_handles : Instr.wf (.spdef 16 1) = false ∧ Instr.wf (.spadvp 16 1) = false ∧ Instr.wf (.spadvc 16 1) = false ∧
    Instr.wf (.spwaitp 16 1) = false ∧ Instr.wf (.spwaitc 16 1) = false ∧ Instr.wf (.spdef 15 1) = true := by decide +kernel
theorem test_wf_refuses_streams : Instr.wf (.sbind 8 0 0) = false ∧ Instr.wf (.sbind 0 16 0) = false ∧ Instr.wf (.sbind 0 0 5) = false ∧
    Instr.wf (.sunbind 8) = false ∧ Instr.wf (.srd 1 8) = false ∧ Instr.wf (.vsrd 1 8 0) = false ∧ Instr.wf (.sbind 7 15 4) = true := by
  decide +kernel
theorem test_wf_refuses_barriers : Instr.wf (.bara 16 0) = false ∧ Instr.wf (.baraX 16 0) = false ∧ Instr.wf (.barw 16 0) = false ∧
    Instr.wf (.bar 16 0) = false ∧ Instr.wf (.exch 16 0) = false ∧ Instr.wf (.bar 63 1) = true := by decide +kernel
theorem test_wf_refuses_counts : Instr.wf (.vclaim 0) = false ∧ Instr.wf (.vclaim 15) = false ∧ Instr.wf (.vgive 0) = false ∧
    Instr.wf (.bob 16 1) = false ∧ Instr.wf (.vclaim 14) = true ∧ Instr.wf (.bob 15 1) = true := by decide +kernel
theorem test_wf_refuses_pairs : Instr.wf (.enqM 1 3 2) = false ∧ Instr.wf (.enqC 1 0 2) = false ∧ Instr.wf (.enqX 1 63 2) = false ∧
    Instr.wf (.enqX 1 62 2) = true := by decide +kernel
theorem test_wf_refuses_lanes : Instr.wf (.vext 1 2 16 0) = false ∧ Instr.wf (.vcvt 1 2 0x0C 0) = false ∧ Instr.wf (.vcvt 1 2 0x18 0) = false ∧
    Instr.wf (.vcvt 1 2 0x13 0) = false ∧ Instr.wf (.vcvt 1 2 0x17 0) = true := by decide +kernel
/-- A command with too many knots, with an unused knot field that is not zero, or narrow where it may not be. -/
theorem test_wf_refuses_commands :
    (let c : CmdCommon := ⟨0, 0, false, false, 0⟩
     wfCommon 1 false { c with knots := 2 } = false ∧ wfCommon 2 false { c with k0 := 1 } = false ∧
     wfCommon 2 false { c with knots := 1, k0 := 1, k1Off := 1 } = false ∧ wfCommon 1 false { c with narrow := true } = false ∧
     wfCommon 2 true { c with knots := 2, k0 := 1, k1Off := 1, narrow := true } = true) ∧
    Instr.wf (.xcPlan ⟨⟨0, 0, false, true, 0⟩, 0⟩) = false := by decide +kernel

/-! ### Worked examples of the spec -/

/-- DIV, REM, DIVN and REMN of R302's table. -/
theorem test_division : (let x := strandOf [(6, num 0xFFFFFFFFFFFFFFF9), (7, num 2)]
    reg (.div 5 6 7) x 5 = some (num 0xFFFFFFFFFFFFFFFD) ∧ reg (.rem 5 6 7) x 5 = some (num 0xFFFFFFFFFFFFFFFF) ∧
    reg (.divn 5 6 7) x 5 = some (num 0x7FFFFFFFFFFFFFFC)) := by decide +kernel
theorem test_division_by_zero : (let x := strandOf [(6, num 5)]
    reg (.div 5 6 7) x 5 = some (num 0xFFFFFFFFFFFFFFFF) ∧ reg (.remn 5 6 7) x 5 = some (num 5)) ∧
    reg (.div 5 6 7) (strandOf [(6, num 0x8000000000000000), (7, num 0xFFFFFFFFFFFFFFFF)]) 5 = some (num 0x8000000000000000) := by decide +kernel
theorem test_add_wraps : reg (.add 6 6 7) (strandOf [(6, ⟨BitVec.ofNat 128 (2 ^ 64 - 1 + 2 ^ 100), true⟩), (7, num 2)]) 6 = some (num 1) := by
  decide +kernel
theorem test_mulh_signs : (let x := strandOf [(6, num (2 ^ 64 - 2)), (7, num 3)]
    reg (.mulh 5 6 7) x 5 = some (num (2 ^ 64 - 1)) ∧ reg (.mulhn 5 6 7) x 5 = some (num 2)) := by decide +kernel
theorem test_sra_ignores_high_bits : reg (.sra 5 6 7) (strandOf [(6, num (2 ^ 63)), (7, num 65)]) 5 = some (num (3 * 2 ^ 62)) := by decide +kernel
theorem test_sel_reads_d : (let x := strandOf [(5, num 1), (6, num 2), (7, num 3)]
    reg (.sel 5 6 7) x 5 = some (num 2) ∧ reg (.sel 4 6 7) x 4 = some (num 3) ∧ reg (.sel 0 6 7) x 0 = some (num 0)) := by decide +kernel
theorem test_counts_of_zero : (let x := strandOf []
    reg (.clz 5 6) x 5 = some (num 64) ∧ reg (.ctz 5 6) x 5 = some (num 64) ∧ reg (.popc 5 6) x 5 = some (num 0)) := by decide +kernel
/-- The constant 0x100_0000_1234 of R306, its last word. -/
theorem test_lih : reg (.lih 7 0x1234) (strandOf [(7, num 0x100000)]) 7 = some (num 0x10000001234) := by decide +kernel
/-- R303: SLTNI with −1. -/
theorem test_sltni : reg (.sltni 5 6 0x3FFF) (strandOf [(6, num 7)]) 5 = some (num 1) ∧
    reg (.sltni 5 6 0x3FFF) (strandOf [(6, num (2 ^ 64 - 1))]) 5 = some (num 0) := by decide +kernel
theorem test_exts_ins : reg (.exts 5 6 4 7) (strandOf [(6, num 0xF80)]) 5 = some (num 0xFFFFFFFFFFFFFFF8) ∧
    reg (.ins 5 6 4 7) (strandOf [(5, num 0xFFFFF), (6, num 0x312)]) 5 = some (num 0xFF12F) := by decide +kernel

/-- A register and FFLAGS after a scalar FP32 instruction. -/
def fp (i : Instr) (rnd : Nat) (a b : Nat) : Option (GReg × W64) :=
  (after i ((strandOf [(6, num a), (7, num b)]).setCsr 0x19#7 (BitVec.ofNat 64 rnd))).map fun y => (y.getG 5, y.csrAt 0x1A#7)

/-- The examples of R310, with nx in bit 0 and nv in bit 4 of FFLAGS (R170). -/
theorem test_fadd : fp (.fadd 5 6 7) 0 0x3F800000 0x33800000 = some (num 0x3F800000, 1) ∧
    fp (.fadd 5 6 7) 2 0x3F800000 0x33800000 = some (num 0x3F800001, 1) := by decide +kernel
theorem test_fmul_nan : fp (.fmul 5 6 7) 0 0 0x7F800000 = some (num 0x7FC00000, 0x10) := by decide +kernel
theorem test_fmin_fmax : fp (.fmin 5 6 7) 0 0 0x80000000 = some (num 0x80000000, 0) ∧ fp (.fmax 5 6 7) 0 0x7FC00000 0x40400000 = some (num 0x40400000, 0) := by
  decide +kernel
theorem test_fcmp : fp (.fcmpEq 5 6 7) 0 0 0x80000000 = some (num 1, 0) ∧ fp (.fcmpLt 5 6 7) 0 0x7FC00000 0x3F800000 = some (num 0, 0) := by
  decide +kernel
theorem test_fcvti : fp (.fcvtiI32 5 6) 0 0xC0200000 0 = some (num 0xFFFFFFFE, 1) ∧ fp (.fcvtiI32 5 6) 3 0xC0200000 0 = some (num 0xFFFFFFFD, 1) ∧
    fp (.fcvtiI32 5 6) 0 0x4F32D05E 0 = some (num 0x7FFFFFFF, 0x10) ∧ fp (.fcvtiN32 5 6) 0 0x4F32D05E 0 = some (num 0xB2D05E00, 0) ∧
    fp (.fcvtiN32 5 6) 0 0xBF800000 0 = some (num 0, 0x10) := by decide +kernel
theorem test_fcvtf : fp (.fcvtfI32 5 6) 0 0x01000001 0 = some (num 0x4B800000, 1) ∧
    fp (.fcvtfN32 5 6) 0 0xFFFFFFFF 0 = some (num 0x4F800000, 1) := by decide +kernel

/-- The argument capability of the worked example of file 15, and the buffer carved from it. -/
def argReg : GReg := capReg 0x1410000000000003 0x10000000000
theorem test_carve : reg (.cinci 20 3 0x100) (strandOf [(3, argReg)]) 20 = some (capReg 0x140FC00004000003 0x10000000100) ∧
    reg (.cbnd 20 20 21) (strandOf [(20, capReg 0x140FC00004000003 0x10000000100), (21, num 0x200)]) 20 =
      some (capReg 0x1400800000000003 0x10000000100) := by decide +kernel
theorem test_carved_queries : (let x := strandOf [(20, capReg 0x1400800000000003 0x10000000100), (21, num 1)]
    reg (.cgetl 22 20) x 22 = some (num 0x200) ∧ reg (.cgetb 22 20) x 22 = some (num 0x10000000100) ∧
    reg (.cperm 24 20 21) x 24 = some (capReg 0x1400800000000001 0x10000000100)) := by decide +kernel
theorem test_carve_too_wide : (reg (.cbnd 23 3 21) (strandOf [(3, argReg), (21, num 0x5000)]) 23).map (·.tag) = some false ∧
    (reg (.cinc 26 3 25) (strandOf [(3, argReg), (25, num 0x100000)]) 26).map (·.tag) = some false := by decide +kernel

/-- The loop of file 15: BLT g0, g9 with w = −4 at 16 goes to 0 while g9 > 0. -/
theorem test_blt : (after (.blt 0 9 0xFFC) { strandOf [(9, num 3)] with pc := 16 }).map (·.pc) = some 0 ∧
    (after (.blt 0 9 0xFFC) { strandOf [(9, num (2 ^ 64 - 1))] with pc := 16 }).map (·.pc) = some 20 ∧
    (after (.bltn 0 9 0xFFC) { strandOf [(9, num (2 ^ 64 - 1))] with pc := 16 }).map (·.pc) = some 0 := by decide +kernel
/-- R318: JALR reads its target before it writes d, and traps on a target that is no multiple of 4. -/
theorem test_jalr : (after (.jalr 6 6) (strandOf [(6, num 64)])).map (fun y => (y.pc, y.getG 6)) = some (64, num 4) ∧
    (after (.jalr 6 6) (strandOf [(6, num 66)])).map (fun y => (y.pc, y.getG 6)) = some (0, num 66) := by decide +kernel
/-- R415: TRAP to the supervisor keeps the PC for it; where delegated, to the handler. -/
theorem test_trap : (after (.trap 0xFFFFF) (strandOf [])).map (·.wait) = some (some (.supervisor 0x12 0xFFFFFFFFFFFFFFFF 0 0)) ∧
    (after (.trap 0xFFFFF) (((strandOf []).setCsr 0x25#7 0x40000).setCsr 0x21#7 0x80)).map (fun y => (y.pc, y.csrAt 0x22#7, y.csrAt 0x24#7)) =
      some (0x80, 0x112, 0) := by decide +kernel
/-- R416: TRET clears active and goes on at TEPC. -/
theorem test_tret : (after .tret (((strandOf []).setCsr 0x22#7 0x112).setCsr 0x24#7 0x40)).map (fun y => (y.pc, y.csrAt 0x22#7)) =
    some (0x40, 0x12) := by decide +kernel

/-- The lanes of R368's example: 300.0 under FTOP = 1. -/
theorem test_vcvt : (cvtLane 0x06 0 true 0x43960000).1 = 0x78 ∧ (cvtLane 0x16 0 true 0x43960000).1 = 0x77 ∧
    (cvtLane 0x06 0 false 0x43960000).1 = 0x79 := by decide +kernel
/-- R256's table: 100,000.0 and −infinity. -/
theorem test_narrow : (cvtLane 0x07 0 false 0x47C35000).1 = 0x7E ∧ (cvtLane 0x07 0 true 0x47C35000).1 = 0x7C ∧ (cvtLane 0x17 0 true 0x47C35000).1 = 0x7B ∧
    (cvtLane 0x06 0 false 0xFF800000).1 = 0xFE ∧ (cvtLane 0x06 0 true 0xFF800000).1 = 0xF8 ∧ (cvtLane 0x16 0 true 0xFF800000).1 = 0xF7 ∧
    (cvtLane 0x07 0 false 0x7FC00000).1 = 0x7F ∧ (cvtLane 0x06 0 false 0x3A83126F).1 = 0x01 := by decide +kernel

/-! ### For every statement with hypotheses, states that meet them -/

/-- A strand that may run is alone in its box. -/
theorem alone_box (x : Strand) (h : (x.runnable && !x.gang.tacked) = true) : Alone (box x) x := by
  simp only [Bool.and_eq_true, Bool.not_eq_true'] at h
  exact ⟨rfl, h.1, h.2⟩

/-- What a load found, if it found it. -/
def gotOf : Ld → Option Got
  | .got g => some g
  | _ => none
theorem got_of {l : Ld} {g : Got} (h : gotOf l = some g) : l = .got g := by
  cases l <;> simp [gotOf] at h
  rw [h]

/-- A capability over the scratchpad's raw window from 0x200 to 0x1000, with every permission but execute and confined. -/
def ownCap : GReg := makeCap 0 0x1BB 0x200 0xE00
/-- A strand that holds it in g10, and a number in g11. -/
def plain : Strand := strandOf [(10, ownCap), (11, num 0x1122334455667788)]
/-- An access through g10 at offset 0, as the checks see it. -/
def ref (a size : Nat) (need : BitVec 12) (write views : Bool) : Ref := ⟨10, a, size, need, write, size, views, false⟩

theorem alone_plain : Alone (box plain) plain := alone_box _ (by decide +kernel)

/-- For IntegerRegisterResults, BitCounts, Division, IntegerImmediateResults (at the widest and the highest field), ScalarFloatResults and
CapabilityResults. -/
theorem witness_registers : Alone (box plain) plain ∧ plain.pending [5, 10, 11] = false ∧ (0 : BitVec 6).toNat + (63 : BitVec 6).toNat + 1 ≤ 64 ∧
    (63 : BitVec 6).toNat + (0 : BitVec 6).toNat + 1 ≤ 64 := ⟨alone_plain, by decide +kernel, by decide, by decide⟩

/-- The strand after an instruction of its box, and that the step goes on. -/
theorem after_some {i : Instr} {x y : Strand} (h : after i x = some y) : ∃ t, Sys2Proof.Machine.exec i (box x) = .next t ∧ t.strand (box x).cur = some y := by
  unfold after at h
  split at h
  · exact ⟨_, by assumption, h⟩
  · cases h

/-- A strand with nothing to release. -/
theorem quiet_of {x : Strand} (h : (x.cache.all (fun l => l.mask == 0) && x.unacked == 0 && !x.faulted) = true) : Quiet x := by
  simp only [Bool.and_eq_true, List.all_eq_true, beq_iff_eq, Bool.not_eq_true'] at h
  exact ⟨h.1.1, h.1.2, h.2⟩

/-- For CapabilitiesNeverGrow: each form with a tagged result. -/
theorem witness_capabilities (i : Instr) (h : i ∈ [Instr.cbnd 5 10 12, .cbndx 5 10 12, .cperm 5 10 12, .caddr 5 10 12, .cinc 5 10 12, .cinci 5 10 16,
    .cmov 5 10]) : ∃ t y, Sys2Proof.Machine.exec i (box (plain.setG 12 (num 0x240))) = .next t ∧ t.strand 0 = some y ∧ (y.getG 5).tagged = true := by
  have : ∀ i ∈ [Instr.cbnd 5 10 12, .cbndx 5 10 12, .cperm 5 10 12, .caddr 5 10 12, .cinc 5 10 12, .cinci 5 10 16, .cmov 5 10],
      ((after i (plain.setG 12 (num 0x240))).map fun y => (y.getG 5).tagged) = some true := by decide +kernel
  obtain ⟨y, hy, hg⟩ := Option.map_eq_some_iff.mp (this i h)
  obtain ⟨t, ht, hs⟩ := after_some hy
  exact ⟨t, y, ht, hs, hg⟩

/-- For ControlFlow: targets of JALR that are a multiple of 4, and one short of the next. -/
theorem witness_control : plain.pending [5, 6, 7] = false ∧ plain.wait = none ∧ (plain.rd 10).toNat % 4 = 0 ∧
    ((plain.setG 6 (num 3)).rd 6).toNat % 4 ≠ 0 := by decide +kernel

/-- For TrapsAndReturns: with and without an active handler. -/
theorem witness_returns : plain.active = false ∧ plain.wait = none ∧ (plain.setCsr 0x22#7 0x100).active = true ∧
    ((plain.setCsr 0x22#7 0x100).runnable && !(plain.setCsr 0x22#7 0x100).gang.tacked) = true := by decide +kernel

/-- A global region of partition 0 at 2^40: a 1 GiB leaf in HBM, writable (R206, R207). -/
def region : Tbl DirEntry := [(1024, ⟨BitVec.ofNat 64 (2 ^ 62 + 2 ^ 59 + 2 ^ 58), BitVec.ofNat 64 (2 ^ 45)⟩)]
/-- A capability over its first 4 KiB. -/
def globCap : GReg := makeCap 0 0x1BB 0x10000000000 0x1000
/-- A line of zeros, every sector valid. -/
def zeroLine (va : Nat) : Line := { Line.empty va with valid := 15 }
/-- A strand with the capability in g10 and the region's first line in its cache. -/
def cachedStrand : Strand := { strandOf [(10, globCap), (11, num 0x1122334455667788)] with cache := [zeroLine 0x100000000] }
/-- Its device. -/
def globBox : State := { box cachedStrand with dir := region }

theorem alone_glob : Alone globBox cachedStrand := ⟨rfl, by decide +kernel, by decide +kernel⟩

/-- For LoadsComplete and LoadsFindOwnBytes: each size, in the own scratchpad at its last doubleword and in the cache. -/
theorem witness_loads (size : Nat) (h : size ∈ [1, 2, 4, 8, 16]) :
    memReady plain [5, 10] = true ∧ plain.addrOf 10 ((0 : BitVec 9).toInt * (size : Nat)) = 0x200 ∧
    checkOnce (atWord (box plain) plain) 0 (operands (box plain) plain [10]) (ref 0x200 size permLoad false false) = none ∧
    placeOf 0 0x200 = .scratch 0 0 0x200 ∧ plain.absentLine 0x200 size = false ∧ ((box plain).scratchGot 0 0x200 size).poison = none ∧
    slotClash (box plain) 0 plain 0x200 size = none ∧
    loadAt (atWord (box plain) plain) 0 (operands (box plain) plain [10]) 0x200 size 0 .load = .got ⟨List.replicate size 0, false, none⟩ := by
  have h1 : ∀ size : Nat, size ∈ [1, 2, 4, 8, 16] → memReady plain [5, 10] = true ∧ plain.addrOf 10 ((0 : BitVec 9).toInt * (size : Nat)) = 0x200 ∧
    checkOnce (atWord (box plain) plain) 0 (operands (box plain) plain [10]) (ref 0x200 size permLoad false false) = none ∧
    placeOf 0 0x200 = .scratch 0 0 0x200 ∧ plain.absentLine 0x200 size = false ∧ ((box plain).scratchGot 0 0x200 size).poison = none ∧
    slotClash (box plain) 0 plain 0x200 size = none := by decide +kernel
  have h2 : ∀ size : Nat, size ∈ [1, 2, 4, 8, 16] → gotOf (loadAt (atWord (box plain) plain) 0 (operands (box plain) plain [10]) 0x200 size 0 .load) =
    some ⟨List.replicate size 0, false, none⟩ := by decide +kernel
  have := h1 size h
  exact ⟨this.1, this.2.1, this.2.2.1, this.2.2.2.1, this.2.2.2.2.1, this.2.2.2.2.2.1, this.2.2.2.2.2.2, got_of (h2 size h)⟩

theorem witness_loads_cached (size : Nat) (h : size ∈ [1, 2, 4, 8, 16]) :
    memReady cachedStrand [5, 10] = true ∧
    checkOnce (atWord globBox cachedStrand) 0 (operands globBox cachedStrand [10]) (ref 0x10000000000 size permLoad false false) = none ∧
    placeOf 0 0x10000000000 = .glob ∧ cachedStrand.reply = none ∧ cachedStrand.fillBuf = [] ∧ (cachedStrand.cached 0x100000000).lacks 0 size = 0 ∧
    (cachedStrand.cached 0x100000000).poisonAt 0 size = none := by
  revert size; decide +kernel

/-- For MemoryFrames: a load and a store that end in a next state. -/
theorem witness_frames : (after (.ldd 5 10 0 0) plain).isSome = true ∧ (after (.std 10 11 0 0) plain).isSome = true ∧ (after (.ldc 5 10 0 1) plain).isSome = true ∧
    (after (.stb 10 11 0 0x1FF) plain).isSome = true := by decide +kernel

/-- For StoresToOwnScratchpad. -/
theorem witness_stores (size : Nat) (h : size ∈ [1, 2, 4, 8, 16]) : (box plain).scratch.wf = true ∧ memReady plain [10, 11] = true ∧
    checkOnce (atWord (box plain) plain) 0 (operands (box plain) plain [10, 11]) (ref 0x200 size permStore true (size == 4 || size == 8)) = none ∧
    placeOf 0 0x200 = .scratch 0 0 0x200 ∧ plain.absentLine 0x200 size = false := by
  revert size; decide +kernel

/-- For StoresToCachedLine, at the last bytes of the line: into a present line, and without allocation where none is there. -/
theorem witness_stores_cached (size : Nat) (h : size ∈ [1, 2, 4, 8]) : memReady cachedStrand [10, 11] = true ∧
    checkOnce (atWord globBox cachedStrand) 0 (operands globBox cachedStrand [10, 11])
      (ref (0x10000000100 - size) size permStore true (size == 4 || size == 8)) = none ∧
    (0x10000000100 - size) % 256 + size ≤ 256 ∧
    (let l := lineOfBytes 0x100000000 (0x100 - size) (bytesOf 0x1122334455667788 size) false
     l.mask &&& sectorMask (globBox.storeSectors cachedStrand l.va 3) = l.mask ∧
     l.mask &&& sectorMask (globBox.storeSectors { cachedStrand with cache := [] } l.va 3) = 0) := by
  revert size; decide +kernel

/-- For AtomicsOnOwnScratchpad, of both sizes, with a release at device scope. -/
theorem witness_atomics (size : Nat) (h : size ∈ [4, 8]) : Quiet plain ∧ memReady plain [5, 10, 11] = true ∧ plain.reply = none ∧
    checkOnce (atWord (box plain) plain) 0 (operands (box plain) plain [10, 11, 5]) (ref 0x200 size (permLoad ||| permStore) true false) = none ∧
    locOf 0 0x200 = .scratch 0 0x200 ∧ ((box plain).scratchGot 0 0x200 size).poison = none ∧ (box plain).releasing 0 = false := by
  refine ⟨quiet_of (by decide +kernel), ?_⟩
  revert size; decide +kernel

/-- For CacheInstructions: a present and an absent line, no length, the longest length, one more. -/
theorem witness_cache : cachedStrand.pending [10] = false ∧
    checkRange (atWord globBox cachedStrand) (operands globBox cachedStrand [10, 12]) 0 10 0x1000 = none ∧ cachedStrand.bobIdle = true ∧
    memReady cachedStrand [] = true ∧ ((cachedStrand.setG 12 (num (2 ^ 32 + 1))).rd 12).toNat = 2 ^ 32 + 1 ∧
    ((cachedStrand.setG 12 (num 0x1000)).rd 12).toNat = 0x1000 ∧ (cachedStrand.rd 12).toNat = 0 ∧ cachedStrand.released = false := by decide +kernel
theorem witness_quiet : Quiet plain ∧ Quiet cachedStrand :=
  ⟨quiet_of (by decide +kernel), quiet_of (by decide +kernel)⟩

/-! #### Knots, queues, spools -/

/-- A box whose scratchpad of core 0 holds `bs` from `off` on. -/
def scratchBox (x : Strand) (off : Nat) (bs : List Byte) : State :=
  { box x with scratch := { Bank.empty with bytes := writeRaw [] off bs } }

/-- For Knots: KINIT and SIG; a wait that is over, an answered monitor; an open target, one not reached. -/
theorem witness_knots : Quiet plain ∧ (box plain).scratch.wf = true ∧ memReady plain [5, 10, 11] = true ∧ locOf 0 (plain.addrOf 10 0) = .scratch 0 0x200 ∧
    plain.absentLine 0x200 32 = false ∧
    knotRef (atWord (box plain) plain) 0 (operands (box plain) plain [10, 11]) 10 (permKnot ||| permStore) true = none ∧
    knotRef (atWord (box plain) plain) 0 (operands (box plain) plain [10, 11]) 10 permKnot true = none ∧ plain.traced = false :=
  ⟨quiet_of (by decide +kernel), by decide +kernel⟩
theorem witness_knot_waits : 0 < (box plain).divOf 0 ∧ plain.stash = [] ∧ plain.reply = none ∧ ((box plain).scratchGot 0 0x200 16).poison = none ∧
    checkOnce (atWord (box plain) plain) 0 (operands (box plain) plain [10]) (ref 0x200 32 permKnot false false) = none ∧
    checkRef (atWord (box plain) plain) 0 (operands (box plain) plain [10, 11, 5]) (ref 0x200 32 permKnot false false) = none ∧
    checkRef (atWord (box plain) plain) 0 (operands (box plain) plain [10, 11, 5]) (ref 0x200 8 permLoad false false) = none ∧
    (plain.rd 0).toInt ≤ (knotOf ((box plain).scratch.readList 0x200 32)).count.toInt ∧
    (knotOf ((box plain).scratch.readList 0x200 32)).count.toInt < (plain.rd 11).toInt ∧
    BitVec.ofNat 64 (numOf ((box plain).scratch.readList 0x200 8)) = plain.rd 5 ∧
    BitVec.ofNat 64 (numOf ((box plain).scratch.readList 0x200 8)) ≠ plain.rd 11 ∧ (box plain).releasing (box plain).cur = false := by decide +kernel
theorem witness_waits_over : ({ plain with wait := some .own, stash := [1] } : Strand).runnable = true ∧
    ({ plain with wait := some (.data 0), reply := some ⟨3, false, false, none, none⟩ } : Strand).runnable = true := by decide +kernel

/-- For ChainAdd: declared, at the largest chain. -/
theorem witness_chain : (let x := (plain.setCsr 0x10#7 0xFFFFFFFFFFFF).setCsr 0x15#7 1
    x.declared = true ∧ x.chain = 2 ^ 48 - 1 ∧ (x.runnable && !x.gang.tacked) = true ∧ x.pending [11] = false) := by decide +kernel

/-- For Ticket, at the largest doubleword. -/
theorem witness_ticket : (let s := scratchBox plain 0x200 (List.replicate 8 0xFF)
    s.scratch.wf = true ∧ memReady plain [5, 10] = true ∧
    checkOnce (atWord s plain) 0 (operands s plain [10]) (ref 0x200 8 (permLoad ||| permStore) true false) = none ∧
    locOf 0 (plain.addrOf 10 0) = .scratch 0 0x200 ∧ (s.scratchGot 0 0x200 8).poison = none ∧
    numOf (s.scratch.readList 0x200 8) = 2 ^ 64 - 1) := by decide +kernel

/-- A queue of two entries at 0x200 with these counts, and a descriptor at 0x400 in g12. -/
def queueBox (pushes pops : Nat) : State := scratchBox (plain.setG 12 (makeCap 0 0x1BB 0x400 0x100)) 0x200 (bytesOf (1 + pushes * 2 ^ 64 + pops * 2 ^ 128) 24)
/-- Its strand. -/
def queueStrand : Strand := plain.setG 12 (makeCap 0 0x1BB 0x400 0x100)

/-- For WorkQueues: an empty queue, one with room, a full one, and a malformed header. -/
theorem witness_queues (pushes : Nat) (h : pushes ∈ [0, 1, 2]) : (let s := queueBox pushes 0
    let x := queueStrand
    s.scratch.wf = true ∧ memReady x [5, 10, 12] = true ∧ x.stash = [] ∧ x.wait = none ∧ x.lineAbsent = [] ∧ x.released = false ∧
    queueRefs (atWord s x) 0 (operands s x [10, 12]) 10 12 = none ∧ locOf 0 (x.addrOf 10 0) = .scratch 0 0x200 ∧
    placeOf 0 (x.addrOf 12 0) = .scratch 0 0 0x400 ∧
    gotOf (loadAt (atWord s x) 0 (operands s x [10, 12]) (x.addrOf 12 0) 72 0 .load) = some ⟨List.replicate 72 0, false, none⟩ ∧
    (qheadOf (s.scratch.readList 0x200 64)).malformed (x.spanOf 10) = false ∧ (qheadOf (s.scratch.readList 0x200 64)).live = pushes ∧
    (qheadOf (s.scratch.readList 0x200 64)).ordered = false ∧
    (qheadOf ((box x).scratch.readList 0x200 64)).malformed (x.spanOf 10) = true) := by
  revert pushes; decide +kernel
theorem alone_queue (pushes : Nat) : Alone (queueBox pushes 0) queueStrand ∧ Quiet queueStrand :=
  ⟨⟨rfl, by decide +kernel, by decide +kernel⟩, quiet_of (by decide +kernel)⟩

/-- For LaunchFromDevice: a record queue with room, a full one, and one that is too small for 16 entries. -/
theorem witness_launch : (let x := plain.setG 12 (num 1)
    let s := box x
    memReady x [10, 12, 13] = true ∧ (12 : BitVec 6) ≠ 0 ∧ (12 : BitVec 6).getLsbD 0 = false ∧ (13 : BitVec 6).getLsbD 0 = true ∧
    checkOnce (atWord s x) 0 (operands s x [10, 12, 13]) (ref 0x200 64 (permKnot ||| permStore) true false) = none ∧
    recordCap (x.spanOf 10) = 64 ∧ numOf (s.scratch.readList 0x200 4) = 0 ∧
    numOf ((scratchBox x 0x200 [64]).scratch.readList 0x200 4) = 64 ∧ recordCap ((plain.setG 14 (makeCap 0 0x1BB 0x200 0x200)).spanOf 14) = 8) := by
  decide +kernel

/-- A spool of two slots at 0x300 with records at 0x400, its operand. -/
def spoolOperand : GReg := num (0x400 * 2 ^ 64 + 2 ^ 48 + 2 ^ 32 + 0x300)
/-- A strand with the spool h3 defined, one slot filled and one free, and stream 1 bound to it. -/
def spoolStrand : Strand :=
  { strandOf [(10, spoolOperand), (11, num 1), (12, num 2)] with
    spools := (Vector.replicate 16 Spool.undef).set 3 ⟨0, 0, 1, 1, 1, 0, 0, 0x400, 0x300, 1, 1, true⟩ }

/-- For SpoolDefine: an operand within the limits and one with a single slot. -/
theorem witness_spool_define : (spDefOf (spoolStrand.getG 10).bits).ok spoolStrand = true ∧ (spDefOf (spoolStrand.getG 11).bits).ok spoolStrand = false ∧
    ((box spoolStrand).matrixOf 0 spoolStrand).any (·.namesSpool 0 3) = false ∧ spoolStrand.lineAbsent = [] ∧ (box spoolStrand).landings = [] ∧
    (box spoolStrand).lockClash 0 spoolStrand 0x400 64 true = none ∧
    (spoolStrand.runnable && !spoolStrand.gang.tacked) = true ∧ spoolStrand.pending [10, 11, 12] = false := by decide +kernel
/-- For SpoolAdvancesAndWaits: the count that is there, one more, and a count of 0. -/
theorem witness_spools : Quiet spoolStrand ∧ (spoolStrand.spools[3]).defined = true ∧ (spoolStrand.rd 11).toNat = 1 ∧ (spoolStrand.rd 12).toNat = 2 ∧
    (spoolStrand.rd 0).toNat = 0 ∧ (spoolStrand.spools[3]).fill = 1 ∧ (spoolStrand.spools[3]).free = 1 ∧ (spoolStrand.spools[3]).slotsM1 = 1 ∧
    (spoolStrand.spools[3]).prod = 1 ∧ spoolStrand.boundTo 3 = false ∧ memReady spoolStrand [11] = true ∧ (box spoolStrand).releasing 0 = false ∧
    recordClash (box spoolStrand) 0 spoolStrand (spoolStrand.spools[3]) (spoolStrand.spools[3]).cons 1 true = none ∧
    recordClash (box spoolStrand) 0 spoolStrand (spoolStrand.spools[3]) (spoolStrand.spools[3]).reserve 1 false = none :=
  ⟨quiet_of (by decide +kernel), by decide +kernel⟩
/-- For Streams: h3 free to be bound, an unbound stream, and a bound one with its element there. -/
theorem witness_streams : (let y := spoolStrand.setStream 1 ⟨0, 0, 0, 3, true⟩
    spoolStrand.boundTo 3 = false ∧ (spoolStrand.stream 1).bound = false ∧ (y.stream 1).bound = true ∧ y.boundTo 3 = true ∧ (box y).releasing 0 = false ∧
    (match popBytes (atWord (box y) y) 0 (begun (box y) y) (y.stream 1) (srdBytes (y.stream 1).typ) y.ftop with
      | .got bs _ _ => bs == List.replicate 8 0
      | _ => false) = true) := by decide +kernel

/-! #### Barriers, granules, gangs, the bobbin -/

/-- A strand of a team of cores 0 and 1 whose barrier 0 is cluster slot 4. -/
def teamStrand : Strand := { plain with id := { plain.id with team := [0, 1], bslots := [4], teamSize := 2 } }
/-- Its device; `arrived` have arrived. -/
def teamBox (x : Strand) (arrived : List Nat) : State :=
  { box x with clusters := [(0, ⟨[(4, ⟨[0, 1], arrived, 0, 0, 7, false, 0, false, 0⟩)], []⟩)] }

/-- For BarrierArrival and BarrierReleases: the first and the last arrival, a barrier of which the strand is no participant, a held release. -/
theorem witness_barriers : Quiet teamStrand ∧ (teamStrand.runnable && !teamStrand.gang.tacked) = true ∧ teamStrand.wait = none ∧ teamStrand.stash = [] ∧
    (teamBox teamStrand []).barOf 0 teamStrand (barIdOf 0 0) = some ⟨[0, 1], [], 0, 0, 7, false, 0, false, 0⟩ ∧
    (teamBox teamStrand [1]).barOf 0 teamStrand (barIdOf 0 0) = some ⟨[0, 1], [1], 0, 0, 7, false, 0, false, 0⟩ ∧
    (teamBox teamStrand []).barOf 0 teamStrand (barIdOf 1 0) = none ∧ (teamBox teamStrand []).barOf 0 teamStrand (barIdOf 63 1) = none ∧
    teamStrand.sending = false ∧ teamStrand.released = false ∧ teamStrand.held = [] ∧ memReady teamStrand [] = true ∧ teamStrand.arrivals = [] ∧
    (teamBox teamStrand []).releasing 0 = false :=
  ⟨quiet_of (by decide +kernel), by decide +kernel⟩
/-- The box with a domain 5 of cores 0 and 1; core 1 has arrived. -/
def domainBox : State :=
  { box plain with parts := [(0, { Partition.create 0 128 0 0 2 1 0 with domains := [(5, ⟨0, 1, [(0, 3)], ⟨[0, 1], [1], 0, 0, 7, false, 0, true, 0⟩⟩)] })] }
theorem witness_domain : domainBox.barOf 0 plain (barIdOf 5 1) = some ⟨[0, 1], [1], 0, 0, 7, false, 0, true, 0⟩ ∧ domainBox.barOf 0 plain (barIdOf 6 1) = none ∧
    plain.arrivals = [] ∧ plain.held = [] ∧ memReady plain [] = true ∧ plain.sending = false ∧ plain.released = false ∧ domainBox.releasing 0 = false := by
  decide +kernel
theorem witness_held_release : (let h : Held := ⟨barIdOf 0 0, 0, 5, 0, 0, false, none⟩
    let x := { teamStrand with held := [h], arrivals := [⟨barIdOf 0 0, 0, false⟩] }
    (teamBox x []).barOf 0 x (barIdOf 0 0) ≠ none ∧ x.barGen (barIdOf 0 0) ⟨[0, 1], [], 0, 0, 7, false, 0, false, 0⟩ = 0 ∧
    x.held.find? (fun h => h.bar == barIdOf 0 0 && h.gen == 0) = some h) := by decide +kernel

/-- For Granules: a claim to 16 positions, one more, a pool that is nearly empty; a give down to the base and one below it. -/
theorem witness_granules : (let x := { plain with holding := 3 }
    x.holding + (13 : BitVec 6).toNat ≤ 16 ∧ 16 < x.holding + (14 : BitVec 6).toNat ∧ x.bobIdle = true ∧ ((box x).cell 0).claims = [] ∧
    (13 : BitVec 6).toNat ≤ (box x).freeGran 0 ∧ (box x).poolOf 0 = 0 ∧ x.wait ≠ some .reclaim ∧ x.baseGran + (1 : BitVec 6).toNat ≤ x.holding ∧
    x.holding < x.baseGran + (2 : BitVec 6).toNat ∧ (box x).accvBusy 0 x = false ∧
    (let s := { box x with strands := [(0, x), (1, { x with holding := 90 })] }
     s.freeGran 0 < (13 : BitVec 6).toNat)) := by decide +kernel

/-- For Gangs: a mask that names the team, one that names a strand that is not there; the other member has issued its TACK or not. -/
theorem witness_gangs : (let y := { teamStrand with gang := { Gang.none with tacking := some 3 }, wait := some .own, id := { teamStrand.id with strand := 1 } }
    tackCores teamStrand 3 = some [0, 1] ∧ tackCores teamStrand 5 = none ∧ tackCores teamStrand 1 = none ∧ teamStrand.bobIdle = true ∧
    y.gang.tacking = some (3 &&& 0xFFFF) ∧ y.pc = teamStrand.pc ∧ y.selv = teamStrand.selv ∧ [0, 1].Nodup) := by decide +kernel
theorem witness_gang_of_two : (let g : Gang := ⟨0, [0, 1], none, true, false⟩
    let x := { teamStrand with gang := g }
    let s := { box x with strands := [(0, x), (1, x)] }
    s.strand 0 = some x ∧ s.strand 1 = some x ∧ x.runnable = true ∧ x.bobIdle = true ∧ g.members.Nodup) := by decide +kernel

/-- A body of one VADD v16, v16, v16 behind a BOB at 0. -/
def bobBox (x : Strand) : State := scratchBox x 4 [0x00, 0x02, 0x81, 0xC0]
/-- For BobbinStart: one pass, and strides that leave the positions held. -/
theorem witness_bobbin : (let x := { plain with holding := 3 }
    (match readBody (atWord (bobBox x) x) 0 (begun (bobBox x) x) 1 4 with | .ok is => is == [.vadd 16 16 16 0] | .error _ => false) = true ∧
    x.pending [11] = false ∧ x.bobIdle = true ∧ (x.rd 0).toNat < 2 ^ 37) := by decide +kernel

/-! #### CSRs, ends, traps -/

/-- For CsrAccess: a read, a write, an absent CSR, a write to one marked R, SELV at both ends of its range, a CHLIM below the chain. -/
theorem witness_csr : csrKind 0x1A#7 ≠ .absent ∧ csrKind 0x1A#7 ≠ .r ∧ csrKind 0x7F#7 = .absent ∧ csrKind 0x07#7 = .r ∧
    csrWaits (atWord (box plain) plain) 0 (begun (box plain) plain) 0x20#7 true = false ∧
    csrWaits (atWord (box plain) plain) 0 (begun (box plain) plain) 0x1A#7 true = false ∧
    (256 % 256 = 0 ∧ 256 ≤ 256 ∧ 256 ≤ plain.spanEnd) ∧ (0x1000 % 256 = 0 ∧ 256 ≤ 0x1000 ∧ 0x1000 ≤ plain.spanEnd) ∧
    (let x := plain.setCsr 0x10#7 9
     above x.chain x.chlim = false ∧ above x.chain 8 = true ∧ x.async = []) ∧
    (let x := plain.setCsr 0x10#7 (2 ^ 63 + 9)
     x.ovf = true ∧ x.declared = false ∧ x.begun = false ∧ bit1 (5 : W64) 63 = false ∧ bit1 (2 ^ 63 : W64) 63 = true) := by decide +kernel
/-- One that must wait: FFLAGS while a vector instruction is queued. -/
theorem witness_csr_waits : (let x := { plain with vq := [⟨.vadd 1 2 3 0, 0, num 0, 0, false, none⟩] }
    csrWaits (atWord (box x) x) 0 (begun (box x) x) 0x1A#7 false = true) := by decide +kernel

/-- For YieldAndDone: with and without a stop request; an end. -/
theorem witness_ends : Quiet plain ∧ plain.bobIdle = true ∧ plain.sending = false ∧ (box plain).stopping plain = false ∧ plain.vq = [] ∧ plain.vRdy = [] ∧
    (box plain).matrixOf 0 plain = [] ∧ plain.released = false ∧
    (let x := { plain with wait := some .ending }
     (box x).strand (box x).op.a = some x ∧ x.phase = .live ∧ x.halted = false ∧ (box x).strands.wf = true) :=
  ⟨quiet_of (by decide +kernel), by decide +kernel⟩

/-- For BoundaryTraps: a held trap, a PC at the selvage, one that is no multiple of 4, a strand with the supervisor. -/
theorem witness_boundary : (let x := { plain with async := [(0x0C, 9, 0), (0x11, 4, 5)] }
    x.trapsNow = true ∧ x.dueAsync = some (0x0C, 9, 0) ∧ x.gang.tacked = false) ∧
    ({ plain with pc := 256 } : Strand).selv ≤ 256 ∧ 254 < plain.selv ∧ 254 % 4 ≠ 0 ∧
    (let x := { plain with wait := some (.supervisor 1 2 3 4) }
     (box x).strand (box x).op.a = some x ∧ x.phase = .live) := by decide +kernel

/-! #### Exchanges, commands -/

/-- A plan entry: to core 0, h3, one beat from 0x200, slot 10 of width 4. -/
def planEntry : List Byte := bytesOf (1 + 3 * 2 ^ 17 + 4 * 2 ^ 32 + 10 * 2 ^ 40 + 0x200 * 2 ^ 64) 16
/-- A plan of that one entry at 0x300, and SENDX at 0. -/
def planBox (x : Strand) (t : Nat) : State :=
  { box x with
    tick := t
    scratch := { Bank.empty with bytes := writeRaw (writeRaw [] 0 [0x08, 0x00, 0x00, 0x88]) 0x300 planEntry } }
/-- A strand that sends by the plan; in exchange mode its origin is 100. -/
def planStrand (origin : Option Nat) : Strand :=
  { plain with exch := { plain.exch with planOff := 0x300, planCount := 1, next := 0, origin := origin } }

/-- For Exchange: outside exchange mode; before, at both ends of, and behind the slot; no entry; a message at its receiver. -/
theorem witness_exchange (t : Nat) (h : t ∈ [109, 110, 113, 114]) : (let x := planStrand (some 100)
    let s := planBox x t
    memReady x [] = true ∧ x.absentLine 0x300 16 = false ∧ nextEntry s 0 x = some ⟨0x200, 10, 4, 0, 3, 1, true, true⟩ ∧
    s.coreIn x.id.part 0 = true ∧ x.selv ≤ 0x200 ∧ 0x200 + 64 ≤ x.spanEnd ∧ (s.scratchGot 0 0x200 64).poison = none ∧ s.lockClash 0 x 0x200 64 false = none ∧
    slotStart s 0 x = some 110 ∧ nextEntry (box plain) 0 plain = none) := by
  revert t; decide +kernel
/-- Outside exchange mode, an entry whose payload ends beyond the scratchpad. -/
theorem witness_exchange_untimed : (let x := planStrand none
    let s := planBox x 0
    let far : List Byte := bytesOf (1 + 3 * 2 ^ 17 + 4 * 2 ^ 32 + 10 * 2 ^ 40 + 0x3FFC0 * 2 ^ 64 + 3 * 2 ^ 84) 16
    let t := { s with scratch := { Bank.empty with bytes := writeRaw [] 0x300 far } }
    (nextEntry s 0 x).isSome = true ∧ x.exch.origin = none ∧ (nextEntry t 0 x).map (fun e => e.fromOff) = some 0x3FFC0 ∧
    x.absentLine 0x3FFC0 256 = false ∧ s.lockClash 0 x 0x3FFC0 256 false = none ∧ (s.scratchGot 0 0x3FFC0 64).poison = none) := by decide +kernel
theorem witness_exchange_landing : (let m : Xmsg := ⟨0, 0, 5, 0, 3, List.replicate 64 7, 9, false, 1, 0, 20, false, false⟩
    let s := { box spoolStrand with flight := [.exchange m], tick := 20 }
    s.flight[s.op.a]? = some (.exchange m) ∧ m.at_ ≤ s.tick ∧ s.strand m.dst = some spoolStrand ∧ spoolStrand.id.part = m.part ∧ spoolStrand.id.vd = m.vd ∧
    spoolStrand.phase ≠ .placed ∧ (spoolStrand.spools[3]).bytes = m.data.length ∧ 1 ≤ (spoolStrand.spools[3]).free ∧
    (spoolStrand.spools[3]).prod ≤ (spoolStrand.spools[3]).slotsM1 ∧ s.landings = [] ∧ s.discards = []) := by decide +kernel

/-- A launch of the native map, in which the strands of these states run. -/
def launch0 : Launch :=
  ⟨0, 0, 0, 0, 0, 0, 0, false, 0, [], [map2], 0, none, [], false, none, false, 0, false, false, false, false, 0, false, false⟩
/-- A matrix command for slot a1, row 0, that needs nothing from memory. -/
def zeroBody : MatBody := ⟨⟨0, 0, false, false, 0⟩, 0, 0, 0, 0, 0, 0, 0, 0, 0, 0, 0, 0, 0, 1, false, false, false⟩
/-- A copy of 64 bytes from 0x200 to 0x300 of the own scratchpad. -/
def copyBody : CopyBody := ⟨⟨0, 0, false, false, 0⟩, 0x200, 0x300, 0, 64⟩
/-- A strand that holds a command in g20 and g21, with its capability in g10. -/
def cmdStrand (i : Instr) : Strand :=
  let w := (encodeCommand i).getD 0
  (plain.setG 20 ⟨w.setWidth 128, false⟩).setG 21 ⟨(w >>> 128).setWidth 128, false⟩
/-- Its device. -/
def cmdBox (i : Instr) : State := { box (cmdStrand i) with launches := [launch0] }

/-- What an ENQ's checks give, for tests. -/
def planOf : Except Trap EnqPlan → Option EnqPlan
  | .ok p => some p
  | .error _ => none

/-- For Enqueue: an ENQ.M of MM.ZERO, an ENQ.C of CP.COPY, an ENQ whose command no map knows, an odd pair. -/
theorem witness_enqueue_matrix : (let s := cmdBox (.mmZero zeroBody)
    let x := cmdStrand (.mmZero zeroBody)
    x.stash = [] ∧ x.pending [10, 20, 21, 10] = false ∧
    (planOf (enqCheck (atWord s x) 0 (operands s x [10, 20, 21, 10]) .matrix (pairWord (x.getG 20) (x.getG 21)) (10, x.getG 10) (10, x.getG 10) 0)).map
      (·.op) = some .zero ∧ s.lockRoom 0 0 = true ∧ x.mq.length < 8 ∧ x.bobIdle = true ∧ (21 : BitVec 6).getLsbD 0 = true) := by decide +kernel
theorem witness_enqueue_copy : (let s := cmdBox (.cpCopy copyBody)
    let x := cmdStrand (.cpCopy copyBody)
    (planOf (enqCheck (atWord s x) 0 (operands s x [10, 20, 21, 10]) .copy (pairWord (x.getG 20) (x.getG 21)) (10, x.getG 10) (10, x.getG 10) 0)).map
      (fun p => (p.op, p.locks 0)) = some (.copy, [⟨0, false, .scratch 0 0x200, 64⟩, ⟨0, true, .scratch 0 0x300, 64⟩]) ∧
    s.lockRoom 0 2 = true ∧ x.cq.length < 8 ∧
    planOf (enqCheck (atWord s x) 0 (operands s x [10, 20, 21, 10]) .copy 0x3FF (10, x.getG 10) (10, x.getG 10) 0) = none) := by decide +kernel
/-- A plan table with one valid entry, one without, one that is not aligned and one below the selvage. -/
theorem witness_plan : (let x := planStrand none
    let s := planBox x 0
    (0x300 % 16 = 0 ∧ x.selv ≤ 0x300 ∧ x.exch.origin = none) ∧ countPlan s 0 x 0x300 64 0 = some 1 ∧ countPlan s 0 x 0x400 64 0 = some 0 ∧
    x.absentLine 0x300 (min 1024 (x.spanEnd - 0x300)) = false ∧ memReady x [] = true ∧ (s.scratchGot 0 0x300 16).poison = none ∧
    s.lockClash 0 x 0x300 32 false = none ∧ x.pending [20, 21, 10] = false ∧ 0x308 % 16 ≠ 0 ∧ 0xF0 < x.selv ∧ (s.cluster 0).locks.length < 32) := by decide +kernel

/-! #### Vector and matrix -/

/-- A strand whose g10 names the scratchpad at a 64-byte boundary and whose g12 names its lanes. -/
def laneStrand : Strand := plain.setG 12 (makeCap 0 0x1BB 0x8000000 0x1000)
/-- For VectorEntry: registers held and one not held; the checks of a load, a lane access and a gather pass; an unbound stream fails. -/
theorem witness_vector_entry : (let x := laneStrand
    let s := box x
    x.holdsAll (.vadd 1 2 3 0) = true ∧ x.holdsAll (.vadd 1 2 16 0) = false ∧ x.holdsAll (.vadd 15 15 15 0) = true ∧ x.vqFull = false ∧ x.vq = [] ∧
    entryWait s 0 (begun s x) [1] [0] = none ∧
    x.stash = [] ∧ spanCheck (atWord s x) 0 (operands s x [10]) 10 (x.addrOf 10 0) 0xFFFF true = none ∧
    spanCheck (atWord s x) 0 (operands s x [10]) 10 (x.addrOf 10 64) 0xFFFF false = none ∧
    gatherCheck (atWord s x) 0 (operands s x [10]) 10 (x.getV 1) (x.getP 0) false = none ∧
    privateCheck (atWord s x) 0 (operands s x [10]) 10 (x.addrOf 10 0) (x.getP 0) false ≠ none ∧ (x.stream 0).bound = false) := by decide +kernel
/-- The lanes' window ends within the span of a strand with a full scratchpad. -/
theorem witness_vector_lanes : (let x := { laneStrand with spanEnd := 0x40000 }
    let s := box x
    privateCheck (atWord s x) 0 (operands s x [12]) 12 (x.addrOf 12 0) (x.getP 0) true = none) := by decide +kernel

/-- A queued VADD. -/
def vaddEntry : VqEntry := ⟨.vadd 1 2 3 0, 0, num 0, 0, false, none⟩
/-- For VectorCycle: one ready core, and none. -/
theorem witness_vector_cycle : (let x := { plain with vq := [vaddEntry] }
    readyCores (box x) 0 0 = [0] ∧ readyCores (box plain) 0 0 = [] ∧ ((box x).cell 0).vtick ≤ 0 ∧ ((box x).cell 0).lanes[0] ≤ 0 ∧
    x.bobbin.active = false ∧ isVectorMemory vaddEntry.ins = false ∧ (box x).op.a < 256) := by decide +kernel

/-- A list of one pair in a ranked slot a1 of cell 0 that core 0 owns, with k = 1. -/
def rankedCell : Cell :=
  { Cell.reset with
    slots := Cell.reset.slots.set 1 ⟨some 0, true, 1, 0, 1, [], [(0, ⟨[(0x40A00000, 0)], false⟩)], 0, ⟨0, false, 0⟩⟩
    active := { Plane.zero with owner := some 0 }, shadow := { Plane.zero with owner := some 0 } }
/-- A quilt of 128 zeros at 0x200, a store of 16 elements of a plain slot, a store of a list, and the two merges. -/
def quiltLoad : MatBody := { zeroBody with slot := 0, addr := 0x200, pitch := 13 }
def plainStore : MatBody := { zeroBody with slot := 2, addr := 0x200, vcols := 16 }
def listStore : MatBody := { zeroBody with addr := 0x200 }
def listMerge : MatBody := { zeroBody with addr := 0x300, vcols := 1 }
def slotMerge : MatBody := { zeroBody with src := 3, slot2 := 2, vcols := 16 }
/-- The quilt's blocks: 11 units each, E4M3, every element 0 (R265 to R267). -/
def zeroQuilt : List Byte :=
  bytesOf (2 ^ 8 + 128 * 2 ^ 32) 8 ++ bytesOf 12 4 ++ (List.replicate 4 ((0x0B : Byte) :: List.replicate 21 0)).flatten ++ List.replicate 4 0
/-- Heads of a matrix queue, with the operation and body of each. -/
def matrixHeads : List (Instr × CmdOp × MatBody) :=
  let swap := { zeroBody with slot := 0 }
  let def64 := { zeroBody with kdimM1 := 63, vcols := 128 }
  let regs := { zeroBody with pitch := 15 * 2 ^ 9 }
  let load := { zeroBody with slot := 0, addr := 0x200 }
  let multiply := { zeroBody with addr := 0x200, bound := 0x7F80 }
  [(.mmZero zeroBody, .zero, zeroBody), (.mmRldef def64, .rldef, def64), (.mmThr zeroBody, .thr, zeroBody),
   (.mmSwap swap, .swap, swap), (.mmAccv regs, .accv, regs), (.mmLdw load, .ldw, load), (.mmMma multiply, .mma, multiply),
   (.mmLdwQ quiltLoad, .ldwQ, quiltLoad), (.mmAccst plainStore, .accst, plainStore), (.mmAccstSat plainStore, .accstSat, plainStore),
   (.mmRlst listStore, .rlst, listStore), (.mmRlmrg listMerge, .rlmrg, listMerge), (.mmRlmrg slotMerge, .rlmrg, slotMerge)]
/-- For MatrixCommands: each of these commands is eligible at an idle port; an MM.MMA with bound −0.5 under a list that begins with 5.0 is skipped. -/
theorem witness_matrix : ∀ h ∈ matrixHeads,
    (let s := { box plain with cells := [(0, rankedCell)] }
    let c := commandNow s plain h.2.1 (encCommon h.2.2.com (encMat h.2.2) h.2.1.opcode)
    s.strand s.cur = some plain ∧ plain.phase = .live ∧ matBodyOk h.2.1 h.2.2 0 plain = true ∧
    ((s.cell 0).port (portOf h.2.1)).running = none ∧
    eligible { s with cmdCtr := 1 } c = true ∧ skips { s with cmdCtr := 1 } c = false ∧
    (((startMatrix { s with cmdCtr := 1 } c 0 0).cell 0).port (portOf h.2.1)).running.map (sourceFirst (startMatrix { s with cmdCtr := 1 } c 0 0)) =
      some true) := by decide +kernel
theorem witness_matrix_skip : (let m := { zeroBody with bound := 0xBF00 }
    let s := { box plain with cells := [(0, rankedCell)] }
    matBodyOk .mma m 0 plain = true ∧ skips { s with cmdCtr := 1 } (commandNow s plain .mma (encCommon m.com (encMat m) 0x104)) = true) := by
  decide +kernel
/-- For the memory operands of MatrixCommands, each in the own scratchpad: rows, a quilt, the stored elements, a stored list, a list to merge. -/
theorem witness_matrix_memory : (let s := { scratchBox plain 0x200 zeroQuilt with cells := [(0, rankedCell)] }
    let l : RList := ⟨[(0x3F800000, 7)], true⟩
    let t := { scratchBox plain 0x300 (listBytes 2 l false) with cells := [(0, rankedCell)] }
    plain.lineAbsent = [] ∧ s.coreIn 0 0 = true ∧ s.scratch.wf = true ∧ t.scratch.wf = true ∧ rankedCell.shadow.rows.wf = true ∧
    rankedCell.shadow.fmt = 0 ∧ locOf 0 0x200 = .scratch 0 0x200 ∧ (placeOf 0 0x200).view = 0 ∧ plain.selv ≤ 0x200 ∧ 0x200 + 128 ≤ plain.spanEnd ∧
    (s.scratchGot 0 0x200 128).poison = none ∧ narrowRead s ⟨0, 0, 0⟩ (.scratch 0 0x200) 128 (some plain.ftop) = false ∧
    (decodeQuilt (s.scratch.readList (scratchAt 0 0x200) 104)).map (fun q => (q.ftop, q.fmt, q.count)) = some (plain.ftop, 0, 128) ∧
    rankedCell.slots[2].ranked = false ∧ rankedCell.slots[1].ranked = true ∧ rankedCell.slots[1].lists.wf = true ∧ matRows listStore ≤ 1 ∧
    locOf 0 0x300 = .scratch 0 0x300 ∧ locOf 0 0x308 = .scratch 0 0x308 ∧ (t.scratchGot 0 0x300 24).poison = none ∧
    narrowRead t ⟨0, 0, 0⟩ (.scratch 0 0x300) 24 (some plain.ftop) = false ∧
    t.scratch.readList (scratchAt 0 0x300) 24 = listBytes 2 l false ∧ l.pairs.length ≤ 2) := by decide +kernel
/-- For MatrixTile: the last row, and all rows. -/
theorem witness_tile : (127 : BitVec 7).toNat + matRows zeroBody ≤ 128 ∧ (0 : BitVec 7).toNat + matRows { zeroBody with nrowsM1 := 127 } ≤ 128 := by
  decide +kernel
/-- For MatrixPorts: a head that starts, one whose busy ticks have passed, a forwarded tile that starts and one that has its rows. -/
theorem witness_ports : (let c := commandNow (box plain) plain .zero (encCommon zeroBody.com (encMat zeroBody) 0x108)
    let x := { plain with mq := [c] }
    let s := { box x with op := { StepOp.none with b := 1 } }
    let r : Running := ⟨c, 0, false, 5, 0, 0, 0, 0, 0, none, 0, false⟩
    let u := { s with cells := [(0, { Cell.reset with array := { Port.idle with running := some r } })] }
    let v := { s with cells := [(0, { Cell.reset with forwards := [(r, some 0)] })] }
    let f : Running := { r with lag := 1, feed := some ⟨⟨[], [], 0⟩, 0, false⟩ }
    headCmd s 0 1 = some c ∧ headCmd s 0 0 = none ∧ ((s.cell 0).port 1).running = none ∧ (s.cell 0).tileDue s.tick = false ∧ c.core = 0 ∧
    ((s.cell 0).port 1).ptr < 8 ∧ rawHead s 1 1 = none ∧ headCmd s 1 1 = none ∧ 0 = cellOf r.cmd.core + r.lag ∧ sourceFirst u r = true ∧ f.feed.isSome = true ∧
    s.accvFill c = none ∧ skips s c = false ∧ eligible s c = true ∧ ((u.cell 0).port 1).running = some r ∧ matHeld u c = false ∧ u.landings = [] ∧
    (v.cell 0).array.running = none) := by decide +kernel
/-- An MM.ACCV to a granule that has still to be filled. -/
theorem witness_accv_fill : (let m := { zeroBody with pitch := 15 * 2 ^ 9 }
    let x := { plain with granAbsent := 0xFFFF }
    let c := { commandNow (box x) x .accv (encCommon m.com (encMat m) (CmdOp.accv).opcode) with waited := true }
    let r : Running := ⟨c, 0, false, 5, 0, 0, 0, 0, 0, none, 0, false⟩
    let s := { box x with op := { StepOp.none with b := 1 }, cells := [(0, { Cell.reset with array := { Port.idle with running := some r } })] }
    ((s.cell 0).port 1).running = some r ∧ r.endTick ≤ s.tick ∧ s.landings = [] ∧ matHeld s c = false ∧ sourceFirst s r = true ∧
    s.strand c.core = some x ∧ c.op = .accv ∧ x.accvAbsent (decMat c.word) = true ∧ x.wait ≠ some .lazy) := by decide +kernel

/-! #### Engines, messages, the outside -/

/-- For VectorLaneResults: a queued entry of each kind of form. -/
theorem witness_vector_results : (let x := { plain with v := plain.v.set 2 1 }
    lane (x.getV 2) 0 = 1 ∧ (x.getP 0).getLsbD 15 = true ∧ vaddEntry.ins = .vadd 1 2 3 0) := by decide +kernel

/-- What a copy's bodies look like in these states: 64 bytes, rows of 16 bytes at a pitch of 32, a multicast to core 0 itself. -/
def strideBody : StrideBody := ⟨⟨0, 0, false, false, 0⟩, 0x200, 0x400, 32, 15, 3, 0⟩
def mcastBody : McastBody := ⟨⟨0, 0, false, false, 0⟩, 0x200, 0x300, 0, 0, 1, 0, false, 0, 64⟩
/-- One command of every form of a copy, with its operation. -/
def copyForms : List (Instr × CmdOp) :=
  [(.cpCopy copyBody, .copy), (.cpFill copyBody, .fill), (.cpGath strideBody, .gath), (.cpScat strideBody, .scat),
   (.cpMcast mcastBody, .mcast), (.cpPeer ⟨⟨0, 0, false, false, 0⟩, 0x200, 0, 0, 0, false, 64⟩, .peer)]
/-- For CopyCommands: every form has room and finds its ranges. -/
theorem witness_copies : ∀ f ∈ copyForms,
    (let c := (box plain).capture 0 plain f.2 ((encodeCommand f.1).getD 0)
    (box plain).streaming ((box plain).copySlice c none) < 4 ∧ startable (box plain) c = true) := by decide +kernel
theorem witness_copy_ranges : plain.phase = .live ∧ plain.lineAbsent = [] ∧ (box plain).coreIn 0 0 = true ∧ (box plain).scratch.wf = true ∧
    locOf 0 0x200 = .scratch 0 0x200 ∧ (placeOf 0 0x200).view = 0 ∧ (placeOf 0 0x400).view = 0 ∧ plain.selv ≤ 0x200 ∧ 0x200 + 64 ≤ plain.spanEnd ∧
    ((box plain).scratchGot 0 0x200 64).poison = none ∧ narrowRead (box plain) ⟨0, 0, 0⟩ (.scratch 0 0x200) 64 (some plain.ftop) = false ∧
    plain.id.vd = 0 ∧ mcastCores mcastBody = [0] ∧ 0x300 + (plain.csrAt 0x2A#7).toNat + 64 ≤ plain.spanEnd := by decide +kernel

/-- A multicast to the spool h3 of cores 0 and 1, and copies to it, of one slot. -/
def spoolMcast : McastBody := ⟨⟨0, 0, false, false, 0⟩, 0x200, 0, 0, 3, 3, 0, false, 1, 64⟩
def spoolCopy : CopyBody := ⟨⟨0, 0, false, false, 0⟩, 0x200, 3 * 2 ^ 11, 1, 64⟩
def spoolGather : StrideBody := ⟨⟨0, 0, false, false, 0⟩, 0x200, 3 * 2 ^ 11, 32, 15, 3, 1⟩
/-- A command of each form with a spool as its destination has room, and both receivers' spools are as they must be. -/
theorem witness_spool_copies : ∀ f ∈ ([(.cpCopy spoolCopy, .copy), (.cpFill spoolCopy, .fill), (.cpGath spoolGather, .gath), (.cpMcast spoolMcast, .mcast)] :
      List (Instr × CmdOp)),
    (let s := { box spoolStrand with strands := [(0, spoolStrand), (1, spoolStrand)] }
    let c := s.capture 0 spoolStrand f.2 ((encodeCommand f.1).getD 0)
    let sp := spoolStrand.spools[3]
    s.streaming (s.copySlice c none) < 4 ∧ startable s c = true ∧ mcastCores spoolMcast = [0, 1] ∧ s.strand 1 = some spoolStrand ∧
    spoolStrand.phase ≠ .placed ∧ spoolStrand.lineAbsent = [] ∧ sp.defined = true ∧ 0 < sp.slotSize ∧ sp.slotsM1 < 256 ∧ 64 % sp.bytes = 0 ∧
    64 / sp.bytes ≤ sp.free ∧ sp.prod + 64 / sp.bytes ≤ sp.count ∧ spoolStrand.selv ≤ sp.base + sp.prod * sp.bytes ∧
    sp.base + sp.count * sp.bytes ≤ 2 ^ 18 ∧ sp.recs + 32 * sp.count ≤ 2 ^ 18 ∧ sp.base + sp.count * sp.bytes ≤ sp.recs ∧ s.landings = [] ∧
    s.discards = [] ∧ (s.scratchGot 0 0x200 64).poison = none ∧ narrowRead s ⟨0, 0, 0⟩ (.scratch 0 0x200) 64 (some spoolStrand.ftop) = false) := by
  decide +kernel
/-- A multicast to two windows. -/
theorem witness_two_receivers : (let b := { mcastBody with mask := 3 }
    let s := { box plain with strands := [(0, plain), (1, plain)] }
    let c := s.capture 0 plain .mcast ((encodeCommand (.cpMcast b)).getD 0)
    s.streaming (s.copySlice c none) < 4 ∧ startable s c = true ∧ mcastCores b = [0, 1] ∧ s.coreIn 0 1 = true ∧ plain.spanEnd ≤ 2 ^ 18 ∧
    plain.selv ≤ 0x300) := by decide +kernel

/-- For CopySteps. -/
def copyOne : Cmd := (box plain).capture 0 plain .copy ((encodeCommand (.cpCopy copyBody)).getD 0)
def copyIn (p : CopyPhase) : CopyCmd := ⟨copyOne, none, 0, p, 0, false, [], [], [], none, 0, [], [], 0⟩
def copyBox (k : CopyCmd) : State := { box { plain with cq := [k.cmd] } with copies := [k] }
theorem witness_copy_steps : (let s := box { plain with cq := [copyOne] }
    let t := copyBox (copyIn .started)
    s.copyQueue 0 = [copyOne] ∧ s.copies = [] ∧ s.buffers (s.copySlice copyOne none) < 32 ∧
    (copyBox (copyIn .granted)).copies.find? (fun j => j.slice == 0 && j.phase == .granted) = some (copyIn .granted) ∧
    (copyBox (copyIn .granted)).streaming 0 < 4 ∧ copyStartable (copyBox (copyIn .granted)) (copyIn .granted) = true ∧ copyOne.spools = [] ∧
    peerFits t copyOne = true ∧ copyOne.byStrand plain = true ∧ 0 + 16 < copyOne.copyLen ∧
    copyReady t { copyIn .sourceDone with data := List.replicate 64 0 } = true) := by decide +kernel
theorem witness_copy_parts : (let k := { copyIn .sourceDone with data := List.replicate 64 0 }
    let t := copyBox (copyIn .started)
    [16, 64].map (fun n => (readPieces copyOne.who (copyIn .started) (cutPieces copyOne.sources 0 n) 0 t).toOption.map
      (fun r => (r.1, r.2.1, r.2.2.copies == t.copies))) = [some (List.replicate 16 0, [], true), some (List.replicate 64 0, [], true)] ∧
    (readPieces copyOne.who (copyIn .started) (cutPieces copyOne.sources 48 16) 0 t).toOption.map (fun r => (r.1, r.2.2.copies == t.copies)) =
      some (List.replicate 16 0, true) ∧ 0 < 48 ∧ 48 + 16 ≤ copyOne.copyLen ∧ (copyIn .started).endTick ≤ t.tick ∧
    ((k.wrote 0 0 16).left 0 0 k.windowBytes = [] → False) ∧ (((k.wrote 0 16 48).wrote 0 0 16).left 0 0 k.windowBytes) = [] ∧
    (writePart (copyBox k) k 0 16).2 = none ∧ ((writePart (copyBox k) k 0 16).1.copies == (copyBox k).copies) = true) := by
  decide +kernel
theorem witness_multicast : (let c := (box plain).capture 0 plain .mcast ((encodeCommand (.cpMcast mcastBody)).getD 0)
    let k : CopyCmd := ⟨c, none, 0, .sourceDone, 0, false, List.replicate 64 1, [], [], none, 0, [], [], 0⟩
    let s := copyBox k
    c.toSpool = false ∧ c.receivers.find? (·.1 == 0) = some (0, 0) ∧ s.coreIn 0 0 = true ∧
    [(0, 64), (48, 16)].map (fun g => (writeRanges c.who k (c.receiverLoc (0, 0)) (k.left 1 g.1 g.2) s).toOption.map fun t => t.copies == s.copies) =
      [some true, some true] ∧ 48 + 16 ≤ k.data.length) := by decide +kernel
/-- A landing of one slot into h3 of spoolStrand, to be granted or granted and ready. -/
def landingOf (granted : Bool) : Landing := ⟨⟨0, 0, 0, 3⟩, 1, granted, 0, [], [], false, false, false, 0, false, 0, granted, some 9⟩
theorem witness_landings : (let s := { box spoolStrand with landings := [landingOf false] }
    let t := { box spoolStrand with landings := [landingOf true] }
    spoolStrand.id.part = 0 ∧ spoolStrand.id.vd = 0 ∧ spoolStrand.phase ≠ .placed ∧ (spoolStrand.spools[3]).defined = true ∧ s.grantable (landingOf false) = true ∧
    t.headLanding ⟨0, 0, 0, 3⟩ = some (landingOf true) ∧ t.discards = []) := by decide +kernel

/-- A device with this message in flight. -/
def flightBox (x : Strand) (m : Msg) : State := { box x with flight := [m] }
def knotSignal : Signal := ⟨1, true, 0, 0, .scratch 0 0x200, 1, 9, 4, false, false, false⟩
def knotWait (kind : Nat) (target : W64) : WaitReq := ⟨0, 0, 0, .scratch 0 0x200, kind, target, none⟩
/-- For Messages: a signal that meets one wait and not another; waits met, not met, a KJOIN; a load and a store; an ack; a reply. -/
theorem witness_messages : (let m := Msg.signal knotSignal
    let s := { flightBox plain m with waits := [knotWait 0 1, knotWait 0 2] }
    s.inOrder 0 m = true ∧ plain.id.part = 0 ∧ plain.id.vd = 0 ∧ s.holderOf 0 0 (.scratch 0 0x200) = 0 ∧ plain.phase ≠ .placed ∧ plain.lineAbsent = [] ∧
    s.waits.map (fun w => w.target.sle ((knotOf (s.scratch.readList (scratchAt 0 0x200) 32)).count + 1)) = [true, false] ∧
    (knotWait 1 0).kind ≤ 1 ∧ (0 : W64).sle (knotOf (s.scratch.readList (scratchAt 0 0x200) 32)).count = true ∧
    (flightBox plain (.access ⟨1, 0, 0, .load, .scratch 0 0x200, 16, 0, 0, 0, true⟩)).inOrder 0 (.access ⟨1, 0, 0, .load, .scratch 0 0x200, 16, 0, 0, 0, true⟩) = true ∧
    (flightBox plain (.access ⟨1, 0, 0, .trace 8, .scratch 0 0x200, 32, 5, 0, 0, false⟩)).inOrder 0
      (.access ⟨1, 0, 0, .trace 8, .scratch 0 0x200, 32, 5, 0, 0, false⟩) = true ∧
    (flightBox plain (.ack 0)).flight[0]? = some (.ack 0)) := by decide +kernel
/-- The leaf that a walk ends in. -/
def leafOf : Walk → W64
  | .leaf e _ => e
  | .fault _ => 0
/-- The region where its lines stay out of the last-level cache, and one in host memory. -/
def openBox : State := { globBox with dir := [(1024, ⟨BitVec.ofNat 64 (2 ^ 62 + 2 ^ 59 + 2 ^ 58 + 2 ^ 57), BitVec.ofNat 64 (2 ^ 45)⟩)] }
def hostBox : State := { globBox with dir := [(1024, ⟨BitVec.ofNat 64 (2 ^ 63 + 2 ^ 59 + 2 ^ 58 + 2 ^ 57), BitVec.ofNat 64 (2 ^ 45)⟩)] }
theorem witness_writebacks : (let l : Line := { zeroLine 0x100000000 with mask := 1 }
    let leaf := fun w => match w with | Walk.leaf e _ => some (tMig e) | .fault _ => none
    let migrating : Tbl DirEntry := [(1024, ⟨BitVec.ofNat 64 (2 ^ 62 + 2 ^ 59 + 2 ^ 58 + 2 ^ 61), BitVec.ofNat 64 (2 ^ 45)⟩)]
    leaf (walk globBox (l.va * 256) true) = some false ∧ leaf (walk { globBox with dir := migrating } (l.va * 256) true) = some true ∧
    leaf (walk (box plain) (l.va * 256) true) = none ∧ (box plain).migrating (l.va * 256) = false ∧ (box plain).llcLine l.va = none ∧
    globBox.llcAllows (l.va * 256) (leafOf (walk globBox (l.va * 256) true)) 0 = true ∧ tState (leafOf (walk openBox (l.va * 256) true)) = 1 ∧
    openBox.llcAllows (l.va * 256) (leafOf (walk openBox (l.va * 256) true)) 0 = false ∧
    tState (leafOf (walk hostBox (l.va * 256) true)) = 2 ∧ hostBox.llcAllows (l.va * 256) (leafOf (walk hostBox (l.va * 256) true)) 0 = false ∧
    openBox.hbm.wf = true ∧ openBox.host.wf = true ∧ l.mask.getLsbD 0 = true ∧
    globBox.migrating (l.va * 256) = false ∧ ({ globBox with dir := migrating } : State).migrating (l.va * 256) = true ∧ plain.async = [] ∧ plain.active = false) := by decide +kernel

/-- For Wakes: each kind of wait; a domain record with one entry, domain numbers 63 and 64. -/
def domainBytes : List Byte := bytesOf (1 + 1 * 2 ^ 12) 32 ++ bytesOf 3 4 ++ List.replicate 508 0
def part0 : Partition := { Partition.create 0 128 0 0 2 1 0 with keys := 0, imageKey := 0, m10 := 0, page := { Page.reset with domBase := 0x10000000000 } }
/-- The region with attribute 2: its lines stay out of the last-level cache. -/
def openRegion : Tbl DirEntry := [(1024, ⟨BitVec.ofNat 64 (2 ^ 62 + 2 ^ 59 + 2 ^ 58 + 2 ^ 57), BitVec.ofNat 64 (2 ^ 45)⟩)]
/-- The device with the partition, this region, and `bs` at the region's first bytes, whose frame is at 4096. -/
def partBox (x : Strand) (bs : List Byte) : State :=
  { box x with parts := [(0, part0)], dir := openRegion, hbm := { Bank.empty with bytes := writeRaw [] 4096 bs } }
theorem witness_wakes : (let x := { plain with wait := some (.knot 5 (some 9) 1 0) }
    let s := { box x with tick := 10, waits := [{ knotWait 0 5 with deadline := some 9 }], flight := [.snapshot ⟨0, 7, 0, 0, false, .core 0⟩] }
    let y := { plain with wait := some (.monitor 5 (some 10)) }
    let u := { box y with tick := 10, monitors := [(knotWait 2 0, true)] }
    let r : Release := ⟨0, plain.id, ⟨barIdOf 0 0, 0, 5, 0, 0, false, none⟩, 0, 10⟩
    9 < s.tick ∧ s.waits.any (·.core == 0) = true ∧ u.monitors.find? (fun m => m.1.core == 0) = some (knotWait 2 0, true) ∧
    ({ s with releases := [r] }).isAway r = false ∧ r.tick ≤ s.tick ∧ plain.id.same r.id = true ∧ plain.gang.tacked = false ∧
    [0, 2].map (fun g => [({ r.held with gen := g } : Held)].any (fun k => k.bar == r.held.bar && decide (1 < k.gen))) = [false, true] ∧
    ({ plain with gang := ⟨0, [0, 1], none, true, false⟩ } : Strand).gang.tacked = true) := by decide +kernel
theorem witness_domload : (let s := { partBox plain domainBytes with ide := true }
    let g := (match homeRead s ⟨0, 0, 0⟩ (.glob 0x10000000000) 544 with | .ok g _ => some g | _ => none)
    s.linkUp = true ∧ (g.map fun g => g.poison.isNone && g.bytes == domainBytes) = some true ∧ part0.node = 128 ∧ (domainRecord 128 domainBytes).isSome = true ∧
    (domainRecord 128 (List.replicate 544 0)).isNone = true ∧ part0.domains = []) := by decide +kernel

/-- For OutsideAccess: the window closed, open, outside every range; ports; records; lends; register writes. -/
def openPart : Partition := { part0 with openBase := 0, openLen := 1, peers := part0.peers.set 0 (BitVec.ofNat 256 (2 ^ 255)) }
theorem witness_outside : (let s := { partBox plain [] with ide := true, parts := [(0, { part0 with openLen := 1 })] }
    s.linkUp = true ∧ (box plain).linkUp = false ∧ s.openedBy 0 = some 0 ∧ s.openedBy 0x1FFFC0 = some 0 ∧ s.openedBy 0x200000 = none ∧
    s.openedBy 0x5FFFFFFFC0 = none ∧ ({ s with dir := [] }).physLine 0 0 = none ∧ s.portUp 11 = true ∧ s.portUp 0 = true ∧
    ({ s with ports := Vector.replicate 12 ⟨false, 0⟩ }).portUp 0 = false ∧ s.inboundAt 0 0x10000000000 32 = none ∧
    ({ s with strands := [] }).resident 0 = false ∧ ({ s with strands := [] }).engineBusy 0 = false ∧ s.resident 0 = true ∧ s.peerInUse 0 15 = false) := by
  decide +kernel

/-- A request before the link serves any; pull records with no units, a destination that is not aligned, a first unit; an error in a core's cache;
a mailbox word that passes a request on. -/
theorem witness_outside_refused : (box plain).linkUp = false ∧ (List.replicate 64 (0 : Byte)).length = 64 ∧ 0x9040 % 64 = 0 ∧
    (let w := fun first units dest : Nat => (BitVec.ofNat 256 (2 + dest * 2 ^ 64 + first * 2 ^ 128 + units * 2 ^ 160) : W256)
     bitsN (w 0 0 0) 3 0 = 2 ∧ bitsN (w 1 1 0) 159 128 ≠ 0 ∧ bitsN (w 0 1 1) 127 64 % 4096 ≠ 0 ∧ bitsN (w 0 1 4096) 127 64 % 4096 = 0) ∧
    globBox.strand 0 = some cachedStrand ∧ zeroLine 0x100000000 ∈ cachedStrand.cache ∧ (zeroLine 0x100000000).va = 0x10000000000 / 256 ∧
    1 % 2 = 1 ∧ part0.page.mbBusy = false := by decide +kernel

/-! #### Management, launches, queues -/

/-- For Attestation: either every image passes or there is a first one that does not. -/
theorem witness_boot : (∀ k, 1 ≤ k → k ≤ 4 → imagePasses k = true) ∨
    ∃ k, 1 ≤ k ∧ k ≤ 4 ∧ imagePasses k = false ∧ ∀ j, 1 ≤ j → j < k → imagePasses j = true := by
  have h : ∀ p : Nat → Bool, (∀ k, 1 ≤ k → k ≤ 4 → p k = true) ∨ ∃ k, 1 ≤ k ∧ k ≤ 4 ∧ p k = false ∧ ∀ j, 1 ≤ j → j < k → p j = true := by
    intro p
    by_cases h1 : p 1 = true
    · by_cases h2 : p 2 = true
      · by_cases h3 : p 3 = true
        · by_cases h4 : p 4 = true
          · exact .inl fun k a b => by
              have : k = 1 ∨ k = 2 ∨ k = 3 ∨ k = 4 := by omega
              rcases this with rfl | rfl | rfl | rfl <;> assumption
          · exact .inr ⟨4, by omega, by omega, by simpa using h4, fun j a b => by
              have : j = 1 ∨ j = 2 ∨ j = 3 := by omega
              rcases this with rfl | rfl | rfl <;> assumption⟩
        · exact .inr ⟨3, by omega, by omega, by simpa using h3, fun j a b => by
            have : j = 1 ∨ j = 2 := by omega
            rcases this with rfl | rfl <;> assumption⟩
      · exact .inr ⟨2, by omega, by omega, by simpa using h2, fun j a b => by
          have : j = 1 := by omega
          rcases this with rfl; assumption⟩
    · exact .inr ⟨1, by omega, by omega, by simpa using h1, fun j a b => by omega⟩
  exact h imagePasses
theorem witness_attestation : State.reset.boot = .rom ∧ (box plain).spdmOf = some Spdm.reset ∧ (box plain).boot = .running ∧
    (let s := { box plain with hostSpdm := ⟨true, true, true, true, true, 0⟩ }
     s.spdmOf = some ⟨true, true, true, true, true, 0⟩ ∧ s.spdmPassed = true ∧ s.op.a = 0) ∧
    (let s := { partBox plain [] with parts := [(0, { part0 with spdm := ⟨true, true, true, true, true, 0⟩, page := { part0.page with mbBusy := true } })], op := { StepOp.none with a := 1, b := 2 ^ 64 - 1 } }
     s.spdmOf = some ⟨true, true, true, true, true, 0⟩ ∧ s.spdmPassed = true ∧ 0 < s.op.b ∧ s.op.b < 2 ^ 64) := by decide +kernel

/-- A packet of queue `q`'s ring at host address 0x1000, its queue mapped into slot 1, or 0 for queue 0; the device with the partition. -/
def ringRecord (part : Nat) : W512 := BitVec.ofNat 512 (0x1000 * 2 ^ 448 + 2 ^ 352 + part * 2 ^ 46 + 4 * 2 ^ 40 + 2 * 2 ^ 34)
def ringSlot (q : Nat) : QSlot := ⟨q, ringRecord 0, 0, none, [], false, none⟩
def ringBox (q : Nat) (w : Nat) : State :=
  let s := partBox plain []
  let k := if q = 0 then [(0, ringSlot 0)] else [(0, QSlot.management), (1, ringSlot q)]
  { s with strands := [], qslots := k, host := { Bank.empty with bytes := writeRaw [] 0x1000 (bytesOf w 64) }, op := { StepOp.none with a := q } }
/-- A management packet: code, bytes from 32 on, status address 0x100. -/
def command (code args : Nat) : Nat := 6 + code * 2 ^ 192 + args * 2 ^ 256 + 0x100 * 2 ^ 448
/-- What its queue hands out. -/
def packetOf (q w : Nat) : Pkt := ⟨q, ringRecord 0, if q = 0 then 0 else 1, ringSlot q, BitVec.ofNat 512 w⟩
def isPacket (s : State) (q : Nat) (k : Pkt) : Bool :=
  match s.nextPacket q with
  | some (.ok (j, z)) => j == k && z == s
  | _ => false

/-- For ManagementCommands: each command is commanded, the numbers of nodes at both ends of their range. -/
theorem witness_commands (code : Nat) (h : code ∈ [1, 2, 3, 4, 5, 6, 7, 8, 9, 10, 11]) :
    (let k := packetOf 0 (command code 0)
    let s := ringBox 0 (command code 0)
    isPacket s 0 k = true ∧ headerFault s k = none ∧ kType k.w = 6 ∧ mgmtFault k.w = none ∧ kNum k.w 24 1 = code ∧ k.x.started = []) := by
  revert code; decide +kernel
theorem witness_nodes : (let s := ringBox 0 0
    let t := { s with splits := [1, 2, 4, 8, 16, 32, 64] }
    s.unsplitOver 1 = some 1 ∧ s.unsplitOver 127 = some 1 ∧ t.unsplitOver 127 = some 3 ∧ t.holder 128 = some 0 ∧ t.holder 3 = none ∧
    t.nodeIdle 128 = false ∧ t.nodeIdle 129 = true ∧ t.nodeIdle 3 = true ∧ createFault t 255 0 7 1 ≠ none ∧ createFault t 3 127 0 64 = none ∧ t.part 63 = none ∧
    createFault t 129 1 0 1 = none ∧ t.engineBusy 0 = false ∧ t.portsOf 0xFFF ≠ [] ∧ t.portsOf 0 = [] ∧ (t.portsOf 0x800).head? = some 11 ∧
    t.resident 0 = false ∧ t.slotsOf 0 = [] ∧ (t.slotsOf 0).length ≤ 63) := by decide +kernel
theorem witness_reservations : (let x := { part0 with vds := [(0, { Vd.reset with rsv := some (1, 2) })], utilSum := 2048 }
    (x.vd 1).rsv = none ∧ (x.vd 0).rsv ≠ none ∧ x.vdsAsked = 2 ∧ x.utilSum - (x.vd 1).util + (4096 * 1 + 2 - 1) / 2 = 4096 ∧
    x.utilSum - (x.vd 1).util + (4096 * 4097 + 8192 - 1) / 8192 = 4097) := by decide +kernel
theorem witness_queue_commands : (let s := ringBox 5 0
    qState (s.qRecord 5) = 2 ∧ qState (s.qRecord 6) = 0 ∧ s.slotOfQueue 5 = some (1, ringSlot 5) ∧ (ringSlot 5).started = [] ∧
    qLog2 (ringRecord 0) = 4 ∧ qZero (ringRecord 0) = true ∧
    qPending (ringRecord 0) ≤ 2 ^ qLog2 (ringRecord 0) ∧ 2 ^ 4 < qPending (setField (ringRecord 0) 383 352 17) ∧ (packetOf 0 0).slot = 0) := by decide +kernel
theorem witness_images : (let x := { part0 with ckpt := some ⟨false, 1, 0, 0, [], 0x100⟩, rest := some ⟨1, 0, none, 0, 0, [], true, 0x100⟩ }
    let m : List Byte := bytesOf 1 8 ++ List.replicate 40 0 ++ bytesOf 1 8 ++ List.replicate 4040 0
    m.length = 4096 ∧ manifestOk x m = true ∧ numAt m 40 8 = 0 ∧ manifestOk x (List.replicate 4096 0) = false ∧
    0 % 4096 = 0 ∧ 0xBF7FF000 / 2 ^ 32 < 2 ^ x.sliceLog2 ∧ 0xBF7FF000 % 2 ^ 32 < 0xBF800000) := by decide +kernel

/-- For VirtualDevices: a period that starts, a budget that has run out, a stop at a boundary and by force, a save. -/
theorem witness_virtual_devices : (let d := { Vd.reset with rsv := some (100, 1000), deadline := 50, remaining := 40, start := 10, running := true }
    let d2 := { d with stop := some 60 }
    let q := fun d => { part0 with vds := [(0, d)] }
    let s := { partBox plain [] with parts := [(0, q d)], tick := 50 }
    let y := { plain with wait := some .yield }
    let t := { partBox y [] with parts := [(0, q d2)], tick := 190060 }
    let z := { plain with phase := .saving }
    let u := { partBox z [] with parts := [(0, q { d2 with saving := true })], tick := 190060 }
    (q d).vd 0 = d ∧ d.deadline ≤ s.tick ∧ (q d).vds.wf = true ∧ d.remaining ≤ s.tick - d.start ∧ s.strandsOf 0 0 ≠ [] ∧
    (∀ e ∈ t.strandsOf 0 0, e.2.atBoundary = true) ∧ t.inMesh 0 0 = false ∧ 60 + part0.page.grace ≤ t.tick ∧
    (∀ e ∈ s.strandsOf 0 0, e.2.phase ≠ .saving) ∧ (∀ e ∈ t.strandsOf 0 0, e.2.stoppable = true) ∧
    (∀ e ∈ u.strandsOf 0 0, e.2.phase = .saving ∧ e.2.unacked = 0 ∧ u.runningOf e.1 = [] ∧ ∀ r ∈ e.2.vRdy, r.2 ≤ u.tick)) := by decide +kernel
theorem witness_fills : (let x := { plain with lineAbsent := [2, 4095], granAbsent := 0x8000 }
    4095 ∈ x.lineAbsent ∧ x.granAbsent.getLsbD 15 = true) := by decide +kernel

/-- An ordinary launch of one strand with one team. -/
def oneRecord : BitVec 1024 :=
  BitVec.ofNat 1024 (0x10000000000 * 2 ^ 960 + 256 * 2 ^ 928 + 0x10000000000 * 2 ^ 832 + 2 ^ 752 + 2 ^ 736 + 2 ^ 720 + 2 ^ 699 + 2 ^ 695 + 2 * 2 ^ 690 + 2 * 2 ^ 662)
def oneLaunch : Launch := { launch0 with record := oneRecord, inList := true, head := some ⟨0, 0, 0, 0, 0, 0⟩ }
def launchBox (l : Launch) (xs : Tbl Strand) : State :=
  { partBox plain [] with strands := xs, launches := [l], parts := [(0, { part0 with quota := 1, vds := [(0, { Vd.reset with running := true })] })], tick := 200000 }
/-- For Launches: one that fits, and the strand that it gets; none where nothing is in the list; a hold after 200,000 tk. -/
theorem witness_dispatch : (let s := launchBox oneLaunch []
    (s.part 0).map (fun q => (q.state, q.free, q.saved.length, q.unread)) = some (1, true, 0, []) ∧ s.ranked 0 = [oneLaunch] ∧ rBuilt oneRecord = false ∧
    rResident oneRecord = false ∧ rStages oneRecord = 1 ∧ oneLaunch.teams = 1 ∧
    (clusterRing 128 0).findSome? (fun c => (fitsIn s oneLaunch ⟨0, 0, 0, 0, 0, 0⟩ c).map fun r => (c, r)) = some (0, [0], []) ∧
    (launchBox launch0 []).ranked 0 = [] ∧ 0 + 200000 ≤ s.tick) := by decide +kernel
theorem witness_code : (let x := dispatchStrand oneLaunch ⟨0, 0, 0, 0, 0, 0⟩ [0] [] 0 0
    let s := launchBox oneLaunch [(0, x)]
    x.phase = .placed ∧ x.stash = [] ∧ x.gang.tacked = false ∧ x.id.team = [0] ∧ s.recordOf x = some (oneLaunch, oneRecord) ∧
    (readCode s x oneRecord).map (fun r => (r.1, r.2.strands == s.strands)) = some (List.replicate 256 0, true) ∧
    (readCode { s with dir := [] } x oneRecord).isNone = true) := by decide +kernel
/-- A built launch whose record queue is at the region's first bytes, with one template. -/
def builtRecord : BitVec 1024 := BitVec.ofNat 1024 (2 ^ 673 + 0x10000000000 * 2 ^ 192 + 4 * 2 ^ 184 + 2 ^ 176)
theorem witness_built : (let l := { launch0 with record := builtRecord, inList := true, tmpls := [oneRecord] }
    let s := { launchBox l [] with hbm := { Bank.empty with bytes := writeRaw [] (4096 + 64) (bytesOf (2 ^ 31 + 2 ^ 32 + 2 ^ 64) 32) } }
    let e : W256 := BitVec.ofNat 256 (2 ^ 31 + 2 ^ 32 + 2 ^ 64)
    rBuilt l.record = true ∧ (packetRead s noCore 0 0 (0x10000000000 + 64) 32).map (fun r => BitVec.ofNat 256 (numOf r.1)) = some e ∧ bit1 e 31 = true ∧
    bitsN e 15 0 < rTmpls l.record ∧ bitsN e 71 64 = popcount32 (bitsN e 63 32) ∧ bitsN e 223 192 ≤ rArgLen oneRecord ∧
    (match consumeEntry s l e with
     | .ok () _ => true
     | _ => false) = true ∧ packetRead { s with dir := [] } noCore 0 0 (0x10000000000 + 64) 32 = none) := by decide +kernel
theorem witness_launch_done : (let e : Started := ⟨3, 0x40, 1, 0, false, none, 1⟩
    let s := { launchBox { oneLaunch with inList := false, stepHeld := true, blocked := some 9 } [] with qslots := [(0, { QSlot.management with started := [e] })] }
    let l := { oneLaunch with inList := false, stepHeld := true, blocked := some 9 }
    s.launchOf 0 0 = some l ∧ l.err = false ∧ s.strands = [] ∧ s.commandsOf 0 0 = false ∧ (s.slotOfQueue 0).map (fun k => k.2.started.find? (fun k => k.ref == 1)) =
      some (some e)) := by decide +kernel

/-- For QueueNotifies: every queue off, or one not; an idle queue with a free slot, without one, a ring that is full and one packet more. -/
theorem witness_notifies : (let s := ringBox 5 0
    let r : W512 := BitVec.ofNat 512 (0x1000 * 2 ^ 448 + 4 * 2 ^ 40 + 2 ^ 34)
    let t := { partBox plain [] with
      tableBase := 0x100000, hbm := { Bank.empty with bytes := writeRaw [] (0x100000 + 320) (bytesOf r.toNat 64) }
      parts := [(0, { part0 with quota := 1, slots := 2 })] }
    { s with ide := true }.linkUp = true ∧ [1, 5].any (fun q => qState (s.qRecord q) != 0) = true ∧ (s.bitmapBase.toNat + 5 / 8 < t.tableBase.toNat + 64 * 5) ∧ t.qRecord 5 = r ∧ qState (t.qRecord 5) = 1 ∧ t.slotOfQueue 5 = none ∧ (t.slotsOf 0).length = 0 ∧ t.queueSlotsFree 0 = [1] ∧ s.queueSlotsFree 0 = [] ∧
    t.victim 0 = none ∧ qState (s.qRecord 5) = 2 ∧ (16 + 2 ^ 32 - qRead (s.qRecord 5)) % 2 ^ 32 = 2 ^ qLog2 (s.qRecord 5) ∧
    2 ^ qLog2 (s.qRecord 5) < (17 + 2 ^ 32 - qRead (s.qRecord 5)) % 2 ^ 32 ∧ qDev (s.qRecord 5) = false ∧ qState (s.qRecord 7) = 0) := by decide +kernel
/-- A device-resident queue whose ring and notify address lie in its partition's memory. -/
theorem witness_notify_device : (let r : W512 := BitVec.ofNat 512 (0x10000000000 * 2 ^ 448 + 0x10000001000 * 2 ^ 384 + 4 * 2 ^ 40 + 2 ^ 36 + 2 * 2 ^ 34)
    let s := { ringBox 5 0 with qslots := [(0, QSlot.management), (1, ⟨5, r, 0, none, [], false, none⟩)] }
    qState (s.qRecord 5) = 2 ∧ qDev (s.qRecord 5) = true ∧ (s.queueBytes 5 (qNotify (s.qRecord 5)) 8).isSome = true) := by decide +kernel
theorem blank_table (q : Nat) : State.reset.qTable q = 0 := by
  have : State.reset.hbm.readList (State.reset.tableBase.toNat + 64 * q) 64 = List.replicate 64 0 := by
    simp only [Bank.readList]
    rfl
  rw [State.qTable, this]
  decide +kernel
theorem witness_queues_off : State.reset.queuesOff = true := by
  rw [State.queuesOff, List.all_eq_true]
  intro q hq
  have h : q ≠ 0 := by
    rintro rfl
    revert hq
    decide +kernel
  have : State.reset.slotOfQueue q = none := by
    simp [State.slotOfQueue, State.reset, QSlot.management, h.symm]
  simp only [State.qRecord, this, blank_table]
  decide +kernel
theorem witness_one_on : (let r : W512 := BitVec.ofNat 512 (0x1000 * 2 ^ 448 + 4 * 2 ^ 40 + 2 ^ 34)
    qState r ≠ 0 ∧ (let t := { box plain with tableBase := 0x100000, hbm := { Bank.empty with bytes := writeRaw [] (0x100000 + 64 * 4095) (bytesOf r.toNat 64) } }
    qState (t.qRecord 4095) = 1)) := by decide +kernel

/-- For Packets: a packet of each type, and malformed ones. -/
theorem witness_packets (w : Nat) (h : w ∈ [3, 1 + 0x10000000000 * 2 ^ 192, 2 + 0x10000000000 * 2 ^ 192 + 0x10000001000 * 2 ^ 256 + 64 * 2 ^ 320 + 2 ^ 352,
      4 + 0x10000000040 * 2 ^ 192 + 2 ^ 256 + 100 * 2 ^ 320, 5, 0, 6, 3 + 2 ^ 9, 3 + 8 * 2 ^ 64]) :
    isPacket (ringBox 5 w) 5 (packetOf 5 w) = true ∧ (packetOf 5 w).x.started = [] ∧ (packetOf 5 w).qrec = (ringBox 5 w).qRecord 5 ∧
    headerFault (ringBox 5 w) (packetOf 5 w) =
      (if w = 0 ∨ w = 6 then some 1 else if w = 3 + 2 ^ 9 then some 2 else if w = 3 + 8 * 2 ^ 64 then some 3 else none) := by
  revert w; decide +kernel
theorem witness_copy_packet : (let s := ringBox 5 0
    packetRange s 5 0 0x10000000000 1 = true ∧ packetRange s 5 0 0x1003FFFFFFF 1 = true ∧ packetRange s 5 0 0x10040000000 1 = false ∧
    packetRange s 5 0 0x1003FFFFFE0 32 = true ∧ packetRange s 5 0 (0x10040000000 - 31) 32 = false ∧ ∀ j ∈ List.range 128, s.buffers j < 32) := by decide +kernel
theorem witness_launch_packet : (let w := 1 + 0x10000000000 * 2 ^ 192
    let s := { ringBox 5 w with hbm := { Bank.empty with bytes := writeRaw [] 4096 (bytesOf oneRecord.toNat 128) } }
    (readLaunch s (packetOf 5 w)).toOption.map (fun r => (r.1.record == oneRecord, recordOk r.1.record 0, r.2.qslots == s.qslots, r.2.tableBase == s.tableBase))
      = some (true, true, true, true) ∧ (readLaunch (ringBox 5 w) (packetOf 5 w)).toOption.isNone = true) := by decide +kernel
theorem witness_held_packets : (let l := packetLoc 5 0x10000000040
    let e : Started := ⟨0, 0, 1, 0, false, some (.wait l 0 (some 9)), 0⟩
    let x := { ringSlot 5 with started := [e] }
    let s := { ringBox 5 0 with qslots := [(0, QSlot.management), (1, x)], tick := 9 }
    s.holding 5 = some (1, x, e) ∧ s.slotOfQueue 5 = some (1, x) ∧ (waitMet s 5 e).isSome = true ∧
    (waitMet s 5 { e with hold := some (.wait l 1 (some 9)) }).isNone = true ∧ s.backing 0 = false) := by decide +kernel

/-! #### Power, the debugger, translation, the machine -/

/-- For PowerAndHeat: dividers at both ends, floors that fit the cap and not, a core that is idle, a period that ends, temperatures. -/
theorem witness_power : (let s := { box plain with ide := true, tick := 20000, cores := [(2047, { CoreCfg.reset 2047 with powered := true })] }
    let p := s.power
    let d := { Vd.reset with quotaUj := 10 }
    s.linkUp = true ∧ (s.cell (s.poolOf 0)).claims = [] ∧ (s.coreCfg 2047).powered = true ∧ s.strand 2047 = none ∧ s.engineInto 2047 = false ∧ (s.coreCfg 2047).idle + 20000 ≤ s.tick ∧ p.nextPeriod ≤ s.tick ∧
    p.floor[0] + p.floor[1] + p.floor[2] + p.floor[3] ≤ 2000000 ∧ p.capMw ≤ 2000000 ∧ p.thermLimit < Tbl.getD [(0, 106)] 0 0 ∧ plain.phase = .live ∧
    (s.coreCfg 0).moveTo = none ∧ plain.gang.tacked = false ∧ plain.halted = false ∧ plain.wait = none ∧ s.runningOf 0 = [] ∧
    d.quotaUj ≠ 0 ∧ d.quotaUj ≤ 10 ∧ d.usedUj ≤ 10 ∧ (s.coreCfg 0).slow = false ∧ ({ CoreCfg.reset 0 with slow := true } : CoreCfg).slow = true ∧
    s.between 0 plain = true ∧ (let x := { plain with wait := some .own }
      (box x).between 0 x = false)) := by decide +kernel
theorem witness_thermal : (let s := partBox plain []
    let m := moveTargetOf s [(0, 106), (3, 40)] 0 plain
    m.isSome = true ∧ m ≠ some 0 ∧ moveTargetOf { s with strands := (List.range 16).map fun n => (n, plain) } [(0, 106)] 0 plain = none ∧
    (let c := { CoreCfg.reset 0 with moveTo := some 3, hot := true, rail := some (1, 9) }
     let t := { box { plain with phase := .moving } with cores := [(0, c)] }
     (t.coreCfg 0).moveTo = some 3 ∧ (t.coreCfg 0).hot = true ∧ (t.coreCfg 0).rail = some (1, 9) ∧ 104 < t.power.thermLimit)) := by decide +kernel

/-- For Debugger: a core inside and outside the partition, a strand at rest and one that is not, a halted strand, a register held and not. -/
theorem witness_debugger : (let s := { partBox plain [] with ide := true }
    s.linkUp = true ∧ s.coreIn 0 0 = true ∧ s.coreIn 0 15 = true ∧ s.coreIn 0 16 = false ∧ plain.phase ≠ .placed ∧ plain.halted = false ∧ plain.atRest = true ∧
    ({ plain with wait := some .own } : Strand).atRest = false ∧ plain.members 0 = [0] ∧ plain.holds 127 = false ∧ plain.holds 0 = true ∧
    plain.granAbsent.getLsbD 0 = false) := by decide +kernel

/-- A page node at 0x8000 of slice 0 for region 1024, page 0 with this word. -/
def nodeRegion : Tbl DirEntry := [(1024, ⟨BitVec.ofNat 64 (2 ^ 62 + 2 ^ 60 + 0x200000), 0⟩)]
def nodeBox (old : Nat) : State :=
  { partBox plain [] with strands := [], dir := nodeRegion, hbm := { Bank.empty with bytes := writeRaw [] 0x200000 (bytesOf old 8) } }
/-- A writable 2 MiB leaf in HBM at 4 MiB, one in host memory. -/
def localPage : Nat := 2 ^ 62 + 2 ^ 59 + 2 ^ 58 + 0x400000
def hostPage : Nat := 2 * 2 ^ 62 + 2 ^ 59 + 2 ^ 58 + 0x800000
/-- For Translation: a free region and a mapped one; words that are valid and not; a source and targets of a migration. -/
theorem witness_translation : (let s := { nodeBox localPage with ide := true }
    let d : DirEntry := ⟨BitVec.ofNat 64 (2 ^ 62 + 2 ^ 60 + 0x200000), 0⟩
    let a := 0x10000000000
    s.linkUp = true ∧ part0.migrations = [] ∧ maprInvalid s 0 part0 0x10040000000 (BitVec.ofNat 64 (2 * 2 ^ 62 + 2 ^ 59)) 0 = false ∧ s.region 0x10040000000 = none ∧
    maprInvalid s 0 part0 (2 ^ 57 - 2 ^ 30) (BitVec.ofNat 64 (2 * 2 ^ 62 + 2 ^ 59)) 0 = false ∧
    maprInvalid s 0 part0 (2 ^ 57) (BitVec.ofNat 64 (2 * 2 ^ 62 + 2 ^ 59)) 0 = true ∧ s.region a = some d ∧ bitsN d.r 63 58 = 0 ∧ s.resident 0 = false ∧
    (({ s with dir := [(1024, { d with r := 2 ^ 58 })] } : State).region a).map (fun e : DirEntry => bitsN e.r 63 58) = some 1 ∧ s.saveOk 0 part0 a d.r (BitVec.ofNat 64 hostPage) 21 = true ∧
    s.engineBusy 0 = false ∧ (partBox plain []).resident 0 = true ∧ s.nodeRegion 0 a = some d ∧ s.nodeRegion 0 0x10040000000 = none ∧
    s.hbmWord (pageEntryAt d a) = BitVec.ofNat 64 localPage ∧ s.frameOk 0 d.r (BitVec.ofNat 64 hostPage) 21 (some a) = true ∧
    tMig (BitVec.ofNat 64 localPage) = false ∧ tMig (BitVec.ofNat 64 (localPage + 2 ^ 61)) = true ∧
    sourceBad s 0 part0 d a (BitVec.ofNat 64 localPage) = false ∧ targetOk s 0 d (BitVec.ofNat 64 hostPage) = true ∧
    sourceBad s 0 part0 d a (BitVec.ofNat 64 (localPage + 2 ^ 60)) = true ∧ targetOk s 0 d (BitVec.ofNat 64 (hostPage + 2 ^ 61)) = false) := by decide +kernel
theorem witness_dirty : (let q := { part0 with page := { part0.page with trCmd := 4 } }
    let s := ({ nodeBox localPage with dir := nodeRegion ++ openRegion.map fun e => (1025, e.2) } : State).setPart 0 q
    let d : DirEntry := ⟨BitVec.ofNat 64 (2 ^ 62 + 2 ^ 60 + 0x200000), 0⟩
    packetRange s noCore 0 0x10040000000 64 = true ∧ tState d.t = 1 ∧
    (match homeWrite s ⟨0, 0, 0⟩ (locOf noCore 0x10040000000) (s.bitmapOf d 0x10000000000) false with
     | .ok _ s1 => s1.hbm.wf
     | _ => false) = true) := by decide +kernel
theorem witness_migration : (let m : Migration := ⟨0x10000000000, BitVec.ofNat 64 hostPage, 0x10000000040, BitVec.ofNat 64 localPage⟩
    let q := { part0 with migrations := [m] }
    let s := { nodeBox (localPage + 2 ^ 61) with parts := [(0, q)] }
    q.migrations.find? (·.page == 0x10000000000) = some m ∧ (s.nodeRegion 0 0x10000000000).isSome = true ∧ tState m.old = 1 ∧ tState m.target = 2 ∧
    s.llc = [] ∧ m.page % 2 ^ 21 = 0) := by decide +kernel

/-- For StepRunsDecodedInstruction: core 0 in turn by the agenda, and by its clock; a word that decodes and one that does not; a device step. -/
theorem witness_step : (let s := scratchBox plain 0 [0x00, 0x87, 0x51, 0x04]
    let t := scratchBox plain 0 [0, 0, 0, 0x3C]
    s.boot = .running ∧ s.agenda = [] ∧ firstStep s s.steps = none ∧ nextCore s = some 0 ∧ plain.turns 0 = true ∧ plain.stepping = false ∧
    s.firstDue (max s.tick plain.turnAt) = none ∧
    plain.members 0 = [0] ∧ plain.async = [] ∧ plain.haltReq = false ∧ plain.absentLine 0 4 = false ∧ plain.fetchWait = false ∧
    claimFirst s 0 plain = none ∧ (s.coreCfg 0).breaks.toList = [0, 0, 0, 0] ∧
    plain.pc < plain.selv ∧ plain.pc % 4 = 0 ∧ s.scratch.poisoned (scratchAt 0 0) = false ∧
    (∀ j ∈ List.range 4, s.scratch.read (scratchAt 0 j) = (0x04518700#32).extractLsb' (8 * j) 8) ∧ decodeWord 0x04518700 = some (.add 5 6 7) ∧
    (∀ j ∈ List.range 4, t.scratch.read (scratchAt 0 j) = (0x3C000000#32).extractLsb' (8 * j) 8) ∧ decodeWord 0x3C000000 = none) := by decide +kernel

/-- A VCLAIM of core 1 while core 0 of its pool has its turn too. -/
theorem witness_claim_first : (let s := { scratchBox plain 0x200 [] with
      strands := [(0, plain), (1, plain)], agenda := [.core 1, .core 0], scratch := { Bank.empty with bytes := writeRaw [] (scratchAt 1 0) [0x10, 0x00, 0x01, 0x78] } }
    let z : State := { s with agenda := [.core 0], cur := 1, tick := max s.tick plain.turnAt }
    decodeWord 0x78010010 = some (.vclaim 4) ∧ plain.turns 1 = true ∧ plain.fetchWait = false ∧ s.firstDue (max s.tick plain.turnAt) = none ∧
    claimFirst z 1 plain = some 0) := by decide +kernel

/-- For EncodingRoundTrip: well-formed instructions with a control word and with a command word. -/
theorem witness_round_trip : (Instr.extz 9 8 63 0).wf = true ∧ (encodeWord (.extz 9 8 63 0)).isSome = true ∧ (Instr.cpCopy copyBody).wf = true ∧
    (encodeCommand (.cpCopy copyBody)).isSome = true ∧ (Instr.mmMma zeroBody).wf = true ∧ (encodeCommand (.mmMma zeroBody)).isSome = true := by decide +kernel

/-- For RecoveryStays and StepKeepsCanonicalForm: steps in recovery, from reset and of a running device that go on, every memory and table in its
form. -/
theorem witness_recovery : (let s := { State.reset with boot := .recovery, agenda := [.device .getVersion StepOp.none] }
    (match Sys2Proof.Machine.step s with | .next t => t.out != s.out | _ => false) = true) := by decide +kernel
theorem witness_reset_steps : ∃ t, Sys2Proof.Machine.step State.reset = .next t := ⟨_, rfl⟩
theorem witness_canonical : Sys2Proof.Safety.MemoriesOk (box plain) ∧ Sys2Proof.Safety.TablesOk (box plain) ∧ Sys2Proof.Safety.MemoriesOk (ringBox 5 3) ∧
    Sys2Proof.Safety.TablesOk (ringBox 5 3) ∧
    (match Sys2Proof.Machine.step (scratchBox plain 0 [0x00, 0x87, 0x51, 0x04]) with | .next t => (t.strand 0).map (·.pc) | _ => none) = some 4 := by
  unfold Sys2Proof.Safety.MemoriesOk Sys2Proof.Safety.TablesOk
  decide +kernel

/-! ### Reads of registers (the tables of R17, R18, R30, R37, R110, R115) -/

theorem test_bar0_reads : (let s := State.reset
    s.bar0Word 0x108 = 64 ∧ s.bar0Word 0x158 = 0x0FFF000C ∧ s.bar0Word 0x168 = 0x0004000060000000 ∧ s.bar0Word 0x9050 = 32 ∧
    s.bar0Word 0xB000 = 2000000 ∧ s.bar0Word 0xB080 = 105 ∧ s.bar0Word 0xB100 = 0x0101010101010101 ∧ s.bar0Word 0x8000 = 0) := by decide +kernel
def fullLog : List W256 := (List.range 255).map fun i => BitVec.ofNat 256 (i + 2)
theorem test_page_reads : (let x : Partition := { part0 with node := 5, sliceBase := 64, sliceLog2 := 4, utilSum := 3, hidden := 1, slots := 2 }
    let s := { box plain with parts := [(9, { x with log := fullLog, logCount := 257 })] }
    s.pageWord 9 0 = 0x0001090440000005 ∧ s.pageWord 9 8 = 3 ∧ s.pageWord 9 0x18 = 1 ∧ s.pageWord 9 0x110 = 190000 ∧ s.pageWord 8 0 = 0 ∧
    s.pageWord 9 0x2000 = 257 ∧ s.pageWord 9 0x2020 = 255 ∧ s.pageWord 9 0x2040 = 256 ∧ s.pageWord 9 0x2060 = 2 ∧ s.bar0Word 0xA148 = 2) := by decide +kernel

end Sys2Proof.Tests
end

section
/-! The canonical form of the memories and tables under every step. -/
namespace Sys2Proof.Machine
open Sys2Proof.Safety

/-! ### What a result carries -/

/-- What holds of an option's value, where it has one. -/
def OptGood {α : Type} (P : α → Prop) : Option α → Prop
  | some a => P a
  | none => True

/-- What holds of the error and of the value of a computation that may fail. -/
def ExGood {ε α : Type} (E : ε → Prop) (P : α → Prop) : Except ε α → Prop
  | .error e => E e
  | .ok a => P a

/-- The states that the effect of a word carries are in their form. -/
def Eff.Good : Eff → Prop
  | .done s => Canonical s
  | .trap _ _ => True
  | .block s _ => Canonical s

/-- The state that an outcome goes on in is in its form. -/
def OutGood : Out → Prop
  | .next s => Canonical s
  | .fault _ => True
  | .refused _ => True

def Ld.Good : Ld → Prop
  | .got _ => True
  | .block s _ => Canonical s
  | .trap _ => True

def Ask.Good : Ask → Prop
  | .got _ s => Canonical s
  | .block s _ => Canonical s
  | .trap _ => True

def VGot.Good : VGot → Prop
  | .ok _ s => Canonical s
  | .trap _ => True

def VOut.Good : VOut → Prop
  | .done s => Canonical s
  | .trap _ => True

theorem OptGood.some {α : Type} {P : α → Prop} {o : Option α} {a : α} (g : OptGood P o) (e : o = some a) : P a := by
  rw [e] at g; exact g
theorem ExGood.ok {ε α : Type} {E : ε → Prop} {P : α → Prop} {r : Except ε α} {a : α} (g : ExGood E P r) (e : r = .ok a) : P a := by
  rw [e] at g; exact g
theorem ExGood.error {ε α : Type} {E : ε → Prop} {P : α → Prop} {r : Except ε α} {a : ε} (g : ExGood E P r) (e : r = .error a) : E a := by
  rw [e] at g; exact g
theorem HomeR.Good.ok {α : Type} {P : State → Prop} {r : HomeR α} {a : α} {s : State} (g : r.Good P) (e : r = .ok a s) : P s := by
  rw [e] at g; exact g
theorem Eff.Good.done {r : Eff} {s : State} (g : r.Good) (e : r = .done s) : Canonical s := by
  rw [e] at g; exact g
theorem Eff.Good.block {r : Eff} {s : State} {k : WaitKind} (g : r.Good) (e : r = .block s k) : Canonical s := by
  rw [e] at g; exact g
theorem OutGood.next {r : Out} {s : State} (g : OutGood r) (e : r = .next s) : Canonical s := by
  rw [e] at g; exact g
theorem Ld.Good.block {r : Ld} {s : State} {k : WaitKind} (g : r.Good) (e : r = .block s k) : Canonical s := by
  rw [e] at g; exact g
theorem Ask.Good.got {r : Ask} {s : State} {k : Reply} (g : r.Good) (e : r = .got k s) : Canonical s := by
  rw [e] at g; exact g
theorem Ask.Good.block {r : Ask} {s : State} {k : WaitKind} (g : r.Good) (e : r = .block s k) : Canonical s := by
  rw [e] at g; exact g
theorem VGot.Good.ok {r : VGot} {s : State} {k : List Byte} (g : r.Good) (e : r = .ok k s) : Canonical s := by
  rw [e] at g; exact g
theorem VOut.Good.done {r : VOut} {s : State} (g : r.Good) (e : r = .done s) : Canonical s := by
  rw [e] at g; exact g
theorem Canonical.snd {α : Type} {p : α × State} {a : α} {s : State} (g : Canonical p.2) (e : p = (a, s)) : Canonical s := by
  rw [e] at g; exact g
theorem Canonical.fst {α : Type} {p : State × α} {a : α} {s : State} (g : Canonical p.1) (e : p = (s, a)) : Canonical s := by
  rw [e] at g; exact g
theorem Canonical.foldlFst {α β : Type} {f : State × β → α → State × β} (hf : ∀ z x, Canonical z.1 → Canonical (f z x).1) (xs : List α)
    {z : State × β} (h : Canonical z.1) : Canonical (xs.foldl f z).1 :=
  List.foldlRecOn (motive := fun z : State × β => Canonical z.1) xs f h fun z hz x _ => hf z x hz
theorem Canonical.ite {s t : State} {c : Prop} [Decidable c] (h : Canonical s) (k : Canonical t) : Canonical (if c then s else t) := by
  split
  · exact h
  · exact k
theorem OutGood.ite {a b : Out} {c : Prop} [Decidable c] (h : OutGood a) (k : OutGood b) : OutGood (if c then a else b) := by
  split
  · exact h
  · exact k
theorem Eff.Good.ite {a b : Eff} {c : Prop} [Decidable c] (h : a.Good) (k : b.Good) : Eff.Good (if c then a else b) := by
  split
  · exact h
  · exact k
theorem HomeR.Good.of_ok {α : Type} {a : α} {s : State} (h : Canonical s) : (HomeR.ok a s).Good Canonical := h
theorem HomeR.Good.ite {α : Type} {a b : HomeR α} {c : Prop} [Decidable c] (h : a.Good Canonical) (k : b.Good Canonical) :
    HomeR.Good Canonical (if c then a else b) := by
  split
  · exact h
  · exact k
theorem OptGood.of_none {α : Type} {P : α → Prop} : OptGood P none := True.intro
theorem ExGood.of_ok {ε α : Type} {E : ε → Prop} {P : α → Prop} {a : α} (h : P a) : ExGood E P (.ok a) := h
theorem OptGood.getD {α : Type} {P : α → Prop} {o : Option α} {d : α} (h : OptGood P o) (k : P d) : P (o.getD d) := by
  cases o with
  | none => exact k
  | some => exact h
theorem OptGood.ite {α : Type} {P : α → Prop} {a b : Option α} {c : Prop} [Decidable c] (h : OptGood P a) (k : OptGood P b) :
    OptGood P (if c then a else b) := by
  split
  · exact h
  · exact k
theorem ExGood.ite {ε α : Type} {E : ε → Prop} {P : α → Prop} {a b : Except ε α} {c : Prop} [Decidable c] (h : ExGood E P a)
    (k : ExGood E P b) : ExGood E P (if c then a else b) := by
  split
  · exact h
  · exact k
theorem Bank.wf_ite {a b : Bank} {c : Prop} [Decidable c] (h : a.wf = true) (k : b.wf = true) : (if c then a else b).wf = true := by
  split
  · exact h
  · exact k
/-- A table whose entries are changed under their keys keeps its order. -/
theorem Tbl.wf_map {α : Type} {f : Nat × α → Nat × α} (hf : ∀ e, (f e).1 = e.1) {t : Tbl α} (h : t.wf = true) :
    Tbl.wf (t.map f) = true := by
  rw [show t.map f = t.map fun e => (e.1, (f e).2) from List.map_congr_left fun e _ => Prod.ext (hf e) rfl]
  exact Tbl.sortedFrom_map _ t h

theorem Canonical.strands_wf {s : State} (h : Canonical s) : s.strands.wf = true := h.2.1
theorem Canonical.cores_wf {s : State} (h : Canonical s) : s.cores.wf = true := h.2.2.1
theorem Canonical.cells_wf {s : State} (h : Canonical s) : s.cells.wf = true := h.2.2.2.1
theorem Canonical.clusters_wf {s : State} (h : Canonical s) : s.clusters.wf = true := h.2.2.2.2.1
theorem Canonical.parts_wf {s : State} (h : Canonical s) : s.parts.wf = true := h.2.2.2.2.2.1
theorem Canonical.qslots_wf {s : State} (h : Canonical s) : s.qslots.wf = true := h.2.2.2.2.2.2.1
theorem Canonical.dir_wf {s : State} (h : Canonical s) : s.dir.wf = true := h.2.2.2.2.2.2.2
theorem Canonical.strands {s : State} (h : Canonical s) {t : Tbl Strand} (k : t.wf = true) : Canonical { s with strands := t } :=
  ⟨h.1, k, h.2.2⟩
theorem Canonical.cores {s : State} (h : Canonical s) {t : Tbl CoreCfg} (k : t.wf = true) : Canonical { s with cores := t } :=
  ⟨h.1, h.strands_wf, k, h.2.2.2⟩
theorem Canonical.clusters {s : State} (h : Canonical s) {t : Tbl Cluster} (k : t.wf = true) : Canonical { s with clusters := t } :=
  ⟨h.1, h.strands_wf, h.cores_wf, h.cells_wf, k, h.2.2.2.2.2⟩
theorem Canonical.parts {s : State} (h : Canonical s) {t : Tbl Partition} (k : t.wf = true) : Canonical { s with parts := t } :=
  ⟨h.1, h.strands_wf, h.cores_wf, h.cells_wf, h.clusters_wf, k, h.2.2.2.2.2.2⟩
theorem Canonical.qslots {s : State} (h : Canonical s) {t : Tbl QSlot} (k : t.wf = true) : Canonical { s with qslots := t } :=
  ⟨h.1, h.strands_wf, h.cores_wf, h.cells_wf, h.clusters_wf, h.parts_wf, k, h.dir_wf⟩
theorem Canonical.dir {s : State} (h : Canonical s) {t : Tbl DirEntry} (k : t.wf = true) : Canonical { s with dir := t } :=
  ⟨h.1, h.strands_wf, h.cores_wf, h.cells_wf, h.clusters_wf, h.parts_wf, h.qslots_wf, k⟩
theorem good_engineRead {s : State} (h : Canonical s) (w : Who) (l : Loc) (n : Nat) (f : Option Bool) :
    ExGood (fun _ => True) (fun r => Canonical r.2.2) (engineRead s w l n f) := by
  cases e : engineRead s w l n f with
  | error => exact True.intro
  | ok r => exact engineRead_canonical h e
theorem good_engineWrite {s : State} (h : Canonical s) (w : Who) (l : Loc) (bs : List Byte) (bad : List (Nat × Nat)) :
    ExGood (fun _ => True) Canonical (engineWrite s w l bs bad) := by
  cases e : engineWrite s w l bs bad with
  | error => exact True.intro
  | ok r => exact engineWrite_canonical h e

/-! ### Ops -/

theorem good_onLink {s : State} (h : Canonical s) {f : Out} (k : OutGood f) : OutGood (onLink s f) := by
  unfold onLink
  split
  · exact k
  · exact h.emit _

theorem Canonical.retire {s : State} (h : Canonical s) (n : Nat) (x : Strand) (k : Nat) : Canonical (s.retire n x k) := h.setStrand _ _

theorem Canonical.blockOn {s : State} (h : Canonical s) (n : Nat) (k : WaitKind) : Canonical (s.blockOn n k) := by
  unfold State.blockOn; dsimp only
  exact h.onStrand _ _

theorem Canonical.notePsn {s : State} (h : Canonical s) (p id : Nat) : Canonical (s.notePsn p id) := h

theorem Canonical.takeAsync {s : State} (h : Canonical s) (x : Strand) (ms : List Nat) (due : List (Nat × Trap)) :
    Canonical (s.takeAsync x ms due) := by
  unfold State.takeAsync; dsimp only
  exact Canonical.foldl (fun _ _ hs => hs.onStrand _ _) _ (Canonical.ite (h.notePsn _ _) h)

theorem Canonical.trapOn {s : State} (h : Canonical s) (n : Nat) (x : Strand) (t : Trap) : Canonical (s.trapOn n x t) :=
  Canonical.ite ((h.setStrand _ _).takeAsync _ _ _) (Canonical.setStrand (Canonical.ite (h.notePsn _ _) h) _ _)

theorem Canonical.settleTo {s : State} (h : Canonical s) (ms : List Nat) (t : Nat) : Canonical (s.settleTo ms t) :=
  Canonical.foldl (fun _ _ hs => hs.onStrand _ _) _ h

theorem Canonical.settleAll {s : State} (h : Canonical s) (ms : List Nat) : Canonical (s.settleAll ms) := h.settleTo _ _

theorem Canonical.settleCore {s : State} (h : Canonical s) (n : Nat) : Canonical (s.settleCore n) := by
  unfold State.settleCore
  split
  · exact h.settleAll _
  · exact h

theorem Canonical.redivide {s : State} (h : Canonical s) (n d e : Nat) : Canonical (s.redivide n d e) := by
  unfold State.redivide
  split
  · exact Canonical.foldl (fun _ _ hs => hs.onStrand _ _) _ h
  · exact h

/-- What a word does to one core keeps the form. -/
def KeepsForm (f : State → Nat → Strand → Eff) : Prop := ∀ s : State, Canonical s → ∀ n x, (f s n x).Good

theorem good_runAll {f : State → Nat → Strand → Eff} (hf : KeepsForm f) (ns : List Nat) :
    ∀ {s : State}, Canonical s → OptGood Canonical (runAll f ns s) := by
  induction ns with
  | nil => exact fun h => h
  | cons n ns ih =>
    intro s h
    unfold runAll
    split
    · exact True.intro
    split
    · rename_i e1
      exact ih ((hf _ h _ _).done e1)
    · exact True.intro

theorem Canonical.gangTrap {s : State} (h : Canonical s) (ms : List Nat) (ts : List (Nat × Trap)) : Canonical (s.gangTrap ms ts) := by
  unfold State.gangTrap; dsimp only
  refine Canonical.foldl (fun _ _ hs => hs.onStrand _ _) _ ?_
  split
  · exact h.notePsn _ _
  · exact h

theorem Canonical.trapAt {s : State} (h : Canonical s) (n : Nat) (x : Strand) (t : Trap) : Canonical (s.trapAt n x t) :=
  Canonical.ite ((h.setStrand _ _).gangTrap _ _) (h.trapOn _ _ _)

theorem Canonical.blockWith {s : State} (h : Canonical s) (fill : Bool) (n : Nat) (k : WaitKind) : Canonical (s.blockWith fill n k) := by
  unfold State.blockWith; dsimp only
  exact Canonical.ite (h.onStrand _ _) (h.blockOn _ _)

theorem Canonical.blockAll {f : State → Nat → Strand → Eff} (hf : KeepsForm f) (hold fill : Bool) (ns : List Nat) :
    ∀ {s : State}, Canonical s → Canonical (Sys2Proof.Machine.blockAll f hold fill ns s) := by
  induction ns with
  | nil => exact fun h => h
  | cons n ns ih =>
    intro s h
    unfold Sys2Proof.Machine.blockAll
    split
    · exact ih h
    split
    · rename_i e1
      refine ih ?_
      split
      · exact h.blockWith _ _ _
      · exact ((hf _ h _ _).block e1).blockWith _ _ _
    · exact ih (h.blockWith _ _ _)

theorem Canonical.gangSync {s : State} (h : Canonical s) (ms : List Nat) (cls : Nat) : Canonical (s.gangSync ms cls) := by
  unfold State.gangSync; dsimp only
  exact Canonical.foldl (fun _ _ hs => hs.onStrand _ _) _ h

theorem Canonical.runGang {f : State → Nat → Strand → Eff} (hf : KeepsForm f) (ms : List Nat) {s : State} (h : Canonical s) :
    Canonical (Sys2Proof.Machine.runGang f ms s) := by
  unfold Sys2Proof.Machine.runGang
  split
  · rename_i e1
    exact Canonical.foldl (fun _ _ hs => hs.onStrand _ _) _ (((good_runAll hf ms h).some e1).gangSync _ _)
  · split
    · exact Canonical.blockAll hf _ _ _ h
    · have h1 : ∀ ts : List (Nat × Strand × Trap), Canonical (ts.foldl (fun (z : State) p => z.setStrand p.1 p.2.1) s) :=
        fun ts => Canonical.foldl (fun _ _ hs => hs.setStrand _ _) ts h
      dsimp only
      split
      · split
        · exact (h1 _).takeAsync _ _ _
        · exact (h1 _).gangTrap _ _
      · exact (h1 _).gangTrap _ _

theorem Canonical.runAlone {f : State → Nat → Strand → Eff} (hf : KeepsForm f) (n : Nat) {s : State} (h : Canonical s) :
    Canonical (Sys2Proof.Machine.runAlone f n s) := by
  unfold Sys2Proof.Machine.runAlone
  split
  · exact h
  split
  · rename_i e1
    exact (hf _ h _ _).done e1
  · exact h.trapOn _ _ _
  · rename_i e1
    exact ((hf _ h _ _).block e1).blockOn _ _

/-- A control word keeps the form where what it does to one core keeps it. -/
theorem good_word {f : State → Nat → Strand → Eff} (hf : KeepsForm f) {s : State} (h : Canonical s) : OutGood (word s f) := by
  unfold word
  split
  · exact True.intro
  split
  · split
    · exact OutGood.ite (Canonical.runGang hf _ ((h.settleAll _).gangSync _ _)) ((h.settleAll _).gangSync _ _)
    · exact Canonical.runAlone hf _ (h.setStrand _ _)
  · exact True.intro

theorem good_compute {s : State} (h : Canonical s) (srcs : List (BitVec 6)) (d : BitVec 6) (k lat : Nat) (f : Strand → Strand) (n : Nat)
    (x : Strand) : (compute srcs d k lat f s n x).Good := by
  unfold compute
  split
  · exact h
  · exact h.setStrand _ _

theorem good_illegal {s : State} (_ : Canonical s) (n : Nat) (x : Strand) : (illegal s n x).Good := True.intro

theorem good_withStrand {s : State} (h : Canonical s) (n : Nat) {f : Strand → Eff} (hf : ∀ x, (f x).Good) : (withStrand s n f).Good := by
  unfold withStrand
  split
  · exact hf _
  · exact h

/-! ### Operands -/

theorem Canonical.dropLocks {s : State} (h : Canonical s) (n : Nat) (f : Lock → Bool) : Canonical (s.dropLocks n f) := by
  unfold State.dropLocks; dsimp only
  exact h.setCluster _ _

/-! ### Mem -/

theorem Canonical.putDir {s : State} (h : Canonical s) (node off : Nat) (ws : List W64) : Canonical (s.putDir node off ws) := by
  unfold State.putDir; dsimp only
  split
  · exact h
  · exact Canonical.ite h (h.hbm (Bank.wf_writeList _ _ _ (Bank.wf_writeList _ _ _ h.1.1)))

theorem Canonical.directory {s : State} (h : Canonical s) {t : Tbl DirEntry} (k : t.wf = true) (ns : List Nat) :
    Canonical { s with dir := t, dirNodes := ns } := h.dir k

theorem Canonical.setDir {s : State} (h : Canonical s) (g : Nat) (d : Option DirEntry) : Canonical (s.setDir g d) := by
  refine (((h.directory ?_ _).putDir _ _ _).putDir _ _ _).putDir _ _ _
  cases d with
  | none => exact Tbl.wf_del _ _ h.dir_wf
  | some e => exact Tbl.wf_put _ _ _ h.dir_wf

/-! ### Access -/

theorem Canonical.sendBack {s : State} (h : Canonical s) (n : Nat) (l : Line) : Canonical (s.sendBack n l) := by
  unfold State.sendBack
  split
  · exact h
  split
  · exact h
  · exact (h.send _).setStrand _ _

theorem Canonical.writeBackAll {s : State} (h : Canonical s) (n : Nat) : Canonical (s.writeBackAll n) := by
  unfold State.writeBackAll
  split
  · exact h
  · exact Canonical.onStrand (Canonical.foldl (fun _ _ hs => hs.sendBack _ _) _ h) _ _

theorem Canonical.cachePut {s : State} (h : Canonical s) (n : Nat) (l : Line) : Canonical (s.cachePut n l) := by
  unfold State.cachePut; dsimp only
  split
  · exact h
  split
  · exact h.setStrand _ _
  split
  · exact h.setStrand _ _
  · exact ((h.free _).sendBack _ _).onStrand _ _

theorem good_release {s : State} (h : Canonical s) (n : Nat) (x : Strand) :
    ExGood (fun r => Canonical r.1) Canonical (release s n x) := by
  have h1 : Canonical (if x.released then s else (s.writeBackAll n).onStrand n fun y => { y with released := true }) :=
    Canonical.ite h ((h.writeBackAll _).onStrand _ _)
  unfold release; dsimp only
  split
  · exact h1
  · exact ExGood.ite h1 h1

theorem good_releaseAt (scope : Nat) {s : State} (h : Canonical s) (n : Nat) (x : Strand) :
    ExGood (fun r => Canonical r.1) Canonical (releaseAt scope s n x) := ExGood.ite h (good_release h n x)

theorem good_loadGlob {s : State} (h : Canonical s) (n : Nat) (x : Strand) (a size cpol : Nat) : (loadGlob s n x a size cpol).Good := by
  unfold Sys2Proof.Machine.loadGlob; dsimp only
  split
  · exact True.intro
  split
  · exact True.intro
  · exact Canonical.foldl (fun _ _ hs => hs.send _) _ h

theorem Canonical.askHome {s : State} (h : Canonical s) (n : Nat) (x : Strand) (op : AccOp) (l : Loc) (size value cmp cpol : Nat) :
    Canonical (Sys2Proof.Machine.askHome s n x op l size value cmp cpol) := h

theorem good_loadRaw {s : State} (h : Canonical s) (n : Nat) (x : Strand) (l : Loc) (size cpol : Nat) (op : AccOp) :
    (loadRaw s n x l size cpol op).Good := by
  unfold Sys2Proof.Machine.loadRaw
  split
  · exact good_loadGlob h _ _ _ _ _
  · split
    · split
      · exact h
      · exact True.intro
    · split
      · exact True.intro
      · split
        · exact True.intro
        · exact h.askHome _ _ _ _ _ _ _ _
  · split
    · exact True.intro
    · split
      · exact True.intro
      · exact h.askHome _ _ _ _ _ _ _ _

theorem good_loadAt {s : State} (h : Canonical s) (n : Nat) (x : Strand) (a size cpol : Nat) (op : AccOp) :
    (loadAt s n x a size cpol op).Good := by
  unfold Sys2Proof.Machine.loadAt; dsimp only
  split
  · split
    · exact True.intro
    · split <;> exact True.intro
  · exact good_loadRaw h _ _ _ _ _ _

theorem Canonical.storeLine {s : State} (h : Canonical s) (n : Nat) (w : Line) (cpol : Nat) :
    Canonical (Sys2Proof.Machine.storeLine s n w cpol) := by
  unfold Sys2Proof.Machine.storeLine; dsimp only
  split
  · exact h
  · exact Canonical.ite (Canonical.ite h (h.cachePut _ _)) ((Canonical.send (Canonical.ite h (h.cachePut _ _)) _).onStrand _ _)

theorem Canonical.storeGlob {s : State} (h : Canonical s) (n a : Nat) (bs : List Byte) (tag : Bool) (cpol : Nat) :
    Canonical (Sys2Proof.Machine.storeGlob s n a bs tag cpol) := by
  unfold Sys2Proof.Machine.storeGlob
  refine Canonical.foldlFst (z := (_, _)) (fun _ _ hs => ?_) _ h
  exact hs.storeLine _ _ _

theorem good_storeRaw {s : State} (h : Canonical s) (n : Nat) (x : Strand) (l : Loc) (bs : List Byte) (tag : Bool) (cpol : Nat) :
    OptGood (fun r => Canonical r) (storeRaw s n x l bs tag cpol) := by
  unfold Sys2Proof.Machine.storeRaw
  split
  · exact (h.onStrand _ _).storeGlob _ _ _ _ _
  · split
    · split
      · exact True.intro
      · exact (h.touch _ _).scratchPut _ _ _ _
    · exact (h.send _).onStrand _ _
  · exact (h.send _).onStrand _ _

theorem good_storeAt {s : State} (h : Canonical s) (n : Nat) (x : Strand) (a : Nat) (bs : List Byte) (tag : Bool) (cpol : Nat) :
    OptGood (fun r => Canonical r) (storeAt s n x a bs tag cpol) := by
  unfold Sys2Proof.Machine.storeAt; dsimp only
  split
  · rename_i s1 e1
    have h1 : Canonical s1 := (good_storeRaw h _ _ _ _ _ _).some e1
    exact Canonical.ite h1 (h1.onStrand _ _)
  · exact True.intro

/-! ### Home -/

theorem Canonical.testWaits {s : State} (h : Canonical s) (knot : Loc) (part vd : Nat) (k : Knot) : Canonical (s.testWaits knot part vd k) := h

theorem good_applySignal {s : State} (h : Canonical s) (x : Signal) : (applySignal s x).Good Canonical := by
  unfold Sys2Proof.Machine.applySignal; dsimp only
  split
  · exact True.intro
  · exact True.intro
  · rename_i s1 e1
    have h1 : Canonical s1 := (good_homeReadW h _ _ _).ok e1
    split
    · rename_i s2 e2
      have h2 : Canonical s2 := (good_homeWrite h1 _ _ _ _).ok e2
      exact h2.testWaits _ _ _ _
    · exact good_homeWrite h1 _ _ _ _

theorem good_applyWait {s : State} (h : Canonical s) (q : WaitReq) : (applyWait s q).Good Canonical := by
  unfold Sys2Proof.Machine.applyWait; dsimp only
  split
  · exact True.intro
  · exact True.intro
  · rename_i s1 e1
    have h1 : Canonical s1 := (good_homeRead h _ _ _).ok e1
    split
    · exact h1.send _
    · exact h1

theorem good_pushQueue {s : State} (h : Canonical s) (w : Who) (q : Loc) (payload chain span : Nat) (ovf : Bool) :
    (pushQueue s w q payload chain span ovf).Good Canonical := by
  unfold Sys2Proof.Machine.pushQueue; dsimp only
  split
  · exact True.intro
  · exact True.intro
  · rename_i s1 e1
    have h1 : Canonical s1 := (good_homeReadW h _ _ _).ok e1
    split
    · exact good_homeWrite h1 _ _ _ _
    split
    · rename_i s2 e2
      have h2 : Canonical s2 := (good_homeWrite h1 _ _ _ _).ok e2
      exact good_homeWrite h2 _ _ _ _
    · exact good_homeWrite h1 _ _ _ _

theorem good_popQueue {s : State} (h : Canonical s) (w : Who) (q : Loc) (span : Nat) : (popQueue s w q span).Good Canonical := by
  unfold Sys2Proof.Machine.popQueue; dsimp only
  split
  · exact True.intro
  · exact True.intro
  · rename_i s1 e1
    have h1 : Canonical s1 := (good_homeReadW h _ _ _).ok e1
    split
    · exact h1
    split
    · exact h1
    split
    · exact True.intro
    · exact True.intro
    · rename_i s2 e2
      have h2 : Canonical s2 := (good_homeReadW h1 _ _ _).ok e2
      split
      · exact True.intro
      · exact True.intro
      · rename_i s3 e3
        have h3 : Canonical s3 := (HomeR.Good.ite (good_homeWrite h2 _ _ _ _) (HomeR.Good.of_ok h2)).ok e3
        split
        · rename_i s4 e4
          have h4 : Canonical s4 := (good_homeWrite h3 _ _ _ _).ok e4
          exact h4
        · exact True.intro
        · exact True.intro

theorem Canonical.broadcastTicket {s : State} (h : Canonical s) (n v : Nat) : Canonical (s.broadcastTicket n v) := by
  unfold State.broadcastTicket
  split
  · exact h
  · exact Canonical.foldl (fun _ _ hs => hs.onStrand _ _) _ h

theorem good_appendEntry {s : State} (h : Canonical s) (w : Who) (q : Loc) (cap entry : Nat) : (appendEntry s w q cap entry).Good Canonical := by
  unfold Sys2Proof.Machine.appendEntry; dsimp only
  split
  · exact True.intro
  · exact True.intro
  · rename_i s1 e1
    have h1 : Canonical s1 := (good_homeReadW h _ _ _).ok e1
    split
    · exact h1
    split
    · exact True.intro
    · exact True.intro
    · rename_i s2 e2
      have h2 : Canonical s2 := (good_homeWrite h1 _ _ _ _).ok e2
      split
      · rename_i s3 e3
        have h3 : Canonical s3 := (good_homeWrite h2 _ _ _ _).ok e3
        exact h3
      · exact True.intro
      · exact True.intro

theorem good_appendTrace {s : State} (h : Canonical s) (r : Access) (ents : Nat) : (appendTrace s r ents).Good Canonical := by
  unfold Sys2Proof.Machine.appendTrace; dsimp only
  split
  · exact True.intro
  · exact True.intro
  · rename_i s1 e1
    have h1 : Canonical s1 := (good_homeReadW h _ _ _).ok e1
    split
    · rename_i s2 e2
      have h2 : Canonical s2 := (good_homeWrite h1 _ _ _ _).ok e2
      exact h2.send _
    · exact good_homeWrite h1 _ _ _ _

theorem good_applyAccess {s : State} (h : Canonical s) (r : Access) : (applyAccess s r).Good Canonical := by
  unfold Sys2Proof.Machine.applyAccess; dsimp only
  split
  · exact True.intro
  split
  · split
    · rename_i s1 e1
      have h1 : Canonical s1 := (good_homeRead h _ _ _).ok e1
      exact h1
    · exact True.intro
    · exact True.intro
  · split
    · rename_i s1 e1
      have h1 : Canonical s1 := (good_homeWrite h _ _ _ _).ok e1
      exact h1
    · exact True.intro
    · exact True.intro
  · split
    · exact True.intro
    · exact True.intro
    · rename_i s1 e1
      have h1 : Canonical s1 := (good_homeReadW h _ _ _).ok e1
      split
      · exact h1
      split
      · exact h1
      split
      · rename_i s2 e2
        have h2 : Canonical s2 := (good_homeWrite h1 _ _ _ _).ok e2
        exact h2
      · exact True.intro
      · exact True.intro
  · split
    · exact True.intro
    · exact True.intro
    · rename_i s1 e1
      have h1 : Canonical s1 := (good_homeReadW h _ _ _).ok e1
      split
      · exact h1
      split
      · rename_i s2 e2
        have h2 : Canonical s2 := (good_homeWrite h1 _ _ _ _).ok e2
        exact h2.broadcastTicket _ _
      · exact True.intro
      · exact True.intro
  · split
    · rename_i s1 e1
      have h1 : Canonical s1 := (good_homeWrite h _ _ _ _).ok e1
      exact h1.testWaits _ _ _ _
    · exact True.intro
    · exact True.intro
  · split
    · rename_i s1 e1
      have h1 : Canonical s1 := (good_homeRead h _ _ _).ok e1
      exact h1
    · exact True.intro
    · exact True.intro
  · split
    · rename_i s1 e1
      have h1 : Canonical s1 := (good_appendTrace h _ _).ok e1
      exact h1
    · exact True.intro
    · exact True.intro
  · split
    · rename_i s1 e1
      have h1 : Canonical s1 := (good_pushQueue h _ _ _ _ _ _).ok e1
      exact h1
    · exact True.intro
    · exact True.intro
  · split
    · rename_i s1 e1
      have h1 : Canonical s1 := (good_popQueue h _ _ _).ok e1
      exact h1
    · exact True.intro
    · exact True.intro
  · split
    · rename_i s1 e1
      have h1 : Canonical s1 := (good_appendEntry h _ _ _ _).ok e1
      exact h1
    · exact True.intro
    · exact True.intro

/-! ### MemInstr -/

theorem good_loadInstr {s : State} (h : Canonical s) (size : Nat) (signed : Bool) (d a : BitVec 6) (c : BitVec 2) (o : BitVec 9) :
    OutGood (loadInstr size signed d a c o s) := by
  unfold Sys2Proof.Machine.loadInstr; dsimp only
  refine good_word (fun s hs n x => ?_) h
  split
  · exact hs
  split
  · exact True.intro
  split
  · exact True.intro
  · rename_i s1 _ e1
    have h1 : Canonical s1 := (good_loadAt hs _ _ _ _ _ _).block e1
    exact h1
  · exact hs.retire _ _ _

theorem good_execLdc {s : State} (h : Canonical s) (d a : BitVec 6) (c : BitVec 2) (o : BitVec 9) : OutGood (execLdc d a c o s) := by
  unfold execLdc; dsimp only
  refine good_word (fun s hs n x => ?_) h
  split
  · exact hs
  split
  · exact True.intro
  split
  · exact True.intro
  · rename_i s1 _ e1
    have h1 : Canonical s1 := (good_loadAt hs _ _ _ _ _ _).block e1
    exact h1
  · exact hs.retire _ _ _

theorem good_storeStep {s : State} (h : Canonical s) (n : Nat) (x : Strand) (addr : Nat) (bs : List Byte) (tag : Bool) (cpol : Nat) :
    (storeStep s n x addr bs tag cpol).Good := by
  unfold Sys2Proof.Machine.storeStep
  split
  · exact h
  rename_i s1 e1
  have h1 : Canonical s1 := (good_storeAt (h.setStrand _ _) _ _ _ _ _ _).some e1
  refine good_withStrand h1 _ (fun x => ?_)
  exact h1.retire _ _ _

theorem good_storeInstr {s : State} (h : Canonical s) (size : Nat) (a b : BitVec 6) (c : BitVec 2) (o : BitVec 9) :
    OutGood (storeInstr size a b c o s) := by
  unfold Sys2Proof.Machine.storeInstr; dsimp only
  refine good_word (fun s hs n x => ?_) h
  split
  · exact hs
  split
  · exact True.intro
  · exact good_storeStep hs _ _ _ _ _ _

theorem good_execStc {s : State} (h : Canonical s) (a b : BitVec 6) (c : BitVec 2) (o : BitVec 9) : OutGood (execStc a b c o s) := by
  unfold execStc; dsimp only
  refine good_word (fun s hs n x => ?_) h
  split
  · exact hs
  split
  · exact True.intro
  · exact good_storeStep hs _ _ _ _ _ _

theorem good_execPref {s : State} (h : Canonical s) (a : BitVec 6) (c : BitVec 2) : OutGood (execPref a c s) := by
  unfold execPref; dsimp only
  refine good_word (fun s hs n x => ?_) h
  split
  · exact hs
  · exact Canonical.retire (Canonical.foldl (fun _ _ hs => hs.send _) _ hs) _ _ _

theorem Canonical.writeBackRange {s : State} (h : Canonical s) (n lo len : Nat) : Canonical (s.writeBackRange n lo len) := by
  unfold State.writeBackRange; dsimp only
  split
  · exact h
  · exact Canonical.onStrand (Canonical.foldl (fun _ _ hs => hs.sendBack _ _) _ h) _ _

theorem good_waitAcked {s : State} (h : Canonical s) (n : Nat) {f : Strand → Eff} (hf : ∀ x, (f x).Good) : (waitAcked s n f).Good :=
  good_withStrand h n fun x => Eff.Good.ite (hf x) h

theorem good_execWbr {s : State} (h : Canonical s) (a b : BitVec 6) : OutGood (execWbr a b s) := by
  unfold execWbr; dsimp only
  refine good_word (fun s hs n x => ?_) h
  split
  · exact hs
  split
  · exact good_illegal hs _ _
  split
  · exact hs.retire _ _ _
  split
  · exact True.intro
  refine good_waitAcked (Canonical.ite (hs.setStrand _ _) (((hs.setStrand _ _).writeBackRange _ _ _).onStrand _ _)) _ (fun y => ?_)
  exact Canonical.retire (Canonical.ite (hs.setStrand _ _) (((hs.setStrand _ _).writeBackRange _ _ _).onStrand _ _)) _ _ _

theorem good_execInvr {s : State} (h : Canonical s) (a b : BitVec 6) : OutGood (execInvr a b s) := by
  unfold execInvr; dsimp only
  refine good_word (fun s hs n x => ?_) h
  split
  · exact hs
  split
  · exact good_illegal hs _ _
  split
  · exact hs.retire _ _ _
  split
  · exact True.intro
  · exact hs.retire _ _ _

theorem good_execFence {s : State} (h : Canonical s) (sc : BitVec 2) : OutGood (execFence sc s) := by
  unfold execFence
  refine good_word (fun s hs n x => ?_) h
  split
  · exact hs
  split
  · rename_i s1 _ e1
    have h1 : Canonical s1 := (good_releaseAt _ hs _ _).error e1
    exact h1
  · rename_i s1 e1
    have h1 : Canonical s1 := (good_releaseAt _ hs _ _).ok e1
    refine good_withStrand h1 _ (fun x => ?_)
    exact h1.retire _ _ _

theorem good_ask {s : State} (h : Canonical s) (n : Nat) (x : Strand) (op : AccOp) (l : Loc) (addr size value cmp : Nat) :
    (ask s n x op l addr size value cmp).Good := by
  unfold Sys2Proof.Machine.ask; dsimp only
  split
  · split
    · exact True.intro
    · exact True.intro
    · exact h
  · split
    · exact h
    · split
      · split
        · rename_i s1 e1
          have h1 : Canonical s1 := (good_applyAccess h _).ok e1
          split
          · exact True.intro
          · exact True.intro
          · exact h1
        · exact True.intro
        · exact h
      · exact h.askHome _ _ _ _ _ _ _ _

theorem Canonical.dropLine {s : State} (h : Canonical s) (n : Nat) (l : Loc) : Canonical (Sys2Proof.Machine.dropLine s n l) := by
  unfold Sys2Proof.Machine.dropLine
  split
  · split
    · exact h
    · exact (h.sendBack _ _).onStrand _ _
  · exact h

theorem good_atomicInstr {s : State} (h : Canonical s) (op : Nat) (d a b : BitVec 6) (z : BitVec 1) (sc c : BitVec 2) :
    OutGood (atomicInstr op d a b z sc c s) := by
  unfold Sys2Proof.Machine.atomicInstr; dsimp only
  refine good_word (fun s hs n x => ?_) h
  split
  · exact hs
  split
  · exact True.intro
  split
  · rename_i s1 _ e1
    have h1 : Canonical s1 := by
      refine ExGood.error (E := (fun r => Canonical r.1)) (P := (fun r => Canonical r)) ?_ e1
      split
      · exact hs.setStrand _ _
      split
      · exact hs.setStrand _ _
      split
      · exact good_releaseAt _ (hs.setStrand _ _) _ _
      · exact hs.setStrand _ _
    exact h1
  · rename_i s1 e1
    have h1 : Canonical s1 := by
      refine ExGood.ok (E := (fun r => Canonical r.1)) (P := (fun r => Canonical r)) ?_ e1
      split
      · exact hs.setStrand _ _
      split
      · exact hs.setStrand _ _
      split
      · exact good_releaseAt _ (hs.setStrand _ _) _ _
      · exact hs.setStrand _ _
    refine good_withStrand h1 _ (fun x => ?_)
    split
    · exact True.intro
    · rename_i s2 _ e2
      have h2 : Canonical s2 := (good_ask (Canonical.ite (h1.dropLine _ _) h1) _ _ _ _ _ _ _ _).block e2
      exact h2
    · rename_i s2 e2
      have h2 : Canonical s2 := (good_ask (Canonical.ite (h1.dropLine _ _) h1) _ _ _ _ _ _ _ _).got e2
      refine good_withStrand h2 _ (fun x => ?_)
      exact h2.retire _ _ _

/-! ### Sync -/

theorem Canonical.setLaunch {s : State} (h : Canonical s) (l : Launch) : Canonical (s.setLaunch l) := h

theorem Canonical.post {s : State} (h : Canonical s) (n : Nat) (x : Strand) (op : AccOp) (l : Loc) (size value : Nat) :
    Canonical (s.post n x op l size value) := by
  unfold State.post; dsimp only
  split
  · split
    · rename_i s1 e1
      have h1 : Canonical s1 := (good_applyAccess h _).ok e1
      exact h1
    · exact h
  · exact (h.send _).onStrand _ _

theorem Canonical.postSignal {s : State} (h : Canonical s) (n : Nat) (g : Signal) : Canonical (s.postSignal n g) := by
  unfold State.postSignal
  split
  · split
    · rename_i s1 e1
      have h1 : Canonical s1 := (good_applySignal h _).ok e1
      exact h1
    · exact h
  · exact (h.send _).onStrand _ _

theorem good_execKinit {s : State} (h : Canonical s) (a b : BitVec 6) : OutGood (execKinit a b s) := by
  unfold execKinit; dsimp only
  refine good_word (fun s hs n x => ?_) h
  split
  · exact hs
  split
  · exact True.intro
  split
  · exact hs
  refine good_withStrand ((hs.setStrand _ _).post _ _ _ _ _ _) _ (fun x => ?_)
  exact ((hs.setStrand _ _).post _ _ _ _ _ _).retire _ _ _

theorem Canonical.trace {s : State} (h : Canonical s) (n : Nat) (x : Strand) : Canonical (s.trace n x) := by
  unfold State.trace; dsimp only
  split
  · exact h
  · exact Canonical.ite ((h.post _ _ _ _ _ _).onStrand _ _) (h.post _ _ _ _ _ _)

theorem good_execSig {s : State} (h : Canonical s) (a b : BitVec 6) (t : BitVec 1) (sc : BitVec 2) : OutGood (execSig a b t sc s) := by
  unfold execSig; dsimp only
  refine good_word (fun s hs n x => ?_) h
  split
  · exact hs
  split
  · exact True.intro
  split
  · exact hs
  split
  · rename_i s1 _ e1
    have h1 : Canonical s1 := (good_releaseAt _ (hs.setStrand _ _) _ _).error e1
    exact h1
  · rename_i s1 e1
    have h1 : Canonical s1 := (good_releaseAt _ (hs.setStrand _ _) _ _).ok e1
    refine good_withStrand h1 _ (fun x => ?_)
    refine good_withStrand (h1.retire _ _ _) _ (fun x => ?_)
    exact Canonical.postSignal (Canonical.ite ((h1.retire _ _ _).trace _ _) (h1.retire _ _ _)) _ _

theorem good_execWait {s : State} (h : Canonical s) (d a b : BitVec 6) (sc : BitVec 2) : OutGood (execWait d a b sc s) := by
  unfold execWait; dsimp only
  refine good_word (fun s hs n x => ?_) h
  split
  · exact hs.retire _ _ _
  split
  · exact hs
  split
  · exact True.intro
  split
  · exact True.intro
  split
  · exact hs
  split
  · exact hs.setStrand _ _
  show Canonical _
  split
  · split
    · rename_i s1 e1
      have h1 : Canonical s1 := (good_applyWait (hs.setStrand _ _) _).ok e1
      exact h1
    · exact hs.setStrand _ _
  · exact (hs.setStrand _ _).send _

theorem good_execKpeek {s : State} (h : Canonical s) (d a : BitVec 6) : OutGood (execKpeek d a s) := by
  unfold execKpeek; dsimp only
  refine good_word (fun s hs n x => ?_) h
  split
  · exact hs
  split
  · exact True.intro
  split
  · exact True.intro
  · rename_i s1 _ e1
    have h1 : Canonical s1 := (good_ask (hs.setStrand _ _) _ _ _ _ _ _ _ _).block e1
    exact h1
  · rename_i s1 e1
    have h1 : Canonical s1 := (good_ask (hs.setStrand _ _) _ _ _ _ _ _ _ _).got e1
    refine good_withStrand h1 _ (fun x => ?_)
    exact h1.retire _ _ _

theorem good_execKjoin {s : State} (h : Canonical s) (a : BitVec 6) : OutGood (execKjoin a s) := by
  unfold execKjoin; dsimp only
  refine good_word (fun s hs n x => ?_) h
  split
  · exact hs.retire _ _ _
  split
  · exact hs
  split
  · exact True.intro
  split
  · exact True.intro
  split
  · exact hs
  show Canonical _
  split
  · split
    · rename_i s1 e1
      have h1 : Canonical s1 := (good_applyWait (hs.setStrand _ _) _).ok e1
      exact h1
    · exact hs.setStrand _ _
  · exact (hs.setStrand _ _).send _

theorem good_applyMonitor {s : State} (h : Canonical s) (q : WaitReq) : (applyMonitor s q).Good Canonical := by
  unfold Sys2Proof.Machine.applyMonitor
  split
  · exact True.intro
  · exact True.intro
  · rename_i s1 e1
    have h1 : Canonical s1 := (good_homeRead h _ _ _).ok e1
    split
    · exact h1.send _
    · exact h1

theorem good_execWaitm {s : State} (h : Canonical s) (d a b : BitVec 6) : OutGood (execWaitm d a b s) := by
  unfold execWaitm; dsimp only
  refine good_word (fun s hs n x => ?_) h
  split
  · exact hs.retire _ _ _
  split
  · exact hs
  split
  · exact True.intro
  split
  · exact hs.retire _ _ _
  split
  · exact True.intro
  split
  · exact hs
  show Canonical _
  split
  · split
    · rename_i s1 e1
      have h1 : Canonical s1 := (good_applyMonitor (hs.setStrand _ _) _).ok e1
      exact h1
    · exact hs.setStrand _ _
  · exact (hs.setStrand _ _).send _

theorem good_execChadd {s : State} (h : Canonical s) (a : BitVec 6) : OutGood (execChadd a s) := by
  unfold execChadd
  refine good_word (fun s hs n x => ?_) h
  exact good_compute hs _ _ _ _ _ _ _

theorem good_execTicket {s : State} (h : Canonical s) (d a : BitVec 6) : OutGood (execTicket d a s) := by
  unfold execTicket; dsimp only
  refine good_word (fun s hs n x => ?_) h
  split
  · exact hs
  split
  · exact True.intro
  split
  · exact True.intro
  · rename_i s1 _ e1
    have h1 : Canonical s1 := (good_ask (Canonical.ite ((hs.setStrand _ _).dropLine _ _) (hs.setStrand _ _)) _ _ _ _ _ _ _ _).block e1
    exact h1
  · rename_i s1 e1
    have h1 : Canonical s1 := (good_ask (Canonical.ite ((hs.setStrand _ _).dropLine _ _) (hs.setStrand _ _)) _ _ _ _ _ _ _ _).got e1
    refine good_withStrand h1 _ (fun x => ?_)
    exact h1.retire _ _ _

theorem good_readDescriptor {s : State} (h : Canonical s) (n : Nat) (x : Strand) (b : BitVec 6) {f : State → Strand → Eff}
    (hf : ∀ s, Canonical s → ∀ x, (f s x).Good) : (readDescriptor s n x b f).Good := by
  unfold readDescriptor
  split
  · split
    · exact True.intro
    · rename_i e1
      exact (good_loadAt h _ _ _ _ _ _).block e1
    · exact hf _ (h.setStrand _ _) _
  · exact hf _ h _

theorem good_execQpush {s : State} (h : Canonical s) (a b : BitVec 6) : OutGood (execQpush a b s) := by
  unfold execQpush; dsimp only
  refine good_word (fun s hs n x => ?_) h
  split
  · exact hs
  split
  · exact True.intro
  refine good_readDescriptor (hs.setStrand _ _) _ _ _ (fun s hs y => ?_)
  refine good_waitAcked (Canonical.ite hs (Canonical.onStrand (Canonical.foldl (fun _ _ hs => Canonical.ite hs
    (hs.writeBackRange _ _ _)) _ hs) _ _)) _ (fun y => ?_)
  refine good_withStrand ((Canonical.setStrand (Canonical.ite hs (Canonical.onStrand (Canonical.foldl (fun _ _ hs => Canonical.ite hs
    (hs.writeBackRange _ _ _)) _ hs) _ _)) _ _).post _ _ _ _ _ _) _ (fun x => ?_)
  exact ((Canonical.setStrand (Canonical.ite hs (Canonical.onStrand (Canonical.foldl (fun _ _ hs => Canonical.ite hs
    (hs.writeBackRange _ _ _)) _ hs) _ _)) _ _).post _ _ _ _ _ _).retire _ _ _

theorem good_execQpop {s : State} (h : Canonical s) (d a b : BitVec 6) : OutGood (execQpop d a b s) := by
  unfold execQpop; dsimp only
  refine good_word (fun s hs n x => ?_) h
  split
  · exact hs
  split
  · exact True.intro
  refine good_readDescriptor (hs.setStrand _ _) _ _ _ (fun s hs y => ?_)
  split
  · exact hs
  split
  · exact True.intro
  · rename_i s1 _ e1
    have h1 : Canonical s1 := (good_ask hs _ _ _ _ _ _ _ _).block e1
    exact h1
  · rename_i s1 e1
    have h1 : Canonical s1 := (good_ask hs _ _ _ _ _ _ _ _).got e1
    refine good_withStrand h1 _ (fun x => ?_)
    exact h1.retire _ _ _

theorem good_execLaunch {s : State} (h : Canonical s) (a b : BitVec 6) : OutGood (execLaunch a b s) := by
  unfold execLaunch; dsimp only
  refine good_word (fun s hs n x => ?_) h
  split
  · exact hs
  split
  · exact good_illegal hs _ _
  split
  · exact True.intro
  split
  · exact True.intro
  split
  · exact True.intro
  · rename_i s1 _ e1
    have h1 : Canonical s1 := (good_ask (hs.setStrand _ _) _ _ _ _ _ _ _ _).block e1
    exact h1
  · rename_i s1 e1
    have h1 : Canonical s1 := (good_ask (hs.setStrand _ _) _ _ _ _ _ _ _ _).got e1
    refine good_withStrand h1 _ (fun x => ?_)
    split
    · exact h1.retire _ _ _
    · exact h1.setStrand _ _

/-! ### Landing -/

theorem Canonical.idleFrom {s : State} (h : Canonical s) (ns : List Nat) : Canonical (s.idleFrom ns) := by
  unfold State.idleFrom; dsimp only
  exact Canonical.foldl (fun _ _ hs => hs.setCore _ _) _ h

theorem Canonical.onSaved {s : State} (h : Canonical s) (p v c : Nat) (f : Saved → Saved) : Canonical (s.onSaved p v c f) := by
  unfold State.onSaved
  split
  · exact h
  · exact h.onPart _ _

theorem Canonical.setSpool {s : State} (h : Canonical s) (k : SpoolId) (sp : Spool) : Canonical (s.setSpool k sp) := by
  unfold State.setSpool; dsimp only
  split
  · split
    · exact h.onStrand _ _
    · split
      · exact ((h.onSaved _ _ _ _).imageWrite _ _ _ _ _).reseal _ _ _
      · exact h.onSaved _ _ _ _
    · exact h
  · exact h

theorem Canonical.setSlotRec {s : State} (h : Canonical s) (k : SpoolId) (sp : Spool) (j : Nat) (r : SlotRec) :
    Canonical (s.setSlotRec k sp j r) := by
  unfold State.setSlotRec
  split
  · rename_i s1 e1
    have h1 : Canonical s1 := (good_homeWrite h _ _ _ _).ok e1
    exact h1
  · exact h

theorem Canonical.freeSlots (k : SpoolId) (chain : Nat) (origin : W32) (n : Nat) :
    ∀ {s : State}, Canonical s → Canonical (Sys2Proof.Machine.freeSlots k chain origin n s) := by
  induction n with
  | zero => exact fun h => h
  | succ n ih =>
    intro s h
    unfold Sys2Proof.Machine.freeSlots
    split
    · exact h
    split
    · exact h
    · exact ih ((h.setSlotRec _ _ _ _).setSpool _ _)

theorem Canonical.drainDiscards (k : SpoolId) (n : Nat) :
    ∀ {s : State}, Canonical s → Canonical (Sys2Proof.Machine.drainDiscards k n s) := by
  induction n with
  | zero => exact fun h => h
  | succ n ih =>
    intro s h
    unfold Sys2Proof.Machine.drainDiscards
    split
    · split
      · exact h
      · exact ih (Canonical.freeSlots k _ _ 1 h)
    · exact h

theorem Canonical.setLanding {s : State} (h : Canonical s) (i : Nat) (l : Landing) : Canonical (s.setLanding i l) := by
  unfold State.setLanding; split <;> exact h

theorem Canonical.failCopies {s : State} (h : Canonical s) (p : CopyCmd → Bool) : Canonical (s.failCopies p) := h

theorem Canonical.countSlot {s : State} (h : Canonical s) (i : Nat) (l : Landing) : Canonical (s.countSlot i l) := by
  unfold State.countSlot; dsimp only
  split
  · exact h
  refine Canonical.drainDiscards _ _ (Canonical.setLanding (Canonical.setSpool (Canonical.setSlotRec ?_ _ _ _ _) _ _) _ _)
  split
  · exact Canonical.ite (h.failCopies _) h
  split
  · rename_i s1 e1
    have h1 : Canonical s1 := (good_homeWriteBad (Canonical.ite (h.failCopies _) h) _ _ _ _).ok e1
    exact h1
  · exact Canonical.ite (h.failCopies _) h

theorem Canonical.countOwn (k : SpoolId) (n : Nat) : ∀ {s : State}, Canonical s → Canonical (Sys2Proof.Machine.countOwn k n s) := by
  induction n with
  | zero => exact fun h => h
  | succ n ih =>
    intro s h
    unfold Sys2Proof.Machine.countOwn
    split
    · exact h
    split
    · exact h
    · exact Canonical.ite (ih (h.countSlot _ _)) h

theorem Canonical.failReserved {s : State} (h : Canonical s) (id : Nat) (ks : List SpoolId) (f : Nat → Nat × Bool) :
    Canonical (s.failReserved id ks f) := by
  unfold State.failReserved; dsimp only
  refine Canonical.foldl (fun _ _ hs => Canonical.countOwn _ _ hs) _ ?_
  exact h

theorem Canonical.grant {s : State} (h : Canonical s) (i : Nat) (l : Landing) : Canonical (s.grant i l) := by
  unfold State.grant; dsimp only
  split
  · exact h
  · exact h.setSpool _ _

/-! ### Spool -/

theorem Canonical.failLandings {s : State} (h : Canonical s) (k : SpoolId) : Canonical (s.failLandings k) := h

theorem good_execSpdef {s : State} (h : Canonical s) (y1 a : BitVec 6) : OutGood (execSpdef y1 a s) := by
  unfold execSpdef; dsimp only
  refine good_word (fun s hs n x => ?_) h
  split
  · exact hs
  split
  · exact good_illegal hs _ _
  split
  · exact hs.setStrand _ _
  split
  · exact True.intro
  refine good_withStrand (Canonical.setSpool ?_ _ _) _ (fun x => ?_)
  · split
    · rename_i s1 e1
      have h1 : Canonical s1 := (good_homeWrite ((hs.setStrand _ _).failLandings _) _ _ _ _).ok e1
      exact h1
    · exact (hs.setStrand _ _).failLandings _
  · refine Canonical.retire (Canonical.setSpool ?_ _ _) _ _ _
    split
    · rename_i s1 e1
      have h1 : Canonical s1 := (good_homeWrite ((hs.setStrand _ _).failLandings _) _ _ _ _).ok e1
      exact h1
    · exact (hs.setStrand _ _).failLandings _

theorem good_execSpadvp {s : State} (h : Canonical s) (y1 a : BitVec 6) : OutGood (execSpadvp y1 a s) := by
  unfold execSpadvp; dsimp only
  refine good_word (fun s hs n x => ?_) h
  split
  · exact hs
  split
  · exact good_illegal hs _ _
  split
  · exact True.intro
  split
  · rename_i s1 _ e1
    have h1 : Canonical s1 := (good_releaseAt _ (hs.setStrand _ _) _ _).error e1
    exact h1
  · rename_i s1 e1
    have h1 : Canonical s1 := (good_releaseAt _ (hs.setStrand _ _) _ _).ok e1
    split
    · show Canonical _
      split <;> exact h1
    · split
      · show Canonical _
        split <;> exact h1
      · split
        · split
          · refine good_withStrand h1 _ (fun x => ?_)
            refine good_withStrand (Canonical.countOwn _ _ ((h1.setStrand _ _).grant _ _)) _ (fun x => ?_)
            exact (Canonical.countOwn _ _ ((h1.setStrand _ _).grant _ _)).retire _ _ _
          · exact h1
        · split
          · refine good_withStrand ?_ _ (fun x => ?_)
            · exact h1
            · refine good_withStrand (Canonical.countOwn _ _ (Canonical.grant (Canonical.setStrand ?_ _ _) _ _)) _ (fun x => ?_)
              · exact h1
              · refine Canonical.retire (Canonical.countOwn _ _ (Canonical.grant (Canonical.setStrand ?_ _ _) _ _)) _ _ _
                exact h1
          · exact h1

theorem good_execSpadvc {s : State} (h : Canonical s) (y1 a : BitVec 6) : OutGood (execSpadvc y1 a s) := by
  unfold execSpadvc; dsimp only
  refine good_word (fun s hs n x => ?_) h
  split
  · exact hs
  split
  · exact good_illegal hs _ _
  split
  · exact good_illegal hs _ _
  split
  · exact True.intro
  split
  · rename_i s1 _ e1
    have h1 : Canonical s1 := (good_releaseAt _ (hs.setStrand _ _) _ _).error e1
    exact h1
  · rename_i s1 e1
    have h1 : Canonical s1 := (good_releaseAt _ (hs.setStrand _ _) _ _).ok e1
    refine good_withStrand h1 _ (fun x => ?_)
    refine good_withStrand (Canonical.freeSlots _ _ _ _ (h1.setStrand _ _)) _ (fun x => ?_)
    exact (Canonical.freeSlots _ _ _ _ (h1.setStrand _ _)).retire _ _ _

theorem good_execSpwaitp {s : State} (h : Canonical s) (y1 a : BitVec 6) : OutGood (execSpwaitp y1 a s) := by
  unfold execSpwaitp; dsimp only
  refine good_word (fun s hs n x => ?_) h
  split
  · exact hs
  split
  · exact good_illegal hs _ _
  split
  · exact True.intro
  split
  · exact hs.setStrand _ _
  split
  · exact hs.setStrand _ _
  · exact hs.retire _ _ _

theorem good_execSpwaitc {s : State} (h : Canonical s) (y1 a : BitVec 6) : OutGood (execSpwaitc y1 a s) := by
  unfold execSpwaitc; dsimp only
  refine good_word (fun s hs n x => ?_) h
  split
  · exact hs
  split
  · exact good_illegal hs _ _
  split
  · exact True.intro
  split
  · exact hs.setStrand _ _
  split
  · exact hs.setStrand _ _
  · exact hs.retire _ _ _

theorem good_execSbind {s : State} (h : Canonical s) (t y2 ty : BitVec 6) : OutGood (execSbind t y2 ty s) := by
  unfold execSbind
  refine good_word (fun s hs n x => ?_) h
  split
  · exact good_illegal hs _ _
  split
  · exact good_illegal hs _ _
  · exact hs.retire _ _ _

theorem good_execSunbind {s : State} (h : Canonical s) (t : BitVec 6) : OutGood (execSunbind t s) := by
  unfold execSunbind
  refine good_word (fun s hs n x => ?_) h
  exact hs.retire _ _ _

theorem Canonical.advanceStream {s : State} (h : Canonical s) (n i : Nat) (t : Stream) (sp : Spool) (len : Nat) :
    Canonical (Sys2Proof.Machine.advanceStream s n i t sp len) := by
  unfold Sys2Proof.Machine.advanceStream
  split
  · exact h
  · exact Canonical.ite (h.setStrand _ _) (Canonical.freeSlots _ _ _ _ (h.setStrand _ _))

theorem good_execSrd {s : State} (h : Canonical s) (d t : BitVec 6) : OutGood (execSrd d t s) := by
  unfold execSrd; dsimp only
  refine good_word (fun s hs n x => ?_) h
  split
  · exact hs
  split
  · exact good_illegal hs _ _
  split
  · exact hs
  split
  · exact True.intro
  · exact hs
  · refine good_withStrand ((hs.setStrand _ _).advanceStream _ _ _ _ _) _ (fun x => ?_)
    exact ((hs.setStrand _ _).advanceStream _ _ _ _ _).retire _ _ _

/-! ### Barrier -/

theorem Canonical.setBar {s : State} (h : Canonical s) (n : Nat) (x : Strand) (b : BarId) (r : Bar) : Canonical (s.setBar n x b r) := by
  unfold State.setBar; dsimp only
  split
  · split
    · exact h.setCluster _ _
    · exact h
  · exact h.onPart _ _

theorem Canonical.complete {s : State} (h : Canonical s) (n : Nat) (x : Strand) (b : BarId) (r : Bar) : Canonical (s.complete n x b r) := by
  unfold State.complete; dsimp only
  refine Canonical.setBar ?_ _ _ _ _
  exact h

theorem Canonical.arrive {s : State} (h : Canonical s) (n : Nat) (x : Strand) (b : BarId) (xf : Bool) (r : Bar) :
    Canonical (s.arrive n x b xf r) := by
  unfold State.arrive; dsimp only
  exact Canonical.ite (((h.setStrand _ _).setBar _ _ _ _).complete _ _ _ _) ((h.setStrand _ _).setBar _ _ _ _)

theorem good_arriveStep {s : State} (h : Canonical s) (n : Nat) (x : Strand) (b : BarId) (xf : Bool) {f : State → Strand → Eff}
    (hf : ∀ s, Canonical s → ∀ y, (f s y).Good) : (arriveStep s n x b xf f).Good := by
  unfold arriveStep
  split
  · exact True.intro
  split
  · exact h
  split
  · exact h
  split
  · rename_i e1
    exact (good_releaseAt _ h _ _).error e1
  · rename_i s1 e1
    have h1 : Canonical s1 := (good_releaseAt _ h _ _).ok e1
    refine good_withStrand h1 _ fun y => ?_
    split
    · exact True.intro
    have h2 := h1.arrive n (y.issued (s1.divOf n)) b xf
    exact Eff.Good.ite h1 (good_withStrand (h2 _) _ fun z => hf _ (h2 _) z)

theorem good_awaitStep {s : State} (h : Canonical s) (n : Nat) (x : Strand) (b : BarId) : (awaitStep s n x b).Good := by
  unfold Sys2Proof.Machine.awaitStep; dsimp only
  split
  · exact good_illegal h _ _
  split
  · exact h.retire _ _ _
  · exact h.setStrand _ _

theorem good_baraInstr {s : State} (h : Canonical s) (n : BitVec 6) (t : BitVec 1) (xf : Bool) : OutGood (baraInstr n t xf s) := by
  unfold Sys2Proof.Machine.baraInstr
  refine good_word (fun s hs n x => ?_) h
  refine good_arriveStep hs _ _ _ _ (fun s hs y => ?_)
  exact hs.retire _ _ _

theorem good_barInstr {s : State} (h : Canonical s) (n : BitVec 6) (t : BitVec 1) (xf : Bool) : OutGood (barInstr n t xf s) := by
  unfold Sys2Proof.Machine.barInstr; dsimp only
  refine good_word (fun s hs n x => ?_) h
  split
  · refine good_arriveStep hs _ _ _ _ (fun s hs y => ?_)
    exact good_awaitStep (hs.setStrand _ _) _ _ _
  · exact good_awaitStep hs _ _ _

theorem good_execBarw {s : State} (h : Canonical s) (n : BitVec 6) (t : BitVec 1) : OutGood (execBarw n t s) := by
  unfold execBarw
  refine good_word (fun s hs n x => ?_) h
  split
  · exact hs
  · exact good_awaitStep hs _ _ _

/-! ### Float -/

theorem Canonical.deliver {s : State} (h : Canonical s) (r : Release) : Canonical (s.deliver r) := by
  unfold State.deliver; dsimp only
  split
  · exact Canonical.ite (Canonical.ite (h.setStrand _ _) (h.retire _ _ _)) (h.setStrand _ _)
  · exact h

/-! ### Barrier -/

theorem good_execBarrierRelease {s : State} (h : Canonical s) : OutGood (execBarrierRelease s) := by
  unfold execBarrierRelease
  split
  · exact True.intro
  split
  · refine Canonical.deliver ?_ _
    exact h
  · exact True.intro

theorem Canonical.loadDomain {s : State} (h : Canonical s) (p d : Nat) (r : Domain) : Canonical (s.loadDomain p d r) := by
  unfold State.loadDomain; dsimp only
  exact (h.onPart _ _).strands (Tbl.wf_map (fun e => by split <;> rfl) ((h.onPart _ _).strands_wf))

theorem good_execDomload {s : State} (h : Canonical s) : OutGood (execDomload s) := by
  unfold execDomload; dsimp only
  refine good_onLink h ?_
  split
  · exact True.intro
  split
  · exact h.onPart _ _
  split
  · rename_i s1 e1
    have h1 : Canonical s1 := (good_homeRead h _ _ _).ok e1
    split
    · exact h1.onPart _ _
    split
    · exact h1.onPart _ _
    · exact (h1.loadDomain _ _ _).onPart _ _
  · exact h.onPart _ _

/-! ### Vector -/

theorem good_fillCore {s : State} (h : Canonical s) (f : Fill) : (fillCore s f).Good Canonical := by
  unfold Sys2Proof.Machine.fillCore; dsimp only
  split
  · exact h
  split
  · exact True.intro
  · exact True.intro
  · rename_i s1 e1
    have h1 : Canonical s1 := (good_llcRead h _ _ _).ok e1
    split
    · split
      · split
        · exact (h1.setStrand _ _).cachePut _ _
        · exact h1
      · split
        · exact (h1.setStrand _ _).cachePut _ _
        · exact h1
    · exact h1

theorem good_globNow (n part vd cpol : Nat) (rs : List (Nat × Nat × Nat)) :
    ∀ {s : State}, Canonical s → (globNow n part vd cpol rs s).Good Canonical := by
  induction rs with
  | nil => exact fun h => h
  | cons r rs ih =>
    intro s h
    unfold globNow; dsimp only
    split
    · exact True.intro
    · exact True.intro
    · rename_i e1
      have h1 := HomeR.Good.ok (P := Canonical) (HomeR.Good.ite (HomeR.Good.of_ok h) (by
        split
        · rename_i e2
          exact (good_fillCore h _).ok e2
        · exact good_fillCore h _)) e1
      split
      · rename_i e2
        exact (ih h1).ok e2
      · exact ih h1

theorem good_vLoad {s : State} (h : Canonical s) (n : Nat) (x : Strand) (a size cpol : Nat) : (vLoad s n x a size cpol).Good := by
  unfold Sys2Proof.Machine.vLoad; dsimp only
  split
  · exact True.intro
  · exact h
  · rename_i s1 e1
    have h1 : Canonical s1 := by
      refine HomeR.Good.ok (P := Canonical) ?_ e1
      split
      · exact good_globNow _ _ _ _ _ h
      · exact good_homeRead h _ _ _
    split
    · exact True.intro
    split
    · exact True.intro
    · exact h1

theorem good_loadLanes (n : Nat) (x : Strand) (cpol : Nat) (own : Nat → Nat) (as : List (Nat × Nat)) :
    ∀ {s : State}, Canonical s → ExGood (fun _ => True) (fun r => Canonical r.2) (loadLanes n x cpol own as s) := by
  induction as with
  | nil => exact fun h => h
  | cons a as ih =>
    intro s h
    unfold loadLanes
    split
    · exact True.intro
    rename_i e1
    have h1 := ih ((good_vLoad h _ _ _ _ _).ok e1)
    split
    · rename_i e2
      have h2 := h1.ok e2
      exact h2
    · exact True.intro

theorem Canonical.vStore {s : State} (h : Canonical s) (n : Nat) (x : Strand) (a : Nat) (bs : List Byte) (cpol : Nat) :
    Canonical (Sys2Proof.Machine.vStore s n x a bs cpol) := OptGood.getD (good_storeAt h _ _ _ _ _ _) h

theorem Canonical.siftLane {s : State} (h : Canonical s) (n i o : Nat) (c : Pair) : Canonical (Sys2Proof.Machine.siftLane s n i o c).1 := by
  unfold Sys2Proof.Machine.siftLane; dsimp only
  exact (h.touch _ _).scratchPut _ _ _ _

theorem good_enterVec {s : State} (h : Canonical s) (i : Instr) (g d : BitVec 6) : OutGood (enterVec i g d s) := by
  unfold Sys2Proof.Machine.enterVec; dsimp only
  refine good_word (fun s hs n x => ?_) h
  split
  · exact good_illegal hs _ _
  split
  · exact hs
  · exact hs.retire _ _ _

theorem good_enterStore {s : State} (h : Canonical s) (i : Instr) (g : BitVec 6) (check : State → Nat → Strand → Option Trap)
    (rs : List (BitVec 7)) (ps : List (BitVec 3)) :
    OutGood (enterStore i g check rs ps s) := by
  unfold Sys2Proof.Machine.enterStore; dsimp only
  refine good_word (fun s hs n x => ?_) h
  split
  · exact good_illegal hs _ _
  split
  · exact hs
  split
  · exact hs
  split
  · exact True.intro
  · exact hs.retire _ _ _

theorem good_enterBlocking {s : State} (h : Canonical s) (i : Instr) (g : BitVec 6) (k : WaitKind)
    (check : State → Nat → Strand → Option Trap) (rs : List (BitVec 7)) (ps : List (BitVec 3)) :
    OutGood (enterBlocking i g k check rs ps s) := by
  unfold Sys2Proof.Machine.enterBlocking; dsimp only
  refine good_word (fun s hs n x => ?_) h
  split
  · exact hs.retire _ _ _
  split
  · exact hs
  split
  · exact good_illegal hs _ _
  split
  · exact hs
  split
  · exact hs
  split
  · exact True.intro
  · exact hs.setStrand _ _

theorem good_loadDone {s : State} (h : Canonical s) (n : Nat) (d : BitVec 7) (w : W512) : (loadDone s n d w).Good := h.onStrand _ _

theorem good_vecRun {s : State} (h : Canonical s) (n : Nat) (x : Strand) (q : VqEntry) : (vecRun s n x q).Good := by
  have stores : ∀ (e : Strand) (cpol : Nat) (bs : Nat × Nat → List Byte) (ps : List (Nat × Nat)),
      Canonical (ps.foldl (fun (z : State) p => vStore z n e p.2 (bs p) cpol) s) :=
    fun _ _ _ _ => Canonical.foldl (fun _ _ hs => hs.vStore _ _ _ _ _) _ h
  unfold vecRun
  split
  · dsimp only
    split
    · split
      · exact True.intro
      · rename_i e1
        exact good_loadDone ((good_loadLanes _ _ _ _ _ h).ok e1) _ _ _
    · split
      · exact True.intro
      · rename_i e1
        exact good_loadDone ((good_vLoad h _ _ _ _ _).ok e1) _ _ _
  · dsimp only
    split
    · exact stores _ _ _ _
    · exact h.vStore _ _ _ _ _
  · dsimp only
    split
    · exact True.intro
    rename_i e1
    exact good_loadDone ((good_loadLanes _ _ _ _ _ h).ok e1) _ _ _
  · exact stores _ _ _ _
  · dsimp only
    split
    · exact True.intro
    rename_i e1
    exact good_loadDone ((good_loadLanes _ _ _ _ _ h).ok e1) _ _ _
  · exact stores _ _ _ _
  · dsimp only
    split
    · exact True.intro
    split
    · exact True.intro
    split
    · exact True.intro
    split
    · exact True.intro
    · exact h
    · exact (h.setStrand _ _).advanceStream _ _ _ _ _
  · dsimp only
    split
    · exact True.intro
    refine Canonical.onStrand (Canonical.foldlFst (z := (_, _)) (fun _ _ hs => ?_) _ h) _ _
    exact hs.siftLane _ _ _ _
  · exact h.setStrand _ _

theorem Canonical.ripen {s : State} (h : Canonical s) (n : Nat) (i : Instr) : Canonical (s.ripen n i) := by
  unfold State.ripen; dsimp only
  exact h.onStrand _ _

theorem Canonical.bindHead {s : State} (h : Canonical s) (n : Nat) : Canonical (Sys2Proof.Machine.bindHead s n) := by
  unfold Sys2Proof.Machine.bindHead; dsimp only
  split
  · exact h
  split
  · exact h
  split
  · rename_i s1 e1
    have h1 : Canonical s1 := (good_vecRun (h.setStrand _ _) _ _ _).done e1
    exact Canonical.ite (h1.ripen _ _) h1
  · split
    · exact Canonical.foldl (fun _ _ hs => hs.dropLocks _ _) _ ((h.setStrand _ _).setStrand _ _)
    · exact (h.setStrand _ _).trapAt _ _ _

/-! ### Engine -/

theorem Canonical.addLocks {s : State} (h : Canonical s) (n : Nat) (ls : List Lock) : Canonical (s.addLocks n ls) := by
  unfold State.addLocks; dsimp only
  exact h.setCluster _ _

theorem Canonical.place {s : State} (h : Canonical s) (n : Nat) (x : Strand) (p : EnqPlan) (w : W256) (bob : Option (Nat × Nat)) :
    Canonical (s.place n x p w bob) := by
  unfold State.place; dsimp only
  refine Canonical.addLocks (Canonical.setStrand ?_ _ _) _ _
  exact h

theorem good_enqInstr {s : State} (h : Canonical s) (qu : CmdQueue) (d a b : BitVec 6) : OutGood (enqInstr qu d a b s) := by
  unfold Sys2Proof.Machine.enqInstr; dsimp only
  refine good_word (fun s hs n x => ?_) h
  split
  · exact hs.retire _ _ _
  split
  · exact hs
  split
  · exact hs
  split
  · exact good_illegal hs _ _
  split
  · exact True.intro
  split
  · split
    · exact hs.setStrand _ _
    · refine good_withStrand (hs.place _ _ _ _ _) _ (fun x => ?_)
      split
      · exact (hs.place _ _ _ _ _).setStrand _ _
      · exact (hs.place _ _ _ _ _).retire _ _ _
  · split
    · exact hs.setStrand _ _
    · refine good_withStrand (hs.place _ _ _ _ _) _ (fun x => ?_)
      split
      · exact (hs.place _ _ _ _ _).setStrand _ _
      · exact (hs.place _ _ _ _ _).retire _ _ _

theorem good_planStep {s : State} (h : Canonical s) (off : Nat) (need : Item → Option Trap) (n : Nat) (x : Strand) :
    (planStep off need s n x).Good := by
  unfold Sys2Proof.Machine.planStep; dsimp only
  split
  · exact good_illegal h _ _
  split
  · exact h
  split
  · exact h
  split
  · exact good_illegal h _ _
  · exact good_illegal h _ _
  · split
    · exact True.intro
    · split
      · exact True.intro
      · split
        · exact True.intro
        · split
          · exact h.setStrand _ _
          · exact (((h.setStrand _ _).dropLocks _ _).addLocks _ _).retire _ _ _

theorem good_execEnqX {s : State} (h : Canonical s) (d a b : BitVec 6) : OutGood (execEnqX d a b s) := by
  unfold execEnqX; dsimp only
  refine good_word (fun s hs n x => ?_) h
  split
  · exact hs
  split
  · exact good_illegal hs _ _
  split
  · exact True.intro
  · exact good_planStep hs _ _ _ _

theorem good_execXcPlan {s : State} (h : Canonical s) (c : PlanBody) : OutGood (execXcPlan c s) := by
  unfold execXcPlan
  refine good_word (fun s hs n x => ?_) h
  exact good_planStep hs _ _ _ _

theorem Canonical.grantClaims (c n : Nat) : ∀ {s : State}, Canonical s → Canonical (Sys2Proof.Machine.serve c n s) := by
  induction n with
  | zero => exact fun h => h
  | succ n ih =>
    intro s h
    unfold Sys2Proof.Machine.serve
    split
    · exact h
    · exact Canonical.ite h (ih ((h.setCell _ _).onStrand _ _))

/-! ### Granule -/

theorem Canonical.serve {s : State} (h : Canonical s) (c : Nat) : Canonical (s.serve c) := Canonical.grantClaims _ _ h

theorem good_execVclaim {s : State} (h : Canonical s) (n : BitVec 6) : OutGood (execVclaim n s) := by
  unfold execVclaim; dsimp only
  refine good_word (fun s hs n x => ?_) h
  split
  · exact hs.retire _ _ _
  split
  · exact good_illegal hs _ _
  split
  · exact hs
  refine good_withStrand (((hs.setStrand _ _).setCell _ _).serve _) _ (fun x => ?_)
  split
  · exact (((hs.setStrand _ _).setCell _ _).serve _).retire _ _ _
  · exact ((hs.setStrand _ _).setCell _ _).serve _

theorem good_execVgive {s : State} (h : Canonical s) (n : BitVec 6) : OutGood (execVgive n s) := by
  unfold execVgive; dsimp only
  refine good_word (fun s hs n x => ?_) h
  split
  · exact good_illegal hs _ _
  split
  · exact hs
  · exact (hs.retire _ _ _).serve _

theorem Canonical.tack {s : State} (h : Canonical s) (cs : List Nat) : Canonical (s.tack cs) := by
  unfold State.tack; dsimp only
  split
  · exact h
  split
  · exact Canonical.gangSync (Canonical.foldl (fun _ _ hs => hs.onStrand _ _) _ (h.settleAll _)) _ _
  refine Canonical.foldl (fun _ _ hs => ?_) _ (h.settleAll _)
  split
  · exact hs.trapOn _ _ _
  · exact hs

theorem good_execTack {s : State} (h : Canonical s) (a : BitVec 6) : OutGood (execTack a s) := by
  unfold execTack; dsimp only
  refine good_word (fun s hs n x => ?_) h
  split
  · exact good_illegal hs _ _
  split
  · exact hs
  split
  · exact good_illegal hs _ _
  split
  · exact hs.setStrand _ _
  split
  · exact (hs.setStrand _ _).tack _
  · exact hs.setStrand _ _

theorem Canonical.copyCode {s : State} (h : Canonical s) (x : Strand) (lead c n : Nat) : Canonical (s.copyCode x lead c n) := by
  unfold State.copyCode; dsimp only
  split
  · rename_i s1 e1
    have h1 : Canonical s1 := (good_homeReadBad h _ _ _).ok e1
    split
    · rename_i s2 e2
      have h2 : Canonical s2 := (good_homeWriteBad h1 _ _ _ _).ok e2
      exact h2
    · exact h1
  · exact h

theorem good_execUntack {s : State} (h : Canonical s) : OutGood (execUntack s) := by
  unfold execUntack; dsimp only
  refine good_word (fun s hs n x => ?_) h
  split
  · exact good_illegal hs _ _
  split
  · exact hs
  refine good_withStrand (Canonical.ite (hs.copyCode _ _ _ _) hs) _ (fun x => ?_)
  show Canonical _
  split <;> exact Canonical.setStrand (Canonical.ite (hs.copyCode _ _ _ _) hs) _ _

theorem good_execBob {s : State} (h : Canonical s) (n a : BitVec 6) : OutGood (execBob n a s) := by
  unfold execBob; dsimp only
  refine good_word (fun s hs n x => ?_) h
  split
  · exact hs
  split
  · exact good_illegal hs _ _
  split
  · exact hs
  split
  · exact hs
  split
  · exact True.intro
  split
  · exact hs
  split
  · exact hs.setStrand _ _
  · exact good_illegal hs _ _

/-! ### Csr -/

theorem good_csrAccess {s : State} (h : Canonical s) (op : BitVec 2) (d a : BitVec 6) (c : BitVec 7) : OutGood (csrAccess op d a c s) := by
  unfold Sys2Proof.Machine.csrAccess; dsimp only
  refine good_word (fun s hs n x => ?_) h
  split
  · exact good_illegal hs _ _
  split
  · exact Canonical.ite (hs.setStrand _ _) hs
  split
  · exact True.intro
  · exact Canonical.retire (Canonical.ite (hs.onPart _ _) hs) _ _ _

/-! ### System -/

theorem good_execTrap {s : State} (h : Canonical s) (i : BitVec 20) : OutGood (execTrap i s) := by
  unfold execTrap
  refine good_word (fun s hs n x => ?_) h
  exact True.intro

theorem good_execNop {s : State} (h : Canonical s) : OutGood (execNop s) := by
  unfold execNop
  refine good_word (fun s hs n x => ?_) h
  exact hs.retire _ _ _

theorem good_execTret {s : State} (h : Canonical s) : OutGood (execTret s) := by
  unfold execTret; dsimp only
  refine good_word (fun s hs n x => ?_) h
  split
  · exact good_illegal hs _ _
  · exact hs.setStrand _ _

theorem good_execIllegalInstruction {s : State} (h : Canonical s) (w : W32) : OutGood (execIllegalInstruction w s) := by
  unfold execIllegalInstruction
  refine good_word (fun s hs n x => ?_) h
  exact True.intro

theorem good_execYield {s : State} (h : Canonical s) : OutGood (execYield s) := by
  unfold execYield
  refine good_word (fun s hs n x => ?_) h
  split
  · exact hs
  split
  · exact hs
  · exact hs.retire _ _ _

theorem good_execDone {s : State} (h : Canonical s) : OutGood (execDone s) := by
  unfold execDone
  refine good_word (fun s hs n x => ?_) h
  split
  · exact hs
  split
  · rename_i s1 _ e1
    have h1 : Canonical s1 := (good_release hs _ _).error e1
    exact h1
  · rename_i s1 e1
    have h1 : Canonical s1 := (good_release hs _ _).ok e1
    exact h1

theorem Canonical.sendExchange {s : State} (h : Canonical s) (m : Xmsg) : Canonical (s.sendExchange m) := by
  unfold State.sendExchange; dsimp only
  split <;> exact h

theorem Canonical.takeExchange {s : State} (h : Canonical s) (i : Nat) (m : Xmsg) : Canonical (s.takeExchange i m) := h

theorem Canonical.payload {s : State} (h : Canonical s) (n : Nat) (e : PlanEntry) : Canonical (s.payload n e).2 := h

theorem good_sendNow {s : State} (h : Canonical s) (n : Nat) (x : Strand) (e : PlanEntry) : (sendNow s n x e).Good := by
  unfold Sys2Proof.Machine.sendNow; dsimp only
  split
  · exact True.intro
  · exact True.intro
  · exact (((h.payload _ _).setStrand _ _).sendExchange _).retire _ _ _

theorem good_sendx {s : State} (h : Canonical s) (n : Nat) (x : Strand) : (sendx s n x).Good := by
  unfold Sys2Proof.Machine.sendx; dsimp only
  split
  · exact h
  split
  · exact h
  split
  · exact True.intro
  split
  · split
    · exact h
    · split
      · exact True.intro
      · split
        · exact h
        · exact good_sendNow h _ _ _
  · split
    · exact h
    · exact good_sendNow h _ _ _

theorem good_execSendx {s : State} (h : Canonical s) : OutGood (execSendx s) := by
  unfold execSendx
  refine good_word (fun s hs n x => ?_) h
  exact good_sendx hs _ _

theorem good_execExchangeSend {s : State} (h : Canonical s) : OutGood (execExchangeSend s) := by
  unfold execExchangeSend
  split
  · split
    · split
      · refine good_word (fun s hs n x => ?_) ?_
        · exact good_sendx hs _ _
        · exact h
      · exact True.intro
    · exact True.intro
  · exact True.intro

theorem Canonical.onContext {s : State} (h : Canonical s) (p v n : Nat) (f : Strand → Strand) : Canonical (s.onContext p v n f) := by
  unfold State.onContext
  split
  · exact h.onStrand _ _
  · exact h.onSaved _ _ _ _
  · exact h

theorem Canonical.imagePend {s : State} (h : Canonical s) (p : Nat) (y : Saved) : Canonical (s.imagePend p y) := by
  unfold State.imagePend; dsimp only
  exact ((h.imageWrite _ _ _ _ _).imageWrite _ _ _ _ _).reseal _ _ _

theorem Canonical.holdFault {s : State} (h : Canonical s) (p v n cause detail : Nat) : Canonical (s.holdFault p v n cause detail) := by
  unfold State.holdFault; dsimp only
  split
  · exact (h.onContext _ _ _ _).imagePend _ _
  · exact h.onContext _ _ _ _

theorem Canonical.addGranted {s : State} (h : Canonical s) (l : Landing) : Canonical (s.addGranted l) := h

theorem Canonical.landExchange {s : State} (h : Canonical s) (m : Xmsg) : Canonical (Sys2Proof.Machine.landExchange s m) := by
  unfold Sys2Proof.Machine.landExchange; dsimp only
  split
  · exact Canonical.ite (Canonical.countOwn _ _ ((Canonical.setSpool (Canonical.ite ((h.onContext _ _ _ _).charge _ _ _ _)
      (h.onContext _ _ _ _)) _ _).addGranted _)) (Canonical.holdFault (Canonical.ite ((h.onContext _ _ _ _).charge _ _ _ _)
        (h.onContext _ _ _ _)) _ _ _ _ _)
  · exact Canonical.holdFault (Canonical.ite ((h.onContext _ _ _ _).charge _ _ _ _) (h.onContext _ _ _ _)) _ _ _ _ _

theorem good_execExchangeLanding {s : State} (h : Canonical s) : OutGood (execExchangeLanding s) := by
  unfold execExchangeLanding
  split
  · split
    · exact (h.takeExchange _ _).landExchange _
    · exact True.intro
  · exact True.intro

/-! ### Matrix -/

theorem good_windowRows (c : Cmd) (m : MatBody) (n : Nat) (rs : List Nat) :
    ∀ {s : State}, Canonical s → ExGood (fun _ => True) (fun r => Canonical r.2) (windowRows c m n rs s) := by
  induction rs with
  | nil => exact fun h => h
  | cons r rs ih =>
    intro s h
    unfold windowRows; dsimp only
    split
    · exact True.intro
    rename_i e1
    have h1 := ih ((good_engineRead h _ _ _ _).ok e1)
    split
    · exact True.intro
    rename_i e2
    have h2 := h1.ok e2
    exact h2

theorem good_quiltRows {s : State} (h : Canonical s) (c : Cmd) (m : MatBody) (n : Nat) :
    ExGood (fun _ => True) (fun r => Canonical r.2) (quiltRows s c m n) := by
  unfold Sys2Proof.Machine.quiltRows; dsimp only
  split
  · exact True.intro
  rename_i s1 e1
  have h1 : Canonical s1 := (good_engineRead h _ _ _ _).ok e1
  split
  · exact True.intro
  split
  · exact True.intro
  split
  · exact True.intro
  · exact h1

theorem good_sourceRows {s : State} (h : Canonical s) (c : Cmd) (pos : Nat) (m : MatBody) (n : Nat) :
    ExGood (fun _ => True) (fun r => Canonical r.2) (sourceRows s c pos m n) := by
  unfold Sys2Proof.Machine.sourceRows; dsimp only
  split
  · split
    · rename_i s1 e1
      have h1 : Canonical s1 := (good_quiltRows h _ _ _).ok e1
      exact h1
    · exact True.intro
  · split
    · split
      · exact h
      · exact True.intro
    · split
      · rename_i s1 e1
        have h1 : Canonical s1 := (good_windowRows _ _ _ _ h).ok e1
        exact h1
      · exact True.intro

theorem Canonical.onCell {s : State} (h : Canonical s) (k : Nat) (f : Cell → Cell) : Canonical (s.onCell k f) := h.setCell _ _

theorem Canonical.freeSource {s : State} (h : Canonical s) (c : Cmd) (chain slots : Nat) :
    Canonical (Sys2Proof.Machine.freeSource s c chain slots) := by
  unfold Sys2Proof.Machine.freeSource; dsimp only
  exact Canonical.drainDiscards _ _ (Canonical.freeSlots _ _ _ _ h)

theorem good_doLdw {s : State} (h : Canonical s) (c : Cmd) (m : MatBody) (pos chain : Nat) (ovf : Bool) :
    ExGood (fun r => Canonical r.state) (fun r => Canonical r.state) (doLdw s c m pos chain ovf) := by
  unfold Sys2Proof.Machine.doLdw; dsimp only
  split
  · exact h
  rename_i s1 e1
  have h1 : Canonical s1 := (good_sourceRows h _ _ _ _).ok e1
  exact (h1.freeSource _ _ _).onCell _ _

theorem Canonical.doSwap {s : State} (h : Canonical s) (c : Cmd) (m : MatBody) (chain : Nat) (ovf : Bool) :
    Canonical (Sys2Proof.Machine.doSwap s c m chain ovf).state := by
  unfold Sys2Proof.Machine.doSwap; dsimp only
  exact h.onCell _ _

theorem good_doMma {s : State} (h : Canonical s) (c : Cmd) (m : MatBody) (pos chain : Nat) (ovf : Bool) :
    ExGood (fun r => Canonical r.state) (fun r => Canonical r.state) (doMma s c m pos chain ovf) := by
  unfold Sys2Proof.Machine.doMma; dsimp only
  split
  · exact h
  split
  · exact h
  split
  · exact h
  rename_i s1 e1
  have h1 : Canonical s1 := (good_sourceRows h _ _ _ _).ok e1
  exact (h1.freeSource _ _ _).setCell _ _

theorem Canonical.doZero {s : State} (h : Canonical s) (c : Cmd) (m : MatBody) (chain : Nat) (ovf : Bool) :
    Canonical (Sys2Proof.Machine.doZero s c m chain ovf).state := by
  unfold Sys2Proof.Machine.doZero; dsimp only
  exact h.onCell _ _

theorem Canonical.doRldef {s : State} (h : Canonical s) (c : Cmd) (m : MatBody) (chain : Nat) (ovf : Bool) :
    Canonical (Sys2Proof.Machine.doRldef s c m chain ovf).state := by
  unfold Sys2Proof.Machine.doRldef; dsimp only
  exact h.onCell _ _

theorem good_storeRows (c : Cmd) (m : MatBody) (t : Slot) (is : List Nat) : ∀ {d : State × FFlags × Bool}, Canonical d.1 →
    ExGood (fun r => Canonical r.state) (fun r => Canonical r.1) (storeRows c m t is d) := by
  induction is with
  | nil => exact fun h => h
  | cons i is ih =>
    intro d h
    unfold storeRows; dsimp only
    split
    · exact h
    rename_i e1
    exact ih ((good_engineWrite h _ _ _ _).ok e1)

theorem good_doAccst {s : State} (h : Canonical s) (c : Cmd) (m : MatBody) :
    ExGood (fun r => Canonical r.state) (fun r => Canonical r.state) (doAccst s c m) := by
  unfold Sys2Proof.Machine.doAccst; dsimp only
  split
  · exact h
  split
  · split
    · split
      · exact h
      · split
        · exact h
        · exact Canonical.foldl (fun _ _ hs => hs.countSlot _ _) _ h
    · exact h
  · split
    · rename_i r1 e1
      have h1 : Canonical r1.state := (good_storeRows _ _ _ _ h).error e1
      exact h1
    · rename_i r1 e1
      have h1 : Canonical r1.1 := (good_storeRows _ _ _ _ h).ok e1
      exact h1

theorem Canonical.doAccv {s : State} (h : Canonical s) (c : Cmd) (m : MatBody) : Canonical (Sys2Proof.Machine.doAccv s c m).state := h

theorem good_storeLists (c : Cmd) (m : MatBody) (t : Slot) (is : List Nat) : ∀ {d : State × Bool}, Canonical d.1 →
    ExGood (fun r => Canonical r.state) (fun r => Canonical r.1) (storeLists c m t is d) := by
  induction is with
  | nil => exact fun h => h
  | cons i is ih =>
    intro d h
    unfold storeLists; dsimp only
    split
    · exact h
    rename_i e1
    exact ih ((good_engineWrite h _ _ _ _).ok e1)

theorem good_doRlst {s : State} (h : Canonical s) (c : Cmd) (m : MatBody) :
    ExGood (fun r => Canonical r.state) (fun r => Canonical r.state) (doRlst s c m) := by
  unfold Sys2Proof.Machine.doRlst; dsimp only
  split
  · exact h
  split
  · rename_i r1 e1
    have h1 : Canonical r1.state := (good_storeLists _ _ _ _ h).error e1
    exact h1
  · rename_i r1 e1
    have h1 : Canonical r1.1 := (good_storeLists _ _ _ _ h).ok e1
    exact h1

theorem good_windowOffers (c : Cmd) (m : MatBody) (is : List Nat) :
    ∀ {s : State}, Canonical s → ExGood (fun _ => True) (fun r => Canonical r.2) (windowOffers c m is s) := by
  induction is with
  | nil => exact fun h => h
  | cons i is ih =>
    intro s h
    unfold windowOffers; dsimp only
    split
    · exact True.intro
    rename_i s1 e1
    have h1 : Canonical s1 := (good_engineRead h _ _ _ _).ok e1
    split
    · exact True.intro
    split
    · exact True.intro
    rename_i s2 e2
    have h2 : Canonical s2 := (good_engineRead h1 _ _ _ _).ok e2
    split
    · exact True.intro
    split
    · exact True.intro
    rename_i e3
    have h3 := (ih h2).ok e3
    exact h3

theorem good_doRlmrg {s : State} (h : Canonical s) (c : Cmd) (m : MatBody) (chain : Nat) (ovf : Bool) :
    ExGood (fun r => Canonical r.state) (fun r => Canonical r.state) (doRlmrg s c m chain ovf) := by
  unfold Sys2Proof.Machine.doRlmrg; dsimp only
  split
  · exact h
  split
  · exact h
  rename_i s1 e1
  have h1 : Canonical s1 := by
    refine ExGood.ok (E := (fun _ => True)) (P := (fun r => Canonical r.2)) ?_ e1
    split
    · exact h
    · exact good_windowOffers _ _ _ h
  exact h1.onCell _ _

theorem good_doThr {s : State} (h : Canonical s) (c : Cmd) (m : MatBody) :
    ExGood (fun r => Canonical r.state) (fun r => Canonical r.state) (doThr s c m) := by
  unfold Sys2Proof.Machine.doThr; dsimp only
  split <;> exact h

theorem good_matRun {s : State} (h : Canonical s) (r : Running) :
    ExGood (fun r => Canonical r.state) (fun r => Canonical r.state) (matRun s r) := by
  unfold matRun; dsimp only
  split
  · exact good_doLdw h _ _ _ _ _
  · exact good_doLdw h _ _ _ _ _
  · exact h.doSwap _ _ _ _
  · exact h.doZero _ _ _ _
  · exact h.doRldef _ _ _ _
  · exact good_doAccst h _ _
  · exact good_doAccst h _ _
  · exact h.doAccv _ _
  · exact good_doRlst h _ _
  · exact good_doRlmrg h _ _ _ _
  · exact good_doThr h _ _
  · exact good_doMma h _ _ _ _ _

theorem Canonical.reserveAccst {s : State} (h : Canonical s) (c : Cmd) (chain : Nat) (ovf : Bool) :
    Canonical (Sys2Proof.Machine.reserveAccst s c chain ovf) := by
  unfold Sys2Proof.Machine.reserveAccst; dsimp only
  split
  · split
    · exact h
    · exact Canonical.ite h ((h.setSpool _ _).addGranted _)
  · exact h

theorem Canonical.takeOwner {s : State} (h : Canonical s) (c : Cmd) : Canonical (Sys2Proof.Machine.takeOwner s c) := by
  unfold Sys2Proof.Machine.takeOwner; dsimp only
  exact Canonical.ite (Canonical.foldl (fun _ _ hs => hs.onCell _ _) _ (h.onCell _ _)) (h.onCell _ _)

theorem Canonical.startMatrix {s : State} (h : Canonical s) (c : Cmd) (ptr credit : Nat) :
    Canonical (Sys2Proof.Machine.startMatrix s c ptr credit) := by
  unfold Sys2Proof.Machine.startMatrix
  extract_lets m k busy ins ch run s1 s2 s3 s4
  have h2 : Canonical s2 := (((h.takeOwner c).reserveAccst c ch.1 run.ovf).onStrand _ _).onCell _ _
  have h3 : Canonical s3 := h2
  exact Canonical.foldl (fun _ _ hs => Canonical.ite (hs.onCell _ _) hs) _ (Canonical.ite (h3.charge _ _ _ _) h3)

theorem Canonical.dueTile {s : State} (h : Canonical s) (r : Running) : Canonical (s.dueTile r) := h.onCell _ _

theorem Canonical.feedTile {s : State} (h : Canonical s) (c : Cmd) (u : Nat) (f : Feed) : Canonical (s.feedTile c u f) := by
  unfold State.feedTile; dsimp only
  exact h.onCell _ _

theorem Canonical.dropTiles {s : State} (h : Canonical s) (c : Cmd) : Canonical (s.dropTiles c) := by
  unfold State.dropTiles; dsimp only
  exact Canonical.foldl (fun _ _ hs => hs.onCell _ _) _ h

theorem Canonical.engineSignal {s : State} (h : Canonical s) (c : Cmd) (from_ : Site) (chain : Nat) (ovf err psn : Bool) (a : Nat) :
    Canonical (Sys2Proof.Machine.engineSignal s c from_ chain ovf err psn a) := h

theorem Canonical.onIssuer {s : State} (h : Canonical s) (c : Cmd) (f : Strand → Strand) : Canonical (s.onIssuer c f) := by
  unfold State.onIssuer
  split
  · exact h.onStrand _ _
  · exact h.onPart _ _
  · exact h

theorem Canonical.failTrap {s : State} (h : Canonical s) (c : Cmd) (cls knot : Nat) : Canonical (Sys2Proof.Machine.failTrap s c cls knot) := by
  unfold Sys2Proof.Machine.failTrap; dsimp only
  split
  · split
    · exact (h.onIssuer _ _).imagePend _ _
    · exact h.onIssuer _ _
  · split
    · exact h.setLaunch _
    · exact h

theorem Canonical.release_ {s : State} (h : Canonical s) (c : Cmd) : Canonical (Sys2Proof.Machine.release_ s c) := by
  unfold Sys2Proof.Machine.release_; dsimp only
  exact h.onCell _ _

theorem Canonical.finishMatrix (c : Cmd) (chain : Nat) (ovf : Bool) {d : MatDone} (h : Canonical d.state) (err : Option Nat) :
    Canonical (Sys2Proof.Machine.finishMatrix c chain ovf d err) := by
  have h1 : Canonical (if d.psn then d.state.notePsn c.part c.launch else d.state) := Canonical.ite (h.notePsn _ _) h
  unfold Sys2Proof.Machine.finishMatrix
  extract_lets m ch s0 s1 s2 s3 s4 s5
  have h2 : Canonical s2 := by
    unfold s2
    split
    · exact ((h1.onIssuer _ _).dropLocks _ _).onIssuer _ _
    · exact (h1.onIssuer _ _).dropLocks _ _
  have h4 : Canonical s4 := ((Canonical.ite h2 (h2.engineSignal _ _ _ _ _ _ _)).release_ _).idleFrom _
  have h5 : Canonical s5 := by
    unfold s5
    split
    · exact h4.failTrap _ _ _
    · exact h4
  have h6 := h5.settleCore c.core
  split
  · split
    · split
      · exact Canonical.ite (h6.trapAt _ _ _) h5
      · exact h5
    · exact Canonical.onStrand (Canonical.foldl (fun _ _ hs => Canonical.ite (hs.fillGran _ _) hs) _ h5) _ _
  · exact h5

theorem Canonical.completeMatrix {s : State} (h : Canonical s) (r : Running) : Canonical (Sys2Proof.Machine.completeMatrix s r) := by
  have h1 := good_matRun h r
  unfold Sys2Proof.Machine.completeMatrix
  extract_lets c b
  split
  · rename_i e1
    exact Canonical.ite ((h1.ok e1).feedTile _ _ _) (Canonical.finishMatrix _ _ _ (h1.ok e1) _)
  · rename_i e1
    extract_lets f ch ovf s2 d
    have h2 : Canonical s2 := (((h1.error e1).dropTiles _).free _).failReserved _ _ _
    refine Canonical.finishMatrix _ _ _ ?_ _
    exact h2

theorem Canonical.endTile {s : State} (h : Canonical s) (k : Nat) (r : Running) (f : Feed) :
    Canonical (Sys2Proof.Machine.endTile s k r f) := by
  unfold Sys2Proof.Machine.endTile
  extract_lets c m u ch z s1 s2 g
  have h2 : Canonical s2 := by
    unfold s2
    split
    · exact (h.setCell _ _).onContext _ _ _ _
    · exact h.setCell _ _
  exact Canonical.ite (h2.feedTile _ _ _) (Canonical.finishMatrix _ _ _ h2 _)

theorem Canonical.skipMatrix {s : State} (h : Canonical s) (c : Cmd) : Canonical (Sys2Proof.Machine.skipMatrix s c) := by
  unfold Sys2Proof.Machine.skipMatrix
  extract_lets u m ch s1 s2
  have h1 : Canonical s1 := h.onStrand _ _
  refine Canonical.finishMatrix _ _ _ (d := .plain s2) (show Canonical s2 from ?_) _
  unfold s2
  split
  · split
    · exact h1
    · exact Canonical.drainDiscards _ _ (show Canonical _ from h1)
  · exact h1

theorem Canonical.runTiles (id : Nat) (ks : List Nat) : ∀ {s : State}, Canonical s → Canonical (Sys2Proof.Machine.runTiles id ks s) := by
  induction ks with
  | nil => exact fun h => h
  | cons k ks ih =>
    intro s h
    unfold Sys2Proof.Machine.runTiles
    split
    · exact ih h
    have h1 := fun f => (h.onCell k f).charge
    refine ih ?_
    split
    · exact (h1 _ _ _ _ _).endTile _ _ _
    · exact h1 _ _ _ _ _

theorem good_matNow (o : CmdOp) (m : MatBody) (mn : String) {s : State} (h : Canonical s) : OutGood (matNow o m mn s) := by
  unfold matNow
  split
  · exact True.intro
  extract_lets k asked c s1 p s2 s3
  have h1 : Canonical s1 := h
  have h3 : Canonical s3 := (h1.startMatrix _ _ _).onCell _ _
  split
  · exact True.intro
  split
  · exact h1.skipMatrix _
  split
  · exact True.intro
  split
  · exact True.intro
  split
  · exact True.intro
  extract_lets s4
  have h4 : Canonical s4 := Canonical.runTiles _ _ (h3.completeMatrix _)
  split
  · exact h4.trapAt _ _ _
  · exact h4

theorem good_execMatrixArbitrate {s : State} (h : Canonical s) : OutGood (execMatrixArbitrate s) := by
  unfold execMatrixArbitrate; dsimp only
  split
  · exact True.intro
  split
  · exact h.skipMatrix _
  split
  · exact h.startMatrix _ _ _
  split
  · exact h.startMatrix _ _ _
  · exact True.intro

theorem good_execChainedTileForward {s : State} (h : Canonical s) : OutGood (execChainedTileForward s) := by
  unfold execChainedTileForward; dsimp only
  split
  · exact ((h.setCell _ _).charge _ _ _ _).dueTile _
  · exact True.intro

theorem good_accvFill {s : State} (h : Canonical s) (c : Cmd) : OptGood (fun r => Canonical r.2) (s.accvFill c) := by
  unfold State.accvFill
  split
  · split
    · exact (h.settleCore _).onStrand _ _
    · exact True.intro
  · exact True.intro

theorem good_execMatrixCommandComplete {s : State} (h : Canonical s) : OutGood (execMatrixCommandComplete s) := by
  unfold execMatrixCommandComplete; dsimp only
  split
  · exact True.intro
  split
  · exact True.intro
  split
  · split
    · split
      · split
        · rename_i s1 e1
          have h1 : Canonical s1 := (good_accvFill h _).some e1
          exact True.intro
        · rename_i s1 e1
          have h1 : Canonical s1 := (good_accvFill h _).some e1
          exact h1
        · exact (h.onCell _ _).completeMatrix _
      · exact True.intro
    · split
      · split
        · rename_i s1 e1
          have h1 : Canonical s1 := (good_accvFill h _).some e1
          exact True.intro
        · rename_i s1 e1
          have h1 : Canonical s1 := (good_accvFill h _).some e1
          exact h1
        · exact (h.onCell _ _).completeMatrix _
      · exact True.intro
  · split
    · exact (h.onCell _ _).endTile _ _ _
    · exact True.intro

/-! ### Queue -/

theorem Canonical.packetSignal {s : State} (h : Canonical s) (q part vd : Nat) (knot delta : W64) (chain : Nat) (ovf err psn : Bool) :
    Canonical (Sys2Proof.Machine.packetSignal s q part vd knot delta chain ovf err psn) := Canonical.ite h (h.send _)

theorem Canonical.packetDone {s : State} (h : Canonical s) (q index chain : Nat) (ovf err psn : Bool) :
    Canonical (s.packetDone q index chain ovf err psn) := by
  unfold State.packetDone; dsimp only
  split
  · exact h
  split
  · exact h
  · exact Canonical.packetSignal (Canonical.ite (h.qslots (Tbl.wf_del _ _ h.qslots_wf)) (h.qslots
      (Tbl.wf_put _ _ _ h.qslots_wf))) _ _ _ _ _ _ _ _ _

/-! ### Copy -/

theorem Canonical.copySignal {s : State} (h : Canonical s) (k : CopyCmd) (knot : Loc) (ch : Nat × Bool) (err psn : Bool) :
    Canonical (Sys2Proof.Machine.copySignal s k knot ch err psn) := h

theorem Canonical.signalAt {s : State} (h : Canonical s) (k : CopyCmd) (via : List Site) (err : Bool) (a : Nat) :
    Canonical (Sys2Proof.Machine.signalAt s k via err a) := h

theorem Canonical.signalReceiver {s : State} (h : Canonical s) (k : CopyCmd) (r : Nat × Nat) (err : Bool) :
    Canonical (Sys2Proof.Machine.signalReceiver s k r err) := by
  unfold Sys2Proof.Machine.signalReceiver; dsimp only
  exact Canonical.ite (h.copySignal _ _ _ _ _) h

theorem Canonical.copyPacketDone {s : State} (h : Canonical s) (k : CopyCmd) (q : Nat) (via : List Site) (err : Bool) :
    Canonical (Sys2Proof.Machine.copyPacketDone s k q via err) := by
  unfold Sys2Proof.Machine.copyPacketDone; dsimp only
  split
  · exact h
  split
  · exact h
  · exact h.packetDone _ _ _ _ _ _

theorem Canonical.failCopy {s : State} (h : Canonical s) (k : CopyCmd) (cls : Nat) : Canonical (Sys2Proof.Machine.failCopy s k cls) := by
  unfold Sys2Proof.Machine.failCopy; dsimp only
  split
  · refine Canonical.copyPacketDone (Canonical.failReserved (Canonical.foldl (fun _ _ hs => Canonical.ite hs
      (hs.signalReceiver _ _ _)) _ (Canonical.foldl (fun _ _ hs => hs.signalAt _ _ _ _) _ ?_)) _ _ _) _ _ _ _
    split
    · refine Canonical.idleFrom ?_ _
      exact Canonical.ite ((h.free _).charge _ _ _ _) (h.free _)
    · refine Canonical.dropLocks (Canonical.idleFrom ?_ _) _ _
      exact Canonical.ite ((h.free _).charge _ _ _ _) (h.free _)
  · refine Canonical.failTrap (Canonical.failReserved (Canonical.foldl (fun _ _ hs => Canonical.ite hs (hs.signalReceiver _ _ _)) _
      (Canonical.foldl (fun _ _ hs => hs.signalAt _ _ _ _) _ ?_)) _ _ _) _ _ _
    split
    · refine Canonical.idleFrom ?_ _
      exact Canonical.ite ((h.free _).charge _ _ _ _) (h.free _)
    · refine Canonical.dropLocks (Canonical.idleFrom ?_ _) _ _
      exact Canonical.ite ((h.free _).charge _ _ _ _) (h.free _)

theorem Canonical.setCopy {s : State} (h : Canonical s) (k : CopyCmd) : Canonical (s.setCopy k) := h

theorem Canonical.beginCopy {s : State} (h : Canonical s) (k : CopyCmd) : Canonical (Sys2Proof.Machine.beginCopy s k) := by
  unfold Sys2Proof.Machine.beginCopy; dsimp only
  split
  · split
    · refine Canonical.setCopy ?_ _
      exact h
    · split
      · refine Canonical.setCopy ?_ _
        exact h
      · refine Canonical.failCopy ?_ _ _
        exact h
  · split
    · refine Canonical.setCopy ?_ _
      exact h.onContext _ _ _ _
    · split
      · refine Canonical.setCopy ?_ _
        exact h.onContext _ _ _ _
      · refine Canonical.failCopy ?_ _ _
        exact h.onContext _ _ _ _

theorem Canonical.grantCopy {s : State} (h : Canonical s) (i : Nat) (l : Landing) : Canonical (Sys2Proof.Machine.grantCopy s i l) := by
  unfold Sys2Proof.Machine.grantCopy; dsimp only
  split
  · exact h
  · exact h.grant _ _

theorem good_readPieces (w : Who) (k : CopyCmd) (rs : List (Nat × Nat)) : ∀ (o : Nat) {s : State}, Canonical s →
    ExGood (fun _ => True) (fun r => Canonical r.2.2) (readPieces w k rs o s) := by
  induction rs with
  | nil => exact fun _ _ h => h
  | cons r rs ih =>
    intro o s h
    unfold readPieces
    split
    · exact True.intro
    split
    · exact True.intro
    rename_i e1
    have h1 := fun o => ih o ((good_engineRead h _ _ _ _).ok e1)
    split
    · exact True.intro
    rename_i e2
    have h2 := (h1 _).ok e2
    exact h2

theorem Canonical.readPart {s : State} (h : Canonical s) (k : CopyCmd) (n : Nat) : Canonical (Sys2Proof.Machine.readPart s k n) := by
  unfold Sys2Proof.Machine.readPart; dsimp only
  split
  · exact h.failCopy _ _
  rename_i s1 e1
  have h1 : Canonical s1 := (good_readPieces _ _ _ _ h).ok e1
  exact h1.setCopy _

theorem Canonical.readAhead {s : State} (h : Canonical s) (k : CopyCmd) (o n : Nat) : Canonical (Sys2Proof.Machine.readAhead s k o n) := by
  unfold Sys2Proof.Machine.readAhead
  split
  · exact h.failCopy _ _
  rename_i s1 e1
  have h1 : Canonical s1 := (good_readPieces _ _ _ _ h).ok e1
  exact h1.setCopy _

theorem Canonical.sendFrames (port : Nat) (sealed : Bool) (fs : List (List Byte)) : ∀ (a : Nat) (acc : List Byte) {s : State},
    Canonical s → Canonical (Sys2Proof.Machine.sendFrames port sealed fs a acc s) := by
  induction fs with
  | nil => exact fun _ _ _ h => Canonical.ite (h.emit _) h
  | cons f fs ih =>
    intro a acc s h
    exact Canonical.ite (Canonical.ite (ih _ _ ((h.emit _).emit _)) (ih _ _ (h.emit _))) (ih _ _ (h.emit _))

theorem good_sendPeer {s : State} (h : Canonical s) (k : CopyCmd) : OptGood (fun r => Canonical r) (sendPeer s k) := by
  unfold Sys2Proof.Machine.sendPeer; dsimp only
  split
  · exact Canonical.sendFrames _ _ _ _ _ h
  · exact True.intro

theorem Canonical.sendRemoteKnot {s : State} (h : Canonical s) (k : CopyCmd) : Canonical (Sys2Proof.Machine.sendRemoteKnot s k) := by
  unfold Sys2Proof.Machine.sendRemoteKnot; dsimp only
  exact Canonical.ite (h.emit _) h

theorem Canonical.readSource {s : State} (h : Canonical s) (k : CopyCmd) : Canonical (Sys2Proof.Machine.readSource s k) := by
  unfold Sys2Proof.Machine.readSource
  extract_lets c got ch
  have hgot : ExGood (fun _ => True) (fun r => Canonical r.2.2) got := by
    refine ExGood.ite True.intro (ExGood.ite h ?_)
    split
    · rename_i e1
      have h1 := (good_readPieces _ _ _ _ h).ok e1
      exact h1
    · exact True.intro
  clear_value got
  rcases got with cls | ⟨bs, bad, s1⟩
  · exact h.failCopy _ _
  · have h1 : Canonical s1 := hgot
    dsimp -zeta only
    extract_lets k1 s2 load
    have h2 : Canonical s2 := (h1.charge _ _ _ _).setCopy _
    split
    · exact h2.failCopy _ _
    rename_i s3 e3
    have h3 : Canonical s3 := by
      refine OptGood.some (P := Canonical) (OptGood.ite (good_sendPeer h2 _) ?_) e3
      exact h2
    exact Canonical.ite ((h3.dropLocks _ _).signalAt _ _ _ _) h3

theorem good_writeRanges (w : Who) (k : CopyCmd) (l : Loc) (gs : List (Nat × Nat)) :
    ∀ {s : State}, Canonical s → ExGood (fun _ => True) Canonical (writeRanges w k l gs s) := by
  induction gs with
  | nil => exact fun h => h
  | cons g gs ih =>
    intro s h
    unfold writeRanges
    split
    · rename_i e1
      exact ih ((good_engineWrite h _ _ _ _).ok e1)
    · exact True.intro

theorem good_landPart {s : State} (h : Canonical s) (k : CopyCmd) (r : Nat × Nat) (o n : Nat) :
    ExGood (fun _ => True) Canonical (landPart s k r o n) := by
  unfold landPart
  split
  · have h1 := good_writeRanges k.cmd.who k (k.cmd.receiverLoc r) (k.left (r.1 + 1) o n) h
    cases e : writeRanges k.cmd.who k (k.cmd.receiverLoc r) (k.left (r.1 + 1) o n) s with
    | error => exact True.intro
    | ok z => exact (h1.ok e).setCopy _
  · exact True.intro

theorem good_landReceiver {s : State} (h : Canonical s) (k : CopyCmd) (r : Nat × Nat) : OptGood (fun r => Canonical r) (landReceiver s k r) := by
  unfold Sys2Proof.Machine.landReceiver; dsimp only
  split
  · split
    · split
      · exact True.intro
      · exact (h.setCopy _).signalReceiver _ _ _
    · exact (h.setCopy _).signalReceiver _ _ _
  · split
    · exact (h.setCopy _).signalReceiver _ _ _
    · split
      · rename_i s1 e1
        have h1 : Canonical s1 := (good_writeRanges _ _ _ _ h).ok e1
        exact (h1.setCopy _).signalReceiver _ _ _
      · exact (h.setCopy _).signalReceiver _ _ _

theorem Canonical.writePieces (w : Who) (k : CopyCmd) (rs : List (Nat × Nat)) :
    ∀ (o : Nat) {s : State}, Canonical s → Canonical (Sys2Proof.Machine.writePieces w k rs o s).1 := by
  induction rs with
  | nil => exact fun _ _ h => h
  | cons r rs ih =>
    intro o s h
    unfold Sys2Proof.Machine.writePieces
    split
    · exact h
    split
    · exact h
    rename_i e1
    exact ih _ ((good_engineWrite h _ _ _ _).ok e1)

theorem Canonical.writePart {s : State} (h : Canonical s) (k : CopyCmd) (o n : Nat) : Canonical (Sys2Proof.Machine.writePart s k o n).1 := by
  refine Canonical.foldlFst (z := (_, _)) (fun z g hz => ?_) _ h
  split
  · exact hz
  · exact Canonical.writePieces _ _ _ _ hz

theorem Canonical.finishCopy {s : State} (h : Canonical s) (k : CopyCmd) : Canonical (Sys2Proof.Machine.finishCopy s k) := by
  unfold Sys2Proof.Machine.finishCopy; dsimp only
  split
  · exact (h.writePart _ _ _).failCopy _ _
  split
  · refine Canonical.failCopy ?_ _ _
    exact h.writePart _ _ _
  · split
    · refine Canonical.copyPacketDone (Canonical.sendRemoteKnot (Canonical.idleFrom ?_ _) _) _ _ _ _
      exact Canonical.ite ((h.writePart _ _ _).notePsn _ _) (h.writePart _ _ _)
    · refine Canonical.foldl (fun _ _ hs => hs.signalAt _ _ _ _) _ (Canonical.dropLocks (Canonical.sendRemoteKnot
        (Canonical.idleFrom ?_ _) _) _ _)
      exact Canonical.ite ((h.writePart _ _ _).notePsn _ _) (h.writePart _ _ _)

theorem good_execCopyBufferGrant {s : State} (h : Canonical s) : OutGood (execCopyBufferGrant s) := by
  unfold execCopyBufferGrant; dsimp only
  split
  · exact True.intro
  split
  · exact h
  · exact True.intro

theorem good_execCopyStart {s : State} (h : Canonical s) : OutGood (execCopyStart s) := by
  unfold execCopyStart
  split
  · split
    · exact h.beginCopy _
    · exact True.intro
  · exact True.intro

theorem good_execSpoolReservationGrant {s : State} (h : Canonical s) : OutGood (execSpoolReservationGrant s) := by
  unfold execSpoolReservationGrant
  split
  · split
    · exact h.grantCopy _ _
    · exact True.intro
  · exact True.intro

theorem good_execCopySourceDone {s : State} (h : Canonical s) : OutGood (execCopySourceDone s) := by
  unfold execCopySourceDone
  split
  · split
    · split
      · exact h.readAhead _ _ _
      · split
        · exact h.readPart _ _
        · split
          · exact True.intro
          · exact h.readSource _
    · exact True.intro
  · exact True.intro

theorem good_execSpoolSlotCounted {s : State} (h : Canonical s) : OutGood (execSpoolSlotCounted s) := by
  unfold execSpoolSlotCounted
  split
  · split
    · exact Canonical.countOwn _ _ (h.countSlot _ _)
    · exact True.intro
  · exact True.intro

theorem good_execMulticastLanding {s : State} (h : Canonical s) : OutGood (execMulticastLanding s) := by
  unfold execMulticastLanding
  split
  · split
    · split
      · split
        · rename_i s1 e1
          have h1 : Canonical s1 := by
            refine OptGood.some (P := (fun r => Canonical r)) ?_ e1
            split
            · split
              · rename_i s12 e12
                have h12 : Canonical s12 := (good_landPart h _ _ _ _).ok e12
                exact h12
              · exact good_landReceiver h _ _
            · exact good_landReceiver h _ _
          exact h1
        · exact True.intro
      · exact True.intro
    · exact True.intro
  · exact True.intro

theorem good_execCopyDataVisible {s : State} (h : Canonical s) : OutGood (execCopyDataVisible s) := by
  unfold execCopyDataVisible; dsimp only
  split
  · split
    · exact True.intro
    · split
      · show Canonical _
        split
        · exact (h.writePart _ _ _).failCopy _ _
        · exact (h.writePart _ _ _).setCopy _
      · exact h.finishCopy _
  · exact True.intro

theorem good_execEngineFailure {s : State} (h : Canonical s) : OutGood (execEngineFailure s) := by
  unfold execEngineFailure
  split
  · split
    · exact True.intro
    · split
      · exact h.failCopy _ _
      · split
        · exact h.failCopy _ _
        · exact True.intro
  · exact True.intro

theorem Canonical.grantAll (id n : Nat) : ∀ {s : State}, Canonical s → Canonical (Sys2Proof.Machine.grantAll id n s) := by
  induction n with
  | zero => exact fun h => h
  | succ n ih =>
    intro s h
    unfold Sys2Proof.Machine.grantAll
    split
    · exact h
    split
    · exact ih (h.grantCopy _ _)
    · exact h

theorem Canonical.countAll (id n : Nat) : ∀ {s : State}, Canonical s → Canonical (Sys2Proof.Machine.countAll id n s) := by
  induction n with
  | zero => exact fun h => h
  | succ n ih =>
    intro s h
    unfold Sys2Proof.Machine.countAll
    split
    · exact h
    split
    · exact ih (Canonical.countOwn _ _ (h.countSlot _ _))
    · exact h

theorem good_copyNow (i : Instr) (o : CmdOp) (mn : String) {s : State} (h : Canonical s) : OutGood (copyNow i o mn s) := by
  unfold copyNow
  split
  · exact True.intro
  extract_lets c sl k s1 s2
  have h1 : Canonical s1 := h
  have h2 : Canonical s2 := Canonical.grantAll _ _ (h1.beginCopy _)
  split
  · exact True.intro
  split
  · exact h2
  split
  · exact True.intro
  extract_lets s3 s4
  have h3 : Canonical s3 := Canonical.countAll _ _ (h2.readSource _)
  have h4 : Canonical s4 := by
    refine Canonical.foldl (fun z r hz => ?_) _ h3
    split
    · exact OptGood.getD (good_landReceiver hz _ _) hz
    · exact hz
  split
  · exact h3
  split
  · exact OutGood.ite (h4.finishCopy _) True.intro
  · exact h4

/-! ### Arbiter -/

theorem Canonical.feedEnq {s : State} (h : Canonical s) (n : Nat) (x : Strand) (w : BobWord) (d b : BitVec 6) :
    Canonical (Sys2Proof.Machine.feedEnq s n x w d b) := by
  unfold Sys2Proof.Machine.feedEnq; dsimp only
  split
  · exact h.setStrand _ _
  · exact Canonical.ite h (h.place _ _ _ _ _)

theorem Canonical.feedBobbin {s : State} (h : Canonical s) (n : Nat) : Canonical (Sys2Proof.Machine.feedBobbin s n) := by
  unfold Sys2Proof.Machine.feedBobbin; dsimp only
  split
  · exact h
  split
  · exact h
  split
  · exact h
  split
  · exact h.feedEnq _ _ _ _ _
  split
  · exact h
  split
  · exact h
  · split <;> exact h.setStrand _ _

theorem Canonical.bindTo {s : State} (h : Canonical s) (k c : Nat) (g : Fin 4) (t : Nat) : Canonical (Sys2Proof.Machine.bindTo s k c g t) := by
  unfold Sys2Proof.Machine.bindTo; dsimp only
  exact (h.setCell _ _).bindHead _

theorem Canonical.vScan (k t : Nat) (rdy cs : List Nat) : ∀ (served : List Nat) {s : State}, Canonical s →
    Canonical (Sys2Proof.Machine.vScan k t rdy cs served s).2 := by
  induction cs with
  | nil => exact fun _ _ h => h
  | cons c cs ih =>
    intro served s h
    unfold Sys2Proof.Machine.vScan
    split
    · exact h
    split
    · exact ih _ (h.bindTo _ _ _ _)
    · exact ih _ h

theorem Canonical.refill {s : State} (h : Canonical s) (k : Nat) (rdy : List Nat) : Canonical (Sys2Proof.Machine.refill s k rdy) :=
  Canonical.foldl (fun _ _ hs => hs.setCell _ _) _ h

theorem Canonical.arbitrate {s : State} (h : Canonical s) (k t : Nat) : Canonical (Sys2Proof.Machine.arbitrate s k t) := by
  unfold Sys2Proof.Machine.arbitrate
  extract_lets rdy ring r more s1 u
  have hr : Canonical r.2 := Canonical.vScan _ _ _ _ _ h
  exact Canonical.setCell (Canonical.ite (Canonical.vScan _ _ _ _ _ (hr.refill _ _)) hr) _ _

theorem good_execVectorArbitrate {s : State} (h : Canonical s) : OutGood (execVectorArbitrate s) := by
  unfold execVectorArbitrate
  extract_lets k u gone v s1
  have h1 : Canonical s1 := (h.setCell _ _).arbitrate _ _
  exact OutGood.ite True.intro (Canonical.foldl (fun _ _ hs => hs.feedBobbin _) _ h1)

/-! ### Arrival -/

theorem Canonical.took {s : State} (h : Canonical s) (k : Nat) : Canonical (s.took k) := h

theorem Canonical.answer {s : State} (h : Canonical s) (n : Nat) (r : Reply) : Canonical (s.answer n r) := by
  unfold State.answer
  split
  · exact Canonical.ite ((h.settleCore _).onStrand _ _) h
  · exact h

theorem Canonical.storeFault {s : State} (h : Canonical s) (n a : Nat) (fatal : Bool) : Canonical (s.storeFault n a fatal) := h.onStrand _ _

theorem good_holdWait {s : State} (h : Canonical s) (n : Nat) : OptGood (fun r => Canonical r) (s.holdWait n) := by
  unfold State.holdWait
  split
  · split
    · exact (h.settleCore _).onStrand _ _
    · exact True.intro
  · exact True.intro

theorem good_execLoadDataArrival {s : State} (h : Canonical s) : OutGood (execLoadDataArrival s) := by
  unfold execLoadDataArrival; dsimp only
  split
  · exact (h.took _).answer _ _
  · split
    · split
      · rename_i s1 e1
        have h1 : Canonical s1 := (OptGood.ite (good_holdWait h _) OptGood.of_none).some e1
        exact h1
      · exact True.intro
    · split
      · exact h.took _
      · split
        · rename_i s1 e1
          have h1 : Canonical s1 := (good_fillCore (h.took _) _).ok e1
          split
          · exact h1
          split
          · split
            · exact (h1.settleCore _).onStrand _ _
            · exact h1
          · exact h1
        · split
          · exact h.took _
          · exact (h.took _).answer _ _
        · exact True.intro
  · exact True.intro

theorem good_execHomeAccessArrival {s : State} (h : Canonical s) : OutGood (execHomeAccessArrival s) := by
  unfold execHomeAccessArrival; dsimp only
  split
  · split
    · exact True.intro
    · split
      · rename_i s1 e1
        have h1 : Canonical s1 := (good_applyAccess (h.took _) _).ok e1
        exact Canonical.ite (h1.send _) (Canonical.ite (h1.send _) h1)
      · split
        · exact (h.took _).send _
        · exact ((h.took _).storeFault _ _ _).send _
      · split
        · rename_i s1 e1
          have h1 : Canonical s1 := (OptGood.ite (good_holdWait h _) OptGood.of_none).some e1
          exact h1
        · exact True.intro
  · exact True.intro

theorem Canonical.touchLine {s : State} (h : Canonical s) (l : Line) : Canonical (s.touchLine l) :=
  Canonical.foldl (fun _ _ hs => Canonical.ite (hs.touch _ _) hs) _ h

theorem good_execLlcWritebackArrival {s : State} (h : Canonical s) : OutGood (execLlcWritebackArrival s) := by
  unfold execLlcWritebackArrival
  split
  · split
    · exact True.intro
    · extract_lets z
      have hz : Canonical z := h.took _
      split
      · rename_i e1
        exact (((good_llcWrite hz _ _).ok e1).touchLine _).send _
      · exact hz
      · exact True.intro
  · exact True.intro

theorem good_execStoreWritebackFault {s : State} (h : Canonical s) : OutGood (execStoreWritebackFault s) := by
  unfold execStoreWritebackFault; dsimp only
  split
  · split
    · exact True.intro
    · split
      · exact ((h.took _).storeFault _ _ _).send _
      · exact True.intro
  · exact True.intro

theorem good_execWriteAcknowledged {s : State} (h : Canonical s) : OutGood (execWriteAcknowledged s) := by
  unfold execWriteAcknowledged
  split
  · exact (h.took _).onStrand _ _
  · exact True.intro

theorem good_execSignalApply {s : State} (h : Canonical s) : OutGood (execSignalApply s) := by
  unfold execSignalApply; dsimp only
  split
  · split
    · exact True.intro
    · split
      · rename_i s1 e1
        have h1 : Canonical s1 := (good_applySignal (h.took _) _).ok e1
        exact Canonical.ite (h1.send _) h1
      · exact Canonical.ite (((h.took _).storeFault _ _ _).send _) (h.took _)
      · exact True.intro
  · exact True.intro

theorem good_execWaitHomeArrival {s : State} (h : Canonical s) : OutGood (execWaitHomeArrival s) := by
  unfold execWaitHomeArrival; dsimp only
  split
  · split
    · exact True.intro
    · split
      · rename_i s1 e1
        have h1 : Canonical s1 := (HomeR.Good.ite (good_applyMonitor (h.took _) _) (good_applyWait (h.took _) _)).ok e1
        exact h1
      · exact (h.took _).send _
      · exact True.intro
  · exact True.intro

theorem good_execSnapshotJoin {s : State} (h : Canonical s) : OutGood (execSnapshotJoin s) := by
  unfold execSnapshotJoin; dsimp only
  split
  · split
    · exact (h.took _).settleCore _
    · split
      · exact ((h.took _).settleCore _).setStrand _ _
      · exact ((h.took _).settleCore _).setStrand _ _
      · exact h.took _
  · exact True.intro

theorem good_execWaitTimeout {s : State} (h : Canonical s) : OutGood (execWaitTimeout s) := by
  unfold execWaitTimeout; dsimp only
  split
  · split
    · split
      · exact (h.settleCore _).onStrand _ _
      · exact True.intro
    · exact True.intro
  · exact True.intro

theorem good_execWaitmWake {s : State} (h : Canonical s) : OutGood (execWaitmWake s) := by
  unfold execWaitmWake; dsimp only
  split
  · split
    · split
      · split
        · exact (h.settleCore _).onStrand _ _
        · exact True.intro
      · split
        · exact (h.settleCore _).onStrand _ _
        · exact True.intro
      · split
        · exact (h.settleCore _).onStrand _ _
        · exact True.intro
      · split
        · exact (h.settleCore _).onStrand _ _
        · exact True.intro
      · split
        · exact (h.settleCore _).onStrand _ _
        · exact True.intro
    · exact True.intro
  · exact True.intro

/-! ### Launch -/

theorem Canonical.freePlace {s : State} (h : Canonical s) : Canonical (s.freePlace).2 := h

theorem Canonical.log {s : State} (h : Canonical s) (l : List W256) (n : Nat) : Canonical { s with log := l, logCount := n } := h

theorem Canonical.logDevice {s : State} (h : Canonical s) (e : ErrInfo) (place unit : Nat) : Canonical (s.logDevice e place unit) :=
  h.log _ _

theorem Canonical.logPart {s : State} (h : Canonical s) (e : ErrInfo) (place unit : Nat) : Canonical (s.logPart e place unit) := h.onPart _ _

theorem Canonical.logError {s : State} (h : Canonical s) (e : ErrInfo) : Canonical (s.logError e) :=
  (Canonical.ite (h.freePlace.logDevice _ _ _) h.freePlace).logPart _ _ _

theorem good_packetRead {s : State} (h : Canonical s) (q p v a n : Nat) : OptGood (fun r => Canonical r.2) (packetRead s q p v a n) := by
  unfold Sys2Proof.Machine.packetRead
  split
  · exact True.intro
  split
  · rename_i s1 e1
    have h1 : Canonical s1 := (good_homeRead h _ _ _).ok e1
    split
    · exact True.intro
    · exact h1
  · exact True.intro

theorem OptGood.map {α β : Type} {P : α → Prop} {Q : β → Prop} {f : α → β} {o : Option α} (h : OptGood P o) (hf : ∀ a, P a → Q (f a)) :
    OptGood Q (o.map f) := by
  cases o with
  | none => exact True.intro
  | some a => exact hf a h

theorem OptGood.findSome {α β : Type} {P : β → Prop} {f : α → Option β} (hf : ∀ x, OptGood P (f x)) (xs : List α) :
    OptGood P (xs.findSome? f) := by
  induction xs with
  | nil => exact True.intro
  | cons x xs ih =>
    rw [List.findSome?_cons]
    split
    · rename_i e
      exact (hf x).some e
    · exact ih

theorem good_packetNum {s : State} (h : Canonical s) (q p v a n : Nat) : OptGood (fun r => Canonical r.2) (packetNum s q p v a n) :=
  (good_packetRead h _ _ _ _ _).map fun _ hr => hr

theorem good_readTable {s : State} (h : Canonical s) (p v : Nat) (r : BitVec 1024) :
    ExGood (fun _ => True) (fun r => Canonical r.2) (readTable s p v r) := by
  unfold readTable
  split
  · exact ExGood.of_ok h
  split
  · exact ExGood.of_ok h
  split
  · exact True.intro
  rename_i bs s1 e1
  have h1 : Canonical s1 := (good_packetRead h _ _ _ _ _).some e1
  extract_lets t
  clear_value t
  refine ExGood.ite ?_ (ExGood.ite ?_ ?_)
  · exact True.intro
  · exact h1
  · exact h1.onPart p _

theorem good_readTemplates (p v : Nat) (r : BitVec 1024) (n : Nat) : ∀ (k : Nat) {s : State}, Canonical s →
    ExGood (fun _ => True) (fun r => Canonical r.2.2) (readTemplates p v r n k s) := by
  induction n with
  | zero => exact fun _ _ h => h
  | succ n ih =>
    intro k s h
    unfold readTemplates
    split
    · exact True.intro
    rename_i e1
    have h1 := (good_packetNum h _ _ _ _ _).some e1
    refine ExGood.ite True.intro ?_
    split
    · exact True.intro
    rename_i d s2 e2
    have h2 : Canonical s2 := (good_readTable h1 _ _ _).ok e2
    split
    · exact True.intro
    rename_i ts ds s3 e3
    have h3 : Canonical s3 := (ih (k + 1) h2).ok e3
    exact h3

theorem Canonical.settleCycles {s : State} (h : Canonical s) (n : Nat) : Canonical (s.settleCycles n) := by
  unfold State.settleCycles
  split
  · exact h
  · exact Canonical.ite (h.settleCore _) h

theorem Canonical.retune {s : State} (h : Canonical s) (n : Nat) : Canonical (s.retune n) := by
  unfold State.retune; dsimp only
  exact Canonical.ite (((h.settleCycles _).redivide _ _ _).setCore _ _) ((h.settleCycles _).setCore _ _)

theorem Canonical.energyDiv {s : State} (h : Canonical s) (n : Nat) (x : Strand) : Canonical (s.energyDiv n x) := by
  unfold State.energyDiv; dsimp only
  exact Canonical.ite (Canonical.ite h (Canonical.ite (((h.settleCycles _).setCore _ _).setCore _ _)
    (((h.settleCycles _).setCore _ _).setCore _ _))) (Canonical.ite ((h.setCore _ _).retune _) h)

theorem Canonical.placeTeam {s : State} (h : Canonical s) (l : Launch) (t : TeamReq) (c : Nat) (cs js : List Nat) :
    Canonical (Sys2Proof.Machine.placeTeam s l t c cs js) := by
  unfold Sys2Proof.Machine.placeTeam; dsimp only
  exact Canonical.setCluster (Canonical.foldl (fun _ _ hs => ((hs.setStrand _ _).setCore _ _).retune _) _ h) _ _

theorem good_placeHead {s : State} (h : Canonical s) (l : Launch) (t : TeamReq) : OptGood (fun r => Canonical r) (placeHead s l t) := by
  unfold Sys2Proof.Machine.placeHead; dsimp only
  split
  · exact True.intro
  split
  · exact True.intro
  · exact ((h.placeTeam _ _ _ _ _).setPart _ _).setLaunch _

theorem good_placeAll (n : Nat) : ∀ {s : State}, Canonical s → ∀ l, OptGood Canonical (placeAll n s l) := by
  induction n with
  | zero => exact fun _ _ => True.intro
  | succ n ih =>
    intro s h l
    unfold placeAll
    split
    · exact h
    split
    · exact True.intro
    rename_i e1
    exact ih ((good_placeHead h _ _).some e1) _

theorem good_trialPlace {s : State} (h : Canonical s) (l : Launch) : OptGood Canonical (trialPlace s l) := good_placeAll _ h _

theorem good_placeResident {s : State} (h : Canonical s) (l : Launch) : OptGood Canonical (placeResident s l) := by
  unfold placeResident
  split
  · exact True.intro
  rename_i e1
  have h1 : Canonical _ := (good_trialPlace h _).some e1
  dsimp only
  split
  · exact h1.setLaunch _
  · exact h1

theorem good_readCode {s : State} (h : Canonical s) (x : Strand) (r : BitVec 1024) : OptGood (fun r => Canonical r.2) (readCode s x r) := by
  unfold Sys2Proof.Machine.readCode
  split
  · rename_i s1 e1
    have h1 : Canonical s1 := (good_homeRead h _ _ _).ok e1
    split
    · exact True.intro
    · exact h1
  · exact True.intro

theorem Canonical.writeCode {s : State} (h : Canonical s) (x : Strand) (r : BitVec 1024) (bs : List Byte) :
    Canonical (Sys2Proof.Machine.writeCode s x r bs) := by
  unfold Sys2Proof.Machine.writeCode; dsimp only
  refine Canonical.onPart (Canonical.foldl (fun _ _ hs => ?_) _ h) _ _
  split
  · exact Canonical.ite (Canonical.setStrand (Canonical.ite hs (hs.scratch (Bank.wf_writeList _ _ _ hs.1.2.2.1))) _ _) hs
  · exact hs

theorem good_execCodeCopyLanded {s : State} (h : Canonical s) : OutGood (execCodeCopyLanded s) := by
  unfold execCodeCopyLanded
  extract_lets n
  split
  · exact True.intro
  split
  · exact True.intro
  refine OutGood.ite True.intro ?_
  extract_lets s1 start b
  have h1 : OptGood Canonical s1 := OptGood.ite h ((good_readCode h _ _).map fun _ hr => hr.writeCode _ _ _)
  clear_value s1
  cases s1 with
  | none => exact True.intro
  | some s2 =>
    have h2 : Canonical s2 := h1
    dsimp -zeta only
    have hs : ∀ z, Canonical z → Canonical (start z) := fun z hz => Canonical.foldl (fun _ _ hk => hk.onStrand _ _) _ hz
    exact OutGood.ite ((hs _ h2).setLaunch _)
      (OutGood.ite ((hs _ h2).setLaunch _) ((Canonical.foldl (fun _ _ hk => hk.onStrand _ _) _ h2).setLaunch _))

theorem good_execLargeStepStart {s : State} (h : Canonical s) : OutGood (execLargeStepStart s) := by
  unfold execLargeStepStart; dsimp only
  split
  · exact True.intro
  split
  · exact True.intro
  split
  · exact (h.strands (Tbl.wf_map (fun e => by split <;> rfl) h.strands_wf)).setLaunch _
  · exact True.intro

theorem Canonical.dropTeam {s : State} (h : Canonical s) (x : Strand) : Canonical (s.dropTeam x) := by
  unfold State.dropTeam; dsimp only
  refine Canonical.serve (Canonical.serve (Canonical.setCluster (Canonical.foldl (fun _ _ hs => ?_) _ h) _ _) _) _
  split
  · exact Canonical.ite ((hs.delStrand _).setCore _ _) hs
  · exact hs

theorem good_execCodeCopyFailed {s : State} (h : Canonical s) : OutGood (execCodeCopyFailed s) := by
  unfold execCodeCopyFailed
  split
  · exact True.intro
  split
  · exact True.intro
  · exact OutGood.ite True.intro (((h.dropTeam _).setLaunch _).logError _)

/-! ### End -/

theorem Canonical.flushEvents {s : State} (h : Canonical s) (x : Strand) : Canonical (s.flushEvents x) := h.onVd _ _ _

theorem Canonical.dropClaims {s : State} (h : Canonical s) (n : Nat) : Canonical (s.dropClaims n) := by
  unfold State.dropClaims; dsimp only
  exact h.setCell _ _

theorem Canonical.vacate {s : State} (h : Canonical s) (n : Nat) (x : Strand) : Canonical (s.vacate n x) := by
  unfold State.vacate; dsimp only
  refine Canonical.serve (Canonical.retune (Canonical.setCore ?_ _ _) _) _
  exact (((h.flushEvents _).setCell _ _).dropClaims _).delStrand _

theorem Canonical.freeBars {s : State} (h : Canonical s) (x : Strand) : Canonical (s.freeBars x) := by
  unfold State.freeBars; dsimp only
  exact Canonical.ite h (h.setCluster _ _)

theorem Canonical.leaveBars {s : State} (h : Canonical s) (n : Nat) (x : Strand) : Canonical (s.leaveBars n x) := by
  unfold State.leaveBars; dsimp only
  refine Canonical.foldl (fun _ _ hs => ?_) _ h
  split
  · exact hs
  · exact Canonical.ite ((hs.setBar _ _ _ _).complete _ _ _ _) (hs.setBar _ _ _ _)

theorem Canonical.finalChain {s : State} (h : Canonical s) (x : Strand) : Canonical (s.finalChain x) := by
  unfold State.finalChain
  split
  · exact h
  · exact h.setLaunch _

theorem Canonical.failSpools {s : State} (h : Canonical s) (n : Nat) (x : Strand) : Canonical (s.failSpools n x) :=
  Canonical.foldl (fun _ _ hz => hz.failLandings _) _ h

theorem good_execStrandEnd {s : State} (h : Canonical s) : OutGood (execStrandEnd s) := by
  unfold execStrandEnd
  split
  · exact True.intro
  extract_lets n ends y s1 s2
  have h2 : Canonical s2 := (h.finalChain y).dropLocks n _
  exact OutGood.ite ((((h2.failSpools _ _).leaveBars _ _).vacate _ _).freeBars _) True.intro

theorem Canonical.dropCommands {s : State} (h : Canonical s) (p id : Nat) : Canonical (s.dropCommands p id) := by
  unfold State.dropCommands; dsimp only
  exact Canonical.idleFrom (Canonical.foldl (fun _ _ hs => hs.dropLocks _ _) _ h) _

theorem Canonical.killLaunch {s : State} (h : Canonical s) (p id : Nat) : Canonical (s.killLaunch p id) := by
  unfold State.killLaunch
  extract_lets s1 hit s2 away gone s3 s4
  have h1 : Canonical s1 := h.dropCommands p id
  have h2 : Canonical s2 := by
    refine Canonical.foldl (fun z e hz => ?_) _ h1
    have hx : Canonical (if e.2.phase = .placed then z else z.finalChain e.2) := Canonical.ite hz (hz.finalChain _)
    exact ((((hx.writeBackAll _).failSpools _ _).dropLocks _ _).vacate _ _).freeBars _
  have h3 : Canonical s3 := Canonical.foldl (fun z y hz => (hz.finalChain _).failSpools _ _) _ h2
  have h4 : Canonical s4 := (h3.onPart _ _).idleFrom _
  split
  · exact h4
  · exact h4.setLaunch _

theorem Canonical.killVd {s : State} (h : Canonical s) (p v addr : Nat) : Canonical (s.killVd p v addr) :=
  (Canonical.foldl (fun _ _ hz => hz.killLaunch _ _) _ h).logError _

theorem good_execLaunchComplete {s : State} (h : Canonical s) : OutGood (execLaunchComplete s) := by
  unfold execLaunchComplete; dsimp only
  split
  · exact True.intro
  split
  · exact True.intro
  split
  · refine Canonical.packetDone ?_ _ _ _ _ _ _
    exact h
  · exact h

/-! ### Save -/

theorem good_putParts (w : Who) (base : Nat) (ps : List (Nat × List Byte)) : ∀ {s : State}, Canonical s →
    OptGood Canonical (putParts w base ps s) := by
  induction ps with
  | nil => exact fun h => h
  | cons p ps ih =>
    intro s h
    unfold putParts
    split
    · rename_i e1
      exact ih ((good_globWrite w false _ _ h).ok e1)
    · exact True.intro

theorem good_putLines (w : Who) (n base : Nat) (x : Strand) (ls : List Nat) : ∀ {s : State}, Canonical s →
    OptGood Canonical (putLines w n base x ls s) := by
  induction ls with
  | nil => exact fun h => h
  | cons i ls ih =>
    intro s h
    unfold putLines
    extract_lets bs bad
    refine OptGood.ite (ih h) ?_
    split
    · rename_i e1
      exact ih ((good_homeWriteBad h w _ _ _).ok e1)
    · exact True.intro

theorem good_saveContext {s : State} (h : Canonical s) (n : Nat) (x : Strand) (tick : Nat) (forced : Bool) :
    OptGood (fun r => Canonical r.1) (saveContext s n x tick forced) := by
  unfold saveContext
  extract_lets base w u bars src y
  split
  · exact True.intro
  rename_i e1
  have h1 : Canonical _ := (good_putParts _ _ _ h).some e1
  split
  · exact True.intro
  rename_i e2
  exact ((good_putLines _ _ _ _ _ h1).some e2).reseal _ _ _

theorem Canonical.beginSave {s : State} (h : Canonical s) (p v : Nat) (forced : Bool) : Canonical (s.beginSave p v forced) := by
  unfold State.beginSave; dsimp only
  exact Canonical.foldl (fun _ _ hs => hs.onStrand _ _) _ (h.onVd _ _ _)

theorem good_execSuperstepBoundary {s : State} (h : Canonical s) : OutGood (execSuperstepBoundary s) := by
  unfold execSuperstepBoundary; dsimp only
  split
  · exact True.intro
  split
  · exact h.beginSave _ _ _
  · exact True.intro

theorem good_execVdGraceExpired {s : State} (h : Canonical s) : OutGood (execVdGraceExpired s) := by
  unfold execVdGraceExpired; dsimp only
  split
  · exact True.intro
  split
  · split
    · exact h.beginSave _ _ _
    · exact True.intro
  · exact True.intro

theorem Canonical.abandon {s : State} (h : Canonical s) (n : Nat) (x : Strand) : Canonical (s.abandon n x) := by
  unfold State.abandon; dsimp only
  exact Canonical.foldl (fun _ _ hs => hs.dropLocks _ _) _ (h.setStrand _ _)

theorem Canonical.settleStop {s : State} (h : Canonical s) (n : Nat) (x : Strand) (stop : Nat) : Canonical (s.settleStop n x stop) :=
  Canonical.ite (h.settleTo _ _) h

theorem Canonical.quiesce {s : State} (h : Canonical s) (stop n : Nat) : Canonical (s.quiesce stop n) := by
  unfold State.quiesce
  extract_lets s1
  have h1 : Canonical s1 := by
    show Canonical (match s.strand n with | some x => _ | none => _)
    split
    · exact h.settleStop _ _ _
    · exact h
  split
  · exact h
  rename_i x e1
  extract_lets accv i late src1 src2 src3 y s2 s3 s4
  have h3 : Canonical s3 := h1.setStrand n y
  have h4 : Canonical s4 := h3.dropClaims n
  exact (Canonical.foldl (fun _ _ hz => hz.dropLocks _ _) _ h4).writeBackAll n

theorem good_saveAll (tick : Nat) (forced : Bool) (es : List (Nat × Strand)) : ∀ {s : State}, Canonical s →
    OptGood (fun r => Canonical r.1) (saveAll tick forced es s) := by
  induction es with
  | nil => exact fun h => h
  | cons e es ih =>
    intro s h
    unfold saveAll
    split
    · exact True.intro
    rename_i s1 y e1
    have h1 : Canonical s1 := (good_saveContext h _ _ _ _).some e1
    split
    · exact True.intro
    rename_i s2 ys e2
    have h2 : Canonical s2 := (ih h1).some e2
    exact h2

theorem Canonical.vdGone {s : State} (h : Canonical s) (p v : Nat) : Canonical (s.vdGone p v) := h.onVd _ _ _

theorem Canonical.keepSaved {s : State} (h : Canonical s) (p v : Nat) (ys : List Saved) : Canonical (Sys2Proof.Machine.keepSaved p v ys s) := by
  unfold Sys2Proof.Machine.keepSaved; dsimp only
  refine Canonical.foldl (fun _ _ hs => Canonical.ite (((hs.dropLocks _ _).vacate _ _).setCluster _ _) ((hs.dropLocks _ _).vacate _ _)) _ ?_
  exact h.onPart _ _

theorem good_execSaveComplete {s : State} (h : Canonical s) : OutGood (execSaveComplete s) := by
  unfold execSaveComplete
  extract_lets p
  split
  · exact True.intro
  extract_lets d
  refine OutGood.ite True.intro (OutGood.ite (OutGood.ite ?_ True.intro) (OutGood.ite ?_ True.intro))
  · exact Canonical.foldl (fun _ _ hz => hz.quiesce _ _) _ h
  · split
    · exact (h.killVd _ _ _).vdGone _ _
    · rename_i e1
      have h1 : Canonical _ := (good_saveAll _ _ _ h).some e1
      exact (h1.keepSaved _ _ _).vdGone _ _

/-! ### Restore -/

theorem Canonical.resetScratch {s : State} (h : Canonical s) (y : Saved) : Canonical (s.resetScratch y) := by
  refine h.scratch (Bank.wf_foldl (fun b i hb => ?_) _ (Bank.wf_scrub _ _ _ h.1.2.2.1))
  exact Bank.wf_ite (Bank.wf_setTag _ _ _ hb) hb

theorem Canonical.restoreOne {s : State} (h : Canonical s) (y : Saved) (slots : List Nat) :
    Canonical (Sys2Proof.Machine.restoreOne s y slots) :=
  (((((h.resetScratch y).setStrand _ _).setCell _ _).setCore _ _).retune _).addLocks _ _

theorem good_teamSlots (ys : List Saved) : ∀ {s : State}, Canonical s → ∀ acc, OptGood (fun r => Canonical r.1) (teamSlots ys s acc) := by
  induction ys with
  | nil => exact fun h _ => h
  | cons y ys ih =>
    intro s h acc
    unfold teamSlots
    split
    · exact ih h _
    · exact OptGood.ite True.intro (ih (h.setCluster _ _) _)

theorem Canonical.reenterClaims {s : State} (h : Canonical s) (ys : List Saved) : Canonical (Sys2Proof.Machine.reenterClaims ys s) := by
  unfold Sys2Proof.Machine.reenterClaims; dsimp only
  exact Canonical.foldl (fun _ _ hs => hs.serve _) _ (Canonical.foldl (fun _ _ hs => Canonical.ite hs (hs.setCell _ _)) _ h)

theorem Canonical.recoverVd {s : State} (h : Canonical s) (p v : Nat) : Canonical (s.recoverVd p v) := by
  unfold State.recoverVd; dsimp only
  split
  · exact h
  split
  · exact h
  refine Canonical.onPart ?_ _ _
  exact h

theorem Canonical.restoreVd {s : State} (h : Canonical s) (p v : Nat) : Canonical (Sys2Proof.Machine.restoreVd s p v) := by
  unfold Sys2Proof.Machine.restoreVd
  extract_lets s0
  have h0 : Canonical s0 := h.recoverVd p v
  split
  · exact h0
  extract_lets ys bad
  refine Canonical.ite h0 (Canonical.ite (h0.killVd _ _ _) (Canonical.ite ?_ ?_))
  · split
    · exact h0
    · rename_i e1
      have h1 : Canonical _ := (good_teamSlots _ h0 _).some e1
      exact Canonical.reenterClaims (Canonical.foldl (fun _ _ hz => hz.restoreOne _ _) _ (h1.onPart _ _)) _
  · exact Canonical.foldl (fun _ _ hz => (hz.killLaunch _ _).logError _) _ h0

theorem good_execLazyFillComplete {s : State} (h : Canonical s) : OutGood (execLazyFillComplete s) := by
  unfold execLazyFillComplete
  split
  · exact True.intro
  split
  · split
    · exact h.fillGran _ _
    · exact True.intro
  · split
    · exact h.fillLine _ _
    · exact True.intro

/-! ### Pass -/

theorem Canonical.askStop {s : State} (h : Canonical s) (p v : Nat) : Canonical (s.askStop p v) := h.onVd _ _ _

theorem Canonical.schedule {s : State} (h : Canonical s) (p : Nat) : Canonical (s.schedule p) := by
  unfold State.schedule; dsimp only
  split
  · exact h
  split
  · exact h
  split
  · exact Canonical.foldl (fun _ _ hs => Canonical.ite hs (Canonical.ite (hs.onVd _ _ _) (hs.askStop _ _))) _ h
  · exact Canonical.ite (Canonical.foldl (fun _ _ hs => Canonical.ite hs (Canonical.ite (hs.onVd _ _ _) (hs.askStop _ _))) _ h)
      (Canonical.onVd (Canonical.foldl (fun _ _ hs => Canonical.ite hs (Canonical.ite (hs.onVd _ _ _) (hs.askStop _ _))) _ h) _ _ _)

theorem good_execVdPeriodStart {s : State} (h : Canonical s) : OutGood (execVdPeriodStart s) := by
  unfold execVdPeriodStart; dsimp only
  split
  · exact True.intro
  split
  · exact True.intro
  split
  · exact True.intro
  · exact Canonical.schedule (Canonical.foldl (fun _ _ hs => hs.energyDiv _ _) _ (h.setPart _ _)) _

theorem good_execVdBudgetExhausted {s : State} (h : Canonical s) : OutGood (execVdBudgetExhausted s) := by
  unfold execVdBudgetExhausted; dsimp only
  split
  · exact True.intro
  split
  · exact (h.askStop _ _).schedule _
  · exact True.intro

theorem good_placeLaunch {s : State} (h : Canonical s) (l : Launch) : OptGood Canonical (placeLaunch s l) := by
  unfold placeLaunch
  split
  · exact True.intro
  · exact OptGood.ite (good_placeResident h _) (good_placeHead h _ _)

theorem Canonical.dispatchLoop (p n : Nat) : ∀ {s : State}, Canonical s → Canonical (Sys2Proof.Machine.dispatchLoop p n s) := by
  induction n with
  | zero => exact fun h => h
  | succ n ih =>
    intro s h
    unfold Sys2Proof.Machine.dispatchLoop
    split
    · rename_i e1
      exact ih ((OptGood.findSome (fun l => good_placeLaunch h l) _).some e1)
    · exact h

theorem Canonical.noteBlocked {s : State} (h : Canonical s) (p : Nat) : Canonical (s.noteBlocked p) := h

theorem Canonical.putBack {s : State} (h : Canonical s) (p : Nat) : Canonical (s.putBack p) := by
  unfold State.putBack
  split
  · exact h
  · exact Canonical.foldl (fun _ _ hz => Canonical.ite (hz.restoreVd _ _) hz) _ h

theorem Canonical.dispatch {s : State} (h : Canonical s) (p : Nat) : Canonical (s.dispatch p) :=
  (Canonical.dispatchLoop p 2049 ((h.schedule p).putBack p)).noteBlocked p

theorem good_execDispatchPass {s : State} (h : Canonical s) : OutGood (execDispatchPass s) := by
  unfold execDispatchPass
  split
  · exact True.intro
  split
  · exact True.intro
  · exact h.dispatch _

theorem good_execLaunchHoldTimeout {s : State} (h : Canonical s) : OutGood (execLaunchHoldTimeout s) := by
  unfold execLaunchHoldTimeout
  split
  · exact True.intro
  split
  · exact True.intro
  split
  · exact h.setLaunch _
  · exact True.intro

theorem Canonical.nextEntryOf {s : State} (h : Canonical s) (l : Launch) : Canonical (Sys2Proof.Machine.nextEntryOf s l).2 := by
  unfold Sys2Proof.Machine.nextEntryOf
  split
  · exact h
  rename_i e1
  have h1 := (good_packetRead h _ _ _ _ _).some e1
  dsimp only
  split
  · exact h1
  · exact h1

theorem good_consumeEntry {s : State} (h : Canonical s) (l : Launch) (e : W256) : (consumeEntry s l e).Good Canonical := by
  unfold Sys2Proof.Machine.consumeEntry; dsimp only
  split
  · rename_i s1 e1
    have h1 : Canonical s1 := (good_homeWrite h _ _ _ _).ok e1
    exact good_homeWrite h1 _ _ _ _
  · exact good_homeWrite h _ _ _ _

theorem good_execBuiltEntryConsume {s : State} (h : Canonical s) : OutGood (execBuiltEntryConsume s) := by
  unfold execBuiltEntryConsume
  split
  · exact True.intro
  rename_i l _
  extract_lets stop
  have hstop : ∀ z, Canonical z → Canonical (stop z) := fun z hz => (hz.setLaunch _).logError _
  refine OutGood.ite True.intro ?_
  have h0 := h.nextEntryOf l
  split
  · exact True.intro
  · rename_i e1
    exact hstop _ (h0.snd e1)
  · rename_i e1
    have h1 := h0.snd e1
    split
    · exact True.intro
    · exact hstop _ h1
    · rename_i e2
      exact ((good_consumeEntry h1 _ _).ok e2).setLaunch _

/-! ### Packet -/

theorem good_pick {s : State} (h : Canonical s) (ks : List Nat) : OptGood (fun r => Canonical r.2) (s.pick ks) := by
  unfold State.pick
  split
  · exact True.intro
  · exact h
  · extract_lets f
    cases ks[f.1]? with
    | none => exact True.intro
    | some => exact h.free ks.length

theorem Canonical.mapQueue {s : State} (h : Canonical s) (q k : Nat) : Canonical (s.mapQueue q k) := by
  unfold State.mapQueue
  extract_lets r old s1 x s2
  have h1 : Canonical s1 := by
    cases e : old with
    | none => simp only [s1, e]; exact h
    | some => simp only [s1, e]; exact h.qslots (Tbl.wf_del _ _ h.qslots_wf)
  have h2 : Canonical s2 := h1.putSlot k x
  exact ((h2.setTable _ _).setPending _ _).onPart _ _

theorem Canonical.unmapQueue {s : State} (h : Canonical s) (k : Nat) (x : QSlot) (state : Nat) : Canonical (s.unmapQueue k x state) := by
  unfold State.unmapQueue
  extract_lets r s1 far s2
  have h1 : Canonical s1 := h.qslots (Tbl.wf_del _ _ h.qslots_wf)
  have h2 : Canonical s2 := Canonical.ite h1 (h1.putSlot _ _)
  exact h2.setTable _ _

theorem Canonical.displace {s : State} (h : Canonical s) (k : Nat) (x : QSlot) : Canonical (s.displace k x) := by
  unfold State.displace; dsimp only
  exact Canonical.ite (h.unmapQueue _ _ _) ((h.unmapQueue _ _ _).setPending _ _)

theorem Canonical.mapNext {s : State} (h : Canonical s) (p : Nat) : Canonical (s.mapNext p) := by
  unfold State.mapNext
  split
  · exact h
  extract_lets ring qs best
  split
  · rename_i e1
    exact Canonical.mapQueue ((good_pick h _).some e1) _ _
  · exact h

theorem Canonical.queueError {s : State} (h : Canonical s) (q code tag : Nat) : Canonical (s.queueError q code tag) := by
  unfold State.queueError
  extract_lets r s1 s2 f
  have h1 : Canonical s1 := h.setRecord _ _
  have h2 : Canonical s2 := h1.qslots (Tbl.wf_map (fun e => by split <;> rfl) h1.qslots_wf)
  split
  · exact h2.freePlace.logDevice _ _ _
  · exact (h2.setPending _ _).logError _

theorem Canonical.notify {s : State} (h : Canonical s) (q w : Nat) : Canonical (s.notify q w) := by
  unfold State.notify
  extract_lets r st r1 s1 s2 p
  have h1 : Canonical s1 := h.setRecord _ _
  have h2 : Canonical s2 := h1.qslots (Tbl.wf_map (fun e => by split <;> rfl) h1.qslots_wf)
  refine Canonical.ite h (Canonical.ite (h2.queueError _ _ _) (Canonical.ite h2 ?_))
  split
  · exact h2
  split
  · rename_i e1
    exact Canonical.mapQueue ((good_pick h2 _).some e1) _ _
  · split
    · exact (h2.displace _ _).mapQueue _ _
    · exact h2.setPending _ _

theorem good_queueBytes {s : State} (h : Canonical s) (q a n : Nat) : OptGood (fun r => Canonical r.2) (s.queueBytes q a n) := by
  unfold State.queueBytes; dsimp only
  split
  · exact good_packetRead h _ _ _ _ _
  split
  · exact True.intro
  · exact h

theorem good_execNotifyWrite {s : State} (h : Canonical s) : OutGood (execNotifyWrite s) := by
  unfold execNotifyWrite
  extract_lets read s1 n hit
  have hread : ∀ z q, Canonical z → Canonical (read z q) := by
    intro z q hz
    show Canonical (match z.queueBytes q (qNotify (z.qRecord q)) 8 with | some (bs, z1) => _ | none => _)
    split
    · rename_i e1
      exact Canonical.notify ((good_queueBytes hz _ _ _).some e1) _ _
    · exact hz
  have h1 : Canonical s1 := h.host (Bank.wf_writeList _ _ _ h.1.2.1)
  refine OutGood.ite ?_ (OutGood.ite (hread _ _ h) h)
  exact Canonical.ite (Canonical.foldl (fun _ _ hz => hread _ _ hz) _ h1) h1

theorem good_execDoorbellWrite {s : State} (h : Canonical s) : OutGood (execDoorbellWrite s) := by
  unfold execDoorbellWrite
  refine good_onLink h ?_
  exact Canonical.ite (h.notify _ _) h

theorem good_execSlotIdleTimeout {s : State} (h : Canonical s) : OutGood (execSlotIdleTimeout s) := by
  unfold execSlotIdleTimeout
  split
  · exact True.intro
  split
  · split
    · exact (h.unmapQueue _ _ _).mapNext _
    · exact True.intro
  · exact True.intro

theorem good_execTableBaseWrite {s : State} (h : Canonical s) : OutGood (execTableBaseWrite s) := by
  unfold execTableBaseWrite
  refine good_onLink h ?_
  show Canonical _
  split
  · refine Canonical.setTable ?_ _ _
    exact h
  · exact h

theorem good_execBitmapBaseWrite {s : State} (h : Canonical s) : OutGood (execBitmapBaseWrite s) := by
  unfold execBitmapBaseWrite
  refine good_onLink h ?_
  show Canonical _
  split <;> exact h

/-- The packet that a queue may start comes with a state in its form. -/
theorem Canonical.nextPacket {s s1 : State} (h : Canonical s) {q : Nat} {k : Pkt} (e : s.nextPacket q = some (.ok (k, s1))) : Canonical s1 := by
  unfold State.nextPacket at e
  split at e
  · cases e
  · dsimp only at e
    split at e
    · cases e
    · split at e
      · cases e
      · split at e
        · cases e
        · rename_i e1
          cases e
          exact (good_queueBytes h _ _ _).some e1

theorem Canonical.startPacket {s : State} (h : Canonical s) (k : Pkt) (hold : Option Hold) (ref adv : Nat) :
    Canonical (s.startPacket k hold ref adv) := by
  unfold State.startPacket; dsimp only
  split
  · exact h.setRecord _ _
  · exact (h.setRecord _ _).qslots (Tbl.wf_put _ _ _ ((h.setRecord _ _).qslots_wf))

theorem Canonical.finishPacket {s : State} (h : Canonical s) (k : Pkt) : Canonical (s.finishPacket k) := h.packetDone _ _ _ _ _ _

theorem good_packetStep {s : State} (h : Canonical s) (t : Nat) (mn : String) {body : State → Pkt → Except Nat (Option State)}
    (hf : ∀ s k, Canonical s → ExGood (fun _ => True) (OptGood Canonical) (body s k)) : OutGood (packetStep t mn body s) := by
  unfold packetStep
  split
  · exact True.intro
  · exact h.queueError _ _ _
  · rename_i k s1 e1
    have h1 : Canonical s1 := h.nextPacket e1
    split
    · exact h1.queueError _ _ _
    refine OutGood.ite True.intro ?_
    split
    · exact h1.queueError _ _ _
    · exact True.intro
    · rename_i e2
      exact (hf s1 k h1).ok e2

theorem good_readLaunch {s : State} (h : Canonical s) (k : Pkt) : ExGood (fun _ => True) (fun r => Canonical r.2) (readLaunch s k) := by
  unfold readLaunch
  extract_lets p v a
  refine ExGood.ite ?_ (ExGood.ite ?_ ?_)
  · exact True.intro
  · exact True.intro
  split
  · exact True.intro
  rename_i n s1 e1
  have h1 : Canonical s1 := (good_packetNum h _ _ _ _ _).some e1
  extract_lets r tb
  have htb : ExGood (fun _ => True) (fun r => Canonical r.2.2) tb := by
    refine ExGood.ite (ExGood.ite ?_ ?_) ?_
    · split
      · exact True.intro
      · rename_i d s2 e2
        have h2 : Canonical s2 := (good_readTable h1 _ _ _).ok e2
        exact good_readTemplates _ _ _ _ _ h2
    · exact good_readTemplates _ _ _ _ _ h1
    · split
      · exact True.intro
      · rename_i d s2 e2
        have h2 : Canonical s2 := (good_readTable h1 _ _ _).ok e2
        exact h2
  clear_value tb
  refine ExGood.ite ?_ ?_
  · exact True.intro
  · cases tb with
    | error => exact True.intro
    | ok x => exact htb

theorem good_execLaunchPacket {s : State} (h : Canonical s) : OutGood (execLaunchPacket s) := by
  unfold execLaunchPacket; dsimp only
  refine good_packetStep h _ _ (fun s k hs => ?_)
  split
  · exact True.intro
  rename_i s1 e1
  have h1 : Canonical s1 := (good_readLaunch hs _).ok e1
  split
  · exact ((h1.startPacket _ _ _ _).logError _).packetDone _ _ _ _ _ _
  · exact h1.startPacket _ _ _ _

theorem good_execCopyPacket {s : State} (h : Canonical s) : OutGood (execCopyPacket s) := by
  unfold execCopyPacket; dsimp only
  refine good_packetStep h _ _ (fun s k hs => ?_)
  split
  · exact True.intro
  split
  · exact True.intro
  split
  · split
    · exact True.intro
    · exact hs.startPacket _ _ _ _
  · split
    · exact True.intro
    · exact hs.startPacket _ _ _ _

theorem good_execSignalPacket {s : State} (h : Canonical s) : OutGood (execSignalPacket s) := by
  unfold execSignalPacket
  refine good_packetStep h _ _ (fun s k hs => ?_)
  split
  · exact True.intro
  · exact (hs.startPacket _ _ _ _).finishPacket _

theorem good_execWaitPacket {s : State} (h : Canonical s) : OutGood (execWaitPacket s) := by
  unfold execWaitPacket; dsimp only
  refine good_packetStep h _ _ (fun s k hs => ?_)
  split
  · exact True.intro
  split
  · exact True.intro
  · exact hs.startPacket _ _ _ _

theorem good_waitMet {s : State} (h : Canonical s) (q : Nat) (e : Started) : OptGood (fun r => Canonical r.2) (waitMet s q e) := by
  unfold Sys2Proof.Machine.waitMet; dsimp only
  split
  · split
    · rename_i s1 e1
      have h1 : Canonical s1 := (good_homeRead h _ _ _).ok e1
      split
      · split
        · exact h1
        · exact True.intro
      · split
        · exact h1
        · exact True.intro
    · exact True.intro
  · exact True.intro

theorem good_execWaitPacketSatisfied {s : State} (h : Canonical s) : OutGood (execWaitPacketSatisfied s) := by
  unfold execWaitPacketSatisfied; dsimp only
  split
  · exact True.intro
  split
  · exact True.intro
  rename_i s1 e1
  have h1 : Canonical s1 := (good_waitMet h _ _).some e1
  exact (h1.setRecord _ _).packetDone _ _ _ _ _ _

theorem good_execWaitPacketTimeout {s : State} (h : Canonical s) : OutGood (execWaitPacketTimeout s) := by
  unfold execWaitPacketTimeout; dsimp only
  split
  · exact True.intro
  split
  · split
    · exact (h.qslots (Tbl.wf_put _ _ _ h.qslots_wf)).queueError _ _ _
    · exact True.intro
  · exact True.intro

theorem good_execFencePacket {s : State} (h : Canonical s) : OutGood (execFencePacket s) := by
  unfold execFencePacket; dsimp only
  refine good_packetStep h _ _ (fun s k hs => ?_)
  split
  · exact True.intro
  split
  · exact True.intro
  · exact Canonical.foldl (fun _ _ hs => hs.writeBackAll _) _ (hs.startPacket _ _ _ _)

theorem good_execFencePacketComplete {s : State} (h : Canonical s) : OutGood (execFencePacketComplete s) := by
  unfold execFencePacketComplete; dsimp only
  split
  · split
    · exact h.packetDone _ _ _ _ _ _
    · exact True.intro
  · exact True.intro

/-! ### Mgmt -/

theorem Canonical.mgmtDone {s : State} (h : Canonical s) (a st : Nat) : Canonical (s.mgmtDone a st) := by
  unfold State.mgmtDone; dsimp only
  split
  · exact (h.hbm (Bank.wf_writeList _ _ _ h.1.1)).packetDone _ _ _ _ _ _
  · exact h.hbm (Bank.wf_writeList _ _ _ h.1.1)

theorem good_mgmtStep {s : State} (h : Canonical s) (code : Nat) (mn : String) (sel : W512 → Bool) {run : W512 → State → State × Option Nat}
    (hf : ∀ w s, Canonical s → Canonical (run w s).1) : OutGood (mgmtStep code mn sel run s) := by
  refine good_packetStep (s := { s with op := { s.op with a := 0 } }) h 6 mn fun s k hs => ?_
  split
  · exact True.intro
  refine ExGood.ite (OptGood.of_none (P := Canonical)) ?_
  have h1 := hf k.w _ (hs.startPacket k none 1 1)
  split
  · rename_i e1
    exact Canonical.mgmtDone (h1.fst e1) _ _
  · rename_i e1
    exact h1.fst e1

theorem good_execSplit {s : State} (h : Canonical s) : OutGood (execSplit s) := by
  unfold execSplit; dsimp only
  refine good_mgmtStep h _ _ _ (fun w s hs => ?_)
  split
  · exact hs
  split
  · exact hs
  split
  · exact hs
  · split <;> exact hs

theorem good_execMerge {s : State} (h : Canonical s) : OutGood (execMerge s) := by
  unfold execMerge; dsimp only
  refine good_mgmtStep h _ _ _ (fun w s hs => ?_)
  split
  · exact hs
  · split <;> exact hs

theorem Canonical.dropLlc {s : State} (h : Canonical s) (p : Nat) : Canonical (s.dropLlc p) := h

theorem good_execCreate {s : State} (h : Canonical s) : OutGood (execCreate s) := by
  unfold execCreate; dsimp only
  refine good_mgmtStep h _ _ _ (fun w s hs => ?_)
  split
  · exact hs
  split
  · exact hs
  refine Canonical.setPart (Canonical.dropLlc (Canonical.scrubSlices ?_ _) _) _ _
  exact hs

theorem good_execDestroy {s : State} (h : Canonical s) : OutGood (execDestroy s) := by
  refine good_mgmtStep h _ _ _ fun w s hs => ?_
  split
  · exact hs
  extract_lets ls s1 s2
  have h1 : Canonical s1 := Canonical.foldl (fun _ _ hz => hz.killLaunch _ _) _ hs
  have h2 : Canonical s2 := (h1.idleFrom _).onPart _ _
  exact h2.qslots (Tbl.wf_map (fun e => by split <;> rfl) h2.qslots_wf)

theorem Canonical.queuesGone {s : State} (h : Canonical s) (p : Nat) : Canonical (s.queuesGone p) := by
  refine Canonical.foldl (fun z q hz => ?_) _ (h.qslots (Tbl.sortedFrom_filter _ _ h.qslots_wf))
  exact Canonical.ite ((hz.setTable _ _).setPending _ _) hz

theorem Canonical.forget {s : State} (h : Canonical s) (p node : Nat) : Canonical (s.forget p node) := by
  unfold State.forget
  extract_lets s1 s2
  have h1 : Canonical s1 := (h.strands (Tbl.sortedFrom_filter _ _ h.strands_wf)).clusters (Tbl.sortedFrom_filter _ _ h.clusters_wf)
  have h2 : Canonical s2 := Canonical.foldl (fun _ _ hz => hz.setDir _ _) _ h1
  exact h2.parts (Tbl.wf_del _ _ h2.parts_wf)

theorem good_execDestroyComplete {s : State} (h : Canonical s) : OutGood (execDestroyComplete s) := by
  unfold execDestroyComplete; dsimp only
  split
  · exact True.intro
  split
  · exact True.intro
  split
  · exact True.intro
  · exact ((((h.queuesGone _).dropLlc _).scrubSlices _).forget _ _).mgmtDone _ _

theorem good_execReserve {s : State} (h : Canonical s) : OutGood (execReserve s) := by
  unfold execReserve; dsimp only
  refine good_mgmtStep h _ _ _ (fun w s hs => ?_)
  split
  · exact hs
  split
  · exact hs
  split
  · exact hs
  · exact (hs.setPart _ _).schedule _

theorem good_execUnreserve {s : State} (h : Canonical s) : OutGood (execUnreserve s) := by
  unfold execUnreserve; dsimp only
  refine good_mgmtStep h _ _ _ (fun w s hs => ?_)
  split
  · exact hs
  split
  · exact hs
  · exact Canonical.schedule (Canonical.ite ((hs.setPart _ _).askStop _ _) (hs.setPart _ _)) _

theorem Canonical.mapAll (p n : Nat) : ∀ {s : State}, Canonical s → Canonical (Sys2Proof.Machine.mapAll p n s) := by
  induction n with
  | zero => exact fun h => h
  | succ n ih => exact fun h => ih (h.mapNext p)

theorem Canonical.assignSlots (p n k : Nat) : ∀ {s : State}, Canonical s → Canonical (Sys2Proof.Machine.assignSlots p n k s) := by
  induction k with
  | zero => exact fun h => h
  | succ k ih =>
    intro s h
    unfold Sys2Proof.Machine.assignSlots
    split
    · exact h
    extract_lets own
    refine Canonical.ite ?_ (Canonical.ite ?_ h)
    · split
      · rename_i e1
        have h1 : Canonical _ := (good_pick h _).some e1
        exact ih (h1.setPart _ _)
      · exact h
    · split
      · rename_i e1
        have h1 : Canonical _ := (good_pick h _).some e1
        exact ih (h1.setPart _ _)
      · exact h

theorem Canonical.pair {α : Type} {s : State} (h : Canonical s) (a : α) : Canonical (s, a).1 := h

theorem good_execSquota {s : State} (h : Canonical s) : OutGood (execSquota s) := by
  refine good_mgmtStep h _ _ _ fun w s hs => ?_
  extract_lets p n
  split
  · exact hs
  split
  · exact hs
  split
  · exact hs
  refine Canonical.pair (Canonical.mapAll p 63 (Canonical.assignSlots p n 63 ?_)) _
  exact hs.setPart _ _

theorem good_execQon {s : State} (h : Canonical s) : OutGood (execQon s) := by
  unfold execQon; dsimp only
  refine good_mgmtStep h _ _ _ (fun w s hs => ?_)
  split
  · exact hs
  split
  · exact hs
  split
  · exact hs
  · exact Canonical.ite ((hs.setTable _ _).queueError _ _ _) (hs.setTable _ _)

theorem good_execQoff {s : State} (h : Canonical s) : OutGood (execQoff s) := by
  unfold execQoff; dsimp only
  refine good_mgmtStep h _ _ _ (fun w s hs => ?_)
  split
  · exact hs
  split
  · exact hs
  · split <;> exact hs.qslots (Tbl.wf_put _ _ _ hs.qslots_wf)

theorem good_execQoffComplete {s : State} (h : Canonical s) : OutGood (execQoffComplete s) := by
  unfold execQoffComplete
  extract_lets q r
  split
  · exact True.intro
  split
  · exact True.intro
  extract_lets s1 s2
  have h1 : Canonical s1 := h.qslots (Tbl.wf_del _ _ h.qslots_wf)
  have h2 : Canonical s2 := (h1.setTable _ _).setPending _ _
  split
  · exact (h2.mgmtDone _ _).mapNext _
  · exact True.intro

theorem good_execOpenRange {s : State} (h : Canonical s) : OutGood (execOpenRange s) := by
  unfold execOpenRange; dsimp only
  refine good_mgmtStep h _ _ _ (fun w s hs => ?_)
  split
  · exact hs
  split
  · exact hs
  · exact hs.setPart _ _

theorem Canonical.clearDirty {s : State} (h : Canonical s) (us : List (Nat × Nat)) : Canonical (s.clearDirty us) :=
  Canonical.foldl (fun _ _ hz => hz.hbm (Bank.wf_bytes hz.1.1 (Memory.wf_write _ _ _ ((Bank.wf_iff _).mp hz.1.1).1))) _ h

theorem Canonical.sendSafe {s : State} (h : Canonical s) (ports : List Nat) (a : Nat) (bs : List Byte) : Canonical (s.sendSafe ports a bs) := by
  unfold State.sendSafe; dsimp only
  split
  · exact Canonical.sendFrames _ _ _ _ _ (h.free _)
  · exact h.free _

theorem Canonical.sendUnits (x : Partition) (ports : List Nat) (target : Nat) (us : List Nat) : ∀ (j : Nat) {s : State}, Canonical s →
    Canonical (Sys2Proof.Machine.sendUnits x ports target us j s).1 := by
  induction us with
  | nil => exact fun _ _ h => h
  | cons u us ih => exact fun j s h => ih (j + 1) (h.sendSafe _ _ _)

theorem Canonical.cleanLlc {s : State} (h : Canonical s) (p : Nat) : Canonical (s.cleanLlc p) :=
  Canonical.foldl (fun _ _ hs => hs.llcClean _) _ h

theorem good_execCheckpoint {s : State} (h : Canonical s) : OutGood (execCheckpoint s) := by
  refine good_mgmtStep h _ _ _ fun w s hs => ?_
  extract_lets p dirty mask target s1
  have h1 : Canonical s1 := hs.cleanLlc p
  split
  · exact hs
  split
  · exact hs
  split
  · exact hs
  extract_lets units s2 s3
  have h2 : Canonical s2.1 := Canonical.sendUnits _ _ _ _ _ h1
  have h3 : Canonical s3 := Canonical.ite (h2.clearDirty _) h2
  exact h3.onPart _ _

theorem good_execCheckpointComplete {s : State} (h : Canonical s) : OutGood (execCheckpointComplete s) := by
  unfold execCheckpointComplete; dsimp only
  split
  · exact True.intro
  split
  · exact True.intro
  split
  · exact True.intro
  · exact ((h.sendSafe _ _ _).setPart _ _).mgmtDone _ _

theorem good_execRestore {s : State} (h : Canonical s) : OutGood (execRestore s) := by
  unfold execRestore; dsimp only
  refine good_mgmtStep h _ _ _ (fun w s hs => ?_)
  split
  · exact hs
  split
  · exact hs
  split
  · exact hs
  split
  · exact hs
  · exact (hs.setPart _ _).emit _

theorem Canonical.pullUnits {s : State} (h : Canonical s) (ports : List Nat) (src units : Nat) :
    Canonical (Sys2Proof.Machine.pullUnits s ports src units) := by
  unfold Sys2Proof.Machine.pullUnits; dsimp only
  exact Canonical.foldl (fun _ _ hs => Canonical.ite (hs.emit _) hs) _ h

theorem good_execRestoreManifestArrival {s : State} (h : Canonical s) : OutGood (execRestoreManifestArrival s) := by
  unfold execRestoreManifestArrival; dsimp only
  split
  · exact True.intro
  split
  · exact True.intro
  split
  · exact True.intro
  split
  · exact (h.setPart _ _).mgmtDone _ _
  split
  · exact h.setPart _ _
  refine Canonical.pullUnits (Canonical.dropLlc ?_ _) _ _ _
  split
  · exact h.setPart _ _
  refine Canonical.setPart ?_ _ _
  exact h

theorem Canonical.putUnit {s : State} (h : Canonical s) (x : Partition) (rel : Nat) (ct : List Byte) : Canonical (s.putUnit x rel ct) :=
  Canonical.ite (h.hbm (Bank.wf_foldl (fun _ _ hb0 => Bank.wf_writeList _ _ _ hb0) _ h.1.1)) h

theorem good_execRestoreUnitRecord {s : State} (h : Canonical s) : OutGood (execRestoreUnitRecord s) := by
  unfold execRestoreUnitRecord; dsimp only
  split
  · exact True.intro
  split
  · exact True.intro
  split
  · exact True.intro
  · exact (h.putUnit _ _ _).setPart _ _

theorem good_execRestoreComplete {s : State} (h : Canonical s) : OutGood (execRestoreComplete s) := by
  unfold execRestoreComplete; dsimp only
  split
  · exact True.intro
  split
  · exact True.intro
  split
  · exact True.intro
  split
  · exact True.intro
  split
  · exact ((h.chip (Bank.wf_foldl (fun _ _ hb0 => Bank.wf_scrub _ _ _ hb0) _ h.1.2.2.2)).setPart _ _).mgmtDone _ _
  refine Canonical.mgmtDone (Canonical.setPart (Canonical.scrubSlices (Canonical.dropLlc ?_ _) _) _ _) _ _
  exact h

/-! ### Trap -/

theorem good_execAsyncTrapEntry {s : State} (h : Canonical s) : OutGood (execAsyncTrapEntry s) := by
  unfold execAsyncTrapEntry; dsimp only
  split
  · exact True.intro
  split
  · exact True.intro
  · exact (h.settleAll _).takeAsync _ _ _

theorem good_execFetchFault {s : State} (h : Canonical s) : OutGood (execFetchFault s) := by
  unfold execFetchFault; dsimp only
  split
  · exact True.intro
  split
  · exact True.intro
  split
  · split
    · exact (h.settleAll _).gangTrap _ _
    · exact h.trapOn _ _ _
  · exact True.intro

theorem Canonical.takeDebug {s : State} (h : Canonical s) (n : Nat) (x : Strand) (ts : List (Nat × Trap)) : Canonical (s.takeDebug n x ts) := by
  unfold State.takeDebug; dsimp only
  exact Canonical.foldl (fun _ _ hs => hs.onStrand _ _) _ (h.settleAll _)

theorem good_execSupervisorTrapResume {s : State} (h : Canonical s) : OutGood (execSupervisorTrapResume s) := by
  unfold execSupervisorTrapResume; dsimp only
  split
  · exact True.intro
  split
  · split
    · exact True.intro
    · split
      · exact h.killLaunch _ _
      · split
        · exact h.askStop _ _
        · exact Canonical.foldl (fun _ _ hs => hs.onStrand _ _) _ (h.settleAll _)
  · exact True.intro

/-! ### Power -/

theorem good_execReqDivWrite {s : State} (h : Canonical s) : OutGood (execReqDivWrite s) := by
  unfold execReqDivWrite; dsimp only
  refine good_onLink h ?_
  exact Canonical.ite h ((h.setCore _ _).retune _)

theorem good_execDividerRailReady {s : State} (h : Canonical s) : OutGood (execDividerRailReady s) := by
  unfold execDividerRailReady; dsimp only
  split
  · exact True.intro
  · exact ((h.settleCycles _).redivide _ _ _).setCore _ _

theorem good_execCorePowerOff {s : State} (h : Canonical s) : OutGood (execCorePowerOff s) := by
  unfold execCorePowerOff; dsimp only
  split
  · exact h.setCore _ _
  · exact True.intro

theorem good_execPowerCapWrite {s : State} (h : Canonical s) : OutGood (execPowerCapWrite s) := by
  unfold execPowerCapWrite; dsimp only
  refine good_onLink h ?_
  exact h

theorem Canonical.throttleAll (draw : Nat → Nat) (grant : Vector Nat 4) (ns : List Nat) : ∀ {s : State}, Canonical s →
    Canonical (Sys2Proof.Machine.throttleAll draw grant ns s) := by
  induction ns with
  | nil => exact fun h => h
  | cons n ns ih =>
    intro s h
    unfold Sys2Proof.Machine.throttleAll
    split
    · exact ih h
    · exact ih ((h.setCore _ _).retune _)

theorem good_execPowerPeriod {s : State} (h : Canonical s) : OutGood (execPowerPeriod s) := by
  unfold execPowerPeriod
  extract_lets p draw demand s1
  have h1 : Canonical s1 := Canonical.throttleAll _ _ _ h
  exact OutGood.ite True.intro h1

theorem good_execThermalMove {s : State} (h : Canonical s) : OutGood (execThermalMove s) := by
  unfold execThermalMove; dsimp only
  split
  · exact True.intro
  split
  · exact True.intro
  split
  · exact (h.setCore _ _).retune _
  split
  · exact (h.setCore _ _).retune _
  split
  · exact True.intro
  · exact (((h.setCore _ _).settleCore _).writeBackAll _).onStrand _ _

theorem Canonical.logMove {s : State} (h : Canonical s) (n p : Nat) : Canonical (s.logMove n p) := by
  unfold State.logMove; dsimp only
  exact ((h.free _).logDevice _ _ _).logPart _ _ _

theorem good_execThermalMoveDone {s : State} (h : Canonical s) : OutGood (execThermalMoveDone s) := by
  unfold execThermalMoveDone; dsimp only
  split
  · split
    · exact True.intro
    · exact ((((h.setCore _ _).setCore _ _).setStrand _ _).serve _).logMove _ _
  · exact True.intro

theorem good_execThermLimitCleared {s : State} (h : Canonical s) : OutGood (execThermLimitCleared s) := by
  unfold execThermLimitCleared; dsimp only
  split
  · exact (h.setCore _ _).retune _
  · exact True.intro

theorem good_execEnergyExhausted {s : State} (h : Canonical s) : OutGood (execEnergyExhausted s) := by
  unfold execEnergyExhausted; dsimp only
  split
  · exact True.intro
  split
  · exact True.intro
  split
  · exact h.setPart _ _
  · exact Canonical.foldl (fun _ _ hs => hs.energyDiv _ _) _ (h.setPart _ _)

/-! ### Debug -/

theorem Canonical.dbgStatus {s : State} (h : Canonical s) (p st : Nat) : Canonical (s.dbgStatus p st) := by
  unfold State.dbgStatus; dsimp only
  exact h.onPart _ _

theorem Canonical.haltNow {s : State} (h : Canonical s) (n : Nat) (x : Strand) : Canonical (s.haltNow n x) := by
  unfold State.haltNow; dsimp only
  refine Canonical.dbgStatus ?_ _ _
  split
  · rename_i s1 e1
    have h1 : Canonical s1 := by
      refine HomeR.Good.ok (P := Canonical) ?_ e1
      refine good_homeWrite (Canonical.foldl (fun _ _ hs => hs.onStrand _ _) _ (Canonical.foldl (fun _ _ hs => ?_) _ (h.settleAll _))) _ _ _ _
      split
      · exact Canonical.ite hs (hs.abandon _ _)
      · exact hs
    exact h1
  · refine Canonical.foldl (fun _ _ hs => hs.onStrand _ _) _ (Canonical.foldl (fun _ _ hs => ?_) _ (h.settleAll _))
    split
    · exact Canonical.ite hs (hs.abandon _ _)
    · exact hs

theorem good_debugStep {s : State} (h : Canonical s) (op : Nat) (mn : String) {f : State → Nat → Nat → State × Nat}
    (hf : ∀ s n arg, Canonical s → Canonical (f s n arg).1) : OutGood (debugStep op mn f s) := by
  refine good_onLink h ?_
  split
  · exact True.intro
  extract_lets n arg src1 s1 r
  have h1 : Canonical s1 := h.setPart _ _
  exact OutGood.ite (h1.dbgStatus _ _) ((hf s1 n arg h1).dbgStatus _ _)

theorem good_execHalt {s : State} (h : Canonical s) : OutGood (execHalt s) := by
  unfold execHalt
  refine good_debugStep h _ _ (fun s n arg hs => ?_)
  split
  · exact hs
  split
  · exact hs.haltNow _ _
  · exact Canonical.foldl (fun _ _ hs => hs.onStrand _ _) _ hs

theorem Canonical.resumeAll {s : State} (h : Canonical s) (step : Bool) (n : Nat) : Canonical (Sys2Proof.Machine.resumeAll step s n).1 := by
  unfold Sys2Proof.Machine.resumeAll; dsimp only
  split
  · exact h
  · exact Canonical.foldl (fun _ _ hs => hs.onStrand _ _) _ (h.settleAll _)

theorem good_execResume {s : State} (h : Canonical s) : OutGood (execResume s) := by
  unfold execResume
  refine good_debugStep h _ _ (fun s n arg hs => ?_)
  exact hs.resumeAll _ _

theorem good_execStep {s : State} (h : Canonical s) : OutGood (execStep s) := by
  unfold execStep
  refine good_debugStep h _ _ (fun s n arg hs => ?_)
  exact hs.resumeAll _ _

theorem good_execBreakpoint {s : State} (h : Canonical s) : OutGood (execBreakpoint s) := by
  unfold execBreakpoint; dsimp only
  refine good_debugStep h _ _ (fun s n arg hs => ?_)
  split
  · exact hs.setCore _ _
  · exact hs

theorem Canonical.readyReg {s : State} (h : Canonical s) (n : Nat) (x : Strand) (r : DbgReg) : Canonical (s.readyReg n x r) := by
  unfold State.readyReg
  split
  · exact Canonical.ite (h.fillGran _ _) h
  · exact h

theorem good_execRdreg {s : State} (h : Canonical s) : OutGood (execRdreg s) := by
  unfold execRdreg; dsimp only
  refine good_debugStep h _ _ (fun s n arg hs => ?_)
  split
  · exact hs
  split
  · exact hs
  split
  · exact hs
  split
  · exact hs
  · exact (hs.readyReg _ _ _).onPart _ _

theorem good_execWrreg {s : State} (h : Canonical s) : OutGood (execWrreg s) := by
  unfold execWrreg
  refine good_debugStep h _ _ (fun s n arg hs => ?_)
  split
  · split
    · exact hs
    · split
      · exact hs
      · split
        · exact hs
        · exact (hs.readyReg _ _ _).onStrand _ _
  · exact hs

theorem good_execCancel {s : State} (h : Canonical s) : OutGood (execCancel s) := by
  unfold execCancel; dsimp only
  refine good_debugStep h _ _ (fun s n arg hs => ?_)
  split
  · exact hs
  split
  · exact hs.setStrand _ _
  split
  · exact Canonical.foldl (fun _ _ hs => hs.dropLocks _ _) _ ((hs.setStrand _ _).idleFrom _)
  split
  · refine Canonical.foldl (fun _ _ hs => hs.dropLocks _ _) _ (Canonical.idleFrom ?_ _)
    exact hs.setStrand _ _
  · exact hs

/-! ### Translate -/

theorem Canonical.trStatus {s : State} (h : Canonical s) (p st : Nat) (res : Option W64) : Canonical (s.trStatus p st res) := by
  unfold State.trStatus; dsimp only
  exact h.onPart _ _

theorem good_translateStep {s : State} (h : Canonical s) (op : Nat) (mn : String) {f : State → Nat → Partition → State × Nat × Option W64}
    (hf : ∀ s p q, Canonical s → Canonical (f s p q).1) : OutGood (translateStep op mn f s) := by
  refine good_onLink h ?_
  split
  · exact True.intro
  · exact (hf _ _ _ (h.setPart _ _)).trStatus _ _ _

theorem good_execTranslationOpInvalid {s : State} (h : Canonical s) : OutGood (execTranslationOpInvalid s) := by
  unfold execTranslationOpInvalid; dsimp only
  split
  · exact True.intro
  refine good_translateStep h _ _ (fun s p q hs => ?_)
  exact hs

theorem Canonical.flushLlc {s : State} (h : Canonical s) (a n : Nat) (drop : Bool) : Canonical (s.flushLlc a n drop) := by
  unfold State.flushLlc; dsimp only
  split <;> exact Canonical.foldl (fun _ _ hs => hs.llcClean _) _ h

theorem Canonical.forgetRegion {s : State} (h : Canonical s) (p g : Nat) : Canonical (s.forgetRegion p g) := by
  unfold State.forgetRegion; dsimp only
  exact (h.strands (Tbl.wf_map (fun e => by split <;> rfl) h.strands_wf)).cores (Tbl.wf_map (fun e => by split <;> rfl) h.cores_wf)

theorem good_execMapr {s : State} (h : Canonical s) : OutGood (execMapr s) := by
  unfold execMapr; dsimp only
  refine good_translateStep h _ _ (fun s p q hs => ?_)
  split
  · exact hs
  split
  · exact hs
  · exact (hs.setDir _ _).forgetRegion _ _

theorem good_execUnmapr {s : State} (h : Canonical s) : OutGood (execUnmapr s) := by
  unfold execUnmapr; dsimp only
  refine good_translateStep h _ _ (fun s p q hs => ?_)
  split
  · exact hs
  split
  · exact hs
  split
  · exact hs
  · exact ((hs.flushLlc _ _ _).setDir _ _).forgetRegion _ _

theorem good_execMapp {s : State} (h : Canonical s) : OutGood (execMapp s) := by
  unfold execMapp; dsimp only
  refine good_translateStep h _ _ (fun s p q hs => ?_)
  split
  · exact hs
  split
  · exact hs
  split
  · exact hs
  · exact Canonical.setHbmWord (Canonical.ite (hs.flushLlc _ _ _) hs) _ _

theorem good_execDirty {s : State} (h : Canonical s) : OutGood (execDirty s) := by
  unfold execDirty; dsimp only
  refine good_translateStep h _ _ (fun s p q hs => ?_)
  split
  · exact hs
  split
  · exact hs
  split
  · rename_i s1 e1
    have h1 : Canonical s1 := (good_homeWrite hs _ _ _ _).ok e1
    exact Canonical.ite (h1.hbm (Bank.wf_writeList _ _ _ h1.1.1)) h1
  · split
    · split
      · exact hs.hbm (Bank.wf_writeList _ _ _ hs.1.1)
      · exact hs
    · split
      · exact hs.hbm (Bank.wf_writeList _ _ _ hs.1.1)
      · exact hs
  · exact hs

theorem good_execMigrate {s : State} (h : Canonical s) : OutGood (execMigrate s) := by
  unfold execMigrate; dsimp only
  refine good_translateStep h _ _ (fun s p q hs => ?_)
  split
  · exact hs
  split
  · exact hs
  split
  · exact hs
  split
  · exact hs
  · exact Canonical.ite ((((hs.flushLlc _ _ _).setHbmWord _ _).onPart _ _).emit _) (((hs.flushLlc _ _ _).setHbmWord _ _).onPart _ _)

theorem Canonical.moveLine {s : State} (h : Canonical s) (a : Nat) (old new : W64) (i : Nat) :
    Canonical (Sys2Proof.Machine.moveLine a old new s i) := by
  unfold Sys2Proof.Machine.moveLine; dsimp only
  exact Canonical.ite (h.host (Bank.wf_writeLine _ _ _ _ h.1.2.1)) (h.hbm (Bank.wf_writeLine _ _ _ _ h.1.1))

theorem Canonical.landPage {s : State} (h : Canonical s) (x : Partition) (a : Nat) (new : W64) (bs : List Byte) :
    Canonical (Sys2Proof.Machine.landPage s x a new bs) :=
  Canonical.foldl (fun _ _ hz => Canonical.ite (hz.host (Bank.wf_writeLine _ _ _ _ hz.1.2.1)) (hz.hbm (Bank.wf_writeLine _ _ _ _ hz.1.1))) _ h

theorem good_copyPage {s : State} (h : Canonical s) (x : Partition) (m : Migration) (bs : List Byte) :
    OptGood (fun r => Canonical r) (copyPage s x m bs) := by
  unfold Sys2Proof.Machine.copyPage; dsimp only
  split
  · split
    · exact True.intro
    · split
      · split
        · exact Canonical.sendFrames _ _ _ _ _ h
        · exact True.intro
      · exact h.landPage _ _ _ _
  · split
    · split
      · exact Canonical.sendFrames _ _ _ _ _ h
      · exact True.intro
    · exact Canonical.foldl (fun _ _ hs => hs.moveLine _ _ _ _) _ h

theorem Canonical.releaseHeld {s : State} (h : Canonical s) (a : Nat) : Canonical (s.releaseHeld a) := h

theorem Canonical.migrationSignal {s : State} (h : Canonical s) (p : Nat) (knot : W64) (err : Bool) :
    Canonical (Sys2Proof.Machine.migrationSignal s p knot err) := Canonical.ite h (h.send _)

theorem good_execMigrationComplete {s : State} (h : Canonical s) : OutGood (execMigrationComplete s) := by
  unfold execMigrationComplete; dsimp only
  split
  · exact True.intro
  split
  · split
    · exact (((h.setHbmWord _ _).onPart _ _).releaseHeld _).migrationSignal _ _ _
    · rename_i s1 e1
      have h1 : Canonical s1 := (OptGood.ite OptGood.of_none (good_copyPage h _ _ _)).some e1
      exact (((Canonical.setHbmWord (Canonical.ite (Canonical.ite (h1.hbm (Bank.wf_writeList _ _ _ h1.1.1)) h1) (Canonical.flushLlc
        (Canonical.ite (h1.hbm (Bank.wf_writeList _ _ _ h1.1.1)) h1) _ _ _)) _ _).onPart _ _).releaseHeld _).migrationSignal _ _ _
  · exact True.intro

/-! ### Outside -/

theorem good_execHostWindowRead {s : State} (h : Canonical s) : OutGood (execHostWindowRead s) := by
  unfold execHostWindowRead; dsimp only
  refine good_onLink h ?_
  split
  · exact True.intro
  · split <;> exact h.emit _

theorem Canonical.sliceWrite {s : State} (h : Canonical s) (p pa : Nat) (bs : List Byte) : Canonical (s.sliceWrite p pa bs) := by
  unfold State.sliceWrite; dsimp only
  split
  · exact (h.touch _ _).hbm (Bank.wf_writeList _ _ _ h.1.1)
  split
  · exact (h.touch _ _).llcPut _
  · exact ((h.touch _ _).hbm (Bank.wf_writeList _ _ _ ((h.touch _ _).1.1))).markDirty _ _

theorem good_execHostWindowWrite {s : State} (h : Canonical s) : OutGood (execHostWindowWrite s) := by
  unfold execHostWindowWrite; dsimp only
  split
  · exact True.intro
  refine good_onLink h ?_
  split
  · exact True.intro
  split
  · split
    · exact h.freePlace.logDevice _ _ _
    · exact (h.freePlace.logDevice _ _ _).logPart _ _ _
  · exact h.sliceWrite _ _ _

theorem Canonical.logPort {s : State} (h : Canonical s) (i sev : Nat) : Canonical (s.logPort i sev) := h.logDevice _ _ _

theorem Canonical.setPort {s : State} (h : Canonical s) (i : Nat) (f : PeerPort → PeerPort) : Canonical (s.setPort i f) := by
  unfold State.setPort; split <;> exact h

theorem good_execPortLaneFailure {s : State} (h : Canonical s) : OutGood (execPortLaneFailure s) := by
  unfold execPortLaneFailure
  split
  · exact (h.setPort _ _).logPort _ _
  · exact True.intro

theorem good_execPortDown {s : State} (h : Canonical s) : OutGood (execPortDown s) := by
  unfold execPortDown; dsimp only
  split
  · exact True.intro
  refine Canonical.logPort (Canonical.setPort ?_ _ _) _ _
  exact h

theorem good_execPortUp {s : State} (h : Canonical s) : OutGood (execPortUp s) := by
  unfold execPortUp
  split
  · exact h.setPort _ _
  · exact True.intro

theorem good_execPeerSignalRecord {s : State} (h : Canonical s) : OutGood (execPeerSignalRecord s) := by
  unfold execPeerSignalRecord; dsimp only
  split
  · exact True.intro
  split
  · exact h.logPort _ _
  · exact h.send _

theorem Canonical.answerPull {s : State} (h : Canonical s) (port knot : Nat) (err psn : Bool) :
    Canonical (Sys2Proof.Machine.answerPull s port knot err psn) := Canonical.ite h (h.emit _)

theorem good_pullRead {s : State} (h : Canonical s) (port a n : Nat) : OptGood (fun r => Canonical r.2.2.2) (pullRead s port a n) := by
  unfold Sys2Proof.Machine.pullRead
  split
  · exact True.intro
  split
  · rename_i s1 e1
    have h1 : Canonical s1 := (good_engineRead h _ _ _ _).ok e1
    exact h1
  · exact True.intro

theorem good_execPeerPullRecord {s : State} (h : Canonical s) : OutGood (execPeerPullRecord s) := by
  unfold execPeerPullRecord; dsimp only
  split
  · exact True.intro
  split
  · exact (h.logPort _ _).answerPull _ _ _ _
  rename_i s1 e1
  have h1 : Canonical s1 := (OptGood.ite OptGood.of_none (good_pullRead h _ _ _)).some e1
  exact (Canonical.sendFrames _ _ _ _ _ h1).answerPull _ _ _ _

theorem good_sendRecords (port src : Nat) (seal_ : Bool) (js : List Nat) : ∀ {s : State}, Canonical s →
    OptGood Canonical (sendRecords port src seal_ js s) := by
  induction js with
  | nil => exact fun h => h
  | cons j js ih =>
    intro s h
    unfold sendRecords
    split
    · exact True.intro
    rename_i e1
    have h1 : Canonical _ := (good_pullRead h _ _ _).some e1
    exact ih (Canonical.sendFrames _ _ _ _ _ h1)

theorem good_execPeerRestorePull {s : State} (h : Canonical s) : OutGood (execPeerRestorePull s) := by
  unfold execPeerRestorePull
  extract_lets w src units first knot sent
  have hsent : OptGood Canonical sent :=
    OptGood.ite ((good_pullRead h _ _ _).map fun _ hr => Canonical.sendFrames _ _ _ _ _ hr) (good_sendRecords _ _ _ _ h)
  have hbad : ∀ k : Nat, Canonical (answerPull (s.logPort s.op.a 2) s.op.a k true false) := fun k => (h.logPort _ _).answerPull _ _ _ _
  refine OutGood.ite True.intro (OutGood.ite (hbad _) ?_)
  clear_value sent
  cases sent with
  | none => exact hbad _
  | some s1 => exact Canonical.answerPull hsent _ _ _ _

theorem good_execPeerInboundWrite {s : State} (h : Canonical s) : OutGood (execPeerInboundWrite s) := by
  unfold execPeerInboundWrite; dsimp only
  split
  · exact True.intro
  split
  · exact h.logPort _ _
  split
  · rename_i s1 e1
    have h1 : Canonical s1 := (good_engineWrite h _ _ _ _).ok e1
    exact h1
  · exact h.logPort _ _

theorem good_execPpsLatch {s : State} (h : Canonical s) : OutGood (execPpsLatch s) := h

theorem good_execHoldoverTimeout {s : State} (h : Canonical s) : OutGood (execHoldoverTimeout s) := by
  unfold execHoldoverTimeout; dsimp only
  split
  · exact h
  · exact True.intro

theorem Canonical.poisonAt {s : State} (h : Canonical s) (k : Nat × Nat) : Canonical (s.poisonAt k) := by
  unfold State.poisonAt
  split
  · exact h.hbm (Bank.wf_setPoison _ _ h.1.1)
  · exact h.scratch (Bank.wf_setPoison _ _ h.1.2.2.1)
  · exact h.chip (Bank.wf_setPoison _ _ h.1.2.2.2)
  · exact h
  · exact h.onStrand _ _

theorem good_execHardwareError {s : State} (h : Canonical s) : OutGood (execHardwareError s) := by
  unfold execHardwareError; dsimp only
  split
  · exact True.intro
  split
  · split
    · refine Canonical.onStrand ?_ _ _
      exact h
    · exact h
  · exact Canonical.foldl (fun _ _ hs => hs.poisonAt _) _ (Canonical.ite ((h.logDevice _ _ _).logPart _ _ _) (h.logDevice _ _ _))

theorem Canonical.refillLlc {s : State} (h : Canonical s) (ks : List LlcLine) : Canonical (Sys2Proof.Machine.refillLlc ks s) :=
  Canonical.foldl (fun _ _ hs => hs.llcPut _) _ h

theorem good_execLendWrite {s : State} (h : Canonical s) : OutGood (execLendWrite s) := by
  unfold execLendWrite; dsimp only
  refine good_onLink h ?_
  split
  · exact True.intro
  split
  · exact h.onPart _ _
  split
  · exact h.onPart _ _
  · exact Canonical.onPart (Canonical.ite ((((h.setPart _ _).chip (Bank.wf_foldl (fun _ _ hb0 => Bank.wf_scrub _ _ _ hb0) _
      ((h.setPart _ _).1.2.2.2))).dropLlc _).refillLlc _) ((h.setPart _ _).chip (Bank.wf_foldl
        (fun _ _ hb0 => Bank.wf_scrub _ _ _ hb0) _ ((h.setPart _ _).1.2.2.2)))) _ _

theorem Canonical.writeBar0 {s : State} (h : Canonical s) (o v : Nat) : Canonical (Sys2Proof.Machine.writeBar0 s o v) := by
  unfold Sys2Proof.Machine.writeBar0; dsimp only
  split
  · exact h
  split
  · exact h
  split
  · exact h
  split
  · exact h
  · split <;> exact h

theorem good_execRegisterWrite {s : State} (h : Canonical s) : OutGood (execRegisterWrite s) := by
  unfold execRegisterWrite; dsimp only
  refine good_onLink h ?_
  split
  · exact h.writeBar0 _ _
  split
  · exact h
  split
  · exact h.setPart _ _
  split
  · exact h.setPart _ _
  · exact h

/-! ### Alafel -/

theorem good_execPowerOnReset {s : State} (h : Canonical s) : OutGood (execPowerOnReset s) := by
  unfold execPowerOnReset; dsimp only
  split
  · exact True.intro
  · exact h

theorem Canonical.setSpdm {s : State} (h : Canonical s) (x : Spdm) : Canonical (s.setSpdm x) := by
  unfold State.setSpdm
  split
  · exact h
  · exact h.onPart _ _

theorem Canonical.spdmAnswer {s : State} (h : Canonical s) (code : Nat) (data : List Byte) : Canonical (s.spdmAnswer code data) := by
  unfold State.spdmAnswer; dsimp only
  split
  · exact h.emit _
  · exact (h.emit _).onPart _ _

theorem Canonical.spdmError {s : State} (h : Canonical s) (code : Nat) : Canonical (s.spdmError code) := h.spdmAnswer _ _

theorem good_spdmStep {s : State} (h : Canonical s) (mn : String) (inRecovery : Bool) (ready : Spdm → Bool) {f : State → Spdm → State}
    (hf : ∀ s x, Canonical s → Canonical (f s x)) : OutGood (spdmStep mn inRecovery ready f s) := by
  unfold spdmStep
  split
  · exact True.intro
  · exact OutGood.ite True.intro (OutGood.ite h (OutGood.ite (hf _ _ h) (h.spdmError _)))

theorem Canonical.spdmOpen {s : State} (h : Canonical s) (code : Nat) : Canonical (s.spdmOpen code) := by
  unfold State.spdmOpen; dsimp only
  exact h.spdmAnswer _ _

theorem good_execGetVersion {s : State} (h : Canonical s) : OutGood (execGetVersion s) := by
  unfold execGetVersion; dsimp only
  refine good_spdmStep h _ _ _ (fun s x hs => ?_)
  exact (hs.setSpdm _).spdmOpen _

theorem good_execGetCapabilities {s : State} (h : Canonical s) : OutGood (execGetCapabilities s) := by
  unfold execGetCapabilities
  refine good_spdmStep h _ _ _ (fun s x hs => ?_)
  exact (hs.setSpdm _).spdmOpen _

theorem good_execNegotiateAlgorithms {s : State} (h : Canonical s) : OutGood (execNegotiateAlgorithms s) := by
  unfold execNegotiateAlgorithms
  refine good_spdmStep h _ _ _ (fun s x hs => ?_)
  exact (hs.setSpdm _).spdmOpen _

theorem good_execGetDigests {s : State} (h : Canonical s) : OutGood (execGetDigests s) := by
  unfold execGetDigests
  refine good_spdmStep h _ _ _ (fun s x hs => ?_)
  exact hs.spdmAnswer _ _

theorem good_execGetCertificate {s : State} (h : Canonical s) : OutGood (execGetCertificate s) := by
  unfold execGetCertificate
  refine good_spdmStep h _ _ _ (fun s x hs => ?_)
  exact Canonical.ite (hs.spdmAnswer _ _) (hs.spdmError _)

theorem good_execChallenge {s : State} (h : Canonical s) : OutGood (execChallenge s) := by
  unfold execChallenge
  refine good_spdmStep h _ _ _ (fun s x hs => ?_)
  exact Canonical.ite (hs.spdmAnswer _ _) (hs.spdmError _)

theorem good_execGetMeasurements {s : State} (h : Canonical s) : OutGood (execGetMeasurements s) := by
  unfold execGetMeasurements; dsimp only
  refine good_spdmStep h _ _ _ (fun s x hs => ?_)
  exact hs.spdmAnswer _ _

theorem good_execKeyExchange {s : State} (h : Canonical s) : OutGood (execKeyExchange s) := by
  unfold execKeyExchange
  refine good_spdmStep h _ _ _ (fun s x hs => ?_)
  exact (hs.setSpdm _).spdmOpen _

theorem good_execFinish {s : State} (h : Canonical s) : OutGood (execFinish s) := by
  unfold execFinish; dsimp only
  refine good_spdmStep h _ _ _ (fun s x hs => ?_)
  split <;> exact (hs.setSpdm _).spdmOpen _

theorem good_execKeyUpdate {s : State} (h : Canonical s) : OutGood (execKeyUpdate s) := by
  unfold execKeyUpdate
  refine good_spdmStep h _ _ _ (fun s x hs => ?_)
  exact (hs.setSpdm _).spdmOpen _

theorem good_execHeartbeat {s : State} (h : Canonical s) : OutGood (execHeartbeat s) := by
  unfold execHeartbeat
  refine good_spdmStep h _ _ _ (fun s x hs => ?_)
  exact hs.spdmOpen _

theorem good_execEndSession {s : State} (h : Canonical s) : OutGood (execEndSession s) := by
  unfold execEndSession
  refine good_spdmStep h _ _ _ (fun s x hs => ?_)
  exact (hs.spdmOpen _).setSpdm _

theorem good_execSpdmUnsupported {s : State} (h : Canonical s) : OutGood (execSpdmUnsupported s) := by
  unfold execSpdmUnsupported
  refine good_spdmStep h _ _ _ (fun s x hs => ?_)
  exact hs.spdmError _

theorem good_vendorStep {s : State} (h : Canonical s) (mn : String) {f : State → Nat → Partition → State × Nat}
    (hf : ∀ s p q, Canonical s → Canonical (f s p q).1) : OutGood (vendorStep mn f s) := by
  refine good_spdmStep h mn false _ fun s x hs => ?_
  split
  · exact hs.spdmError _
  split
  · exact hs
  · exact Canonical.ite ((hf _ _ _ hs).spdmAnswer _ _) (hs.spdmError _)

theorem good_execTckInstall {s : State} (h : Canonical s) : OutGood (execTckInstall s) := by
  unfold execTckInstall
  refine good_vendorStep h _ (fun s p q hs => ?_)
  split
  · exact hs
  · exact hs.setPart _ _

theorem good_execTckRemove {s : State} (h : Canonical s) : OutGood (execTckRemove s) := by
  unfold execTckRemove
  refine good_vendorStep h _ (fun s p q hs => ?_)
  split
  · exact hs
  split
  · exact hs
  · exact hs.setPart _ _

/-! ### Branch -/

theorem good_branchInstr {s : State} (h : Canonical s) (a b : BitVec 6) (w : BitVec 12) (cond : W64 → W64 → Bool) :
    OutGood (branchInstr a b w cond s) := by
  unfold Sys2Proof.Machine.branchInstr; dsimp only
  refine good_word (fun s hs n x => ?_) h
  split
  · exact hs
  split
  · exact True.intro
  split
  · exact hs.setStrand _ _
  · exact hs.retire _ _ _

theorem good_execJal {s : State} (h : Canonical s) (d : BitVec 6) (w : BitVec 20) : OutGood (execJal d w s) := by
  unfold execJal; dsimp only
  refine good_word (fun s hs n x => ?_) h
  split
  · exact hs
  · exact hs.setStrand _ _

theorem good_execJalr {s : State} (h : Canonical s) (d a : BitVec 6) : OutGood (execJalr d a s) := by
  unfold execJalr; dsimp only
  refine good_word (fun s hs n x => ?_) h
  split
  · exact hs
  split
  · exact True.intro
  split
  · split
    · exact hs.setStrand _ _
    · split
      · split
        · split
          · exact True.intro
          · exact hs.setStrand _ _
        · exact hs.setStrand _ _
      · exact hs.setStrand _ _
  · exact hs.setStrand _ _

/-! ### Capability -/

theorem good_capInstr {s : State} (h : Canonical s) (d : BitVec 6) (srcs : List (BitVec 6)) (lat : Nat) (f : Strand → GReg) :
    OutGood (capInstr d srcs lat f s) := by
  unfold Sys2Proof.Machine.capInstr
  refine good_word (fun s hs n x => ?_) h
  exact good_compute hs _ _ _ _ _ _ _

theorem good_execCgetb {s : State} (h : Canonical s) (d a : BitVec 6) : OutGood (execCgetb d a s) := by
  unfold execCgetb; dsimp only
  exact good_capInstr h _ _ _ _

theorem good_execCgetl {s : State} (h : Canonical s) (d a : BitVec 6) : OutGood (execCgetl d a s) := by
  unfold execCgetl; dsimp only
  exact good_capInstr h _ _ _ _

/-! ### Scalar -/

theorem good_int2 {s : State} (h : Canonical s) (d a b : BitVec 6) (k lat : Nat) (f : W64 → W64 → W64) : OutGood (int2 d a b k lat f s) := by
  unfold Sys2Proof.Machine.int2
  refine good_word (fun s hs n x => ?_) h
  exact good_compute hs _ _ _ _ _ _ _

theorem good_int1 {s : State} (h : Canonical s) (d a : BitVec 6) (f : W64 → W64) : OutGood (int1 d a f s) := by
  unfold Sys2Proof.Machine.int1
  refine good_word (fun s hs n x => ?_) h
  exact good_compute hs _ _ _ _ _ _ _

theorem good_intD {s : State} (h : Canonical s) (d : BitVec 6) (srcs : List (BitVec 6)) (f : Strand → W64) : OutGood (intD d srcs f s) := by
  unfold Sys2Proof.Machine.intD
  refine good_word (fun s hs n x => ?_) h
  exact good_compute hs _ _ _ _ _ _ _

theorem good_execLi {s : State} (h : Canonical s) (d : BitVec 6) (i : BitVec 20) : OutGood (execLi d i s) := by
  unfold execLi
  refine good_word (fun s hs n x => ?_) h
  exact good_compute hs _ _ _ _ _ _ _

theorem good_fpOp {s : State} (h : Canonical s) (d : BitVec 6) (srcs : List (BitVec 6)) (lat : Nat) (f : Strand → W32 × FFlags) :
    OutGood (fpOp d srcs lat f s) := by
  unfold Sys2Proof.Machine.fpOp; dsimp only
  refine good_word (fun s hs n x => ?_) h
  exact good_compute hs _ _ _ _ _ _ _

/-! ### Every instruction and every turn -/

/-- Every instruction, command and device step keeps the form. -/
theorem good_exec {s : State} (h : Canonical s) (i : Instr) : OutGood (exec i s) := by
  unfold exec
  cases i with
  | add | sub | mul | mulh | mulhn | div | divn | rem | remn | and_ | or_ | xor_ | shl | shr | sra | slt | sltn | min_ | max_
  | minn | maxn =>
    exact good_int2 h _ _ _ _ _ _
  | clz | ctz | popc | addi | andi | ori | xori | shli | shri | srai | slti | sltni | exts | extz => exact good_int1 h _ _ _
  | sel | ins | lih => exact good_intD h _ _ _
  | li => exact good_execLi h ..
  | fadd | fsub | fmul | ffma | fmin | fmax | fcmpEq | fcmpLt | fcmpLe | fcmpUn | fcvtiI32 | fcvtiN32 | fcvtfI32 | fcvtfN32 =>
    exact good_fpOp h _ _ _ _
  | cbnd | cbndx | cperm | caddr | cinc | cgetp | ctagt | cdom | cmov | cclrt | cinci => exact good_capInstr h _ _ _ _
  | cgetb => exact good_execCgetb h ..
  | cgetl => exact good_execCgetl h ..
  | ldb | ldbn | ldh | ldhn | ldw | ldwn | ldd => exact good_loadInstr h _ _ _ _ _ _
  | ldc => exact good_execLdc h ..
  | stb | sth | stw | std => exact good_storeInstr h _ _ _ _ _
  | stc => exact good_execStc h ..
  | pref => exact good_execPref h ..
  | wbr => exact good_execWbr h ..
  | invr => exact good_execInvr h ..
  | fence => exact good_execFence h ..
  | aadd | aand | aor | axor | amin | amax | axchg | acas => exact good_atomicInstr h _ _ _ _ _ _ _
  | beq | bne | blt | bge | bltn | bgen => exact good_branchInstr h _ _ _ _
  | jal => exact good_execJal h ..
  | jalr => exact good_execJalr h ..
  | kinit => exact good_execKinit h ..
  | sig => exact good_execSig h ..
  | wait => exact good_execWait h ..
  | kpeek => exact good_execKpeek h ..
  | kjoin => exact good_execKjoin h ..
  | waitm => exact good_execWaitm h ..
  | chadd => exact good_execChadd h ..
  | ticket => exact good_execTicket h ..
  | qpush => exact good_execQpush h ..
  | qpop => exact good_execQpop h ..
  | launch => exact good_execLaunch h ..
  | spdef => exact good_execSpdef h ..
  | spadvp => exact good_execSpadvp h ..
  | spadvc => exact good_execSpadvc h ..
  | spwaitp => exact good_execSpwaitp h ..
  | spwaitc => exact good_execSpwaitc h ..
  | sbind => exact good_execSbind h ..
  | sunbind => exact good_execSunbind h ..
  | srd => exact good_execSrd h ..
  | bara | baraX => exact good_baraInstr h _ _ _
  | barw => exact good_execBarw h ..
  | bar | exch => exact good_barInstr h _ _ _
  | vclaim => exact good_execVclaim h ..
  | vgive => exact good_execVgive h ..
  | tack => exact good_execTack h ..
  | untack => exact good_execUntack h ..
  | bob => exact good_execBob h ..
  | csrr | csrw | csrs | csrc | selvWrite | chnWrite | chlimWrite | chmodeWrite | fpCsrAccess | rlthrRead | evcntRead
  | capCsrRead | tcauseWrite =>
    exact good_csrAccess h _ _ _ _
  | trap => exact good_execTrap h ..
  | nop => exact good_execNop h ..
  | tret => exact good_execTret h ..
  | yield => exact good_execYield h ..
  | done_ => exact good_execDone h ..
  | sendx => exact good_execSendx h ..
  | enqM | enqC => exact good_enqInstr h _ _ _ _
  | enqX => exact good_execEnqX h ..
  | vadd | vsub | vmul | vfma | vfms | vfnma | vmin | vmax | vabs | vneg | vrsqe | vrcpe | vcmp | vsel | vbcst | vext | vand
  | vor | vxor | vperm | vshl | vshr | vsra | viadd | visub | vimul | vimin | vimax | vcvt | vpack | vunpk | vreda | vredx | pset
  | pand | por | pnot =>
    exact good_enterVec h _ _ _
  | vsrd | vsift | vgath | vld | vldl => exact good_enterBlocking h _ _ _ _ _ _
  | vscat | vst | vstl => exact good_enterStore h _ _ _ _ _
  | mmLdw | mmLdwQ | mmSwap | mmMma | mmMmaQ | mmMmac | mmMmacQ | mmZero | mmRldef | mmAccst | mmAccstSat | mmAccv | mmRlst
  | mmRlmrg | mmThr =>
    exact good_matNow _ _ _ h
  | cpCopy | cpMcast | cpPeer | cpFill | cpGath | cpScat => exact good_copyNow _ _ _ h
  | xcPlan => exact good_execXcPlan h ..
  | illegalInstruction => exact good_execIllegalInstruction h ..
  | hostWindowRead => exact good_execHostWindowRead h ..
  | hostWindowWrite => exact good_execHostWindowWrite h ..
  | portLaneFailure => exact good_execPortLaneFailure h ..
  | portDown => exact good_execPortDown h ..
  | peerSignalRecord => exact good_execPeerSignalRecord h ..
  | peerPullRecord => exact good_execPeerPullRecord h ..
  | peerRestorePull => exact good_execPeerRestorePull h ..
  | peerInboundWrite => exact good_execPeerInboundWrite h ..
  | restoreUnitRecord => exact good_execRestoreUnitRecord h ..
  | ppsLatch => exact good_execPpsLatch h ..
  | holdoverTimeout => exact good_execHoldoverTimeout h ..
  | powerOnReset => exact good_execPowerOnReset h ..
  | getVersion => exact good_execGetVersion h ..
  | getCapabilities => exact good_execGetCapabilities h ..
  | negotiateAlgorithms => exact good_execNegotiateAlgorithms h ..
  | getDigests => exact good_execGetDigests h ..
  | getCertificate => exact good_execGetCertificate h ..
  | challenge => exact good_execChallenge h ..
  | getMeasurements => exact good_execGetMeasurements h ..
  | keyExchange => exact good_execKeyExchange h ..
  | finish => exact good_execFinish h ..
  | keyUpdate => exact good_execKeyUpdate h ..
  | heartbeat => exact good_execHeartbeat h ..
  | endSession => exact good_execEndSession h ..
  | tckInstall => exact good_execTckInstall h ..
  | tckRemove => exact good_execTckRemove h ..
  | spdmUnsupported => exact good_execSpdmUnsupported h ..
  | split => exact good_execSplit h ..
  | merge => exact good_execMerge h ..
  | create => exact good_execCreate h ..
  | destroy => exact good_execDestroy h ..
  | destroyComplete => exact good_execDestroyComplete h ..
  | reserve => exact good_execReserve h ..
  | unreserve => exact good_execUnreserve h ..
  | squota => exact good_execSquota h ..
  | qon => exact good_execQon h ..
  | qoff => exact good_execQoff h ..
  | qoffComplete => exact good_execQoffComplete h ..
  | checkpoint => exact good_execCheckpoint h ..
  | checkpointComplete => exact good_execCheckpointComplete h ..
  | openRange => exact good_execOpenRange h ..
  | restore => exact good_execRestore h ..
  | restoreComplete => exact good_execRestoreComplete h ..
  | vdPeriodStart => exact good_execVdPeriodStart h ..
  | vdBudgetExhausted => exact good_execVdBudgetExhausted h ..
  | vdGraceExpired => exact good_execVdGraceExpired h ..
  | superstepBoundary => exact good_execSuperstepBoundary h ..
  | saveComplete => exact good_execSaveComplete h ..
  | lazyFillComplete => exact good_execLazyFillComplete h ..
  | tableBaseWrite => exact good_execTableBaseWrite h ..
  | bitmapBaseWrite => exact good_execBitmapBaseWrite h ..
  | notifyWrite => exact good_execNotifyWrite h ..
  | doorbellWrite => exact good_execDoorbellWrite h ..
  | slotIdleTimeout => exact good_execSlotIdleTimeout h ..
  | launchPacket => exact good_execLaunchPacket h ..
  | copyPacket => exact good_execCopyPacket h ..
  | signalPacket => exact good_execSignalPacket h ..
  | waitPacket => exact good_execWaitPacket h ..
  | waitPacketSatisfied => exact good_execWaitPacketSatisfied h ..
  | waitPacketTimeout => exact good_execWaitPacketTimeout h ..
  | fencePacket => exact good_execFencePacket h ..
  | fencePacketComplete => exact good_execFencePacketComplete h ..
  | launchComplete => exact good_execLaunchComplete h ..
  | builtEntryConsume => exact good_execBuiltEntryConsume h ..
  | dispatchPass => exact good_execDispatchPass h ..
  | launchHoldTimeout => exact good_execLaunchHoldTimeout h ..
  | codeCopyLanded => exact good_execCodeCopyLanded h ..
  | codeCopyFailed => exact good_execCodeCopyFailed h ..
  | largeStepStart => exact good_execLargeStepStart h ..
  | vectorArbitrate => exact good_execVectorArbitrate h ..
  | matrixArbitrate => exact good_execMatrixArbitrate h ..
  | chainedTileForward => exact good_execChainedTileForward h ..
  | matrixCommandComplete => exact good_execMatrixCommandComplete h ..
  | signalApply => exact good_execSignalApply h ..
  | waitHomeArrival => exact good_execWaitHomeArrival h ..
  | snapshotJoin => exact good_execSnapshotJoin h ..
  | waitTimeout => exact good_execWaitTimeout h ..
  | waitmWake => exact good_execWaitmWake h ..
  | barrierRelease => exact good_execBarrierRelease h ..
  | domload => exact good_execDomload h ..
  | lendWrite => exact good_execLendWrite h ..
  | reqDivWrite => exact good_execReqDivWrite h ..
  | dividerRailReady => exact good_execDividerRailReady h ..
  | powerCapWrite => exact good_execPowerCapWrite h ..
  | corePowerOff => exact good_execCorePowerOff h ..
  | powerPeriod => exact good_execPowerPeriod h ..
  | thermalMove => exact good_execThermalMove h ..
  | thermalMoveDone => exact good_execThermalMoveDone h ..
  | energyExhausted => exact good_execEnergyExhausted h ..
  | asyncTrapEntry => exact good_execAsyncTrapEntry h ..
  | storeWritebackFault => exact good_execStoreWritebackFault h ..
  | engineFailure => exact good_execEngineFailure h ..
  | hardwareError => exact good_execHardwareError h ..
  | halt => exact good_execHalt h ..
  | resume => exact good_execResume h ..
  | step => exact good_execStep h ..
  | rdreg => exact good_execRdreg h ..
  | cancel => exact good_execCancel h ..
  | breakpoint => exact good_execBreakpoint h ..
  | wrreg => exact good_execWrreg h ..
  | mapr => exact good_execMapr h ..
  | unmapr => exact good_execUnmapr h ..
  | mapp => exact good_execMapp h ..
  | dirty => exact good_execDirty h ..
  | migrate => exact good_execMigrate h ..
  | migrationComplete => exact good_execMigrationComplete h ..
  | translationOpInvalid => exact good_execTranslationOpInvalid h ..
  | llcWritebackArrival => exact good_execLlcWritebackArrival h ..
  | loadDataArrival => exact good_execLoadDataArrival h ..
  | copyBufferGrant => exact good_execCopyBufferGrant h ..
  | copyStart => exact good_execCopyStart h ..
  | copySourceDone => exact good_execCopySourceDone h ..
  | copyDataVisible => exact good_execCopyDataVisible h ..
  | spoolReservationGrant => exact good_execSpoolReservationGrant h ..
  | spoolSlotCounted => exact good_execSpoolSlotCounted h ..
  | multicastLanding => exact good_execMulticastLanding h ..
  | exchangeSend => exact good_execExchangeSend h ..
  | exchangeLanding => exact good_execExchangeLanding h ..
  | strandEnd => exact good_execStrandEnd h ..
  | registerWrite => exact good_execRegisterWrite h ..
  | portUp => exact good_execPortUp h ..
  | restoreManifestArrival => exact good_execRestoreManifestArrival h ..
  | thermLimitCleared => exact good_execThermLimitCleared h ..
  | homeAccessArrival => exact good_execHomeAccessArrival h ..
  | writeAcknowledged => exact good_execWriteAcknowledged h ..
  | supervisorTrapResume => exact good_execSupervisorTrapResume h ..
  | fetchFault => exact good_execFetchFault h ..

theorem Canonical.advanceBy (t fuel : Nat) : ∀ (past : List (Nat × Instr × StepOp)) {s : State}, Canonical s →
    Canonical (Sys2Proof.Machine.advanceBy t fuel past s) := by
  induction fuel with
  | zero => exact fun _ _ h => h
  | succ fuel ih =>
    intro past s h
    unfold Sys2Proof.Machine.advanceBy
    split
    · exact h
    · rename_i d _
      split
      · rename_i s1 e1
        have h1 : Canonical s1 := (good_exec (s := { s with tick := max s.tick d.1, op := d.2.2 }) h d.2.1).next e1
        exact ih _ (s := { s1 with op := s.op, cur := s.cur }) h1
      · exact ih _ h

theorem Canonical.advance {s : State} (h : Canonical s) (t : Nat) : Canonical (s.advance t) := Canonical.advanceBy _ _ _ h

theorem good_runWord {s : State} (h : Canonical s) (n : Nat) (x : Strand) : OutGood (runWord s n x) := by
  unfold runWord
  have h0 := good_exec h (s.fetch n x)
  split
  · rename_i s1 e1
    have h1 : Canonical s1 := h0.next e1
    exact Canonical.ite (Canonical.foldl (fun _ _ hz => hz.onStrand _ _) _ h1) h1
  · exact h0

theorem Canonical.awaitLine {s : State} (h : Canonical s) (n : Nat) (x : Strand) : Canonical (s.awaitLine n x) :=
  Canonical.foldl (fun _ _ hz => (hz.blockOn _ _).onStrand _ _) _ h

theorem good_boundaryTurn {s : State} (h : Canonical s) (n : Nat) (x : Strand) : OutGood (boundaryTurn s n x) := by
  unfold boundaryTurn
  refine OutGood.ite (h.haltNow _ _) ?_
  split
  · exact h.takeDebug _ _ _
  · refine OutGood.ite ?_ (OutGood.ite ?_ ?_)
    · exact good_exec h _
    · exact h.awaitLine n x
    · exact good_runWord h n x

theorem good_fetchTurn {s : State} (h : Canonical s) (n : Nat) (x : Strand) : OutGood (fetchTurn s n x) := by
  unfold fetchTurn
  extract_lets s1 s2
  have h1 : Canonical s1 := h.settleAll _
  have h2 : Canonical s2 := Canonical.foldl (fun _ _ hz => hz.onStrand _ _) _ (h1.gangSync _ _)
  refine OutGood.ite h1 ?_
  split
  · exact h2
  · refine OutGood.ite h2 (OutGood.ite ?_ ?_)
    · exact good_exec h2 _
    · exact good_boundaryTurn h2 _ _

theorem good_coreTurn {s : State} (h : Canonical s) (n : Nat) : OutGood (coreTurn n s) := by
  unfold coreTurn
  split
  · exact True.intro
  · extract_lets src s1
    have h1 : Canonical s1 := h.advance _
    split
    · split
      · exact True.intro
      · refine OutGood.ite ?_ (OutGood.ite ?_ (OutGood.ite ?_ (OutGood.ite ?_ ?_)))
        · exact good_exec h1 _
        · exact good_fetchTurn h1 _ _
        · split
          · exact h1
          · exact good_boundaryTurn h1 _ _
        · exact h1.fillLine _ _
        · exact good_runWord h1 _ _
    · exact True.intro

theorem good_firstStep {s : State} (h : Canonical s) (cs : List (Instr × StepOp)) : OptGood Canonical (firstStep s cs) := by
  induction cs with
  | nil => exact True.intro
  | cons c cs ih =>
    unfold firstStep
    extract_lets z
    split
    · rename_i s1 e1
      have h1 : Canonical s1 := (good_exec (s := z) h c.1).next e1
      exact OptGood.ite ih h1
    · exact ih

theorem good_takeTurn {s : State} (h : Canonical s) (t : Turn) : OutGood (takeTurn t s) := by
  cases t with
  | core n => exact OutGood.ite (good_coreTurn h n) h
  | device i op =>
    have h1 : Canonical { s with op := op } := h
    unfold takeTurn
    refine OutGood.ite (good_exec h1 i) ?_
    split
    · exact good_exec h1 _
    · exact good_exec h1 _
    · exact good_exec h1 _
    · exact h

theorem good_freeTurn {s : State} (h : Canonical s) : OutGood (freeTurn s) := by
  unfold freeTurn
  refine OutGood.ite ?_ h
  split
  · rename_i e1
    exact (good_firstStep h _).some e1
  · split
    · exact good_coreTurn h _
    · exact h.advance _

/-- Every step keeps the form: the boot, the turn that the agenda names, or what the device does of itself. -/
theorem good_step {s : State} (h : Canonical s) : OutGood (step s) := by
  show OutGood s.turn
  unfold State.turn
  refine OutGood.ite (good_exec h _) ?_
  split
  · rename_i t ts _
    exact good_takeTurn (s := { s with agenda := ts }) h t
  · exact good_freeTurn h

/-- Settles O60: the form is kept by the meaning of every instruction and step, hence by every turn. -/
theorem stepKeepsCanonicalForm : Obligations.StepKeepsCanonicalForm := by
  unfold Obligations.StepKeepsCanonicalForm
  intro s s1 hm ht e
  exact (good_step ⟨hm, ht⟩).next e

end Sys2Proof.Machine
end

section
/-! The outside of the device: what its partitions, its responder and its link do. -/
namespace Sys2Proof.Machine

/-! ### Partitions -/

@[simp] theorem State.part_setPart_same (s : State) (p : Nat) (q : Partition) : (s.setPart p q).part p = some q := by
  simp [State.part, State.setPart]

theorem State.part_setPart_other (s : State) {p r : Nat} (q : Partition) (h : r ≠ p) : (s.setPart p q).part r = s.part r := by
  simp [State.part, State.setPart, Tbl.find_put_other _ _ h]

@[simp] theorem State.part_emit (s : State) (o : Output) (p : Nat) : (s.emit o).part p = s.part p := rfl

theorem State.onPart_of_some {s : State} {p : Nat} {q : Partition} (h : s.part p = some q) (f : Partition → Partition) :
    s.onPart p f = s.setPart p (f q) := by
  simp [State.onPart, h]

theorem State.part_onPart_same {s : State} {p : Nat} {q : Partition} (h : s.part p = some q) (f : Partition → Partition) :
    (s.onPart p f).part p = some (f q) := by
  simp [State.onPart_of_some h]

/-! ### The responder's state (R25, R26) -/

/-- `t` is `s` after an answer on the request's path, which leaves the responder in state `y` and the measurements as they are. -/
def Told (s t : State) (code : Nat) (data : List Byte) (y : Spdm) : Prop :=
  t.out = s.out ++ [.spdm (spdmPath s) code data] ∧ t.spdmOf = some y ∧ t.measure = s.measure

theorem spdmPath_of_zero {s : State} (h : s.op.a = 0) : spdmPath s = none := by simp [spdmPath, h]

theorem spdmPath_of_ne {s : State} (h : s.op.a ≠ 0) : spdmPath s = some (s.op.a - 1) := by simp [spdmPath, h]

/-- On a mailbox's path the state is that of its partition. -/
theorem State.part_of_spdmOf {s : State} {x : Spdm} {p : Nat} (h : s.spdmOf = some x) (hp : spdmPath s = some p) :
    ∃ q, s.part p = some q ∧ q.spdm = x := by
  simpa [State.spdmOf, hp] using h

theorem State.spdmOf_host {s : State} (hp : spdmPath s = none) : s.spdmOf = some s.hostSpdm := by simp [State.spdmOf, hp]

theorem State.spdmOf_of_part {s : State} {p : Nat} {q : Partition} {x : Spdm} (hp : spdmPath s = some p) (h : s.part p = some q)
    (hx : q.spdm = x) : s.spdmOf = some x := by
  simp [State.spdmOf, hp, h, hx]

theorem told_spdmAnswer {s : State} {x : Spdm} (h : s.spdmOf = some x) (code : Nat) (data : List Byte) :
    Told s (s.spdmAnswer code data) code data x := by
  unfold State.spdmAnswer
  cases hp : spdmPath s with
  | none =>
    refine ⟨by simp [hp], ?_, rfl⟩
    rw [← h, State.spdmOf_host hp]
    exact State.spdmOf_host (s := s.emit _) hp
  | some p =>
    obtain ⟨q, hq, rfl⟩ := State.part_of_spdmOf h hp
    have hq' : (s.emit (.spdm (some p) code data)).part p = some q := hq
    dsimp only
    rw [State.onPart_of_some hq']
    refine ⟨by simp [hp], State.spdmOf_of_part (p := p) ?_ (State.part_setPart_same _ _ _) rfl, rfl⟩
    exact hp

/-- An answer on a mailbox's path leaves the partition's key. -/
theorem State.tck_spdmAnswer {s : State} {p : Nat} {q : Partition} (hp : spdmPath s = some p) (hq : s.part p = some q) (code : Nat)
    (data : List Byte) : ∃ r, (s.spdmAnswer code data).part p = some r ∧ r.tck = q.tck := by
  have hq' : (s.emit (.spdm (some p) code data)).part p = some q := hq
  unfold State.spdmAnswer
  rw [hp]
  exact ⟨_, State.part_onPart_same hq' _, rfl⟩

theorem told_spdmOpen {s : State} {x : Spdm} (h : s.spdmOf = some x) (code : Nat) : ∃ d, Told s (s.spdmOpen code) code d x :=
  ⟨_, told_spdmAnswer h _ _⟩

theorem told_spdmError {s : State} {x : Spdm} (h : s.spdmOf = some x) (n : Nat) : Told s (s.spdmError n) 0x7F [BitVec.ofNat 8 n] x :=
  told_spdmAnswer h _ _

/-- The responder's state is replaced and nothing else of what an answer shows. -/
theorem State.setSpdm_keeps {s : State} {x : Spdm} (h : s.spdmOf = some x) (y : Spdm) :
    (s.setSpdm y).spdmOf = some y ∧ (s.setSpdm y).out = s.out ∧ (s.setSpdm y).measure = s.measure ∧ (s.setSpdm y).op = s.op := by
  unfold State.setSpdm
  cases hp : spdmPath s with
  | none => exact ⟨State.spdmOf_host (s := { s with hostSpdm := y }) hp, rfl, rfl, rfl⟩
  | some p =>
    obtain ⟨q, hq, -⟩ := State.part_of_spdmOf h hp
    dsimp only
    rw [State.onPart_of_some hq]
    refine ⟨State.spdmOf_of_part (p := p) ?_ (State.part_setPart_same _ _ _) rfl, rfl, rfl, rfl⟩
    exact hp

theorem Told.of_keeps {s z t : State} {code : Nat} {d : List Byte} {y : Spdm} (h : Told z t code d y) (ho : z.out = s.out)
    (hm : z.measure = s.measure) (hop : z.op = s.op) : Told s t code d y := by
  have hpath : spdmPath z = spdmPath s := by simp [spdmPath, hop]
  exact ⟨by rw [h.1, ho, hpath], h.2.1, h.2.2.trans hm⟩

theorem told_setSpdm_spdmOpen {s : State} {x : Spdm} (h : s.spdmOf = some x) (y : Spdm) (code : Nat) :
    ∃ d, Told s ((s.setSpdm y).spdmOpen code) code d y := by
  obtain ⟨hy, ho, hm, hop⟩ := State.setSpdm_keeps h y
  obtain ⟨d, hd⟩ := told_spdmOpen hy code
  exact ⟨d, hd.of_keeps ho hm hop⟩

theorem Told.setSpdm {s t : State} {code : Nat} {d : List Byte} {x : Spdm} (h : Told s t code d x) (y : Spdm) :
    Told s (t.setSpdm y) code d y := by
  obtain ⟨hy, ho, hm, -⟩ := State.setSpdm_keeps h.2.1 y
  exact ⟨ho.trans h.1, hy, hm.trans h.2.2⟩

/-! ### One request (R23, R25, R38) -/

section
variable {s : State} {x : Spdm} {mn : String} {inRecovery : Bool} {ready : Spdm → Bool} {f : State → Spdm → State}

/-- The device answers at all: it runs, or it is in recovery and the request is one of those answered there. -/
def Listens (s : State) (inRecovery : Bool) : Prop := s.boot = .running ∨ (s.boot = .recovery ∧ inRecovery = true)

theorem spdmStep_of_listens (h : s.spdmOf = some x) (hp : s.spdmPassed = true) (hb : Listens s inRecovery) :
    spdmStep mn inRecovery ready f s = .next (if ready x then f s x else s.spdmError errUnexpected) := by
  have hb' : (s.boot == .rom || (s.boot == .recovery && !inRecovery)) = false := by
    rcases hb with hb | ⟨hb, rfl⟩ <;> simp [hb]
  unfold spdmStep
  simp only [h, hp, hb', Bool.not_true, Bool.false_eq_true, if_false]
  split <;> rfl

theorem spdmStep_ready (h : s.spdmOf = some x) (hp : s.spdmPassed = true) (hb : Listens s inRecovery) (hr : ready x = true) :
    spdmStep mn inRecovery ready f s = .next (f s x) := by
  rw [spdmStep_of_listens h hp hb, if_pos hr]

theorem spdmStep_unready (h : s.spdmOf = some x) (hp : s.spdmPassed = true) (hb : Listens s inRecovery) (hr : ready x = false) :
    spdmStep mn inRecovery ready f s = .next (s.spdmError errUnexpected) := by
  rw [spdmStep_of_listens h hp hb, if_neg (by simp [hr])]

theorem spdmStep_recovery (h : s.spdmOf = some x) (hp : s.spdmPassed = true) (hb : s.boot = .recovery) :
    spdmStep mn false ready f s = .next s := by
  simp [spdmStep, h, hp, hb]

end

/-- A vendor request on the host's path, or outside a session, is not supported (R25). -/
theorem vendorStep_unsupported {s : State} {x : Spdm} {mn : String} {f : State → Nat → Partition → State × Nat} (h : s.spdmOf = some x)
    (hp : s.spdmPassed = true) (hb : s.boot = .running) (hx : s.op.a = 0 ∨ x.session = false) :
    vendorStep mn f s = .next (s.spdmError errUnsupported) := by
  unfold vendorStep
  rw [spdmStep_ready h hp (.inl hb) rfl]
  cases hq : spdmPath s with
  | none => rfl
  | some p =>
    obtain ⟨q, hq', -⟩ := State.part_of_spdmOf h hq
    have ha : s.op.a ≠ 0 := fun ha => by simp [spdmPath, ha] at hq
    simp [hq', hx.resolve_left ha]

theorem vendorStep_recovery {s : State} {x : Spdm} {mn : String} {f : State → Nat → Partition → State × Nat} (h : s.spdmOf = some x)
    (hp : s.spdmPassed = true) (hb : s.boot = .recovery) : vendorStep mn f s = .next s :=
  spdmStep_recovery h hp hb

/-- A vendor request inside a session of a partition's mailbox does `f` and answers its status (R25). -/
theorem vendorStep_session {s : State} {x : Spdm} {mn : String} {f : State → Nat → Partition → State × Nat} {q : Partition}
    (h : s.spdmOf = some x) (hp : s.spdmPassed = true) (hb : s.boot = .running) (ha : s.op.a ≠ 0) (hq : s.part (s.op.a - 1) = some q)
    (hx : x.session = true) :
    vendorStep mn f s = .next ((f s (s.op.a - 1) q).1.spdmAnswer 0x7E (bytesOf (f s (s.op.a - 1) q).2 4)) := by
  unfold vendorStep
  rw [spdmStep_ready h hp (.inl hb) rfl]
  simp [spdmPath_of_ne ha, hq, hx]

end Sys2Proof.Machine
end

section
/-! Boot measurements and the responder's answers. -/
namespace Sys2Proof.Machine
open Sys2Proof.Claim

/-! ### Boot (R23, R24) -/

/-- The first stage whose image fails; 0 where none does. -/
def failedStage : Nat := ([1, 2, 3, 4].find? fun k => !imagePasses k).getD 0

theorem failedStage_eq_zero (h : ∀ k, 1 ≤ k → k ≤ 4 → imagePasses k = true) : failedStage = 0 := by
  simp [failedStage, h]

theorem failedStage_eq {k : Nat} (h1 : 1 ≤ k) (h4 : k ≤ 4) (hk : imagePasses k = false) (hj : ∀ j, 1 ≤ j → j < k → imagePasses j = true) :
    failedStage = k := by
  obtain rfl | rfl | rfl | rfl : k = 1 ∨ k = 2 ∨ k = 3 ∨ k = 4 := by omega
  all_goals simp [failedStage, hk, hj]

/-- What the boot measures at an index, with `stage` the one that failed. -/
def bootMeasure (unlocked : Bool) (stage : Nat) (i : Fin 6) : BitVec 512 :=
  if i.val = 0 then Config.shake256 Config.romFuse
  else if i.val = 5 then lifecycle unlocked stage
  else if stage = 0 ∨ i.val < stage then Config.shake256 (Config.firmware i.val) else 0

theorem exec_powerOnReset {s : State} (h : s.boot = .rom) : Sys2Proof.Machine.exec .powerOnReset s =
    .next { s with boot := if failedStage = 0 then .running else .recovery, failStage := failedStage
                   measure := Vector.ofFn (bootMeasure s.debugUnlocked failedStage) } := by
  show execPowerOnReset s = _
  unfold execPowerOnReset
  rw [if_neg (by simp [h])]
  rfl

theorem bootMeasure_stage (u : Bool) (stage : Nat) {j : Fin 6} (h1 : 1 ≤ j.val) (h4 : j.val ≤ 4) :
    bootMeasure u stage j = if stage = 0 ∨ j.val < stage then Config.shake256 (Config.firmware j) else 0 := by
  rw [bootMeasure, if_neg (by omega), if_neg (by omega)]

theorem boot_measures (s : State) (h : s.boot = .rom) :
    ∃ t, Sys2Proof.Machine.exec .powerOnReset s = .next t ∧ t.measure[0] = Config.shake256 Config.romFuse ∧
      ((∀ k, 1 ≤ k → k ≤ 4 → imagePasses k = true) → t.boot = .running ∧ t.failStage = 0 ∧
        ∀ k : Fin 6, 1 ≤ k.val → k.val ≤ 4 → t.measure[k] = Config.shake256 (Config.firmware k)) ∧
      ∀ k, 1 ≤ k → k ≤ 4 → imagePasses k = false → (∀ j, 1 ≤ j → j < k → imagePasses j = true) → t.boot = .recovery ∧ t.failStage = k ∧
        ∀ j : Fin 6, 1 ≤ j.val → j.val ≤ 4 → t.measure[j] = if j.val < k then Config.shake256 (Config.firmware j) else 0 := by
  refine ⟨_, exec_powerOnReset h, (Vector.getElem_ofFn _).trans (if_pos rfl), fun hall => ?_, fun k h1 h4 hk hj => ?_⟩
  · rw [failedStage_eq_zero hall]
    exact ⟨rfl, rfl, fun k hk1 hk4 => (Vector.getElem_ofFn _).trans ((bootMeasure_stage _ _ hk1 hk4).trans (if_pos (.inl rfl)))⟩
  · have hk0 : k ≠ 0 := by omega
    rw [failedStage_eq h1 h4 hk hj]
    refine ⟨if_neg hk0, rfl, fun j hj1 hj4 => ?_⟩
    exact (Vector.getElem_ofFn _).trans ((bootMeasure_stage _ _ hj1 hj4).trans (if_congr (or_iff_right hk0) rfl rfl))

/-! ### Answers to requests (R25, R26) -/

/-- Request `i` is answered with `code` and `data`; the responder is in state `y` then. -/
def Tells (i : Instr) (s : State) (code : Nat) (data : List Byte) (y : Spdm) : Prop :=
  ∃ t, Sys2Proof.Machine.exec i s = .next t ∧ Told s t code data y

section
variable {s : State} {x y : Spdm} {i : Instr} {mn : String} {inRecovery : Bool} {ready : Spdm → Bool} {f : State → Spdm → State}
  {code : Nat} {d : List Byte}

theorem tells_ready (he : Sys2Proof.Machine.exec i s = spdmStep mn inRecovery ready f s) (h : s.spdmOf = some x) (hp : s.spdmPassed = true)
    (hb : Listens s inRecovery) (hr : ready x = true) (ht : Told s (f s x) code d y) : Tells i s code d y :=
  ⟨_, he.trans (spdmStep_ready h hp hb hr), ht⟩

theorem answers_ready (he : Sys2Proof.Machine.exec i s = spdmStep mn inRecovery ready f s) (h : s.spdmOf = some x) (hp : s.spdmPassed = true)
    (hb : Listens s inRecovery) (hr : ready x = true) (ht : ∃ d, Told s (f s x) code d y) : ∃ d, Tells i s code d y :=
  ht.imp fun _ ht => tells_ready he h hp hb hr ht

theorem tells_unexpected (he : Sys2Proof.Machine.exec i s = spdmStep mn inRecovery ready f s) (h : s.spdmOf = some x)
    (hp : s.spdmPassed = true) (hb : Listens s inRecovery) (hr : ready x = false) : Tells i s 0x7F [BitVec.ofNat 8 4] x :=
  ⟨_, he.trans (spdmStep_unready h hp hb hr), told_spdmError h 4⟩

end

/-! The meaning of each request. -/

theorem exec_getVersion (s : State) : Sys2Proof.Machine.exec .getVersion s = execGetVersion s := rfl
theorem exec_getCapabilities (s : State) : Sys2Proof.Machine.exec .getCapabilities s = execGetCapabilities s := rfl
theorem exec_negotiateAlgorithms (s : State) : Sys2Proof.Machine.exec .negotiateAlgorithms s = execNegotiateAlgorithms s := rfl
theorem exec_getDigests (s : State) : Sys2Proof.Machine.exec .getDigests s = execGetDigests s := rfl
theorem exec_getCertificate (s : State) : Sys2Proof.Machine.exec .getCertificate s = execGetCertificate s := rfl
theorem exec_challenge (s : State) : Sys2Proof.Machine.exec .challenge s = execChallenge s := rfl
theorem exec_getMeasurements (s : State) : Sys2Proof.Machine.exec .getMeasurements s = execGetMeasurements s := rfl
theorem exec_keyExchange (s : State) : Sys2Proof.Machine.exec .keyExchange s = execKeyExchange s := rfl
theorem exec_finish (s : State) : Sys2Proof.Machine.exec .finish s = execFinish s := rfl
theorem exec_keyUpdate (s : State) : Sys2Proof.Machine.exec .keyUpdate s = execKeyUpdate s := rfl
theorem exec_heartbeat (s : State) : Sys2Proof.Machine.exec .heartbeat s = execHeartbeat s := rfl
theorem exec_endSession (s : State) : Sys2Proof.Machine.exec .endSession s = execEndSession s := rfl
theorem exec_spdmUnsupported (s : State) : Sys2Proof.Machine.exec .spdmUnsupported s = execSpdmUnsupported s := rfl
theorem exec_tckInstall (s : State) : Sys2Proof.Machine.exec .tckInstall s = execTckInstall s := rfl
theorem exec_tckRemove (s : State) : Sys2Proof.Machine.exec .tckRemove s = execTckRemove s := rfl

/-- In recovery and running alike: the requests that R23 answers in both. -/
theorem basic_answers {s : State} {x : Spdm} (h : s.spdmOf = some x) (hp : s.spdmPassed = true) (hb : Listens s true) :
    (∃ d, Tells .getVersion s 0x04 d { Spdm.reset with version := true }) ∧
    (x.version = true → ∃ d, Tells .getCapabilities s 0x61 d { x with caps := true }) ∧
    (x.version = false → Tells .getCapabilities s 0x7F [BitVec.ofNat 8 4] x) := by
  refine ⟨answers_ready (exec_getVersion s) h hp hb rfl ?_, fun hv => answers_ready (exec_getCapabilities s) h hp hb hv ?_, fun hv => ?_⟩
  · exact told_setSpdm_spdmOpen h _ _
  · exact told_setSpdm_spdmOpen h _ _
  · exact tells_unexpected (exec_getCapabilities s) h hp hb hv

/-! ### Measurements (R24, R26) -/

/-- The device's own measurements with their indices. -/
theorem State.measurements_host {s : State} (h : s.op.a = 0) : s.measurements = (List.range 6).zip s.measure.toList := by
  simp [State.measurements, spdmPath_of_zero h]

theorem State.measurements_part {s : State} {q : Partition} (h : s.op.a ≠ 0) (hq : s.part (s.op.a - 1) = some q) :
    s.measurements = (List.range 6).zip s.measure.toList ++ [(0x10, q.m10), (0x11, q.m11), (0x12, q.m12)] := by
  simp [State.measurements, spdmPath_of_ne h, hq]

/-- The device's measurements by index. -/
theorem zip_measure (s : State) : (List.range 6).zip s.measure.toList =
    [(0, s.measure[0]), (1, s.measure[1]), (2, s.measure[2]), (3, s.measure[3]), (4, s.measure[4]), (5, s.measure[5])] := by
  have hm : s.measure.toList = [s.measure[0], s.measure[1], s.measure[2], s.measure[3], s.measure[4], s.measure[5]] := by
    apply List.ext_getElem (by simp)
    intro i h1 h2
    simp only [Vector.length_toList] at h1
    interval_cases i <;> simp
  rw [hm]
  rfl

theorem tells_getMeasurements {s : State} {x : Spdm} (h : s.spdmOf = some x) (hp : s.spdmPassed = true) (hb : Listens s true)
    (hr : x.algs = true ∨ (x.version = true ∧ s.boot = .recovery)) {ms : List (Nat × BitVec 512)}
    (hms : s.measurements.filter (fun m => s.op.b == 0xFF || m.1 == s.op.b) = ms) :
    Tells .getMeasurements s 0x60 (ms.flatMap fun m => BitVec.ofNat 8 m.1 :: bytesOf m.2.toNat 64) x := by
  refine tells_ready (exec_getMeasurements s) h hp hb ?_ ?_
  · rcases hr with hr | ⟨hv, hr⟩ <;> simp [*]
  · rw [← hms]
    exact told_spdmAnswer h _ _

/-- One measurement of the device by its index. -/
theorem reads_device {s : State} {x : Spdm} (h : s.spdmOf = some x) (hp : s.spdmPassed = true) (hb : Listens s true)
    (hr : x.algs = true ∨ (x.version = true ∧ s.boot = .recovery)) (k : Fin 6) (hk : s.op.b = k) :
    Tells .getMeasurements s 0x60 (BitVec.ofNat 8 k :: bytesOf s.measure[k].toNat 64) x := by
  have key : s.measurements.filter (fun m => s.op.b == 0xFF || m.1 == s.op.b) = [(k.val, s.measure[k])] := by
    by_cases ha : s.op.a = 0
    · rw [State.measurements_host ha, zip_measure]
      fin_cases k <;> simp [hk]
    · obtain ⟨q, hq, -⟩ := State.part_of_spdmOf h (spdmPath_of_ne ha)
      rw [State.measurements_part ha hq, zip_measure]
      fin_cases k <;> simp [hk]
  simpa using tells_getMeasurements h hp hb hr key

/-- A partition's measurement by its index, on the mailbox of that partition. -/
theorem reads_part {s : State} {x : Spdm} {q : Partition} (h : s.spdmOf = some x) (hp : s.spdmPassed = true) (hb : Listens s true)
    (hr : x.algs = true) (ha : s.op.a ≠ 0) (hq : s.part (s.op.a - 1) = some q) {n : Nat} {m : BitVec 512}
    (hm : (n, m) ∈ [(0x10, q.m10), (0x11, q.m11), (0x12, q.m12)]) (hn : s.op.b = n) :
    Tells .getMeasurements s 0x60 (BitVec.ofNat 8 n :: bytesOf m.toNat 64) x := by
  have key : s.measurements.filter (fun m => s.op.b == 0xFF || m.1 == s.op.b) = [(n, m)] := by
    rw [State.measurements_part ha hq, zip_measure]
    simp only [List.mem_cons, Prod.mk.injEq, List.not_mem_nil, or_false] at hm
    obtain ⟨rfl, rfl⟩ | ⟨rfl, rfl⟩ | ⟨rfl, rfl⟩ := hm
    all_goals simp [hn]
  simpa using tells_getMeasurements h hp hb (.inl hr) key

/-- On the host's path the partitions' measurements are not seen. -/
theorem reads_none {s : State} {x : Spdm} (h : s.spdmOf = some x) (hp : s.spdmPassed = true) (hb : Listens s true) (hr : x.algs = true)
    (ha : s.op.a = 0) (h10 : 0x10 ≤ s.op.b) (h12 : s.op.b ≤ 0x12) : Tells .getMeasurements s 0x60 [] x := by
  have key : s.measurements.filter (fun m => s.op.b == 0xFF || m.1 == s.op.b) = [] := by
    rw [State.measurements_host ha, zip_measure]
    obtain hb | hb | hb : s.op.b = 0x10 ∨ s.op.b = 0x11 ∨ s.op.b = 0x12 := by omega
    all_goals simp [hb]
  simpa using tells_getMeasurements h hp hb (.inl hr) key

/-! ### A running device (R25, R26) -/

section
variable {s : State} {x : Spdm} (h : s.spdmOf = some x) (hp : s.spdmPassed = true) (hb : s.boot = .running)
include h hp hb

theorem tells_identity (hx : x.algs = true) :
    Tells .getDigests s 0x01 (bytesOf (Config.shake256 Config.certChain).toNat 64) x ∧
    (s.op.b = 0 → Tells .getCertificate s 0x02 ((Config.certChain.drop s.op.c).take s.op.d) x ∧
      Tells .challenge s 0x03 (Config.identitySign s.op.data) x) ∧
    (s.op.b ≠ 0 → Tells .getCertificate s 0x7F [BitVec.ofNat 8 1] x ∧ Tells .challenge s 0x7F [BitVec.ofNat 8 1] x) := by
  refine ⟨tells_ready (exec_getDigests s) h hp (.inl hb) hx (told_spdmAnswer h _ _), fun h0 => ⟨?_, ?_⟩, fun h0 => ⟨?_, ?_⟩⟩
  · exact tells_ready (exec_getCertificate s) h hp (.inl hb) hx (by rw [if_pos h0]; exact told_spdmAnswer h _ _)
  · exact tells_ready (exec_challenge s) h hp (.inl hb) hx (by rw [if_pos h0]; exact told_spdmAnswer h _ _)
  · exact tells_ready (exec_getCertificate s) h hp (.inl hb) hx (by rw [if_neg h0]; exact told_spdmError h _)
  · exact tells_ready (exec_challenge s) h hp (.inl hb) hx (by rw [if_neg h0]; exact told_spdmError h _)

theorem answers_keyExchange (hx : x.algs = true) : ∃ d, Tells .keyExchange s 0x64 d { x with exchanged := true } :=
  answers_ready (exec_keyExchange s) h hp (.inl hb) hx (told_setSpdm_spdmOpen h _ _)

theorem answers_finish (hx : x.exchanged = true) : (∃ d, Tells .finish s 0x65 d { x with session := true }) ∧
    (s.op.a = 0 → ∃ t, Sys2Proof.Machine.exec .finish s = .next t ∧ t.ide = true) := by
  constructor
  · refine answers_ready (exec_finish s) h hp (.inl hb) hx ?_
    obtain ⟨d, hd⟩ := told_setSpdm_spdmOpen h { x with session := true } 0x65
    refine ⟨d, ?_⟩
    dsimp only
    split
    · exact hd
    · exact hd
  · exact fun ha => ⟨_, (exec_finish s).trans (spdmStep_ready h hp (.inl hb) hx), by simp [ha]⟩

theorem answers_session (hx : x.session = true) :
    (∃ d, Tells .keyUpdate s 0x69 d { x with updates := x.updates + 1 }) ∧ (∃ d, Tells .heartbeat s 0x68 d x) ∧
    ∃ d, Tells .endSession s 0x6C d { x with session := false, exchanged := false } := by
  refine ⟨answers_ready (exec_keyUpdate s) h hp (.inl hb) hx (told_setSpdm_spdmOpen h _ _),
    answers_ready (exec_heartbeat s) h hp (.inl hb) hx (told_spdmOpen h _), answers_ready (exec_endSession s) h hp (.inl hb) hx ?_⟩
  obtain ⟨d, hd⟩ := told_spdmOpen h 0x6C
  exact ⟨d, hd.setSpdm _⟩

theorem tells_no_session (hx : x.session = false) : Tells .keyUpdate s 0x7F [BitVec.ofNat 8 4] x ∧
    Tells .heartbeat s 0x7F [BitVec.ofNat 8 4] x ∧ Tells .endSession s 0x7F [BitVec.ofNat 8 4] x :=
  ⟨tells_unexpected (exec_keyUpdate s) h hp (.inl hb) hx, tells_unexpected (exec_heartbeat s) h hp (.inl hb) hx,
    tells_unexpected (exec_endSession s) h hp (.inl hb) hx⟩

theorem tells_unsupported : Tells .spdmUnsupported s 0x7F [BitVec.ofNat 8 7] x :=
  tells_ready (exec_spdmUnsupported s) h hp (.inl hb) rfl (told_spdmError h _)

theorem tells_vendor_unsupported (hx : s.op.a = 0 ∨ x.session = false) :
    Tells .tckInstall s 0x7F [BitVec.ofNat 8 7] x ∧ Tells .tckRemove s 0x7F [BitVec.ofNat 8 7] x :=
  ⟨⟨_, (exec_tckInstall s).trans (vendorStep_unsupported h hp hb hx), told_spdmError h _⟩,
    ⟨_, (exec_tckRemove s).trans (vendorStep_unsupported h hp hb hx), told_spdmError h _⟩⟩

end

/-! ### Tenant checkpoint keys (R21, R25) -/

/-- A vendor request answers `status`, and the partition holds `key` then. -/
def Vendor (i : Instr) (s : State) (x : Spdm) (status : Nat) (key : Option (W64 × W256)) : Prop :=
  Tells i s 0x7E (bytesOf status 4) x ∧
    ∃ t r, Sys2Proof.Machine.exec i s = .next t ∧ t.part (s.op.a - 1) = some r ∧ r.tck = key

section
variable {s : State} {x : Spdm} {q : Partition} {i : Instr} {mn : String} {f : State → Nat → Partition → State × Nat}
  (he : Sys2Proof.Machine.exec i s = vendorStep mn f s) (h : s.spdmOf = some x) (hp : s.spdmPassed = true) (hb : s.boot = .running)
  (ha : s.op.a ≠ 0) (hq : s.part (s.op.a - 1) = some q) (hx : x.session = true)
include he h hp hb ha hq hx

/-- What a vendor request has done is answered; `z` is the state before the answer. -/
theorem vendor_of_eq {z : State} {status : Nat} {r : Partition} (hf : f s (s.op.a - 1) q = (z, status)) (hz : z.spdmOf = some x)
    (hr : z.part (s.op.a - 1) = some r) (ho : z.out = s.out) (hm : z.measure = s.measure) (hop : z.op = s.op) :
    Vendor i s x status r.tck := by
  have hv := he.trans (vendorStep_session h hp hb ha hq hx)
  rw [hf] at hv
  have hpath : spdmPath z = some (s.op.a - 1) := by rw [spdmPath, hop]; exact spdmPath_of_ne ha
  obtain ⟨r', hr', hk⟩ := State.tck_spdmAnswer hpath hr 0x7E (bytesOf status 4)
  exact ⟨⟨_, hv, (told_spdmAnswer hz _ _).of_keeps ho hm hop⟩, _, r', hv, hr', hk⟩

/-- A vendor request that changes nothing. -/
theorem vendor_same {status : Nat} (hf : f s (s.op.a - 1) q = (s, status)) : Vendor i s x status q.tck :=
  vendor_of_eq he h hp hb ha hq hx hf h hq rfl rfl rfl

/-- A vendor request that sets the partition's key. -/
theorem vendor_setTck {status : Nat} {key : Option (W64 × W256)}
    (hf : f s (s.op.a - 1) q = (s.setPart (s.op.a - 1) { q with tck := key }, status)) : Vendor i s x status key := by
  have hspdm : q.spdm = x := by
    obtain ⟨q', hq', rfl⟩ := State.part_of_spdmOf h (spdmPath_of_ne ha)
    exact congrArg Partition.spdm (Option.some.inj (hq.symm.trans hq'))
  exact vendor_of_eq he h hp hb ha hq hx hf (State.spdmOf_of_part (spdmPath_of_ne ha) (State.part_setPart_same _ _ _) hspdm)
    (State.part_setPart_same _ _ _) rfl rfl rfl

end

theorem vendor_tck {s : State} {x : Spdm} {q : Partition} (h : s.spdmOf = some x) (hp : s.spdmPassed = true) (hb : s.boot = .running)
    (ha : s.op.a ≠ 0) (hq : s.part (s.op.a - 1) = some q) (hx : x.session = true) :
    (s.op.c = 0 → 0 < s.op.b → s.op.b < 2 ^ 64 → Vendor .tckInstall s x 0 (some (BitVec.ofNat 64 s.op.b, s.op.w))) ∧
    (s.op.c ≠ 0 ∨ s.op.b = 0 ∨ 2 ^ 64 ≤ s.op.b → Vendor .tckInstall s x 2 q.tck) ∧
    (∀ id k, q.tck = some (id, k) → s.op.c = 0 → s.op.b = id.toNat → Vendor .tckRemove s x 0 none) ∧
    (q.tck = none → Vendor .tckRemove s x 2 none) := by
  refine ⟨fun hc h0 h64 => ?_, fun hbad => ?_, fun id k hk hc hid => ?_, fun hk => ?_⟩
  · exact vendor_setTck (exec_tckInstall s) h hp hb ha hq hx (if_neg (by omega))
  · exact vendor_same (exec_tckInstall s) h hp hb ha hq hx (if_pos hbad)
  · exact vendor_setTck (exec_tckRemove s) h hp hb ha hq hx (by simp [hk, hc, hid, stOk])
  · exact hk ▸ vendor_same (exec_tckRemove s) h hp hb ha hq hx (by simp [hk, stInvalid])

/-! ### Recovery (R23) -/

theorem silent_in_recovery {s : State} {x : Spdm} (h : s.spdmOf = some x) (hp : s.spdmPassed = true) (hb : s.boot = .recovery) :
    ∀ i ∈ [Instr.negotiateAlgorithms, .getDigests, .getCertificate, .challenge, .keyExchange, .finish, .keyUpdate, .heartbeat,
      .endSession, .tckInstall, .tckRemove, .spdmUnsupported], Sys2Proof.Machine.exec i s = .next s := by
  simp only [List.forall_mem_cons, List.not_mem_nil, false_implies, implies_true, and_true]
  have silent : ∀ {mn : String} {ready : Spdm → Bool} {f : State → Spdm → State}, spdmStep mn false ready f s = .next s :=
    spdmStep_recovery h hp hb
  exact ⟨(exec_negotiateAlgorithms s).trans silent, (exec_getDigests s).trans silent, (exec_getCertificate s).trans silent,
    (exec_challenge s).trans silent, (exec_keyExchange s).trans silent, (exec_finish s).trans silent, (exec_keyUpdate s).trans silent,
    (exec_heartbeat s).trans silent, (exec_endSession s).trans silent, (exec_tckInstall s).trans (vendorStep_recovery h hp hb),
    (exec_tckRemove s).trans (vendorStep_recovery h hp hb),
    (exec_spdmUnsupported s).trans silent⟩

/-- Settles O46: the boot measures in order, and each request is answered by its turn in the responder's order. -/
theorem attestation : Obligations.Attestation := by
  unfold Obligations.Attestation
  refine fun s => ⟨boot_measures s, fun x h hp => ⟨fun hb => ?_, fun hb => ?_, silent_in_recovery h hp⟩⟩
  · have hl : Listens s true := by
      cases hs : s.boot with
      | rom => exact absurd hs hb
      | running => exact .inl hs
      | recovery => exact .inr ⟨hs, rfl⟩
    obtain ⟨hver, hcap, hbad⟩ := basic_answers h hp hl
    exact ⟨hver, hcap, hbad, reads_device h hp hl⟩
  · refine ⟨fun hx => answers_ready (exec_negotiateAlgorithms s) h hp (.inl hb) hx (told_setSpdm_spdmOpen h _ _), fun hx => ?_,
      answers_finish h hp hb, answers_session h hp hb, tells_no_session h hp hb, tells_unsupported h hp hb,
      tells_vendor_unsupported h hp hb, fun q => vendor_tck h hp hb⟩
    obtain ⟨hdig, hslot, hother⟩ := tells_identity h hp hb hx
    refine ⟨hdig, hslot, hother, reads_none h hp (.inl hb) hx, fun q ha hq => ?_, answers_keyExchange h hp hb hx⟩
    exact ⟨reads_part h hp (.inl hb) hx ha hq (by simp), reads_part h hp (.inl hb) hx ha hq (by simp),
      reads_part h hp (.inl hb) hx ha hq (by simp)⟩

end Sys2Proof.Machine
end

section
/-! What the outside does to the device: the host's window, peer ports, time, detected errors, lent ways and register writes. -/
namespace Sys2Proof.Machine

/-! ### Logged events (R37) -/

/-- One event more in the device log; messages and memories are as they were. -/
def Logged (s t : State) : Prop :=
  t.logCount = s.logCount + 1 ∧ t.flight = s.flight ∧ t.hbm = s.hbm ∧ t.scratch = s.scratch ∧ t.llc = s.llc

theorem logged_logDevice (s : State) (e : ErrInfo) (place unit : Nat) : Logged s (s.logDevice e place unit) := by
  unfold Logged State.logDevice
  exact ⟨rfl, rfl, rfl, rfl, rfl⟩

theorem logged_logPort (s : State) (i sev : Nat) : Logged s (s.logPort i sev) := logged_logDevice _ _ _ _

/-- A change of one partition leaves what an event changes alone. -/
theorem Logged.onPart {s t : State} (h : Logged s t) (p : Nat) (f : Partition → Partition) : Logged s (t.onPart p f) := by
  unfold State.onPart
  split
  · exact h
  · exact h

theorem Logged.emit {s t : State} (h : Logged s t) (o : Output) : Logged s (t.emit o) := h

/-- A change of one port too. -/
theorem Logged.of_setPort {s t : State} {i : Nat} {f : PeerPort → PeerPort} (h : Logged (s.setPort i f) t) : Logged s t := by
  unfold State.setPort at h
  split at h
  · exact h
  · exact h

/-! ### The host's window (R10, R11) -/

theorem onLink_up {s : State} (h : s.linkUp = true) (f : Out) : onLink s f = f := if_pos h

theorem onLink_down {s : State} (h : s.linkUp = false) (f : Out) : onLink s f = .next (s.emit .unsupported) := if_neg (by simp [h])

section
variable {s : State} (hlink : s.linkUp = true) (haligned : s.op.b % 64 = 0) (hend : s.op.b < 0x6000000000)
include hlink haligned hend

omit hlink in
/-- The window's offset names a line inside the window. -/
theorem window_offset : s.op.b / 64 * 64 = s.op.b ∧ ¬128 * 0xC0000000 ≤ s.op.b := by omega

theorem hostWindowRead_unopened (h : s.openedBy s.op.b = none) :
    ∃ d, Sys2Proof.Machine.exec .hostWindowRead s = .next (s.emit (.hostRead d true)) := by
  obtain ⟨hline, hinside⟩ := window_offset haligned hend
  refine ⟨List.replicate 64 0, ?_⟩
  show execHostWindowRead s = _
  simp only [execHostWindowRead, onLink_up hlink, hline, hinside, if_false, h]

theorem hostWindowRead_opened {p : Nat} (h : s.openedBy s.op.b = some p)
    (hcache : ∀ v, s.physLine p (windowAddr s.op.b) = some v → s.llcLine (v.1 / 256) = none) :
    Sys2Proof.Machine.exec .hostWindowRead s =
      .next (s.emit (.hostRead (s.hbm.readList (windowAddr s.op.b) 64) (s.hbm.poisoned (windowAddr s.op.b)))) := by
  obtain ⟨hline, hinside⟩ := window_offset haligned hend
  have hnone : ((s.physLine p (windowAddr s.op.b)).bind fun v => s.llcLine (v.1 / 256)) = none := Option.bind_eq_none_iff.2 hcache
  show execHostWindowRead s = _
  simp only [execHostWindowRead, onLink_up hlink, hline, hinside, if_false, h, State.sliceRead, hnone]

theorem hostWindowWrite_opened (hlen : s.op.data.length = 64) {p : Nat} (h : s.openedBy s.op.b = some p)
    (hline : s.physLine p (windowAddr s.op.b) = none) (hwf : s.hbm.wf = true) :
    ∃ t, Sys2Proof.Machine.exec .hostWindowWrite s = .next t ∧ t.hbm.readList (windowAddr s.op.b) 64 = s.op.data ∧
      ∀ k, k < windowAddr s.op.b ∨ windowAddr s.op.b + 64 ≤ k → t.hbm.read k = s.hbm.read k := by
  obtain ⟨-, hinside⟩ := window_offset haligned hend
  have hlength : ¬(s.op.data.length = 0 ∨ 64 < s.op.b % 64 + s.op.data.length) := by omega
  refine ⟨s.sliceWrite p (windowAddr s.op.b) s.op.data, ?_, ?_, fun k hk => ?_⟩
  · show execHostWindowWrite s = _
    simp only [execHostWindowWrite, hlength, onLink_up hlink, hinside, if_false, h]
  · simp only [State.sliceWrite, hline]
    exact hlen ▸ Bank.readList_writeList s.op.data s.hbm _ hwf
  · simp only [State.sliceWrite, hline]
    exact Bank.read_writeList_other _ _ (hlen.symm ▸ hk)

theorem hostWindowWrite_unopened (hlen : s.op.data.length = 64) (h : s.openedBy s.op.b = none) :
    ∃ t, Sys2Proof.Machine.exec .hostWindowWrite s = .next t ∧ Logged s t := by
  obtain ⟨-, hinside⟩ := window_offset haligned hend
  have hlength : ¬(s.op.data.length = 0 ∨ 64 < s.op.b % 64 + s.op.data.length) := by omega
  show ∃ t, execHostWindowWrite s = .next t ∧ _
  simp only [execHostWindowWrite, hlength, onLink_up hlink, hinside, if_false, h]
  cases s.partOfSlice (s.op.b / 0xC0000000) with
  | none => exact ⟨_, rfl, logged_logDevice s.freePlace.2 _ _ _⟩
  | some p => exact ⟨_, rfl, (logged_logDevice s.freePlace.2 _ _ _).onPart _ _⟩

end

/-- Without IDE each request on the host's link fails. -/
theorem unsupported_without_link {s : State} (h : s.linkUp = false) (hlen : s.op.data.length = 64) (haligned : s.op.b % 64 = 0) :
    ∀ j ∈ [Instr.hostWindowRead, .hostWindowWrite, .lendWrite, .registerWrite, .domload, .tableBaseWrite, .bitmapBaseWrite, .doorbellWrite,
      .reqDivWrite, .powerCapWrite], Sys2Proof.Machine.exec j s = .next (s.emit .unsupported) := by
  have hwrite : Sys2Proof.Machine.exec .hostWindowWrite s = .next (s.emit .unsupported) := by
    show execHostWindowWrite s = _
    unfold execHostWindowWrite
    rw [if_neg (by omega), onLink_down h]
  simp only [List.forall_mem_cons, List.not_mem_nil, false_imp_iff, implies_true, and_true]
  exact ⟨onLink_down h _, hwrite, onLink_down h _, onLink_down h _, onLink_down h _, onLink_down h _, onLink_down h _, onLink_down h _,
    onLink_down h _, onLink_down h _⟩

/-! ### Peer ports (R13, R14) -/

theorem State.lt_of_portUp {s : State} {i : Nat} (h : s.portUp i = true) : i < 12 := by
  by_contra hi
  simp [State.portUp, hi] at h

theorem State.setPort_of_lt (s : State) {i : Nat} (h : i < 12) (f : PeerPort → PeerPort) :
    s.setPort i f = { s with ports := s.ports.set i (f s.ports[i]) } := dif_pos h

@[simp] theorem State.ports_logPort (s : State) (j sev : Nat) : (s.logPort j sev).ports = s.ports := by
  simp only [State.logPort, State.logDevice]

@[simp] theorem State.copies_logPort (s : State) (j sev : Nat) : (s.logPort j sev).copies = s.copies := by
  simp only [State.logPort, State.logDevice]

@[simp] theorem State.out_logPort (s : State) (j sev : Nat) : (s.logPort j sev).out = s.out := by
  simp only [State.logPort, State.logDevice]

@[simp] theorem State.portUp_logPort (s : State) (i j sev : Nat) : (s.logPort j sev).portUp i = s.portUp i := by
  simp only [State.portUp, State.ports_logPort]

theorem State.portUp_setPort (s : State) {i : Nat} (h : i < 12) (f : PeerPort → PeerPort) : (s.setPort i f).portUp i = (f s.ports[i]).up := by
  simp [State.setPort_of_lt s h, State.portUp, h]

theorem portUp_rises {s : State} (hi : s.op.a < 12) (h : s.portUp s.op.a = false) :
    ∃ t, Sys2Proof.Machine.exec .portUp s = .next t ∧ t.portUp s.op.a = true :=
  ⟨_, if_pos ⟨hi, h⟩, State.portUp_setPort s hi _⟩

section
variable {s : State} (hport : s.portUp s.op.a = true)
include hport

theorem portLaneFailure_loses_lane : ∃ t, Sys2Proof.Machine.exec .portLaneFailure s = .next t ∧ t.portUp s.op.a = true ∧
    (∀ h : s.op.a < 12, t.ports[s.op.a].lanes = 2) ∧ Logged s t := by
  have hi := State.lt_of_portUp hport
  refine ⟨_, if_pos hport, ?_, fun _ => ?_, (logged_logPort _ _ _).of_setPort⟩
  · rw [State.portUp_logPort, State.portUp_setPort s hi]
    simpa [State.portUp, hi] using hport
  · simp [State.setPort_of_lt s hi]

theorem portDown_fails_copies : ∃ t, Sys2Proof.Machine.exec .portDown s = .next t ∧ t.portUp s.op.a = false ∧ Logged s t ∧
    ∀ k ∈ t.copies, s.usesPort k.cmd s.op.a = true → k.phase ≠ .granted → k.fail.isSome = true := by
  have hi := State.lt_of_portUp hport
  refine ⟨_, if_neg (by simp [hport]), ?_, (logged_logPort _ _ _).of_setPort, ?_⟩
  · rw [State.portUp_logPort, State.portUp_setPort _ hi]
  simp only [State.copies_logPort, State.setPort_of_lt _ hi, List.mem_map, forall_exists_index, and_imp, forall_apply_eq_imp_iff₂]
  intro k _
  split
  · exact fun _ _ => rfl
  · rename_i hmark
    intro huses hphase
    exact Option.isSome_iff_ne_none.2 (by simpa [huses, hphase] using hmark)

end

/-! ### What peers send (R15, R243) -/

section
variable {s : State} (hport : s.portUp s.op.a = true)
include hport

theorem peerSignalRecord_inbound (htype : bitsN s.op.w 3 0 = 1) (h4 : bit1 s.op.w 4 = false) (h64 : bitsN s.op.w 95 64 = 0)
    (h211 : bitsN s.op.w 223 211 = 0) {p : Nat} {e : PeerEntry} (hin : s.inboundAt s.op.a (bitsN s.op.w 63 5 * 32) 32 = some (p, e)) :
    Sys2Proof.Machine.exec .peerSignalRecord s = .next (s.send (.signal ⟨noCore, false, p, 0, locOf noCore (bitsN s.op.w 63 5 * 32),
      s.op.w.extractLsb' 96 64, bitsN s.op.w 207 160, s.op.w.extractLsb' 224 32, bit1 s.op.w 208, bit1 s.op.w 209, bit1 s.op.w 210⟩)) := by
  show execPeerSignalRecord s = _
  simp [execPeerSignalRecord, hport, htype, h4, h64, h211, hin]

theorem peerSignalRecord_outside (htype : bitsN s.op.w 3 0 = 1) (h4 : bit1 s.op.w 4 = false) (h64 : bitsN s.op.w 95 64 = 0)
    (h211 : bitsN s.op.w 223 211 = 0) (hout : s.inboundAt s.op.a (bitsN s.op.w 63 5 * 32) 32 = none) :
    ∃ t, Sys2Proof.Machine.exec .peerSignalRecord s = .next t ∧ Logged s t := by
  refine ⟨s.logPort s.op.a 2, ?_, logged_logPort _ _ _⟩
  show execPeerSignalRecord s = _
  simp [execPeerSignalRecord, hport, htype, h4, h64, h211, hout]

theorem peerSignalRecord_unknown (htype : bitsN s.op.w 3 0 = 0 ∨ 3 < bitsN s.op.w 3 0) :
    ∃ t, Sys2Proof.Machine.exec .peerSignalRecord s = .next t ∧ Logged s t := by
  refine ⟨s.logPort s.op.a 2, ?_, logged_logPort _ _ _⟩
  have h1 : bitsN s.op.w 3 0 ≠ 1 := by omega
  have h2 : bitsN s.op.w 3 0 ≠ 2 := by omega
  have h3 : bitsN s.op.w 3 0 ≠ 3 := by omega
  show execPeerSignalRecord s = _
  simp [execPeerSignalRecord, hport, h1, h2, h3]

theorem peerInboundWrite_inside (h0 : 0 < s.op.data.length) (h256 : s.op.data.length ≤ 256) (htag : s.op.flag = false) {p : Nat} {e : PeerEntry}
    (hin : s.inboundAt s.op.a s.op.b s.op.data.length = some (p, e)) {s1 : State}
    (hwrite : engineWrite s ⟨p, 0, 0⟩ (locOf noCore s.op.b) s.op.data [] = .ok s1) :
    Sys2Proof.Machine.exec .peerInboundWrite s = .next s1 := by
  have hne : s.op.data.length ≠ 0 := by omega
  show execPeerInboundWrite s = _
  simp only [execPeerInboundWrite, hport, hin, htag, hwrite, Bool.not_true, Bool.false_or, beq_iff_eq, hne, Bool.or_eq_true, decide_eq_true_eq,
    Nat.not_lt.2 h256, or_self, if_false, Bool.false_eq_true]

theorem peerInboundWrite_refused (h0 : 0 < s.op.data.length) (h256 : s.op.data.length ≤ 256)
    (hrefused : s.op.flag = true ∨ s.inboundAt s.op.a s.op.b s.op.data.length = none) :
    ∃ t, Sys2Proof.Machine.exec .peerInboundWrite s = .next t ∧ Logged s t := by
  refine ⟨s.logPort s.op.a 2, ?_, logged_logPort _ _ _⟩
  have hne : s.op.data.length ≠ 0 := by omega
  have hnone : (if s.op.flag then none else s.inboundAt s.op.a s.op.b s.op.data.length) = none := by
    split
    · rfl
    · exact hrefused.resolve_left ‹_›
  show execPeerInboundWrite s = _
  simp only [execPeerInboundWrite, hport, hnone, Bool.not_true, Bool.false_or, beq_iff_eq, hne, Bool.or_eq_true, decide_eq_true_eq,
    Nat.not_lt.2 h256, or_self, if_false]

end

/-! ### Frames of a pull (R13, R15) -/

/-- `n` frames of up to 256 bytes each, from address `a` on. -/
def plainFrames (port n a : Nat) (bs : List Byte) : List Output :=
  (List.range n).map fun j => Output.frame port (a + 256 * j) ((bs.drop (256 * j)).take 256)

theorem plainFrames_succ (port n a : Nat) (bs : List Byte) :
    plainFrames port (n + 1) a bs = Output.frame port a (bs.take 256) :: plainFrames port n (a + 256) (bs.drop 256) := by
  simp only [plainFrames, List.range_succ_eq_map, List.map_cons, List.map_map, List.drop_drop]
  refine congrArg₂ _ (by simp) (List.map_congr_left fun j _ => ?_)
  simp only [Function.comp_apply, Nat.mul_succ]
  rw [Nat.add_comm (256 * j), Nat.add_assoc]

theorem frameCuts_nil (k : Nat) : frameCuts k [] = [] := by cases k <;> rfl

/-- Unsealed, every cut goes out as it is, at the address of its first byte. -/
theorem out_sendFrames_frameCuts (port : Nat) : ∀ {n k : Nat} (_ : n ≤ k) (bs : List Byte) (_ : bs.length ≤ 256 * n)
    (_ : 256 * n < bs.length + 256) (a : Nat) (acc : List Byte) (s : State),
    (sendFrames port false (frameCuts k bs) a acc s).out = s.out ++ plainFrames port n a bs
  | 0, k, _, bs, hle, _, a, acc, s => by
    obtain rfl : bs = [] := List.length_eq_zero_iff.1 (by omega)
    simp [frameCuts_nil, sendFrames, plainFrames]
  | n + 1, 0, hk, _, _, _, _, _, _ => absurd hk (by omega)
  | n + 1, k + 1, hk, bs, hle, hlt, a, acc, s => by
    have hne : bs.isEmpty = false := by
      cases bs with
      | nil => simp at hlt
      | cons => rfl
    have hrest := out_sendFrames_frameCuts port (Nat.le_of_succ_le_succ hk) (bs.drop 256) (by rw [List.length_drop]; omega)
      (by rw [List.length_drop]; omega)
    have hnext : plainFrames port n (a + (bs.take 256).length) (bs.drop 256) = plainFrames port n (a + 256) (bs.drop 256) := by
      rcases Nat.eq_zero_or_pos n with rfl | hn
      · rfl
      · rw [List.length_take, Nat.min_eq_left (by omega)]
    simp only [frameCuts, hne, Bool.false_eq_true, if_false, sendFrames]
    rw [hrest, hnext, plainFrames_succ, State.emit, List.append_assoc]
    rfl

/-- The signal record that answers a pull goes out at its port; none for knot 0. -/
def pullAnswer (port knot : Nat) (err : Bool) : List Output :=
  if knot = 0 then [] else [Output.frame port 0x00FFFFFFF000 (signalRecord knot 1 0 0 false err false)]

theorem out_answerPull (s : State) (port knot : Nat) (err : Bool) : (answerPull s port knot err false).out = s.out ++ pullAnswer port knot err := by
  unfold answerPull pullAnswer
  split
  · exact (List.append_nil _).symm
  · rfl

/-- What a refused pull leaves: an event in the device log, and its knot signalled with the error flag. -/
theorem refused_answerPull (s : State) (knot : Nat) : Logged s (answerPull (s.logPort s.op.a 2) s.op.a knot true false) ∧
    (answerPull (s.logPort s.op.a 2) s.op.a knot true false).out = s.out ++ pullAnswer s.op.a knot true := by
  refine ⟨?_, by rw [out_answerPull, State.out_logPort]⟩
  unfold answerPull
  split
  · exact logged_logPort _ _ _
  · exact (logged_logPort _ _ _).emit _

section
variable {s : State} (hport : s.portUp s.op.a = true) (h11 : bitsN s.op.w 11 4 = 0)
include hport h11

section
variable (htype : bitsN s.op.w 3 0 = 2)
include htype

theorem peerPullRecord_served (hfirst : bitsN s.op.w 159 128 = 0) (hunits : bitsN s.op.w 191 160 ≠ 0) (hdst : bitsN s.op.w 127 64 % 4096 = 0)
    {bs : List Byte} {e : PeerEntry} {s1 : State}
    (hread : pullRead s s.op.a (bitsN s.op.w 63 12 * 4096) (4096 * bitsN s.op.w 191 160) = some (bs, false, e, s1))
    (hlen : bs.length = 4096 * bitsN s.op.w 191 160) (hplain : e.wrapped = false) :
    ∃ t, Sys2Proof.Machine.exec .peerPullRecord s = .next t ∧
      t.out = s1.out ++ plainFrames s.op.a (16 * bitsN s.op.w 191 160) (bitsN s.op.w 127 64) bs ++
        pullAnswer s.op.a (bitsN s.op.w 255 192) false := by
  refine ⟨answerPull (sendFrames s.op.a e.wrapped (frameCuts (16 * bitsN s.op.w 191 160 + 1) bs) (bitsN s.op.w 127 64) [] s1) s.op.a
    (bitsN s.op.w 255 192) false false, ?_, ?_⟩
  · show execPeerPullRecord s = _
    simp [execPeerPullRecord, hport, htype, h11, hfirst, hunits, hdst, hread]
  · rw [out_answerPull, hplain, out_sendFrames_frameCuts _ (Nat.le_succ _) _ (by omega) (by omega)]

theorem peerPullRecord_unreadable (hfirst : bitsN s.op.w 159 128 = 0) (hunits : bitsN s.op.w 191 160 ≠ 0) (hdst : bitsN s.op.w 127 64 % 4096 = 0)
    (hread : pullRead s s.op.a (bitsN s.op.w 63 12 * 4096) (4096 * bitsN s.op.w 191 160) = none) :
    ∃ t, Sys2Proof.Machine.exec .peerPullRecord s = .next t ∧ Logged s t ∧ t.out = s.out ++ pullAnswer s.op.a (bitsN s.op.w 255 192) true := by
  refine ⟨answerPull (s.logPort s.op.a 2) s.op.a (bitsN s.op.w 255 192) true false, ?_, refused_answerPull _ _⟩
  show execPeerPullRecord s = _
  simp [execPeerPullRecord, hport, htype, h11, hfirst, hunits, hdst, hread]

omit h11 in
theorem peerPullRecord_malformed (hbad : bitsN s.op.w 159 128 ≠ 0 ∨ bitsN s.op.w 191 160 = 0 ∨ bitsN s.op.w 127 64 % 4096 ≠ 0) :
    ∃ t, Sys2Proof.Machine.exec .peerPullRecord s = .next t ∧ Logged s t ∧ t.out = s.out ++ pullAnswer s.op.a (bitsN s.op.w 255 192) true := by
  refine ⟨answerPull (s.logPort s.op.a 2) s.op.a (bitsN s.op.w 255 192) true false, ?_, refused_answerPull _ _⟩
  show execPeerPullRecord s = _
  simp only [execPeerPullRecord, hport, htype]
  rw [if_neg (by simp), if_pos (.inr hbad)]

end

section
variable (htype : bitsN s.op.w 3 0 = 3) (hdst : bitsN s.op.w 127 64 = 0)
include htype hdst

theorem peerRestorePull_manifest (hunits : bitsN s.op.w 191 160 = 0) {bs : List Byte} {b : Bool} {e : PeerEntry} {s1 : State}
    (hread : pullRead s s.op.a (bitsN s.op.w 63 12 * 4096) 4096 = some (bs, b, e, s1)) (hlen : bs.length = 4096) (hplain : e.wrapped = false) :
    ∃ t, Sys2Proof.Machine.exec .peerRestorePull s = .next t ∧
      t.out = s1.out ++ plainFrames s.op.a 16 0x00FFFFFE0000 bs ++ pullAnswer s.op.a (bitsN s.op.w 255 192) false := by
  refine ⟨answerPull (sendFrames s.op.a e.wrapped (frameCuts 17 bs) apertureRestore [] s1) s.op.a (bitsN s.op.w 255 192) false false, ?_, ?_⟩
  · show execPeerRestorePull s = _
    simp [execPeerRestorePull, hport, htype, h11, hdst, hunits, hread]
  · rw [out_answerPull, hplain, out_sendFrames_frameCuts _ (Nat.le_succ 16) _ (by omega) (by omega)]
    rfl

theorem peerRestorePull_record (hunits : bitsN s.op.w 191 160 = 1) {bs : List Byte} {b : Bool} {e : PeerEntry} {s1 : State}
    (hread : pullRead s s.op.a (bitsN s.op.w 63 12 * 4096 + 0x1000 + 0x1010 * bitsN s.op.w 159 128) 0x1010 = some (bs, b, e, s1))
    (hlen : bs.length = 0x1010) :
    ∃ t, Sys2Proof.Machine.exec .peerRestorePull s = .next t ∧
      t.out = s1.out ++ plainFrames s.op.a 17 0x00FFFFFE0000 bs ++ pullAnswer s.op.a (bitsN s.op.w 255 192) false := by
  refine ⟨answerPull (sendFrames s.op.a false (frameCuts 18 bs) apertureRestore [] s1) s.op.a (bitsN s.op.w 255 192) false false, ?_, ?_⟩
  · show execPeerRestorePull s = _
    simp [execPeerRestorePull, hport, htype, h11, hdst, hunits, sendRecords, hread]
  · rw [out_answerPull, out_sendFrames_frameCuts _ (Nat.le_succ 17) _ (by omega) (by omega)]
    rfl

end

end

/-! ### Time (R16) -/

theorem holdoverTimeout_holds {s : State} (hvalid : s.time.valid = true) (hhold : s.time.holdover = false)
    (hlate : s.time.syncTick + 4750000000 ≤ s.tick) :
    Sys2Proof.Machine.exec .holdoverTimeout s = .next { s with time := { s.time with holdover := true } } :=
  if_pos (by rw [hvalid, hhold, decide_eq_true hlate]; rfl)

/-! ### Detected errors (R37, R144) -/

theorem State.onStrand_corrected (s : State) (n : Nat) (f : Strand → Strand) : (s.onStrand n f).corrected = s.corrected := by
  unfold State.onStrand
  split <;> rfl

theorem State.onStrand_hbm (s : State) (n : Nat) (f : Strand → Strand) : (s.onStrand n f).hbm = s.hbm := by
  unfold State.onStrand
  split <;> rfl

theorem State.onStrand_logCount (s : State) (n : Nat) (f : Strand → Strand) : (s.onStrand n f).logCount = s.logCount := by
  unfold State.onStrand
  split <;> rfl

theorem State.strand_onStrand (s : State) (n m : Nat) (f : Strand → Strand) :
    (s.onStrand n f).strand m = if m = n then (s.strand m).map f else s.strand m := by
  unfold State.onStrand
  split_ifs with h
  · subst h
    cases hx : s.strand m with
    | none => exact hx
    | some x => exact State.strand_setStrand_same _ _ _
  · cases s.strand n with
    | none => rfl
    | some x => exact State.strand_setStrand_other _ _ h

theorem hardwareError_corrected {s : State} (h1 : 1 ≤ s.op.a) (h4 : s.op.a ≤ 4) (hsev : s.op.b = 1) :
    ∃ t k, Sys2Proof.Machine.exec .hardwareError s = .next t ∧ t.corrected.find k = some (s.corrected.getD k 0 + 1) ∧
      (∀ j, j ≠ k → t.corrected.find j = s.corrected.find j) ∧ t.logCount = s.logCount ∧ t.hbm = s.hbm := by
  have hexec : ∃ t k, Sys2Proof.Machine.exec .hardwareError s = .next t ∧ t.corrected = s.corrected.put k (s.corrected.getD k 0 + 1) ∧
      t.logCount = s.logCount ∧ t.hbm = s.hbm := by
    show ∃ t k, execHardwareError s = .next t ∧ _
    unfold execHardwareError
    rw [if_neg (by omega)]
    dsimp only
    rw [if_pos hsev]
    split
    · exact ⟨_, _, rfl, State.onStrand_corrected _ _ _, State.onStrand_logCount _ _ _, State.onStrand_hbm _ _ _⟩
    · exact ⟨_, _, rfl, rfl, rfl, rfl⟩
  obtain ⟨t, k, ht, hput, hlog, hhbm⟩ := hexec
  refine ⟨t, k, ht, ?_, fun j hj => ?_, hlog, hhbm⟩
  · rw [hput, Tbl.find_put_same]
  · rw [hput, Tbl.find_put_other _ _ hj]

theorem State.onPart_corrected (s : State) (p : Nat) (f : Partition → Partition) : (s.onPart p f).corrected = s.corrected := by
  unfold State.onPart
  split <;> rfl

theorem State.onPart_strands (s : State) (p : Nat) (f : Partition → Partition) : (s.onPart p f).strands = s.strands := by
  unfold State.onPart
  split <;> rfl

theorem State.logDevice_corrected (s : State) (e : ErrInfo) (place unit : Nat) : (s.logDevice e place unit).corrected = s.corrected := by
  simp only [State.logDevice]

theorem State.logDevice_strands (s : State) (e : ErrInfo) (place unit : Nat) : (s.logDevice e place unit).strands = s.strands := by
  simp only [State.logDevice]

/-- An uncorrectable error is logged, then each of its sectors is poisoned. -/
theorem exec_hardwareError_uncorrectable {s : State} (h1 : 1 ≤ s.op.a) (h4 : s.op.a ≤ 4) (hsev : s.op.b = 2 ∨ s.op.b = 3) :
    ∃ z, Sys2Proof.Machine.exec .hardwareError s = .next (s.op.pairs.foldl State.poisonAt z) ∧ Logged s z ∧ z.corrected = s.corrected ∧
      z.strands = s.strands := by
  show ∃ z, execHardwareError s = .next (s.op.pairs.foldl State.poisonAt z) ∧ _
  unfold execHardwareError
  rw [if_neg (by omega)]
  dsimp only
  rw [if_neg (by omega)]
  refine ⟨_, rfl, ?_⟩
  split
  · exact ⟨(logged_logDevice _ _ _ _).onPart _ _, (State.onPart_corrected _ _ _).trans (State.logDevice_corrected _ _ _ _),
      (State.onPart_strands _ _ _).trans (State.logDevice_strands _ _ _ _)⟩
  · exact ⟨logged_logDevice _ _ _ _, State.logDevice_corrected _ _ _ _, State.logDevice_strands _ _ _ _⟩

/-! What the poisoning of one sector keeps, and what the poisoning of many then does. -/

theorem State.poisonAt_corrected (s : State) : ∀ e, (s.poisonAt e).corrected = s.corrected
  | (0, _) | (1, _) | (2, _) | (3, _) => rfl
  | (_ + 4, _) => State.onStrand_corrected _ _ _

theorem State.poisonAt_logCount (s : State) : ∀ e, (s.poisonAt e).logCount = s.logCount
  | (0, _) | (1, _) | (2, _) | (3, _) => rfl
  | (_ + 4, _) => State.onStrand_logCount _ _ _

theorem State.poisonAt_bytes (s : State) : ∀ e, (s.poisonAt e).hbm.bytes = s.hbm.bytes
  | (0, _) | (1, _) | (2, _) | (3, _) => rfl
  | (_ + 4, _) => congrArg Bank.bytes (State.onStrand_hbm _ _ _)

theorem State.poisonAt_strands (s : State) : ∀ e : Nat × Nat, e.1 < 4 → (s.poisonAt e).strands = s.strands
  | (0, _), _ | (1, _), _ | (2, _), _ | (3, _), _ => rfl
  | (_ + 4, _), h => absurd h (by simp)

theorem Bank.poisoned_setPoison (b : Bank) (a c : Nat) (h : a / 64 = c / 64 ∨ b.poisoned c = true) : (b.setPoison a).poisoned c = true := by
  unfold Bank.poisoned Bank.setPoison
  by_cases hsector : c / 64 = a / 64
  · rw [hsector, Tbl.find_put_same]
    rfl
  · rw [Tbl.find_put_other _ _ hsector]
    exact h.resolve_left (Ne.symm hsector)

theorem State.poisonAt_poisoned {s : State} {c : Nat} (h : s.hbm.poisoned c = true) : ∀ e, (s.poisonAt e).hbm.poisoned c = true
  | (0, _) => Bank.poisoned_setPoison _ _ _ (.inr h)
  | (1, _) | (2, _) | (3, _) => h
  | (_ + 4, _) => (State.onStrand_hbm _ _ _).symm ▸ h

/-- The cache of core `n` holds line number `va`, and `Q` of it. -/
def HasLine (n va : Nat) (Q : Line → Prop) (s : State) : Prop := ∃ x l, s.strand n = some x ∧ l ∈ x.cache ∧ l.va = va ∧ Q l

/-- A line stays in its cache while others are poisoned. -/
theorem HasLine.poisonAt {n va : Nat} {Q : Line → Prop} (hQ : ∀ l a, Q l → Q (l.spoil a)) {s : State} (h : HasLine n va Q s) :
    ∀ e, HasLine n va Q (s.poisonAt e)
  | (0, _) | (1, _) | (2, _) | (3, _) => h
  | (m + 4, a) => by
    obtain ⟨x, l, hx, hl, hva, hq⟩ := h
    by_cases hn : n = m
    · refine ⟨_, if l.va = a / 256 then l.spoil a else l, (State.strand_onStrand _ _ _ _).trans (by rw [if_pos hn, hx]; rfl),
        List.mem_map.2 ⟨l, hl, rfl⟩, ?_, ?_⟩
      · split <;> exact hva
      · split
        · exact hQ _ _ hq
        · exact hq
    · exact ⟨x, l, (State.strand_onStrand _ _ _ _).trans (by rw [if_neg hn, hx]), hl, hva, hq⟩

theorem Line.poison_spoil_same (l : Line) (a : Nat) : (l.spoil a).poison.getLsbD (a / 64 % 4) = true := by
  have h4 : a / 64 % 4 < 4 := Nat.mod_lt _ (by decide)
  simp [Line.spoil, h4]

theorem Line.poison_spoil (l : Line) (a : Nat) {i : Nat} (h : l.poison.getLsbD i = true) : (l.spoil a).poison.getLsbD i = true := by
  simp [Line.spoil, h]

/-- The poisoning of a line that a cache holds marks its sector. -/
theorem HasLine.spoiled {n va a : Nat} (hva : va = a / 256) {s : State} (h : HasLine n va (fun _ => True) s) :
    HasLine n va (fun l => l.poison.getLsbD (a / 64 % 4) = true) (s.poisonAt (4 + n, a)) := by
  obtain ⟨x, l, hx, hl, hl_va, -⟩ := h
  rw [Nat.add_comm 4 n]
  refine ⟨_, l.spoil a, (State.strand_onStrand _ _ _ _).trans (by rw [if_pos rfl, hx]; rfl), List.mem_map.2 ⟨l, hl, ?_⟩, hl_va,
    l.poison_spoil_same a⟩
  exact if_pos (hl_va.trans hva)

/-- What every sector's poisoning keeps holds after all of them. -/
theorem foldl_poisonAt {P : State → Prop} {es : List (Nat × Nat)} (hP : ∀ z, ∀ e ∈ es, P z → P (z.poisonAt e)) {z : State} (hz : P z) :
    P (es.foldl State.poisonAt z) :=
  List.foldlRecOn (motive := P) es State.poisonAt hz fun z hz e he => hP z e he hz

/-- A field that no poisoning changes. -/
theorem foldl_poisonAt_field {α : Type} (f : State → α) {es : List (Nat × Nat)} (hf : ∀ z : State, ∀ e ∈ es, f (z.poisonAt e) = f z)
    (z : State) : f (es.foldl State.poisonAt z) = f z :=
  foldl_poisonAt (P := fun t => f t = f z) (fun t e he ht => (hf t e he).trans ht) rfl

/-- What one of the sectors brings about, and every other keeps, holds after all of them. -/
theorem foldl_poisonAt_of_mem {P R : State → Prop} {e : Nat × Nat} (hR : ∀ z d, R z → R (z.poisonAt d))
    (hbrings : ∀ z, R z → P (z.poisonAt e))
    (hP : ∀ z d, P z → P (z.poisonAt d)) {es : List (Nat × Nat)} (he : e ∈ es) {z : State} (hz : R z) : P (es.foldl State.poisonAt z) := by
  obtain ⟨before, after, rfl⟩ := List.append_of_mem he
  rw [List.foldl_append, List.foldl_cons]
  exact foldl_poisonAt (fun z d _ => hP z d) (hbrings _ (foldl_poisonAt (fun z d _ => hR z d) hz))

theorem hardwareError_uncorrectable {s : State} (h1 : 1 ≤ s.op.a) (h4 : s.op.a ≤ 4) (hsev : s.op.b = 2 ∨ s.op.b = 3) :
    ∃ t, Sys2Proof.Machine.exec .hardwareError s = .next t ∧ t.logCount = s.logCount + 1 ∧ t.corrected = s.corrected ∧
      t.hbm.bytes = s.hbm.bytes ∧
      (∀ a, (0, a) ∈ s.op.pairs → t.hbm.poisoned a = true) ∧ ((∀ e ∈ s.op.pairs, e.1 < 4) → t.strands = s.strands) ∧
      ∀ n a x k, (4 + n, a) ∈ s.op.pairs → s.strand n = some x → k ∈ x.cache → k.va = a / 256 →
        ∃ y j, t.strand n = some y ∧ j ∈ y.cache ∧ j.va = k.va ∧ j.poison.getLsbD (a / 64 % 4) = true := by
  obtain ⟨z, hexec, ⟨hcount, -, hhbm, -, -⟩, hcorrected, hstrands⟩ := exec_hardwareError_uncorrectable h1 h4 hsev
  refine ⟨_, hexec, ?_, ?_, ?_, fun a ha => ?_, fun hkinds => ?_, fun n a x k ha hx hk hva => ?_⟩
  · exact (foldl_poisonAt_field (·.logCount) (fun t e _ => t.poisonAt_logCount e) z).trans hcount
  · exact (foldl_poisonAt_field (·.corrected) (fun t e _ => t.poisonAt_corrected e) z).trans hcorrected
  · exact (foldl_poisonAt_field (·.hbm.bytes) (fun t e _ => t.poisonAt_bytes e) z).trans (congrArg Bank.bytes hhbm)
  · exact foldl_poisonAt_of_mem (R := fun _ => True) (P := fun t => t.hbm.poisoned a = true) (e := (0, a)) (fun _ _ h => h)
      (fun z _ => Bank.poisoned_setPoison z.hbm a a (.inl rfl)) (fun _ e h => State.poisonAt_poisoned h e) ha trivial
  · exact (foldl_poisonAt_field (·.strands) (fun t e he => t.poisonAt_strands e (hkinds e he)) z).trans hstrands
  · have hz : HasLine n k.va (fun _ => True) z := ⟨x, k, by rw [State.strand, hstrands]; exact hx, hk, rfl, trivial⟩
    exact foldl_poisonAt_of_mem (fun _ e h => h.poisonAt (fun _ _ h => h) e) (fun _ h => h.spoiled hva)
      (fun _ e h => h.poisonAt (fun l c h => l.poison_spoil c h) e) ha hz

/-! ### Lending ways (R183) -/

/-- The registers of a partition's page. -/
def State.pageOf (s : State) (p : Nat) : Option Page := (s.part p).map (·.page)

theorem State.pageOf_of_part {s : State} {p : Nat} {q : Partition} (h : s.part p = some q) : s.pageOf p = some q.page := by
  simp [State.pageOf, h]

/-- A change of a partition beside its page. -/
theorem State.pageOf_setPart {s : State} {r : Nat} {x y : Partition} (hx : s.part r = some x) (hy : y.page = x.page) (p : Nat) :
    (s.setPart r y).pageOf p = s.pageOf p := by
  by_cases hp : p = r
  · simp [State.pageOf, hp, hx, hy]
  · simp [State.pageOf, State.part_setPart_other s _ hp]

theorem State.pageOf_onPart (s : State) (p r : Nat) {f : Partition → Partition} (hf : ∀ q, (f q).page = q.page) :
    (s.onPart r f).pageOf p = s.pageOf p := by
  unfold State.onPart
  cases hr : s.part r with
  | none => rfl
  | some q => exact State.pageOf_setPart hr (hf q) p

theorem State.pageOf_charge (s : State) (p r v e k : Nat) : (s.charge r v e k).pageOf p = s.pageOf p := by
  unfold State.charge
  split
  · exact State.pageOf_onPart _ _ _ fun _ => rfl
  · rfl

theorem State.parts_writeFrame (s : State) (l : Line) : (s.writeFrame l).1.parts = s.parts := by
  have hmem : ∀ (a : Nat) (m : Line) (t : W64) (plog : Nat), (s.memWrite a m t plog).parts = s.parts := by
    intro a m t plog
    unfold State.memWrite State.markDirty
    dsimp only
    split_ifs <;> rfl
  unfold State.writeFrame
  dsimp only
  split
  · split_ifs
    · exact hmem _ _ _ _
    · exact hmem _ _ _ _
  · rfl

theorem State.pageOf_llcClean (s : State) (p : Nat) (k : LlcLine) : (s.llcClean k).pageOf p = s.pageOf p := by
  have hframe : ∀ ls, ({ (s.writeFrame k.line).1 with llc := ls } : State).pageOf p = s.pageOf p := fun ls => by
    unfold State.pageOf State.part
    exact congrArg (fun ps : Tbl Partition => (ps.find p).map (·.page)) (State.parts_writeFrame s k.line)
  unfold State.llcClean
  split_ifs
  · rfl
  · dsimp only
    split
    · rename_i x hx
      split_ifs
      · exact (State.pageOf_charge _ _ _ _ _ _).trans (hframe _)
      · refine (State.pageOf_setPart hx ?_ _).trans (hframe _)
        rfl
    · exact hframe _

theorem State.pageOf_llcPut (s : State) (p : Nat) (k : LlcLine) : (s.llcPut k).pageOf p = s.pageOf p := by
  unfold State.llcPut
  dsimp only
  split_ifs
  · rfl
  · split
    · rfl
    · exact State.pageOf_llcClean (s.free _).2 p _

theorem pageOf_refillLlc (p : Nat) : ∀ (ks : List LlcLine) (s : State), (refillLlc ks s).pageOf p = s.pageOf p
  | [], _ => rfl
  | k :: ks, s => (pageOf_refillLlc p ks (s.llcPut k)).trans (State.pageOf_llcPut s p k)

/-- The status of a write to lend, written to the page `g` that the partition then has. -/
theorem lendStat_written {z : State} {p : Nat} {g : Page} (h : z.pageOf p = some g) (k : BitVec 32) :
    ∃ q, (z.onPart p fun y => { y with page := { y.page with lendStat := k } }).part p = some q ∧ q.page.lendStat = k ∧
      q.page.lend = g.lend := by
  obtain ⟨x, hx, rfl⟩ := Option.map_eq_some_iff.1 h
  exact ⟨_, State.part_onPart_same hx _, rfl, rfl⟩

section
variable {s : State} {x : Partition} (hlink : s.linkUp = true) (hx : s.part s.op.a = some x)
include hlink hx

theorem lendWrite_invalid (h : 4 < s.op.b % 8) : ∃ t q, Sys2Proof.Machine.exec .lendWrite s = .next t ∧ t.part s.op.a = some q ∧
    q.page.lendStat = 2 ∧ q.page.lend = x.page.lend := by
  obtain ⟨q, hq⟩ := lendStat_written (State.pageOf_of_part hx) (BitVec.ofNat 32 stInvalid)
  refine ⟨_, q, (onLink_up hlink _).trans ?_, hq⟩
  simp only [hx]
  exact if_pos h

theorem lendWrite_busy (h : s.op.b % 8 ≤ 4) (hbusy : s.resident s.op.a = true ∨ s.engineBusy s.op.a = true) :
    ∃ t q, Sys2Proof.Machine.exec .lendWrite s = .next t ∧ t.part s.op.a = some q ∧ q.page.lendStat = 1 ∧ q.page.lend = x.page.lend := by
  obtain ⟨q, hq⟩ := lendStat_written (State.pageOf_of_part hx) (BitVec.ofNat 32 stBusy)
  refine ⟨_, q, (onLink_up hlink _).trans ?_, hq⟩
  simp only [hx]
  exact (if_neg (Nat.not_lt.2 h)).trans (if_pos (Bool.or_eq_true _ _ ▸ hbusy))

theorem lendWrite_done (h : s.op.b % 8 ≤ 4) (hres : s.resident s.op.a = false) (heng : s.engineBusy s.op.a = false) :
    ∃ t q, Sys2Proof.Machine.exec .lendWrite s = .next t ∧ t.part s.op.a = some q ∧ q.page.lendStat = 0 ∧
      q.page.lend = BitVec.ofNat 32 (s.op.b % 8) := by
  show ∃ t q, execLendWrite s = .next t ∧ _
  unfold execLendWrite
  rw [onLink_up hlink]
  dsimp only
  simp only [hx]
  rw [if_neg (Nat.not_lt.2 h), if_neg (by simp [hres, heng])]
  have hkept : ∀ z : State, z.pageOf s.op.a = some { x.page with lend := BitVec.ofNat 32 (s.op.b % 8) } →
      ∃ q, (z.onPart s.op.a fun y => { y with page := { y.page with lendStat := BitVec.ofNat 32 stOk } }).part s.op.a = some q ∧
        q.page.lendStat = 0 ∧ q.page.lend = BitVec.ofNat 32 (s.op.b % 8) := fun z hz => lendStat_written hz _
  suffices hpage : State.pageOf _ s.op.a = some { x.page with lend := BitVec.ofNat 32 (s.op.b % 8) } from
    (hkept _ hpage).elim fun q hq => ⟨_, q, rfl, hq⟩
  have hset : ∀ c ls, State.pageOf { s.setPart s.op.a { x with page := { x.page with lend := BitVec.ofNat 32 (s.op.b % 8) } } with
      chip := c, llc := ls } s.op.a = some { x.page with lend := BitVec.ofNat 32 (s.op.b % 8) } := fun c ls => by
    simp [State.pageOf, State.part, State.setPart]
  split_ifs
  · exact (pageOf_refillLlc _ _ _).trans (hset _ _)
  · exact hset _ _

end

/-! ### Register writes (R38) -/

section
variable {s : State} (hlink : s.linkUp = true)
include hlink

theorem registerWrite_bar0 (h : s.op.a = 0) : Sys2Proof.Machine.exec .registerWrite s = .next (writeBar0 s s.op.b s.op.d) :=
  (onLink_up hlink _).trans (if_pos h)

theorem registerWrite_page {x : Partition} (hx : s.part s.op.c = some x) (h : s.op.a = 1) : Sys2Proof.Machine.exec .registerWrite s =
    .next (s.setPart s.op.c (writePage s s.op.c x s.op.b s.op.d s.op.w)) := by
  refine (onLink_up hlink _).trans ?_
  rw [if_neg (by omega), hx]
  exact if_pos h

end

/-- The control word of the mailbox: go passes the request. -/
theorem writePage_control (s : State) (p : Nat) (x : Partition) (v : Nat) (w : W256) :
    writePage s p x 0x1008 v w = { x with page := x.page.pass v } := rfl

theorem setPart_pass (s : State) (p : Nat) (x : Partition) {v : Nat} (hv : v % 2 = 1) : s.setPart p { x with page := x.page.pass v } =
    if x.page.mbBusy then s.setPart p x else s.setPart p { x with page := { x.page with
      mbBusy := true, mbDone := false, mbSent := (List.range (min x.page.reqLen.toNat 1792)).map x.page.mbReq.read } } := by
  cases hbusy : x.page.mbBusy <;> simp [Page.pass, hv, hbusy]

theorem writePage_peer {s : State} {p : Nat} {j : Fin 16} (hfree : s.peerInUse p j = false) (x : Partition) (v : Nat) (w : W256) :
    writePage s p x (0xC00 + 32 * j) v w = { x with peers := x.peers.set j w } := by
  unfold writePage
  dsimp only
  repeat rw [if_neg (by omega)]
  rw [if_pos (by omega)]
  simp [hfree]

/-- Settles O45, a clause at a time: each kind of access by its own lemma above. -/
theorem outsideAccess : Obligations.OutsideAccess := by
  unfold Obligations.OutsideAccess
  intro s
  refine ⟨?_, unsupported_without_link, portUp_rises, fun hport => ⟨portLaneFailure_loses_lane hport, portDown_fails_copies hport, ?_,
    peerSignalRecord_unknown hport, ?_, ?_⟩, rfl, holdoverTimeout_holds, fun h1 h4 => ⟨hardwareError_corrected h1 h4,
    hardwareError_uncorrectable h1 h4⟩, ?_, ?_, ?_, ?_⟩
  · rintro _ rfl haligned hend
    exact ⟨fun hlink => hostWindowRead_unopened hlink haligned hend, fun p hlink => hostWindowRead_opened hlink haligned hend,
      fun p hlink hopen hline hwf hlen => hostWindowWrite_opened hlink haligned hend hlen hopen hline hwf,
      fun hlink hopen hlen => hostWindowWrite_unopened hlink haligned hend hlen hopen⟩
  · exact fun htype h4 h64 h211 => ⟨fun p e => peerSignalRecord_inbound hport htype h4 h64 h211,
      peerSignalRecord_outside hport htype h4 h64 h211⟩
  · intro h11
    refine ⟨fun htype hfirst hunits hdst => ⟨fun bs e s1 => peerPullRecord_served hport h11 htype hfirst hunits hdst,
      peerPullRecord_unreadable hport h11 htype hfirst hunits hdst⟩, peerPullRecord_malformed hport, fun htype hdst => ⟨?_, ?_⟩⟩
    · exact fun bs b e s1 hunits => peerRestorePull_manifest hport h11 htype hdst hunits
    · exact fun bs b e s1 hunits => peerRestorePull_record hport h11 htype hdst hunits
  · exact fun h0 h256 => ⟨fun p e s1 htag hin => peerInboundWrite_inside hport h0 h256 htag hin, peerInboundWrite_refused hport h0 h256⟩
  · exact fun x hlink hx => ⟨lendWrite_invalid hlink hx, lendWrite_busy hlink hx, lendWrite_done hlink hx⟩
  · intro hlink ha hb
    rw [registerWrite_bar0 hlink ha, hb]
    rfl
  · intro hlink ha hb
    rw [registerWrite_bar0 hlink ha, hb]
    rfl
  · intro x hlink hx ha
    refine ⟨fun hb => ?_, fun hb => ?_, fun hb hd => ?_, fun j hb hfree => ?_⟩
    all_goals rw [registerWrite_page hlink hx ha, hb]
    · rfl
    · rfl
    · rw [writePage_control, setPart_pass _ _ _ hd]
    · rw [writePage_peer hfree]

end Sys2Proof.Machine
end

section
/-! The counterexample to the statement of the management commands: queue 0 outside slot 0. -/
namespace Sys2Proof.Machine
open Sys2Proof.Claim

/-- The packet of a SQUOTA of partition 1 with quota 0, its status at 0x1000: type 6, command 7, argument 1 (R47, R50). -/
def squotaPacket : W512 := BitVec.ofNat 512 (6 + 7 * 2 ^ (8 * 24) + 1 * 2 ^ (8 * 32) + 0x1000 * 2 ^ (8 * 56))

/-- Queue 0 in slot 1, mapped, one packet pending; the slot's copy of its record names partition 0. -/
def squotaSlot : QSlot := { QSlot.management with record := BitVec.ofNat 512 (2 * 2 ^ 34 + 1 * 2 ^ 352) }

/-- A device whose queue 0 stands in slot 1. The supervisor has set table_base, and the record of queue 0 in the table names partition 1 (byte 5
of HBM). Partition 1 exists, and the packet stands at the start of host memory. -/
def squotaState : State := { State.reset with
  boot := .running
  tableSet := true
  qslots := [(1, squotaSlot)]
  parts := [(1, { Partition.create 1 1 0 0 1 0 0 with keys := 0, imageKey := 0, m10 := 0 })]
  hbm := Bank.empty.write 5 0x40
  host := Bank.empty.writeList 0 (bytesOf squotaPacket.toNat 64) }

/-- The packet as the device takes it. -/
def squotaPkt : Pkt := ⟨0, squotaState.qRecord 0, 1, squotaSlot, squotaPacket⟩

theorem squota_commanded : Commanded squotaState 7 squotaPkt := by
  unfold Commanded
  decide +kernel

theorem squotaState_wf : Sys2Proof.Safety.MemoriesOk squotaState ∧ Sys2Proof.Safety.TablesOk squotaState := by
  unfold Sys2Proof.Safety.MemoriesOk Sys2Proof.Safety.TablesOk
  decide +kernel

/-- Before the command partition 1 has no slot, so that a quota of 0 should be admitted. -/
theorem squota_slots_before : squotaState.slotsOf 1 = [] := by decide +kernel

/-- The four bytes at `a` once an outcome has gone on. -/
def statusAt (o : Out) (a : Nat) : List Byte :=
  match o with
  | .next t => t.hbm.readList a 4
  | _ => []

/-- The start of the packet writes the record back with the table's fields: slot 1 then counts as one of partition 1's, and the status is busy. -/
theorem squota_busy : statusAt (Sys2Proof.Machine.exec .squota squotaState) 0x1000 = bytesOf stBusy 4 := by decide +kernel

theorem squota_fields : kNum squotaPkt.w 32 1 = 1 ∧ kNum squotaPkt.w 33 1 = 0 ∧ kStatus squotaPkt.w = 0x1000 := by decide +kernel

/-- Refutes O47: the clause of SQUOTA counts the partition's slots before the packet starts, and the start of a packet writes the slot's record back
with the fields of the table. With queue 0 in another slot than 0, and its record in the table naming partition 1, the count goes from 0 to 1: a quota
of 0, which the clause admits, gets the status busy. -/
theorem not_managementCommands : ¬ Obligations.ManagementCommands := by
  unfold Obligations.ManagementCommands
  intro h
  obtain ⟨hmem, htbl⟩ := squotaState_wf
  obtain ⟨_, _, _, _, _, _, _, hsquota, _⟩ := h squotaState squotaPkt hmem htbl
  obtain ⟨hpart, hquota, haddr⟩ := squota_fields
  simp only [hpart, hquota, haddr] at hsquota
  obtain ⟨-, -, hadmitted⟩ := hsquota squota_commanded _ rfl
  obtain ⟨t, hexec, hstatus, -⟩ := hadmitted (by decide) (by rw [squota_slots_before]; exact le_rfl)
  have hbusy := squota_busy
  rw [hexec] at hbusy
  exact absurd (hstatus.symm.trans hbusy) (by decide)

end Sys2Proof.Machine
end

section
/-! PROOFS. Obligation O58, the state that reset leaves. -/
namespace Sys2Proof.Machine

/-- Settles O58: each field of the reset state reads so by definition, and the two canonical forms are those of `canonical_reset`. -/
theorem resetState : Obligations.ResetState := by
  unfold Obligations.ResetState
  obtain ⟨hmem, htbl⟩ : Canonical State.reset := canonical_reset
  exact ⟨rfl, rfl, rfl, rfl, rfl, rfl, rfl, rfl, rfl, rfl, rfl, rfl, rfl, rfl, rfl, rfl, rfl, rfl, rfl, ⟨_, rfl, rfl⟩,
    fun _ => ⟨rfl, rfl, rfl, rfl⟩, hmem, htbl⟩

end Sys2Proof.Machine
end

section
/-! PROOFS. The frame of the boot state: out of the ROM nothing that the device does moves it (R23). One lemma for each operation of the
model, in the order of the model's files; obligation O59 uses the last one, `step_boot`. An
operation that gives a state has an equation, one that may fail has an implication from the state it goes on with, and a word's effect has
`Eff.Boots`. They are checked one after the other: side by side they would ask for more memory than the check allows. -/
namespace Sys2Proof.Machine
set_option Elab.async false

/-- The states that the effect of a word carries have boot state `b`. -/
def Eff.Boots (b : Boot) : Eff → Prop
  | .done s => s.boot = b
  | .trap _ _ => True
  | .block s _ => s.boot = b

/-- What every step of a fold keeps, the fold keeps. -/
theorem foldl_keeps {σ α β : Type} {g : σ → β} {f : σ → α → σ} (hf : ∀ s x, g (f s x) = g s) (xs : List α) (s : σ) :
    g (xs.foldl f s) = g s := by
  induction xs generalizing s with
  | nil => rfl
  | cons x xs ih => exact (ih _).trans (hf s x)

theorem foldl_boot {α : Type} {f : State → α → State} (hf : ∀ s x, (f s x).boot = s.boot) (xs : List α) (s : State) :
    (xs.foldl f s).boot = s.boot :=
  foldl_keeps (g := State.boot) hf xs s

variable {s u : State}

/-! ### Ops -/

@[simp] theorem State.onStrand_boot (s : State) (n : Nat) (f : Strand → Strand) : (s.onStrand n f).boot = s.boot := by
  grind [State.onStrand, State.setStrand_boot]

@[simp] theorem State.onPart_boot (s : State) (p : Nat) (f : Partition → Partition) : (s.onPart p f).boot = s.boot := by
  grind [State.onPart, State.setPart_boot]

@[simp] theorem State.onVd_boot (s : State) (p v : Nat) (f : Vd → Vd) : (s.onVd p v f).boot = s.boot := by
  grind [State.onVd, State.onPart_boot]

@[simp] theorem State.free_boot (s : State) (n : Nat) : (s.free n).2.boot = s.boot := by
  grind [State.free]

@[simp] theorem State.retire_boot (s : State) (n : Nat) (x : Strand) (k : Nat) : (s.retire n x k).boot = s.boot := by
  grind [State.retire, State.setStrand_boot]

@[simp] theorem State.blockOn_boot (s : State) (n : Nat) (k : WaitKind) : (s.blockOn n k).boot = s.boot := by
  grind [State.blockOn, State.onStrand_boot]

@[simp] theorem State.notePsn_boot (s : State) (p id : Nat) : (s.notePsn p id).boot = s.boot := by
  grind [State.notePsn]

@[simp] theorem State.takeAsync_boot (s : State) (x : Strand) (ms : List Nat) (due : List (Nat × Trap)) :
    (s.takeAsync x ms due).boot = s.boot := by
  grind [State.takeAsync, State.onStrand_boot, State.notePsn_boot, foldl_boot]

@[simp] theorem State.trapOn_boot (s : State) (n : Nat) (x : Strand) (t : Trap) : (s.trapOn n x t).boot = s.boot := by
  grind [State.trapOn, State.takeAsync_boot, State.setStrand_boot, State.notePsn_boot]

@[simp] theorem State.settleTo_boot (s : State) (ms : List Nat) (t : Nat) : (s.settleTo ms t).boot = s.boot := by
  grind [State.settleTo, State.onStrand_boot, foldl_boot]

@[simp] theorem State.settleAll_boot (s : State) (ms : List Nat) : (s.settleAll ms).boot = s.boot := by
  grind [State.settleAll, State.settleTo_boot]

@[simp] theorem State.settleCore_boot (s : State) (n : Nat) : (s.settleCore n).boot = s.boot := by
  grind [State.settleCore, State.settleAll_boot]

@[simp] theorem State.redivide_boot (s : State) (n d e : Nat) : (s.redivide n d e).boot = s.boot := by
  grind [State.redivide, State.onStrand_boot, foldl_boot]

theorem runAll_boot {f : State → Nat → Strand → Eff} (hf : ∀ s n x, (f s n x).Boots s.boot) {ns : List Nat}
    (he : runAll f ns s = some u) : u.boot = s.boot := by
  induction ns generalizing s with grind [runAll, Eff.Boots]

@[simp] theorem State.gangTrap_boot (s : State) (ms : List Nat) (ts : List (Nat × Trap)) : (s.gangTrap ms ts).boot = s.boot := by
  grind [State.gangTrap, State.onStrand_boot, State.notePsn_boot, foldl_boot]

@[simp] theorem State.trapAt_boot (s : State) (n : Nat) (x : Strand) (t : Trap) : (s.trapAt n x t).boot = s.boot := by
  grind [State.trapAt, State.gangTrap_boot, State.trapOn_boot, State.setStrand_boot]

@[simp] theorem State.blockWith_boot (s : State) (fill : Bool) (n : Nat) (k : WaitKind) : (s.blockWith fill n k).boot = s.boot := by
  grind [State.blockWith, State.onStrand_boot, State.blockOn_boot]

theorem blockAll_boot {f : State → Nat → Strand → Eff} (hf : ∀ s n x, (f s n x).Boots s.boot) (hold fill : Bool) (ns : List Nat) (s : State) :
    (blockAll f hold fill ns s).boot = s.boot := by
  induction ns generalizing s with grind [blockAll, Eff.Boots, State.blockWith_boot]

@[simp] theorem State.gangSync_boot (s : State) (ms : List Nat) (cls : Nat) : (s.gangSync ms cls).boot = s.boot := by
  grind [State.gangSync, State.onStrand_boot, foldl_boot]

theorem runGang_boot {f : State → Nat → Strand → Eff} (hf : ∀ s n x, (f s n x).Boots s.boot) (ms : List Nat) (s : State) :
    (runGang f ms s).boot = s.boot := by
  grind [runGang, → runAll_boot, blockAll_boot, foldl_boot, State.onStrand_boot, State.gangSync_boot, State.setStrand_boot,
    State.takeAsync_boot, State.gangTrap_boot]

theorem runAlone_boot {f : State → Nat → Strand → Eff} (hf : ∀ s n x, (f s n x).Boots s.boot) (n : Nat) (s : State) :
    (runAlone f n s).boot = s.boot := by
  grind [runAlone, Eff.Boots, State.trapOn_boot, State.blockOn_boot]

theorem word_boot {f : State → Nat → Strand → Eff} (hf : ∀ s n x, (f s n x).Boots s.boot) (he : word s f = .next u) : u.boot = s.boot := by
  grind [word, runGang_boot, runAlone_boot, State.settleAll_boot, State.gangSync_boot, State.setStrand_boot]

theorem compute_boot (s : State) (srcs : List (BitVec 6)) (d : BitVec 6) (k lat : Nat) (f : Strand → Strand) (fuel : Nat) (x : Strand) :
    (compute srcs d k lat f s fuel x).Boots s.boot := by
  induction fuel generalizing s with grind [compute, Eff.Boots, State.setStrand_boot]

theorem illegal_boot (s : State) (n : Nat) (x : Strand) : (illegal s n x).Boots s.boot := by
  grind [illegal, Eff.Boots]

/-! ### Operands -/

@[simp] theorem State.dropLocks_boot (s : State) (n : Nat) (f : Lock → Bool) : (s.dropLocks n f).boot = s.boot := by
  grind [State.dropLocks, State.setCluster_boot]

/-! ### Records -/

@[simp] theorem State.setTable_boot (s : State) (q : Nat) (r : W512) : (s.setTable q r).boot = s.boot := by
  grind [State.setTable]

@[simp] theorem State.setRecord_boot (s : State) (q : Nat) (r : W512) : (s.setRecord q r).boot = s.boot := by
  grind [State.setRecord, State.setTable_boot]

@[simp] theorem State.setPending_boot (s : State) (q : Nat) (b : Bool) : (s.setPending q b).boot = s.boot := by
  grind [State.setPending]

/-! ### Mem -/

@[simp] theorem State.putDir_boot (s : State) (node off : Nat) (ws : List W64) : (s.putDir node off ws).boot = s.boot := by
  grind [State.putDir]

@[simp] theorem State.setDir_boot (s : State) (g : Nat) (d : Option DirEntry) : (s.setDir g d).boot = s.boot := by
  simp [State.setDir]

@[simp] theorem State.markDirty_boot (s : State) (a plog : Nat) : (s.markDirty a plog).boot = s.boot := by
  grind [State.markDirty]

@[simp] theorem State.memWrite_boot (s : State) (a : Nat) (l : Line) (t : W64) (plog : Nat) : (s.memWrite a l t plog).boot = s.boot := by
  grind [State.memWrite, State.markDirty_boot]

@[simp] theorem State.llcDrop_boot (s : State) (line : Nat) : (s.llcDrop line).boot = s.boot := by
  grind [State.llcDrop]

@[simp] theorem State.charge_boot (s : State) (p v e k : Nat) : (s.charge p v e k).boot = s.boot := by
  grind [State.charge, State.onVd_boot]

@[simp] theorem State.chargeFill_boot (s : State) (p v sectors : Nat) : (s.chargeFill p v sectors).boot = s.boot := by
  grind [State.chargeFill, State.charge_boot, State.onVd_boot]

@[simp] theorem State.writeFrame_boot (s : State) (l : Line) : (s.writeFrame l).1.boot = s.boot := by
  grind [State.writeFrame, State.memWrite_boot]

@[simp] theorem State.llcClean_boot (s : State) (k : LlcLine) : (s.llcClean k).boot = s.boot := by
  grind [State.llcClean, State.setPart_boot, State.charge_boot, State.writeFrame_boot]

@[simp] theorem State.llcPut_boot (s : State) (k : LlcLine) : (s.llcPut k).boot = s.boot := by
  grind [State.llcPut, State.free_boot, State.llcClean_boot, State.llcDrop_boot]

@[simp] theorem State.llcUnalias_boot (s : State) (line : Nat) (t : W64) (plog : Nat) : (s.llcUnalias line t plog).boot = s.boot := by
  grind [State.llcUnalias, State.llcClean_boot, State.llcDrop_boot, foldl_boot]

theorem llcRead_boot {w : Who} {line : Nat} {sectors : BitVec 4} {r : Line} (he : llcRead s w line sectors = .ok r u) : u.boot = s.boot := by
  grind [llcRead, State.llcPut_boot, State.llcUnalias_boot, State.chargeFill_boot]

theorem llcWrite_boot {w : Who} {l : Line} {r : Unit} (he : llcWrite s w l = .ok r u) : u.boot = s.boot := by
  grind [llcWrite, State.llcPut_boot, State.llcUnalias_boot, State.memWrite_boot]

theorem globRead_boot {w : Who} {xs : List (Nat × Nat × Nat)} {r : Got} (he : globRead w xs s = .ok r u) : u.boot = s.boot := by
  induction xs generalizing s r with grind [globRead, → llcRead_boot]

theorem globWrite_boot {w : Who} {tag : Bool} {xs : List (Nat × Nat × Nat)} {acc : List Byte} {r : Unit}
    (he : globWrite w tag xs acc s = .ok r u) : u.boot = s.boot := by
  induction xs generalizing s acc r with grind [globWrite, → llcWrite_boot]

@[simp] theorem State.fillLine_boot (s : State) (n i : Nat) : (s.fillLine n i).boot = s.boot := by
  grind [State.fillLine, → globRead_boot, State.setStrand_boot]

@[simp] theorem State.fillGran_boot (s : State) (n i : Nat) : (s.fillGran n i).boot = s.boot := by
  grind [State.fillGran, → globRead_boot, State.setStrand_boot]

@[simp] theorem State.fillRange_boot (s : State) (n off len : Nat) : (s.fillRange n off len).boot = s.boot := by
  grind [State.fillRange, State.fillLine_boot, foldl_boot]

@[simp] theorem State.scratchPut_boot (s : State) (n off : Nat) (bs : List Byte) (tag : Bool) : (s.scratchPut n off bs tag).boot = s.boot := by
  grind [State.scratchPut, State.onStrand_boot]

@[simp] theorem State.touch_boot (s : State) (l : Loc) (n : Nat) : (s.touch l n).boot = s.boot := by
  grind [State.touch]

@[simp] theorem State.imageFetch_boot (s : State) (p v base off n : Nat) : (s.imageFetch p v base off n).2.boot = s.boot := by
  grind [State.imageFetch, → globRead_boot]

@[simp] theorem State.imageWrite_boot (s : State) (p v base off : Nat) (bs : List Byte) : (s.imageWrite p v base off bs).boot = s.boot := by
  grind [State.imageWrite, State.touch_boot, → globWrite_boot]

@[simp] theorem State.imageTagOf_boot (s : State) (p v base : Nat) : (s.imageTagOf p v base).2.boot = s.boot := by
  grind [State.imageTagOf, State.imageFetch_boot]

@[simp] theorem State.reseal_boot (s : State) (p v base : Nat) : (s.reseal p v base).boot = s.boot := by
  grind [State.reseal, State.imageTagOf_boot, State.imageWrite_boot]

@[simp] theorem State.imageBit_boot (s : State) (p v base off i : Nat) (b : Bool) : (s.imageBit p v base off i b).boot = s.boot := by
  grind [State.imageBit, State.imageWrite_boot, State.imageFetch_boot]

@[simp] theorem State.imageNote_boot (s : State) (p v base off len : Nat) (tag : Bool) : (s.imageNote p v base off len tag).boot = s.boot := by
  grind [State.imageNote, State.reseal_boot, State.imageBit_boot, foldl_boot]

theorem homeRead_boot {w : Who} {l : Loc} {n : Nat} {r : Got} (he : homeRead s w l n = .ok r u) : u.boot = s.boot := by
  cases l with grind [homeRead, → globRead_boot, State.imageFetch_boot, State.fillRange_boot]

theorem homeReadW_boot {w : Who} {l : Loc} {n : Nat} {r : Got} (he : homeReadW s w l n = .ok r u) : u.boot = s.boot := by
  grind [homeReadW, → homeRead_boot]

theorem homeWrite_boot {w : Who} {l : Loc} {bs : List Byte} {tag : Bool} {r : Unit}
    (he : homeWrite s w l bs tag = .ok r u) : u.boot = s.boot := by
  cases l with grind [homeWrite, → globWrite_boot, State.imageNote_boot, State.fillRange_boot, State.scratchPut_boot, State.touch_boot]

/-! ### Access -/

@[simp] theorem State.sendBack_boot (s : State) (n : Nat) (l : Line) : (s.sendBack n l).boot = s.boot := by
  grind [State.sendBack, State.setStrand_boot, State.send_boot]

@[simp] theorem State.writeBackAll_boot (s : State) (n : Nat) : (s.writeBackAll n).boot = s.boot := by
  grind [State.writeBackAll, State.onStrand_boot, State.sendBack_boot, foldl_boot]

@[simp] theorem State.cachePut_boot (s : State) (n : Nat) (l : Line) : (s.cachePut n l).boot = s.boot := by
  grind [State.cachePut, State.onStrand_boot, State.free_boot, State.sendBack_boot, State.setStrand_boot]

theorem release_boot {n : Nat} {x : Strand} (he : release s n x = .ok u) : u.boot = s.boot := by
  grind [release, State.onStrand_boot, State.writeBackAll_boot]

theorem release_boot_error {n : Nat} {x : Strand} {wk : WaitKind} (he : release s n x = .error (u, wk)) : u.boot = s.boot := by
  grind [release, State.onStrand_boot, State.writeBackAll_boot]

theorem releaseAt_boot {scope n : Nat} {x : Strand} (he : releaseAt scope s n x = .ok u) : u.boot = s.boot := by
  grind [releaseAt, → release_boot, → release_boot_error]

theorem releaseAt_boot_error {scope n : Nat} {x : Strand} {wk : WaitKind} (he : releaseAt scope s n x = .error (u, wk)) : u.boot = s.boot := by
  grind [releaseAt, → release_boot, → release_boot_error]

theorem loadGlob_boot {n : Nat} {x : Strand} {a size cpol : Nat} {wk : WaitKind}
    (he : loadGlob s n x a size cpol = .block u wk) : u.boot = s.boot := by
  grind [loadGlob, State.send_boot, foldl_boot]

@[simp] theorem askHome_boot (s : State) (n : Nat) (x : Strand) (op : AccOp) (l : Loc) (size value cmp cpol : Nat) :
    (askHome s n x op l size value cmp cpol).boot = s.boot := by
  grind [askHome, State.send_boot]

theorem loadRaw_boot {n : Nat} {x : Strand} {l : Loc} {size cpol : Nat} {op : AccOp} {wk : WaitKind}
    (he : loadRaw s n x l size cpol op = .block u wk) : u.boot = s.boot := by
  cases l with grind [loadRaw, → loadGlob_boot, askHome_boot]

theorem loadAt_boot {n : Nat} {x : Strand} {a size cpol : Nat} {op : AccOp} {wk : WaitKind}
    (he : loadAt s n x a size cpol op = .block u wk) : u.boot = s.boot := by
  grind [loadAt, → loadRaw_boot]

@[simp] theorem storeLine_boot (s : State) (n : Nat) (w : Line) (cpol : Nat) : (storeLine s n w cpol).boot = s.boot := by
  grind [storeLine, State.onStrand_boot, State.cachePut_boot, State.send_boot]

theorem foldl_fst_boot {α β : Type} {f : State × β → α → State × β} (hf : ∀ z x, (f z x).1.boot = z.1.boot) (xs : List α) (z : State × β) :
    (xs.foldl f z).1.boot = z.1.boot :=
  foldl_keeps (g := fun z => z.1.boot) hf xs z

@[simp] theorem storeGlob_boot (s : State) (n a : Nat) (bs : List Byte) (tag : Bool) (cpol : Nat) :
    (storeGlob s n a bs tag cpol).boot = s.boot :=
  foldl_fst_boot (fun _ _ => storeLine_boot _ _ _ _) _ _

theorem storeRaw_boot {n : Nat} {x : Strand} {l : Loc} {bs : List Byte} {tag : Bool} {cpol : Nat}
    (he : storeRaw s n x l bs tag cpol = some u) : u.boot = s.boot := by
  cases l with grind [storeRaw, storeGlob_boot, State.touch_boot, State.scratchPut_boot, State.onStrand_boot, State.send_boot]

theorem storeAt_boot {n : Nat} {x : Strand} {a : Nat} {bs : List Byte} {tag : Bool} {cpol : Nat}
    (he : storeAt s n x a bs tag cpol = some u) : u.boot = s.boot := by
  grind [storeAt, State.onStrand_boot, → storeRaw_boot]

/-! ### Home -/

@[simp] theorem State.testWaits_boot (s : State) (knot : Loc) (part vd : Nat) (k : Knot) : (s.testWaits knot part vd k).boot = s.boot := by
  grind [State.testWaits]

theorem applySignal_boot {x : Signal} {r : Unit} (he : applySignal s x = .ok r u) : u.boot = s.boot := by
  grind [applySignal, State.testWaits_boot, → homeReadW_boot, → homeWrite_boot]

theorem applyWait_boot {q : WaitReq} {r : Unit} (he : applyWait s q = .ok r u) : u.boot = s.boot := by
  grind [applyWait, → homeRead_boot, State.send_boot]

theorem pushQueue_boot {w : Who} {q : Loc} {payload chain span : Nat} {ovf : Bool} {r : Unit}
    (he : pushQueue s w q payload chain span ovf = .ok r u) : u.boot = s.boot := by
  grind [pushQueue, → homeReadW_boot, → homeWrite_boot]

theorem popQueue_boot {w : Who} {q : Loc} {span r : Nat} (he : popQueue s w q span = .ok r u) : u.boot = s.boot := by
  unfold popQueue at he
  split at he
  · cases he
  · cases he
  · rename_i s1 h1
    rw [← homeReadW_boot h1]
    dsimp only at he
    split at he
    · cases he; rfl
    · split at he
      · cases he; rfl
      · split at he
        · cases he
        · cases he
        · rename_i h2
          rw [← homeReadW_boot h2]
          split at he
          · cases he
          · cases he
          · rename_i h3
            split at he
            · rename_i h4
              cases he
              rw [homeWrite_boot h4]
              split at h3
              · exact homeWrite_boot h3
              · cases h3; rfl
            · cases he
            · cases he

@[simp] theorem State.broadcastTicket_boot (s : State) (n v : Nat) : (s.broadcastTicket n v).boot = s.boot := by
  grind [State.broadcastTicket, State.onStrand_boot, foldl_boot]

theorem appendEntry_boot {w : Who} {q : Loc} {cap entry : Nat} {r : Bool} (he : appendEntry s w q cap entry = .ok r u) : u.boot = s.boot := by
  grind [appendEntry, → homeReadW_boot, → homeWrite_boot]

theorem appendTrace_boot {q : Access} {ents : Nat} {r : Unit} (he : appendTrace s q ents = .ok r u) : u.boot = s.boot := by
  grind [appendTrace, → homeReadW_boot, → homeWrite_boot, State.send_boot]

theorem applyAccess_boot {q : Access} {r : Reply} (he : applyAccess s q = .ok r u) : u.boot = s.boot := by
  unfold applyAccess at he
  cases hop : q.op with grind [→ homeRead_boot, → homeReadW_boot, → homeWrite_boot, State.broadcastTicket_boot, State.testWaits_boot,
    → appendTrace_boot, → pushQueue_boot, → popQueue_boot, → appendEntry_boot]

/-! ### MemInstr -/

theorem loadInstr_boot {size : Nat} {signed : Bool} {d a : BitVec 6} {c : BitVec 2} {o : BitVec 9}
    (he : loadInstr size signed d a c o s = .next u) : u.boot = s.boot :=
  word_boot (fun s n x => by grind [Eff.Boots, State.retire_boot, → loadAt_boot]) he

theorem execLdc_boot {d a : BitVec 6} {c : BitVec 2} {o : BitVec 9} (he : execLdc d a c o s = .next u) : u.boot = s.boot :=
  word_boot (fun s n x => by grind [Eff.Boots, State.retire_boot, → loadAt_boot]) he

theorem storeStep_boot (s : State) (n : Nat) (x : Strand) (addr : Nat) (bs : List Byte) (tag : Bool) (cpol : Nat) :
    (storeStep s n x addr bs tag cpol).Boots s.boot := by
  grind [storeStep, Eff.Boots, State.retire_boot, withStrand, State.setStrand_boot, → storeAt_boot]

theorem storeInstr_boot {size : Nat} {a b : BitVec 6} {c : BitVec 2} {o : BitVec 9}
    (he : storeInstr size a b c o s = .next u) : u.boot = s.boot :=
  word_boot (fun s n x => by grind [Eff.Boots, storeStep_boot]) he

theorem execStc_boot {a b : BitVec 6} {c : BitVec 2} {o : BitVec 9} (he : execStc a b c o s = .next u) : u.boot = s.boot :=
  word_boot (fun s n x => by grind [Eff.Boots, storeStep_boot]) he

theorem execPref_boot {a : BitVec 6} {c : BitVec 2} (he : execPref a c s = .next u) : u.boot = s.boot :=
  word_boot (fun s n x => by grind [Eff.Boots, State.retire_boot, State.send_boot, foldl_boot]) he

@[simp] theorem State.writeBackRange_boot (s : State) (n lo len : Nat) : (s.writeBackRange n lo len).boot = s.boot := by
  grind [State.writeBackRange, State.onStrand_boot, State.sendBack_boot, foldl_boot]

theorem waitAcked_boot {s : State} {n : Nat} {f : Strand → Eff} (hf : ∀ x, (f x).Boots s.boot) : (waitAcked s n f).Boots s.boot := by
  grind [waitAcked, Eff.Boots, withStrand]

theorem execWbr_boot {a b : BitVec 6} (he : execWbr a b s = .next u) : u.boot = s.boot :=
  word_boot (fun s n x => by grind [Eff.Boots, State.onStrand_boot, illegal_boot, State.retire_boot, State.writeBackRange_boot, waitAcked_boot,
    State.setStrand_boot]) he

theorem execInvr_boot {a b : BitVec 6} (he : execInvr a b s = .next u) : u.boot = s.boot :=
  word_boot (fun s n x => by grind [Eff.Boots, illegal_boot, State.retire_boot]) he

theorem execFence_boot {sc : BitVec 2} (he : execFence sc s = .next u) : u.boot = s.boot :=
  word_boot (fun s n x => by grind [Eff.Boots, → releaseAt_boot, → releaseAt_boot_error, State.retire_boot, withStrand]) he

theorem ask_boot {n : Nat} {x : Strand} {op : AccOp} {l : Loc} {addr size value cmp : Nat} {rp : Reply}
    (he : ask s n x op l addr size value cmp = .got rp u) : u.boot = s.boot := by
  grind [ask, → applyAccess_boot, askHome_boot]

theorem ask_boot_block {n : Nat} {x : Strand} {op : AccOp} {l : Loc} {addr size value cmp : Nat} {wk : WaitKind}
    (he : ask s n x op l addr size value cmp = .block u wk) : u.boot = s.boot := by
  grind [ask, → applyAccess_boot, askHome_boot]

@[simp] theorem dropLine_boot (s : State) (n : Nat) (l : Loc) : (dropLine s n l).boot = s.boot := by
  cases l with grind [dropLine, State.sendBack_boot, State.onStrand_boot]

theorem withStrand_boot {s : State} {n : Nat} {f : Strand → Eff} {b : Boot} (hs : s.boot = b) (hf : ∀ x, (f x).Boots b) :
    (withStrand s n f).Boots b := by
  grind [withStrand, Eff.Boots]

theorem atomicInstr_boot {op : Nat} {d a b : BitVec 6} {z : BitVec 1} {sc c : BitVec 2}
    (he : atomicInstr op d a b z sc c s = .next u) : u.boot = s.boot := by
  refine word_boot (fun s n x => ?_) he
  split
  · rfl
  · dsimp only
    split
    · trivial
    · generalize hrel : (if Strand.checked _ = true then (Except.ok _ : Except (State × WaitKind) State) else _) = rel
      have hok : ∀ s1, rel = .ok s1 → s1.boot = s.boot := by grind [→ releaseAt_boot, State.setStrand_boot]
      have herr : ∀ s1 k, rel = .error (s1, k) → s1.boot = s.boot := by grind [→ releaseAt_boot_error, State.setStrand_boot]
      split
      · exact herr _ _ rfl
      · refine withStrand_boot (hok _ rfl) fun y => ?_
        grind [Eff.Boots, dropLine_boot, → ask_boot, → ask_boot_block, withStrand, State.retire_boot]

/-! ### Sync -/

@[simp] theorem State.setLaunch_boot (s : State) (l : Launch) : (s.setLaunch l).boot = s.boot := by
  grind [State.setLaunch]

@[simp] theorem State.post_boot (s : State) (n : Nat) (x : Strand) (op : AccOp) (l : Loc) (size value : Nat) :
    (s.post n x op l size value).boot = s.boot := by
  grind [State.post, State.onStrand_boot, → applyAccess_boot, State.send_boot]

@[simp] theorem State.postSignal_boot (s : State) (n : Nat) (g : Signal) : (s.postSignal n g).boot = s.boot := by
  grind [State.postSignal, State.onStrand_boot, → applySignal_boot, State.send_boot]

theorem execKinit_boot {a b : BitVec 6} (he : execKinit a b s = .next u) : u.boot = s.boot :=
  word_boot (fun s n x => by grind [Eff.Boots, State.post_boot, State.retire_boot, withStrand, State.setStrand_boot]) he

@[simp] theorem State.trace_boot (s : State) (n : Nat) (x : Strand) : (s.trace n x).boot = s.boot := by
  grind [State.trace, State.post_boot, State.onStrand_boot]

theorem execSig_boot {a b : BitVec 6} {t : BitVec 1} {sc : BitVec 2} (he : execSig a b t sc s = .next u) : u.boot = s.boot := by
  refine word_boot (fun s n x => ?_) he
  split
  · rfl
  · extract_lets y
    split
    · trivial
    · split
      · rfl
      · split
        · rename_i hr; exact (releaseAt_boot_error hr :)
        · rename_i hr
          refine withStrand_boot (releaseAt_boot hr :) fun y => withStrand_boot (releaseAt_boot hr :) fun y => ?_
          have h1 := releaseAt_boot hr
          grind [Eff.Boots, State.postSignal_boot, State.trace_boot, State.retire_boot, State.setStrand_boot]

theorem execWait_boot {d a b : BitVec 6} {sc : BitVec 2} (he : execWait d a b sc s = .next u) : u.boot = s.boot :=
  word_boot (fun s n x => by grind [Eff.Boots, State.retire_boot, → applyWait_boot, State.setStrand_boot, State.send_boot]) he

theorem execKpeek_boot {d a : BitVec 6} (he : execKpeek d a s = .next u) : u.boot = s.boot :=
  word_boot (fun s n x => by grind [Eff.Boots, State.retire_boot, withStrand, State.setStrand_boot, → ask_boot, → ask_boot_block]) he

theorem execKjoin_boot {a : BitVec 6} (he : execKjoin a s = .next u) : u.boot = s.boot :=
  word_boot (fun s n x => by grind [Eff.Boots, State.retire_boot, → applyWait_boot, State.setStrand_boot, State.send_boot]) he

theorem applyMonitor_boot {q : WaitReq} {r : Unit} (he : applyMonitor s q = .ok r u) : u.boot = s.boot := by
  grind [applyMonitor, → homeRead_boot, State.send_boot]

theorem execWaitm_boot {d a b : BitVec 6} (he : execWaitm d a b s = .next u) : u.boot = s.boot :=
  word_boot (fun s n x => by grind [Eff.Boots, State.retire_boot, State.setStrand_boot, → applyMonitor_boot, State.send_boot]) he

theorem execChadd_boot {a : BitVec 6} (he : execChadd a s = .next u) : u.boot = s.boot :=
  word_boot (fun s n x => by grind [Eff.Boots, compute_boot]) he

theorem execTicket_boot {d a : BitVec 6} (he : execTicket d a s = .next u) : u.boot = s.boot :=
  word_boot (fun s n x => by grind [Eff.Boots, State.retire_boot, dropLine_boot, withStrand, State.setStrand_boot, → ask_boot,
    → ask_boot_block]) he

theorem readDescriptor_boot {s : State} {n : Nat} {x : Strand} {b : BitVec 6} {f : State → Strand → Eff} (hf : ∀ s x, (f s x).Boots s.boot) :
    (readDescriptor s n x b f).Boots s.boot := by
  grind [readDescriptor, Eff.Boots, → loadAt_boot, State.setStrand_boot]

theorem execQpush_boot {a b : BitVec 6} (he : execQpush a b s = .next u) : u.boot = s.boot := by
  refine word_boot (fun s n x => ?_) he
  split
  · rfl
  · extract_lets y
    split
    · trivial
    · refine readDescriptor_boot (s := s.setStrand n y) fun s1 y => ?_
      extract_lets s2
      have h2 : s2.boot = s1.boot := by grind [foldl_boot, State.writeBackRange_boot, State.onStrand_boot]
      rw [← h2]
      refine waitAcked_boot fun w => ?_
      grind [withStrand, Eff.Boots, State.retire_boot, State.post_boot, State.setStrand_boot]

theorem execQpop_boot {d a b : BitVec 6} (he : execQpop d a b s = .next u) : u.boot = s.boot := by
  refine word_boot (fun s n x => ?_) he
  split
  · rfl
  · extract_lets y
    split
    · trivial
    · refine readDescriptor_boot (s := s.setStrand n y) fun s1 y => ?_
      grind [withStrand, Eff.Boots, State.retire_boot, → ask_boot, → ask_boot_block]

theorem execLaunch_boot {a b : BitVec 6} (he : execLaunch a b s = .next u) : u.boot = s.boot :=
  word_boot (fun s n x => by grind [Eff.Boots, illegal_boot, State.retire_boot, withStrand, State.setStrand_boot, → ask_boot,
    → ask_boot_block]) he

/-! ### Landing -/

@[simp] theorem State.idleFrom_boot (s : State) (ns : List Nat) : (s.idleFrom ns).boot = s.boot := by
  grind [State.idleFrom, State.setCore_boot, foldl_boot]

theorem readCuts_boot {w : Who} {l : Loc} {xs : List (Nat × Nat)} {r : (List Byte × List (Nat × Nat))}
    (he : readCuts w l xs s = .ok r u) : u.boot = s.boot := by
  induction xs generalizing s r with grind [readCuts, → homeRead_boot]

theorem homeReadBad_boot {w : Who} {l : Loc} {n : Nat} {r : (List Byte × List (Nat × Nat))}
    (he : homeReadBad s w l n = .ok r u) : u.boot = s.boot := by
  grind [homeReadBad, → readCuts_boot]

@[simp] theorem markPoison_boot (s : State) (w : Who) (l : Loc) : (markPoison s w l).boot = s.boot := by
  cases l with grind [markPoison, State.llcPut_boot]

theorem homeWriteBad_boot {w : Who} {l : Loc} {bs : List Byte} {bad : List (Nat × Nat)} {r : Unit}
    (he : homeWriteBad s w l bs bad = .ok r u) : u.boot = s.boot := by
  grind [homeWriteBad, markPoison_boot, → homeWrite_boot, foldl_boot]

@[simp] theorem State.onSaved_boot (s : State) (p v c : Nat) (f : Saved → Saved) : (s.onSaved p v c f).boot = s.boot := by
  grind [State.onSaved, State.onPart_boot]

@[simp] theorem State.setSpool_boot (s : State) (k : SpoolId) (sp : Spool) : (s.setSpool k sp).boot = s.boot := by
  grind [State.setSpool, State.onStrand_boot, State.onSaved_boot, State.imageWrite_boot, State.reseal_boot]

@[simp] theorem State.setSlotRec_boot (s : State) (k : SpoolId) (sp : Spool) (j : Nat) (r : SlotRec) :
    (s.setSlotRec k sp j r).boot = s.boot := by
  grind [State.setSlotRec, → homeWrite_boot]

@[simp] theorem freeSlots_boot (s : State) (k : SpoolId) (chain : Nat) (origin : W32) (fuel : Nat) :
    (freeSlots k chain origin fuel s).boot = s.boot := by
  induction fuel generalizing s with grind [freeSlots, State.setSlotRec_boot, State.setSpool_boot]

@[simp] theorem drainDiscards_boot (s : State) (k : SpoolId) (fuel : Nat) : (drainDiscards k fuel s).boot = s.boot := by
  induction fuel generalizing s with grind [drainDiscards, freeSlots_boot]

@[simp] theorem State.setLanding_boot (s : State) (i : Nat) (l : Landing) : (s.setLanding i l).boot = s.boot := by
  grind [State.setLanding]

@[simp] theorem State.failCopies_boot (s : State) (p : CopyCmd → Bool) : (s.failCopies p).boot = s.boot := by
  grind [State.failCopies]

@[simp] theorem State.countSlot_boot (s : State) (i : Nat) (l : Landing) : (s.countSlot i l).boot = s.boot := by
  grind [State.countSlot, drainDiscards_boot, State.setSlotRec_boot, State.setSpool_boot, State.setLanding_boot, State.failCopies_boot,
    → homeWriteBad_boot]

@[simp] theorem countOwn_boot (s : State) (k : SpoolId) (fuel : Nat) : (countOwn k fuel s).boot = s.boot := by
  induction fuel generalizing s with grind [countOwn, State.countSlot_boot]

@[simp] theorem State.failReserved_boot (s : State) (id : Nat) (ks : List SpoolId) (f : Nat → Nat × Bool) :
    (s.failReserved id ks f).boot = s.boot := by
  grind [State.failReserved, countOwn_boot, foldl_boot]

@[simp] theorem State.grant_boot (s : State) (i : Nat) (l : Landing) : (s.grant i l).boot = s.boot := by
  grind [State.grant, State.setSpool_boot]

/-! ### Spool -/

@[simp] theorem State.failLandings_boot (s : State) (k : SpoolId) : (s.failLandings k).boot = s.boot := by
  grind [State.failLandings, State.failCopies_boot]

theorem execSpdef_boot {h a : BitVec 6} (he : execSpdef h a s = .next u) : u.boot = s.boot :=
  word_boot (fun s n x => by grind [Eff.Boots, illegal_boot, State.retire_boot, State.setSpool_boot, State.failLandings_boot, withStrand,
    → homeWrite_boot, State.setStrand_boot]) he

theorem execSpadvp_boot {h a : BitVec 6} (he : execSpadvp h a s = .next u) : u.boot = s.boot := by
  refine word_boot (fun s n x => ?_) he
  split
  · rfl
  · extract_lets y k
    split
    · exact illegal_boot _ _ _
    · split
      · trivial
      · split
        · rename_i hr; exact (releaseAt_boot_error hr :)
        · rename_i s1 hr
          have h1 := releaseAt_boot hr
          dsimp only
          generalize hs2 : (if List.any s1.landings _ then s1 else _ : State) = s2
          have h2 : s2.boot = s.boot := by grind [State.setStrand_boot]
          split
          · exact h2
          · split
            · exact h2
            · split
              · exact withStrand_boot h2 fun y => withStrand_boot (by simp [h2]) fun z => by simp [Eff.Boots, h2]
              · exact h2

theorem execSpadvc_boot {h a : BitVec 6} (he : execSpadvc h a s = .next u) : u.boot = s.boot := by
  refine word_boot (fun s n x => ?_) he
  split
  · rfl
  · extract_lets y
    split
    · exact illegal_boot _ _ _
    · split
      · exact illegal_boot _ _ _
      · split
        · trivial
        · split
          · rename_i hr; exact (releaseAt_boot_error hr :)
          · rename_i s1 hr
            exact withStrand_boot (releaseAt_boot hr :) fun y => by
              grind [withStrand, Eff.Boots, State.retire_boot, freeSlots_boot, State.setStrand_boot, → releaseAt_boot]

theorem execSpwaitp_boot {h a : BitVec 6} (he : execSpwaitp h a s = .next u) : u.boot = s.boot :=
  word_boot (fun s n x => by grind [Eff.Boots, illegal_boot, State.retire_boot, State.setStrand_boot]) he

theorem execSpwaitc_boot {h a : BitVec 6} (he : execSpwaitc h a s = .next u) : u.boot = s.boot :=
  word_boot (fun s n x => by grind [Eff.Boots, illegal_boot, State.retire_boot, State.setStrand_boot]) he

theorem execSbind_boot {t h ty : BitVec 6} (he : execSbind t h ty s = .next u) : u.boot = s.boot :=
  word_boot (fun s n x => by grind [Eff.Boots, illegal_boot, State.retire_boot]) he

theorem execSunbind_boot {t : BitVec 6} (he : execSunbind t s = .next u) : u.boot = s.boot :=
  word_boot (fun s n x => by grind [Eff.Boots, State.retire_boot]) he

@[simp] theorem advanceStream_boot (s : State) (n i : Nat) (t : Stream) (sp : Spool) (len : Nat) :
    (advanceStream s n i t sp len).boot = s.boot := by
  grind [advanceStream, State.setStrand_boot, freeSlots_boot]

theorem execSrd_boot {d t : BitVec 6} (he : execSrd d t s = .next u) : u.boot = s.boot :=
  word_boot (fun s n x => by grind [Eff.Boots, illegal_boot, State.retire_boot, advanceStream_boot, withStrand, State.setStrand_boot]) he

/-! ### Barrier -/

@[simp] theorem State.setBar_boot (s : State) (n : Nat) (x : Strand) (b : BarId) (r : Bar) : (s.setBar n x b r).boot = s.boot := by
  grind [State.setBar, State.setCluster_boot, State.onPart_boot]

@[simp] theorem State.complete_boot (s : State) (n : Nat) (x : Strand) (b : BarId) (r : Bar) : (s.complete n x b r).boot = s.boot := by
  grind [State.complete, State.setBar_boot]

@[simp] theorem State.arrive_boot (s : State) (n : Nat) (x : Strand) (b : BarId) (xf : Bool) (r : Bar) :
    (s.arrive n x b xf r).boot = s.boot := by
  grind [State.arrive, State.complete_boot, State.setBar_boot, State.setStrand_boot]

theorem arriveStep_boot {s : State} {n : Nat} {x : Strand} {b : BarId} {xf : Bool} {f : State → Strand → Eff} (hf : ∀ s x, (f s x).Boots s.boot) :
    (arriveStep s n x b xf f).Boots s.boot := by
  unfold arriveStep
  split
  · exact illegal_boot s n x
  · split
    · rfl
    · split
      · rfl
      · split
        · rename_i hr; exact releaseAt_boot_error hr
        · rename_i hr
          refine withStrand_boot (releaseAt_boot hr) fun y => ?_
          grind [Eff.Boots, illegal_boot, → releaseAt_boot, withStrand_boot, State.arrive_boot]

theorem awaitStep_boot (s : State) (n : Nat) (x : Strand) (b : BarId) : (awaitStep s n x b).Boots s.boot := by
  grind [awaitStep, Eff.Boots, illegal_boot, State.retire_boot, State.setStrand_boot]

theorem baraInstr_boot {n : BitVec 6} {t : BitVec 1} {xf : Bool} (he : baraInstr n t xf s = .next u) : u.boot = s.boot :=
  word_boot (fun s n x => by grind [Eff.Boots, State.retire_boot, arriveStep_boot]) he

theorem barInstr_boot {n : BitVec 6} {t : BitVec 1} {xf : Bool} (he : barInstr n t xf s = .next u) : u.boot = s.boot :=
  word_boot (fun s n x => by grind [Eff.Boots, awaitStep_boot, arriveStep_boot, State.setStrand_boot]) he

theorem execBarw_boot {n : BitVec 6} {t : BitVec 1} (he : execBarw n t s = .next u) : u.boot = s.boot :=
  word_boot (fun s n x => by grind [Eff.Boots, awaitStep_boot]) he

@[simp] theorem State.deliver_boot (s : State) (r : Release) : (s.deliver r).boot = s.boot := by
  grind [State.deliver, State.retire_boot, State.setStrand_boot]

theorem execBarrierRelease_boot (he : execBarrierRelease s = .next u) : u.boot = s.boot := by
  grind [execBarrierRelease, notEnabled, State.deliver_boot]

@[simp] theorem State.loadDomain_boot (s : State) (p d : Nat) (r : Domain) : (s.loadDomain p d r).boot = s.boot := by
  grind [State.loadDomain, State.onPart_boot]

theorem onLink_boot {f : Out} (hf : f = .next u → u.boot = s.boot) (he : onLink s f = .next u) : u.boot = s.boot := by
  grind [onLink, State.emit_boot]

theorem execDomload_boot (he : execDomload s = .next u) : u.boot = s.boot := by
  refine onLink_boot (fun h => ?_) he
  grind [notEnabled, → homeRead_boot, State.onPart_boot, State.loadDomain_boot]

/-! ### Vector -/

theorem fillCore_boot {f : Fill} {r : Line} (he : fillCore s f = .ok r u) : u.boot = s.boot := by
  grind [fillCore, → llcRead_boot, State.cachePut_boot, State.setStrand_boot]

theorem globNow_boot {n part vd cpol : Nat} {xs : List (Nat × Nat × Nat)} {r : Got}
    (he : globNow n part vd cpol xs s = .ok r u) : u.boot = s.boot := by
  induction xs generalizing s r with grind [globNow, → fillCore_boot]

theorem vLoad_boot {n : Nat} {x : Strand} {a size cpol : Nat} {bs : List Byte} (he : vLoad s n x a size cpol = .ok bs u) : u.boot = s.boot := by
  grind [vLoad, → homeRead_boot, → globNow_boot]

theorem loadLanes_boot {n : Nat} {x : Strand} {cpol : Nat} {own : Nat → Nat} {xs : List (Nat × Nat)} {r0 : List (Nat × W32)}
    (he : loadLanes n x cpol own xs s = .ok (r0, u)) : u.boot = s.boot := by
  induction xs generalizing s r0 with grind [loadLanes, → vLoad_boot]

@[simp] theorem vStore_boot (s : State) (n : Nat) (x : Strand) (a : Nat) (bs : List Byte) (cpol : Nat) :
    (vStore s n x a bs cpol).boot = s.boot := by
  unfold vStore
  cases h : storeAt s n x a bs false cpol with
  | none => rfl
  | some u => exact storeAt_boot h

@[simp] theorem siftLane_boot (s : State) (n i o : Nat) (c : Pair) : (siftLane s n i o c).1.boot = s.boot := by
  grind [siftLane, State.touch_boot, State.scratchPut_boot]

theorem enterVec_boot {i : Instr} {g d : BitVec 6} (he : enterVec i g d s = .next u) : u.boot = s.boot :=
  word_boot (fun s n x => by grind [Eff.Boots, illegal_boot, State.retire_boot]) he

theorem enterStore_boot {i : Instr} {g : BitVec 6} {check : State → Nat → Strand → Option Trap} {rs : List (BitVec 7)} {ps : List (BitVec 3)}
    (he : enterStore i g check rs ps s = .next u) : u.boot = s.boot :=
  word_boot (fun s n x => by grind [Eff.Boots, illegal_boot, State.retire_boot]) he

theorem enterBlocking_boot {i : Instr} {g : BitVec 6} {k : WaitKind} {check : State → Nat → Strand → Option Trap} {rs : List (BitVec 7)} {ps :
    List (BitVec 3)}
    (he : enterBlocking i g k check rs ps s = .next u) : u.boot = s.boot :=
  word_boot (fun s n x => by grind [Eff.Boots, illegal_boot, State.retire_boot, State.setStrand_boot]) he

theorem loadDone_boot {n : Nat} {d : BitVec 7} {w : W512} (he : loadDone s n d w = .done u) : u.boot = s.boot := by
  cases he; simp

theorem vecRun_boot {n : Nat} {x : Strand} {q : VqEntry} (he : vecRun s n x q = .done u) : u.boot = s.boot := by
  unfold vecRun at he
  extract_lets e base lanesLoad lanesStore at he
  have hload : ∀ {d c own ps}, lanesLoad d c own ps = .done u → u.boot = s.boot := by
    grind [→ loadLanes_boot, → loadDone_boot]
  have hstore : ∀ {d c ps}, lanesStore d c ps = .done u → u.boot = s.boot := by
    grind [foldl_boot, vStore_boot]
  clear_value lanesLoad lanesStore
  split at he
  case h_7 => grind [advanceStream_boot, State.setStrand_boot]
  case h_8 =>
    dsimp only at he
    split at he
    · cases he
    · cases he
      refine (State.onStrand_boot _ _ _).trans (foldl_fst_boot (f := fun (z : State × Bool) i => _) (fun z i => ?_) _ _)
      exact siftLane_boot _ _ _ _ _
  all_goals grind [→ vLoad_boot, → loadDone_boot, vStore_boot, State.setStrand_boot]

@[simp] theorem State.ripen_boot (s : State) (n : Nat) (i : Instr) : (s.ripen n i).boot = s.boot := by
  grind [State.ripen, State.onStrand_boot]

@[simp] theorem bindHead_boot (s : State) (n : Nat) : (bindHead s n).boot = s.boot := by
  unfold bindHead
  split
  · rfl
  · split
    · rfl
    · extract_lets blk x0 pass x s1
      have h1 : s1.boot = s.boot := rfl
      clear_value s1 x
      grind [→ vecRun_boot, State.ripen_boot, foldl_boot, State.dropLocks_boot, State.setStrand_boot, State.trapAt_boot]

/-! ### Engine -/

@[simp] theorem State.addLocks_boot (s : State) (n : Nat) (ls : List Lock) : (s.addLocks n ls).boot = s.boot := by
  grind [State.addLocks, State.setCluster_boot]

@[simp] theorem State.place_boot (s : State) (n : Nat) (x : Strand) (p : EnqPlan) (w : W256) (bob : Option (Nat × Nat)) :
    (s.place n x p w bob).boot = s.boot := by
  grind [State.place, State.addLocks_boot, State.setStrand_boot]

theorem enqInstr_boot {qu : CmdQueue} {d a b : BitVec 6} (he : enqInstr qu d a b s = .next u) : u.boot = s.boot :=
  word_boot (fun s n x => by grind [Eff.Boots, illegal_boot, State.retire_boot, State.place_boot, withStrand, State.setStrand_boot]) he

theorem planStep_boot (s : State) (off : Nat) (need : Item → Option Trap) (n : Nat) (x : Strand) : (planStep off need s n x).Boots s.boot := by
  grind [planStep, Eff.Boots, illegal_boot, State.retire_boot, State.dropLocks_boot, State.addLocks_boot, State.setStrand_boot]

theorem execEnqX_boot {d a b : BitVec 6} (he : execEnqX d a b s = .next u) : u.boot = s.boot :=
  word_boot (fun s n x => by grind [Eff.Boots, illegal_boot, planStep_boot]) he

theorem execXcPlan_boot {c : PlanBody} (he : execXcPlan c s = .next u) : u.boot = s.boot :=
  word_boot (fun s n x => by grind [Eff.Boots, planStep_boot]) he

/-! ### Granule -/

@[simp] theorem serve_boot (s : State) (c fuel : Nat) : (serve c fuel s).boot = s.boot := by
  induction fuel generalizing s with grind [serve, State.setCell_boot, State.onStrand_boot]

@[simp] theorem State.serve_boot (s : State) (c : Nat) : (s.serve c).boot = s.boot := by
  grind [State.serve, serve_boot]

theorem execVclaim_boot {n : BitVec 6} (he : execVclaim n s = .next u) : u.boot = s.boot :=
  word_boot (fun s n x => by grind [Eff.Boots, State.setCell_boot, illegal_boot, State.retire_boot, State.serve_boot, withStrand,
    State.setStrand_boot]) he

theorem execVgive_boot {n : BitVec 6} (he : execVgive n s = .next u) : u.boot = s.boot :=
  word_boot (fun s n x => by grind [Eff.Boots, illegal_boot, State.retire_boot, State.serve_boot]) he

@[simp] theorem State.tack_boot (s : State) (cs : List Nat) : (s.tack cs).boot = s.boot := by
  grind [State.tack, State.onStrand_boot, State.settleAll_boot, State.trapOn_boot, State.gangSync_boot, foldl_boot]

theorem execTack_boot {a : BitVec 6} (he : execTack a s = .next u) : u.boot = s.boot :=
  word_boot (fun s n x => by grind [Eff.Boots, illegal_boot, State.setStrand_boot, State.tack_boot]) he

@[simp] theorem State.copyCode_boot (s : State) (x : Strand) (lead c n : Nat) : (s.copyCode x lead c n).boot = s.boot := by
  grind [State.copyCode, → homeReadBad_boot, → homeWriteBad_boot]

theorem execUntack_boot (he : execUntack s = .next u) : u.boot = s.boot :=
  word_boot (fun s n x => by grind [Eff.Boots, illegal_boot, withStrand, State.copyCode_boot, State.setStrand_boot]) he

theorem execBob_boot {n a : BitVec 6} (he : execBob n a s = .next u) : u.boot = s.boot :=
  word_boot (fun s n x => by grind [Eff.Boots, illegal_boot, State.setStrand_boot]) he

/-! ### Csr -/

theorem csrAccess_boot {op : BitVec 2} {d a : BitVec 6} {c : BitVec 7} (he : csrAccess op d a c s = .next u) : u.boot = s.boot :=
  word_boot (fun s n x => by grind [Eff.Boots, illegal_boot, State.retire_boot, State.onPart_boot, State.setStrand_boot]) he

/-! ### System -/

theorem execTrap_boot {i : BitVec 20} (he : execTrap i s = .next u) : u.boot = s.boot := word_boot (fun s n x => by grind [Eff.Boots]) he

theorem execNop_boot (he : execNop s = .next u) : u.boot = s.boot := word_boot (fun s n x => by grind [Eff.Boots, State.retire_boot]) he

theorem execTret_boot (he : execTret s = .next u) : u.boot = s.boot :=
  word_boot (fun s n x => by grind [Eff.Boots, illegal_boot, State.setStrand_boot]) he

theorem execIllegalInstruction_boot {w : W32} (he : execIllegalInstruction w s = .next u) : u.boot = s.boot :=
  word_boot (fun s n x => by grind [Eff.Boots]) he

theorem execYield_boot (he : execYield s = .next u) : u.boot = s.boot := word_boot (fun s n x => by grind [Eff.Boots, State.retire_boot]) he

theorem execDone_boot (he : execDone s = .next u) : u.boot = s.boot :=
  word_boot (fun s n x => by grind [Eff.Boots, → release_boot, → release_boot_error]) he

@[simp] theorem State.sendExchange_boot (s : State) (m : Xmsg) : (s.sendExchange m).boot = s.boot := by
  grind [State.sendExchange]

@[simp] theorem State.takeExchange_boot (s : State) (i : Nat) (m : Xmsg) : (s.takeExchange i m).boot = s.boot := by
  grind [State.takeExchange]

@[simp] theorem State.payload_boot (s : State) (n : Nat) (e : PlanEntry) : (s.payload n e).2.boot = s.boot := by
  grind [State.payload]

theorem sendNow_boot (s : State) (n : Nat) (x : Strand) (e : PlanEntry) : (sendNow s n x e).Boots s.boot := by
  grind [sendNow, Eff.Boots, State.retire_boot, State.payload_boot, State.setStrand_boot, State.sendExchange_boot]

theorem sendx_boot (s : State) (n : Nat) (x : Strand) : (sendx s n x).Boots s.boot := by
  grind [sendx, Eff.Boots, sendNow_boot]

theorem execSendx_boot (he : execSendx s = .next u) : u.boot = s.boot := word_boot (fun s n x => by grind [Eff.Boots, sendx_boot]) he

theorem execExchangeSend_boot (he : execExchangeSend s = .next u) : u.boot = s.boot := by
  unfold execExchangeSend at he
  split at he
  · split at he
    · split at he
      · exact (word_boot (s := { s with cur := s.op.a }) (fun s n x => sendx_boot s n x) he :)
      · cases he
    · cases he
  · cases he

@[simp] theorem State.onContext_boot (s : State) (p v n : Nat) (f : Strand → Strand) : (s.onContext p v n f).boot = s.boot := by
  grind [State.onContext, State.onStrand_boot, State.onSaved_boot]

@[simp] theorem State.imagePend_boot (s : State) (p : Nat) (y : Saved) : (s.imagePend p y).boot = s.boot := by
  grind [State.imagePend, State.imageWrite_boot, State.reseal_boot]

@[simp] theorem State.holdFault_boot (s : State) (p v n cause detail : Nat) : (s.holdFault p v n cause detail).boot = s.boot := by
  grind [State.holdFault, State.onContext_boot, State.imagePend_boot]

@[simp] theorem State.addGranted_boot (s : State) (l : Landing) : (s.addGranted l).boot = s.boot := by
  grind [State.addGranted]

@[simp] theorem landExchange_boot (s : State) (m : Xmsg) : (landExchange s m).boot = s.boot := by
  grind [landExchange, State.setSpool_boot, countOwn_boot, State.addGranted_boot, State.onContext_boot, State.holdFault_boot, State.charge_boot]

theorem execExchangeLanding_boot (he : execExchangeLanding s = .next u) : u.boot = s.boot := by
  grind [execExchangeLanding, landExchange_boot, notEnabled, State.takeExchange_boot]

/-! ### Matrix -/

theorem engineRead_boot {w : Who} {l : Loc} {len : Nat} {ftop : Option Bool} {r0 : List Byte} {r1 : List (Nat × Nat)}
    (he : engineRead s w l len ftop = .ok (r0, r1, u)) : u.boot = s.boot := by
  grind [engineRead, → homeReadBad_boot]

theorem engineWrite_boot {w : Who} {l : Loc} {bs : List Byte} {bad : List (Nat × Nat)}
    (he : engineWrite s w l bs bad = .ok u) : u.boot = s.boot := by
  grind [engineWrite, → homeWriteBad_boot]

theorem windowRows_boot {c : Cmd} {m : MatBody} {n : Nat} {xs : List Nat} {r0 : List (List Nat × Bool)}
    (he : windowRows c m n xs s = .ok (r0, u)) : u.boot = s.boot := by
  induction xs generalizing s r0 with grind [windowRows, → engineRead_boot]

theorem quiltRows_boot {c : Cmd} {m : MatBody} {n : Nat} {r0 : List (List Nat × Bool)}
    (he : quiltRows s c m n = .ok (r0, u)) : u.boot = s.boot := by
  grind [quiltRows, → engineRead_boot]

theorem sourceRows_boot {c : Cmd} {pos : Nat} {m : MatBody} {n : Nat} {r0 : Rows}
    (he : sourceRows s c pos m n = .ok (r0, u)) : u.boot = s.boot := by
  grind [sourceRows, → quiltRows_boot, → windowRows_boot]

@[simp] theorem State.onCell_boot (s : State) (k : Nat) (f : Cell → Cell) : (s.onCell k f).boot = s.boot := by
  grind [State.onCell, State.setCell_boot]

@[simp] theorem freeSource_boot (s : State) (c : Cmd) (chain slots : Nat) : (freeSource s c chain slots).boot = s.boot := by
  grind [freeSource, drainDiscards_boot, freeSlots_boot]

theorem storeRows_boot {u : State} {c : Cmd} {m : MatBody} {t : Slot} {xs : List Nat} {acc : State × FFlags × Bool} {r1 : FFlags} {r2 : Bool}
    (he : storeRows c m t xs acc = .ok (u, r1, r2)) : u.boot = acc.1.boot := by
  induction xs generalizing acc r1 r2 with grind [storeRows, → engineWrite_boot]

theorem storeRows_boot_error {c : Cmd} {m : MatBody} {t : Slot} {xs : List Nat} {acc : State × FFlags × Bool} {er : MatFail}
    (he : storeRows c m t xs acc = .error er) : er.state.boot = acc.1.boot := by
  induction xs generalizing acc er with grind [storeRows, → engineWrite_boot]

theorem storeLists_boot {u : State} {c : Cmd} {m : MatBody} {t : Slot} {xs : List Nat} {acc : State × Bool} {r1 : Bool}
    (he : storeLists c m t xs acc = .ok (u, r1)) : u.boot = acc.1.boot := by
  induction xs generalizing acc r1 with grind [storeLists, → engineWrite_boot]

theorem storeLists_boot_error {c : Cmd} {m : MatBody} {t : Slot} {xs : List Nat} {acc : State × Bool} {er : MatFail}
    (he : storeLists c m t xs acc = .error er) : er.state.boot = acc.1.boot := by
  induction xs generalizing acc er with grind [storeLists, → engineWrite_boot]

theorem windowOffers_boot {c : Cmd} {m : MatBody} {xs : List Nat} {r0 : List Offers}
    (he : windowOffers c m xs s = .ok (r0, u)) : u.boot = s.boot := by
  induction xs generalizing s r0 with
  | nil => grind [windowOffers]
  | cons x xs ih =>
    unfold windowOffers at he
    dsimp only at he
    split at he
    · cases he
    · rename_i h1
      rw [← engineRead_boot h1]
      grind [→ engineRead_boot]

@[simp] theorem reserveAccst_boot (s : State) (c : Cmd) (chain : Nat) (ovf : Bool) : (reserveAccst s c chain ovf).boot = s.boot := by
  grind [reserveAccst, State.setSpool_boot, State.addGranted_boot]

@[simp] theorem takeOwner_boot (s : State) (c : Cmd) : (takeOwner s c).boot = s.boot := by
  grind [takeOwner, State.onCell_boot, foldl_boot]

@[simp] theorem startMatrix_boot (s : State) (c : Cmd) (ptr credit : Nat) : (startMatrix s c ptr credit).boot = s.boot := by
  grind [startMatrix, State.onStrand_boot, reserveAccst_boot, State.charge_boot, State.onCell_boot, takeOwner_boot, foldl_boot]

@[simp] theorem State.dueTile_boot (s : State) (r : Running) : (s.dueTile r).boot = s.boot := by
  grind [State.dueTile, State.onCell_boot]

@[simp] theorem State.feedTile_boot (s : State) (c : Cmd) (u : Nat) (f : Feed) : (s.feedTile c u f).boot = s.boot := by
  grind [State.feedTile, State.onCell_boot]

@[simp] theorem State.dropTiles_boot (s : State) (c : Cmd) : (s.dropTiles c).boot = s.boot := by
  grind [State.dropTiles, State.onCell_boot, foldl_boot]

@[simp] theorem engineSignal_boot (s : State) (c : Cmd) (from_ : Site) (chain : Nat) (ovf err psn : Bool) (a : Nat) :
    (engineSignal s c from_ chain ovf err psn a).boot = s.boot := by
  grind [engineSignal, State.send_boot]

@[simp] theorem State.onIssuer_boot (s : State) (c : Cmd) (f : Strand → Strand) : (s.onIssuer c f).boot = s.boot := by
  grind [State.onIssuer, State.onStrand_boot, State.onPart_boot]

@[simp] theorem failTrap_boot (s : State) (c : Cmd) (cls knot : Nat) : (failTrap s c cls knot).boot = s.boot := by
  grind [failTrap, State.setLaunch_boot, State.imagePend_boot, State.onIssuer_boot]

@[simp] theorem releaseSlots_boot (s : State) (c : Cmd) : (release_ s c).boot = s.boot := by
  grind [release_, State.onCell_boot]

@[simp] theorem finishMatrix_boot (c : Cmd) (chain : Nat) (ovf : Bool) (d : MatDone) (err : Option Nat) :
    (finishMatrix c chain ovf d err).boot = d.state.boot := by
  unfold finishMatrix
  extract_lets m ch s0 s1 s2 s3 s4 s5 s6
  have h0 : s0.boot = d.state.boot := by grind [State.notePsn_boot]
  have h1 : s1.boot = s0.boot := by grind [State.onIssuer_boot, State.dropLocks_boot]
  have h2 : s2.boot = s1.boot := by grind [State.onIssuer_boot]
  have h3 : s3.boot = s2.boot := by grind [engineSignal_boot]
  have h4 : s4.boot = s3.boot := by grind [releaseSlots_boot, State.idleFrom_boot]
  have h5 : s5.boot = s4.boot := by grind [failTrap_boot]
  rw [← h0, ← h1, ← h2, ← h3, ← h4, ← h5]
  grind [State.settleCore_boot, State.trapAt_boot, State.fillGran_boot, State.onStrand_boot, foldl_boot]

theorem doLdw_boot (s : State) (c : Cmd) (m : MatBody) (pos chain : Nat) (ovf : Bool) :
    ExGood (fun e => e.state.boot = s.boot) (fun d => d.state.boot = s.boot) (doLdw s c m pos chain ovf) := by
  grind [doLdw, ExGood, MatFail.after, → sourceRows_boot, freeSource_boot, State.onCell_boot]

theorem doAccst_boot (s : State) (c : Cmd) (m : MatBody) :
    ExGood (fun e => e.state.boot = s.boot) (fun d => d.state.boot = s.boot) (doAccst s c m) := by
  grind [doAccst, ExGood, MatFail.plain, → storeRows_boot, → storeRows_boot_error, foldl_boot, State.countSlot_boot]

theorem doRlst_boot (s : State) (c : Cmd) (m : MatBody) :
    ExGood (fun e => e.state.boot = s.boot) (fun d => d.state.boot = s.boot) (doRlst s c m) := by
  grind [doRlst, ExGood, MatFail.plain, → storeLists_boot, → storeLists_boot_error]

theorem doRlmrg_boot (s : State) (c : Cmd) (m : MatBody) (chain : Nat) (ovf : Bool) :
    ExGood (fun e => e.state.boot = s.boot) (fun d => d.state.boot = s.boot) (doRlmrg s c m chain ovf) := by
  grind [doRlmrg, ExGood, MatFail.plain, MatFail.after, → windowOffers_boot, State.onCell_boot]

theorem doThr_boot (s : State) (c : Cmd) (m : MatBody) :
    ExGood (fun e => e.state.boot = s.boot) (fun d => d.state.boot = s.boot) (doThr s c m) := by
  grind [doThr, ExGood, MatFail.plain]

theorem doMma_boot (s : State) (c : Cmd) (m : MatBody) (pos chain : Nat) (ovf : Bool) :
    ExGood (fun e => e.state.boot = s.boot) (fun d => d.state.boot = s.boot) (doMma s c m pos chain ovf) := by
  grind [doMma, ExGood, MatFail.after, MatFail.plain, → sourceRows_boot, freeSource_boot, State.setCell_boot]

theorem matRun_boot (s : State) (r : Running) : ExGood (fun e => e.state.boot = s.boot) (fun d => d.state.boot = s.boot) (matRun s r) := by
  unfold matRun
  dsimp only
  split
  all_goals grind [ExGood, doLdw_boot, doAccst_boot, doRlst_boot, doRlmrg_boot, doThr_boot, doMma_boot, doSwap, doZero, doRldef, doAccv,
    MatDone.plain, State.onCell_boot]

@[simp] theorem completeMatrix_boot (s : State) (r : Running) : (completeMatrix s r).boot = s.boot := by
  have h := matRun_boot s r
  grind [completeMatrix, ExGood, State.feedTile_boot, finishMatrix_boot, State.dropTiles_boot, State.free_boot, State.failReserved_boot,
    MatDone.plain]

@[simp] theorem endTile_boot (s : State) (k : Nat) (r : Running) (f : Feed) : (endTile s k r f).boot = s.boot := by
  grind [endTile, State.setCell_boot, finishMatrix_boot, State.feedTile_boot, State.onContext_boot]

@[simp] theorem skipMatrix_boot (s : State) (c : Cmd) : (skipMatrix s c).boot = s.boot := by
  grind [skipMatrix, State.onStrand_boot, drainDiscards_boot, finishMatrix_boot, MatDone.plain]

@[simp] theorem runTiles_boot (s : State) (id : Nat) (xs : List Nat) : (runTiles id xs s).boot = s.boot := by
  induction xs generalizing s with grind [runTiles, endTile_boot, State.charge_boot, State.onCell_boot]

theorem matNow_boot {o : CmdOp} {m : MatBody} {mn : String} (he : matNow o m mn s = .next u) : u.boot = s.boot := by
  grind [matNow, skipMatrix_boot, startMatrix_boot, completeMatrix_boot, runTiles_boot, notEnabled, State.trapAt_boot, State.onCell_boot]

theorem execMatrixArbitrate_boot (he : execMatrixArbitrate s = .next u) : u.boot = s.boot := by
  grind [execMatrixArbitrate, skipMatrix_boot, startMatrix_boot, notEnabled]

theorem execChainedTileForward_boot (he : execChainedTileForward s = .next u) : u.boot = s.boot := by
  grind [execChainedTileForward, State.setCell_boot, notEnabled, State.charge_boot, State.dueTile_boot]

theorem State.accvFill_boot {c : Cmd} {r0 : Bool} (he : s.accvFill c = some (r0, u)) : u.boot = s.boot := by
  grind [State.accvFill, State.onStrand_boot, State.settleCore_boot]

theorem execMatrixCommandComplete_boot (he : execMatrixCommandComplete s = .next u) : u.boot = s.boot := by
  grind [execMatrixCommandComplete, completeMatrix_boot, notEnabled, endTile_boot, → State.accvFill_boot, State.onCell_boot]

/-! ### Queue -/

@[simp] theorem packetSignal_boot (s : State) (q part vd : Nat) (knot delta : W64) (chain : Nat) (ovf err psn : Bool) :
    (packetSignal s q part vd knot delta chain ovf err psn).boot = s.boot := by
  grind [packetSignal, State.send_boot]

@[simp] theorem State.packetDone_boot (s : State) (q index chain : Nat) (ovf err psn : Bool) :
    (s.packetDone q index chain ovf err psn).boot = s.boot := by
  grind [State.packetDone, packetSignal_boot]

/-! ### Copy -/

@[simp] theorem copySignal_boot (s : State) (k : CopyCmd) (knot : Loc) (ch : Nat × Bool) (err psn : Bool) :
    (copySignal s k knot ch err psn).boot = s.boot := by
  grind [copySignal, State.send_boot]

@[simp] theorem signalAt_boot (s : State) (k : CopyCmd) (via : List Site) (err : Bool) (a : Nat) : (signalAt s k via err a).boot = s.boot := by
  grind [signalAt, copySignal_boot]

@[simp] theorem signalReceiver_boot (s : State) (k : CopyCmd) (r : Nat × Nat) (err : Bool) : (signalReceiver s k r err).boot = s.boot := by
  grind [signalReceiver, copySignal_boot]

@[simp] theorem copyPacketDone_boot (s : State) (k : CopyCmd) (q : Nat) (via : List Site) (err : Bool) :
    (copyPacketDone s k q via err).boot = s.boot := by
  grind [copyPacketDone, State.packetDone_boot]

@[simp] theorem failCopy_boot (s : State) (k : CopyCmd) (cls : Nat) : (failCopy s k cls).boot = s.boot := by
  grind [failCopy, State.dropLocks_boot, State.failReserved_boot, State.free_boot, signalReceiver_boot, State.idleFrom_boot,
    copyPacketDone_boot, failTrap_boot, State.charge_boot, signalAt_boot, foldl_boot]

@[simp] theorem State.setCopy_boot (s : State) (k : CopyCmd) : (s.setCopy k).boot = s.boot := by
  grind [State.setCopy]

@[simp] theorem beginCopy_boot (s : State) (k : CopyCmd) : (beginCopy s k).boot = s.boot := by
  grind [beginCopy, failCopy_boot, State.onContext_boot, State.setCopy_boot]

@[simp] theorem grantCopy_boot (s : State) (i : Nat) (l : Landing) : (grantCopy s i l).boot = s.boot := by
  grind [grantCopy, State.grant_boot]

theorem readPieces_boot {w : Who} {k : CopyCmd} {xs : List (Nat × Nat)} {fuel : Nat} {r0 : List Byte} {r1 : List (Nat × Nat)}
    (he : readPieces w k xs fuel s = .ok (r0, r1, u)) : u.boot = s.boot := by
  induction xs generalizing s fuel r0 r1 with grind [readPieces, → engineRead_boot]

@[simp] theorem readPart_boot (s : State) (k : CopyCmd) (n : Nat) : (readPart s k n).boot = s.boot := by
  grind [readPart, failCopy_boot, State.setCopy_boot, → readPieces_boot]

@[simp] theorem readAhead_boot (s : State) (k : CopyCmd) (o n : Nat) : (readAhead s k o n).boot = s.boot := by
  grind [readAhead, failCopy_boot, State.setCopy_boot, → readPieces_boot]

@[simp] theorem sendFrames_boot (s : State) (port : Nat) (seal_ : Bool) (xs : List (List Byte)) (fuel : Nat) (acc : List Byte) :
    (sendFrames port seal_ xs fuel acc s).boot = s.boot := by
  induction xs generalizing s fuel acc with grind [sendFrames, State.emit_boot]

theorem sendPeer_boot {k : CopyCmd} (he : sendPeer s k = some u) : u.boot = s.boot := by
  grind [sendPeer, sendFrames_boot]

@[simp] theorem sendRemoteKnot_boot (s : State) (k : CopyCmd) : (sendRemoteKnot s k).boot = s.boot := by
  grind [sendRemoteKnot, State.emit_boot]

@[simp] theorem readSource_boot (s : State) (k : CopyCmd) : (readSource s k).boot = s.boot := by
  grind [readSource, failCopy_boot, State.dropLocks_boot, State.setCopy_boot, State.charge_boot, → readPieces_boot, signalAt_boot,
    → sendPeer_boot]

theorem writeRanges_boot {w : Who} {k : CopyCmd} {l : Loc} {xs : List (Nat × Nat)} (he : writeRanges w k l xs s = .ok u) : u.boot = s.boot := by
  induction xs generalizing s with grind [writeRanges, → engineWrite_boot]

theorem landPart_boot {k : CopyCmd} {r : Nat × Nat} {o n : Nat} (he : landPart s k r o n = .ok u) : u.boot = s.boot := by
  unfold landPart at he
  split at he
  · cases h1 : writeRanges k.cmd.who k (k.cmd.receiverLoc r) (k.left (r.1 + 1) o n) s with
    | error => simp [h1, Except.map] at he
    | ok z => grind [Except.map, → writeRanges_boot, State.setCopy_boot]
  · cases he

theorem landReceiver_boot {k : CopyCmd} {r : Nat × Nat} (he : landReceiver s k r = some u) : u.boot = s.boot := by
  grind [landReceiver, signalReceiver_boot, State.setCopy_boot, → writeRanges_boot]

@[simp] theorem writePieces_boot (s : State) (w : Who) (k : CopyCmd) (xs : List (Nat × Nat)) (fuel : Nat) :
    (writePieces w k xs fuel s).1.boot = s.boot := by
  induction xs generalizing s fuel with grind [writePieces, → engineWrite_boot]

@[simp] theorem writePart_boot (s : State) (k : CopyCmd) (o n : Nat) : (writePart s k o n).1.boot = s.boot := by
  refine foldl_fst_boot (fun z g => ?_) _ _
  grind [writePieces_boot]

@[simp] theorem finishCopy_boot (s : State) (k : CopyCmd) : (finishCopy s k).boot = s.boot := by
  grind [finishCopy, failCopy_boot, State.dropLocks_boot, sendRemoteKnot_boot, State.idleFrom_boot, copyPacketDone_boot, State.notePsn_boot,
    signalAt_boot, writePart_boot, foldl_boot]

theorem execCopyBufferGrant_boot (he : execCopyBufferGrant s = .next u) : u.boot = s.boot := by
  grind [execCopyBufferGrant, notEnabled]

theorem execCopyStart_boot (he : execCopyStart s = .next u) : u.boot = s.boot := by
  grind [execCopyStart, notEnabled, beginCopy_boot]

theorem execSpoolReservationGrant_boot (he : execSpoolReservationGrant s = .next u) : u.boot = s.boot := by
  grind [execSpoolReservationGrant, notEnabled, grantCopy_boot]

theorem execCopySourceDone_boot (he : execCopySourceDone s = .next u) : u.boot = s.boot := by
  grind [execCopySourceDone, readPart_boot, readSource_boot, readAhead_boot, notEnabled]

theorem execSpoolSlotCounted_boot (he : execSpoolSlotCounted s = .next u) : u.boot = s.boot := by
  grind [execSpoolSlotCounted, notEnabled, countOwn_boot, State.countSlot_boot]

theorem execMulticastLanding_boot (he : execMulticastLanding s = .next u) : u.boot = s.boot := by
  grind [execMulticastLanding, notEnabled, → landPart_boot, → landReceiver_boot]

theorem execCopyDataVisible_boot (he : execCopyDataVisible s = .next u) : u.boot = s.boot := by
  grind [execCopyDataVisible, finishCopy_boot, failCopy_boot, notEnabled, State.setCopy_boot, writePart_boot]

theorem execEngineFailure_boot (he : execEngineFailure s = .next u) : u.boot = s.boot := by
  grind [execEngineFailure, failCopy_boot, notEnabled]

@[simp] theorem grantAll_boot (s : State) (id fuel : Nat) : (grantAll id fuel s).boot = s.boot := by
  induction fuel generalizing s with grind [grantAll, grantCopy_boot]

@[simp] theorem countAll_boot (s : State) (id fuel : Nat) : (countAll id fuel s).boot = s.boot := by
  induction fuel generalizing s with grind [countAll, countOwn_boot, State.countSlot_boot]

@[simp] theorem landReceiver_getD_boot (s : State) (k : CopyCmd) (r : Nat × Nat) : ((landReceiver s k r).getD s).boot = s.boot := by
  cases h : landReceiver s k r with
  | none => rfl
  | some u => exact landReceiver_boot h

theorem copyNow_boot {i : Instr} {o : CmdOp} {mn : String} (he : copyNow i o mn s = .next u) : u.boot = s.boot := by
  unfold copyNow at he
  split at he
  · cases he
  · dsimp only at he
    split at he
    · cases he
    · generalize hs2 : grantAll _ 16 _ = s2 at he
      have h2 : s2.boot = s.boot := hs2 ▸ (grantAll_boot _ _ _).trans (beginCopy_boot _ _)
      clear hs2
      split at he
      · cases he; exact h2
      · split at he
        · cases he
        · generalize hs3 : countAll _ 4096 _ = s3 at he
          have h3 : s3.boot = s2.boot := hs3 ▸ (countAll_boot _ _ _).trans (readSource_boot _ _)
          clear hs3
          split at he
          · cases he; exact h3.trans h2
          · generalize hs4 : List.foldl _ s3 _ = s4 at he
            have h4 : s4.boot = s3.boot := hs4 ▸ foldl_boot (fun z r => by grind [landReceiver_getD_boot]) _ _
            grind [finishCopy_boot, notEnabled]

/-! ### Arbiter -/

@[simp] theorem feedEnq_boot (s : State) (n : Nat) (x : Strand) (w : BobWord) (d b : BitVec 6) : (feedEnq s n x w d b).boot = s.boot := by
  grind [feedEnq, State.place_boot, State.setStrand_boot]

@[simp] theorem feedBobbin_boot (s : State) (n : Nat) : (feedBobbin s n).boot = s.boot := by
  unfold feedBobbin
  split
  · rfl
  · grind [feedEnq_boot, State.setStrand_boot]

@[simp] theorem bindTo_boot (s : State) (k c : Nat) (g : Fin 4) (t : Nat) : (bindTo s k c g t).boot = s.boot := by
  grind [bindTo, State.setCell_boot, bindHead_boot]

@[simp] theorem vScan_boot (s : State) (k t : Nat) (rdy xs acc : List Nat) : (vScan k t rdy xs acc s).2.boot = s.boot := by
  induction xs generalizing s acc with grind [vScan, bindTo_boot]

@[simp] theorem refill_boot (s : State) (k : Nat) (rdy : List Nat) : (refill s k rdy).boot = s.boot := by
  grind [refill, State.setCell_boot, foldl_boot]

@[simp] theorem arbitrate_boot (s : State) (k t : Nat) : (arbitrate s k t).boot = s.boot := by
  grind [arbitrate, refill_boot, State.setCell_boot, vScan_boot]

theorem execVectorArbitrate_boot (he : execVectorArbitrate s = .next u) : u.boot = s.boot := by
  grind [execVectorArbitrate, State.setCell_boot, arbitrate_boot, notEnabled, feedBobbin_boot, foldl_boot]

/-! ### Arrival -/

@[simp] theorem State.took_boot (s : State) (k : Nat) : (s.took k).boot = s.boot := by
  grind [State.took]

@[simp] theorem State.answer_boot (s : State) (n : Nat) (r : Reply) : (s.answer n r).boot = s.boot := by
  grind [State.answer, State.onStrand_boot, State.settleCore_boot]

@[simp] theorem State.storeFault_boot (s : State) (n a : Nat) (fatal : Bool) : (s.storeFault n a fatal).boot = s.boot := by
  grind [State.storeFault, State.onStrand_boot]

theorem State.holdWait_boot {n : Nat} (he : s.holdWait n = some u) : u.boot = s.boot := by
  grind [State.holdWait, State.onStrand_boot, State.settleCore_boot]

theorem execLoadDataArrival_boot (he : execLoadDataArrival s = .next u) : u.boot = s.boot := by
  grind [execLoadDataArrival, State.onStrand_boot, State.answer_boot, → State.holdWait_boot, notEnabled, State.took_boot, → fillCore_boot,
    State.settleCore_boot]

theorem execHomeAccessArrival_boot (he : execHomeAccessArrival s = .next u) : u.boot = s.boot := by
  grind [execHomeAccessArrival, → State.holdWait_boot, notEnabled, → applyAccess_boot, State.took_boot, State.storeFault_boot, State.send_boot]

@[simp] theorem State.touchLine_boot (s : State) (l : Line) : (s.touchLine l).boot = s.boot := by
  grind [State.touchLine, State.touch_boot, foldl_boot]

theorem execLlcWritebackArrival_boot (he : execLlcWritebackArrival s = .next u) : u.boot = s.boot := by
  grind [execLlcWritebackArrival, → llcWrite_boot, notEnabled, State.took_boot, State.touchLine_boot, State.send_boot]

theorem execStoreWritebackFault_boot (he : execStoreWritebackFault s = .next u) : u.boot = s.boot := by
  grind [execStoreWritebackFault, → llcWrite_boot, notEnabled, State.took_boot, State.storeFault_boot, State.send_boot]

theorem execWriteAcknowledged_boot (he : execWriteAcknowledged s = .next u) : u.boot = s.boot := by
  grind [execWriteAcknowledged, State.onStrand_boot, notEnabled, State.took_boot]

theorem execSignalApply_boot (he : execSignalApply s = .next u) : u.boot = s.boot := by
  grind [execSignalApply, notEnabled, → applySignal_boot, State.took_boot, State.storeFault_boot, State.send_boot]

theorem execWaitHomeArrival_boot (he : execWaitHomeArrival s = .next u) : u.boot = s.boot := by
  grind [execWaitHomeArrival, → applyWait_boot, notEnabled, State.took_boot, → applyMonitor_boot, State.send_boot]

theorem execSnapshotJoin_boot (he : execSnapshotJoin s = .next u) : u.boot = s.boot := by
  grind [execSnapshotJoin, notEnabled, State.took_boot, State.setStrand_boot, State.settleCore_boot]

theorem execWaitTimeout_boot (he : execWaitTimeout s = .next u) : u.boot = s.boot := by
  grind [execWaitTimeout, State.onStrand_boot, notEnabled, State.settleCore_boot]

theorem execWaitmWake_boot (he : execWaitmWake s = .next u) : u.boot = s.boot := by
  grind [execWaitmWake, State.onStrand_boot, notEnabled, State.settleCore_boot]

/-! ### Launch -/

@[simp] theorem State.freePlace_boot (s : State) : (s.freePlace).2.boot = s.boot := by
  grind [State.freePlace, State.free_boot]

@[simp] theorem State.logDevice_boot (s : State) (e : ErrInfo) (place unit : Nat) : (s.logDevice e place unit).boot = s.boot := by
  grind [State.logDevice]

@[simp] theorem State.logPart_boot (s : State) (e : ErrInfo) (place unit : Nat) : (s.logPart e place unit).boot = s.boot := by
  grind [State.logPart, State.onPart_boot]

@[simp] theorem State.logError_boot (s : State) (e : ErrInfo) : (s.logError e).boot = s.boot := by
  grind [State.logError, State.freePlace_boot, State.logDevice_boot, State.logPart_boot]

theorem packetRead_boot {q p v a n : Nat} {r0 : List Byte} (he : packetRead s q p v a n = some (r0, u)) : u.boot = s.boot := by
  grind [packetRead, → homeRead_boot]

theorem packetNum_boot {q p v a n r0 : Nat} (he : packetNum s q p v a n = some (r0, u)) : u.boot = s.boot := by
  obtain ⟨r, hr, hu⟩ := Option.map_eq_some_iff.1 he
  grind [→ packetRead_boot]

theorem readTable_boot {p v : Nat} {r : BitVec 1024} {r0 : DecodeTable} (he : readTable s p v r = .ok (r0, u)) : u.boot = s.boot := by
  grind [readTable, → packetRead_boot, State.onPart_boot]

theorem readTemplates_boot {p v : Nat} {r : BitVec 1024} {fuel steps : Nat} {r0 : List (BitVec 1024)} {r1 : List DecodeTable}
    (he : readTemplates p v r fuel steps s = .ok (r0, r1, u)) : u.boot = s.boot := by
  induction fuel generalizing s r steps r0 r1 with grind [readTemplates, → packetNum_boot, → readTable_boot]

@[simp] theorem State.settleCycles_boot (s : State) (n : Nat) : (s.settleCycles n).boot = s.boot := by
  grind [State.settleCycles, State.settleCore_boot]

@[simp] theorem State.retune_boot (s : State) (n : Nat) : (s.retune n).boot = s.boot := by
  grind [State.retune, State.redivide_boot, State.setCore_boot, State.settleCycles_boot]

@[simp] theorem State.energyDiv_boot (s : State) (n : Nat) (x : Strand) : (s.energyDiv n x).boot = s.boot := by
  grind [State.energyDiv, State.retune_boot, State.setCore_boot, State.settleCycles_boot]

@[simp] theorem placeTeam_boot (s : State) (l : Launch) (t : TeamReq) (c : Nat) (cs js : List Nat) :
    (placeTeam s l t c cs js).boot = s.boot := by
  grind [placeTeam, State.setCluster_boot, State.retune_boot, State.setCore_boot, State.setStrand_boot, foldl_boot]

theorem placeHead_boot {l : Launch} {t : TeamReq} (he : placeHead s l t = some u) : u.boot = s.boot := by
  grind [placeHead, State.setPart_boot, State.setLaunch_boot, placeTeam_boot]

theorem placeAll_boot {fuel : Nat} {xs : Launch} (he : placeAll fuel s xs = some u) : u.boot = s.boot := by
  induction fuel generalizing s xs with grind [placeAll, → placeHead_boot]

@[simp] theorem State.emptied_boot (s : State) (p : Nat) : (s.emptied p).boot = s.boot := by
  grind [State.emptied, State.onPart_boot]

theorem trialPlace_boot {l : Launch} (he : trialPlace s l = some u) : u.boot = s.boot := by
  grind [trialPlace, → placeAll_boot]

theorem placeResident_boot {l : Launch} (he : placeResident s l = some u) : u.boot = s.boot := by
  grind [placeResident, State.setLaunch_boot, → trialPlace_boot]

theorem readCode_boot {x : Strand} {r : BitVec 1024} {r0 : List Byte} (he : readCode s x r = some (r0, u)) : u.boot = s.boot := by
  grind [readCode, → homeRead_boot]

@[simp] theorem writeCode_boot (s : State) (x : Strand) (r : BitVec 1024) (bs : List Byte) : (writeCode s x r bs).boot = s.boot := by
  grind [writeCode, State.onPart_boot, State.setStrand_boot, foldl_boot]

theorem execCodeCopyLanded_boot (he : execCodeCopyLanded s = .next u) : u.boot = s.boot := by
  unfold execCodeCopyLanded at he
  dsimp only at he
  split at he
  · cases he
  · split at he
    · cases he
    · split at he
      · cases he
      · split at he
        · cases he
        · rename_i s2 h2
          have h2 : s2.boot = s.boot := by
            split at h2
            · cases h2; rfl
            · obtain ⟨c, hc, rfl⟩ := Option.map_eq_some_iff.1 h2
              exact (writeCode_boot _ _ _ _).trans (readCode_boot hc)
          grind [foldl_boot, State.onStrand_boot, State.setLaunch_boot]

theorem execLargeStepStart_boot (he : execLargeStepStart s = .next u) : u.boot = s.boot := by
  grind [execLargeStepStart, notEnabled, State.setLaunch_boot]

@[simp] theorem State.dropTeam_boot (s : State) (x : Strand) : (s.dropTeam x).boot = s.boot := by
  grind [State.dropTeam, State.setCluster_boot, State.serve_boot, State.delStrand_boot, State.setCore_boot, foldl_boot]

theorem execCodeCopyFailed_boot (he : execCodeCopyFailed s = .next u) : u.boot = s.boot := by
  grind [execCodeCopyFailed, → readCode_boot, notEnabled, State.setLaunch_boot, State.dropTeam_boot, State.logError_boot]

/-! ### End -/

@[simp] theorem State.flushEvents_boot (s : State) (x : Strand) : (s.flushEvents x).boot = s.boot := by
  grind [State.flushEvents, State.onVd_boot]

@[simp] theorem State.dropClaims_boot (s : State) (n : Nat) : (s.dropClaims n).boot = s.boot := by
  grind [State.dropClaims, State.setCell_boot]

@[simp] theorem State.vacate_boot (s : State) (n : Nat) (x : Strand) : (s.vacate n x).boot = s.boot := by
  grind [State.vacate, State.setCell_boot, State.serve_boot, State.flushEvents_boot, State.delStrand_boot, State.retune_boot,
    State.setCore_boot, State.dropClaims_boot]

@[simp] theorem State.freeBars_boot (s : State) (x : Strand) : (s.freeBars x).boot = s.boot := by
  grind [State.freeBars, State.setCluster_boot]

@[simp] theorem State.leaveBars_boot (s : State) (n : Nat) (x : Strand) : (s.leaveBars n x).boot = s.boot := by
  grind [State.leaveBars, State.complete_boot, State.setBar_boot, foldl_boot]

@[simp] theorem State.finalChain_boot (s : State) (x : Strand) : (s.finalChain x).boot = s.boot := by
  grind [State.finalChain, State.setLaunch_boot]

@[simp] theorem State.failSpools_boot (s : State) (n : Nat) (x : Strand) : (s.failSpools n x).boot = s.boot := by
  grind [State.failSpools, State.failLandings_boot, foldl_boot]

theorem execStrandEnd_boot (he : execStrandEnd s = .next u) : u.boot = s.boot := by
  grind [execStrandEnd, State.dropLocks_boot, notEnabled, State.finalChain_boot, State.leaveBars_boot, State.freeBars_boot, State.vacate_boot,
    State.failSpools_boot]

@[simp] theorem State.dropCommands_boot (s : State) (p id : Nat) : (s.dropCommands p id).boot = s.boot := by
  grind [State.dropCommands, State.dropLocks_boot, State.idleFrom_boot, foldl_boot]

@[simp] theorem State.killLaunch_boot (s : State) (p id : Nat) : (s.killLaunch p id).boot = s.boot := by
  grind [State.killLaunch, State.dropCommands_boot, State.dropLocks_boot, State.setLaunch_boot, State.writeBackAll_boot, State.onPart_boot,
    State.finalChain_boot, State.idleFrom_boot, State.freeBars_boot, State.vacate_boot, State.failSpools_boot, foldl_boot]

@[simp] theorem State.killVd_boot (s : State) (p v addr : Nat) : (s.killVd p v addr).boot = s.boot := by
  grind [State.killVd, State.killLaunch_boot, State.logError_boot, foldl_boot]

theorem execLaunchComplete_boot (he : execLaunchComplete s = .next u) : u.boot = s.boot := by
  grind [execLaunchComplete, notEnabled, State.packetDone_boot]

/-! ### Save -/

theorem putParts_boot {w : Who} {base : Nat} {xs : List (Nat × List Byte)} (he : putParts w base xs s = some u) : u.boot = s.boot := by
  induction xs generalizing s with grind [putParts, → globWrite_boot]

theorem putLines_boot {w : Who} {n base : Nat} {x : Strand} {xs : List Nat} (he : putLines w n base x xs s = some u) : u.boot = s.boot := by
  induction xs generalizing s with grind [putLines, → homeWriteBad_boot]

theorem saveContext_boot {n : Nat} {x : Strand} {tick : Nat} {forced : Bool} {r1 : Saved}
    (he : saveContext s n x tick forced = some (u, r1)) : u.boot = s.boot := by
  grind [saveContext, → putParts_boot, → putLines_boot, State.reseal_boot]

@[simp] theorem State.beginSave_boot (s : State) (p v : Nat) (forced : Bool) : (s.beginSave p v forced).boot = s.boot := by
  grind [State.beginSave, State.onStrand_boot, State.onVd_boot, foldl_boot]

theorem execSuperstepBoundary_boot (he : execSuperstepBoundary s = .next u) : u.boot = s.boot := by
  grind [execSuperstepBoundary, notEnabled, State.beginSave_boot]

theorem execVdGraceExpired_boot (he : execVdGraceExpired s = .next u) : u.boot = s.boot := by
  grind [execVdGraceExpired, notEnabled, State.beginSave_boot]

@[simp] theorem State.abandon_boot (s : State) (n : Nat) (x : Strand) : (s.abandon n x).boot = s.boot := by
  grind [State.abandon, State.dropLocks_boot, State.setStrand_boot, foldl_boot]

@[simp] theorem State.settleStop_boot (s : State) (n : Nat) (x : Strand) (stop : Nat) : (s.settleStop n x stop).boot = s.boot := by
  grind [State.settleStop, State.settleTo_boot]

@[simp] theorem State.quiesce_boot (s : State) (stop n : Nat) : (s.quiesce stop n).boot = s.boot := by
  grind [State.quiesce, State.dropLocks_boot, State.writeBackAll_boot, State.settleStop_boot, State.dropClaims_boot, State.setStrand_boot,
    foldl_boot]

theorem saveAll_boot {tick : Nat} {forced : Bool} {xs : List (Nat × Strand)} {r1 : List Saved}
    (he : saveAll tick forced xs s = some (u, r1)) : u.boot = s.boot := by
  induction xs generalizing s r1 with grind [saveAll, → saveContext_boot]

@[simp] theorem State.vdGone_boot (s : State) (p v : Nat) : (s.vdGone p v).boot = s.boot := by
  grind [State.vdGone, State.onVd_boot]

@[simp] theorem keepSaved_boot (s : State) (p v : Nat) (ys : List Saved) : (keepSaved p v ys s).boot = s.boot := by
  grind [keepSaved, State.setCluster_boot, State.dropLocks_boot, State.onPart_boot, State.vacate_boot, foldl_boot]

theorem execSaveComplete_boot (he : execSaveComplete s = .next u) : u.boot = s.boot := by
  grind [execSaveComplete, State.killVd_boot, notEnabled, → saveAll_boot, State.vdGone_boot, State.quiesce_boot, keepSaved_boot, foldl_boot]

/-! ### Restore -/

@[simp] theorem State.resetScratch_boot (s : State) (y : Saved) : (s.resetScratch y).boot = s.boot := by
  grind [State.resetScratch]

@[simp] theorem restoreOne_boot (s : State) (y : Saved) (slots : List Nat) : (restoreOne s y slots).boot = s.boot := by
  grind [restoreOne, State.setCell_boot, State.retune_boot, State.addLocks_boot, State.setCore_boot, State.setStrand_boot,
    State.resetScratch_boot]

theorem teamSlots_boot {xs : List Saved} {acc : List (Saved × List Nat)} {r1 : List (Saved × List Nat)}
    (he : teamSlots xs s acc = some (u, r1)) : u.boot = s.boot := by
  induction xs generalizing s acc r1 with grind [teamSlots, State.setCluster_boot]

@[simp] theorem reenterClaims_boot (s : State) (ys : List Saved) : (reenterClaims ys s).boot = s.boot := by
  grind [reenterClaims, State.setCell_boot, State.serve_boot, foldl_boot]

@[simp] theorem State.recoverVd_boot (s : State) (p v : Nat) : (s.recoverVd p v).boot = s.boot := by
  grind [State.recoverVd, State.onPart_boot]

@[simp] theorem restoreVd_boot (s0 : State) (p v : Nat) : (restoreVd s0 p v).boot = s0.boot := by
  grind [restoreVd, State.killLaunch_boot, State.killVd_boot, State.onPart_boot, reenterClaims_boot, → teamSlots_boot, State.recoverVd_boot,
    restoreOne_boot, State.logError_boot, foldl_boot]

theorem execLazyFillComplete_boot (he : execLazyFillComplete s = .next u) : u.boot = s.boot := by
  grind [execLazyFillComplete, notEnabled, State.fillLine_boot, State.fillGran_boot]

/-! ### Pass -/

@[simp] theorem State.askStop_boot (s : State) (p v : Nat) : (s.askStop p v).boot = s.boot := by
  grind [State.askStop, State.onVd_boot]

@[simp] theorem State.schedule_boot (s : State) (p : Nat) : (s.schedule p).boot = s.boot := by
  grind [State.schedule, State.askStop_boot, State.onVd_boot, foldl_boot]

theorem execVdPeriodStart_boot (he : execVdPeriodStart s = .next u) : u.boot = s.boot := by
  grind [execVdPeriodStart, State.setPart_boot, notEnabled, State.energyDiv_boot, State.schedule_boot, foldl_boot]

theorem execVdBudgetExhausted_boot (he : execVdBudgetExhausted s = .next u) : u.boot = s.boot := by
  grind [execVdBudgetExhausted, notEnabled, State.askStop_boot, State.schedule_boot]

theorem placeLaunch_boot {l : Launch} (he : placeLaunch s l = some u) : u.boot = s.boot := by
  grind [placeLaunch, → placeHead_boot, → placeResident_boot]

@[simp] theorem dispatchLoop_boot (s : State) (p fuel : Nat) : (dispatchLoop p fuel s).boot = s.boot := by
  induction fuel generalizing s with
  | zero => rfl
  | succ fuel ih =>
    unfold dispatchLoop
    split
    · rename_i h
      obtain ⟨l, -, hl⟩ := List.exists_of_findSome?_eq_some h
      exact (ih _).trans (placeLaunch_boot hl)
    · rfl

@[simp] theorem State.noteBlocked_boot (s : State) (p : Nat) : (s.noteBlocked p).boot = s.boot := by
  grind [State.noteBlocked]

@[simp] theorem State.putBack_boot (s : State) (p : Nat) : (s.putBack p).boot = s.boot := by
  grind [State.putBack, restoreVd_boot, foldl_boot]

@[simp] theorem State.dispatch_boot (s : State) (p : Nat) : (s.dispatch p).boot = s.boot := by
  grind [State.dispatch, State.noteBlocked_boot, dispatchLoop_boot, State.schedule_boot, State.putBack_boot]

theorem execDispatchPass_boot (he : execDispatchPass s = .next u) : u.boot = s.boot := by
  grind [execDispatchPass, notEnabled, State.dispatch_boot]

theorem execLaunchHoldTimeout_boot (he : execLaunchHoldTimeout s = .next u) : u.boot = s.boot := by
  grind [execLaunchHoldTimeout, notEnabled, State.setLaunch_boot]

@[simp] theorem nextEntryOf_boot (s : State) (l : Launch) : (nextEntryOf s l).2.boot = s.boot := by
  grind [nextEntryOf, → packetRead_boot]

theorem consumeEntry_boot {l : Launch} {e : W256} {r : Unit} (he : consumeEntry s l e = .ok r u) : u.boot = s.boot := by
  grind [consumeEntry, → homeWrite_boot]

theorem execBuiltEntryConsume_boot (he : execBuiltEntryConsume s = .next u) : u.boot = s.boot := by
  grind [execBuiltEntryConsume, notEnabled, State.setLaunch_boot, nextEntryOf_boot, → consumeEntry_boot, State.logError_boot]

/-! ### Packet -/

theorem State.pick_boot {xs : List Nat} {r0 : Nat} (he : s.pick xs = some (r0, u)) : u.boot = s.boot := by
  unfold State.pick at he
  split at he
  · cases he
  · cases he; rfl
  · obtain ⟨k, -, hk⟩ := Option.map_eq_some_iff.1 he
    cases hk; rfl

@[simp] theorem State.mapQueue_boot (s : State) (q k : Nat) : (s.mapQueue q k).boot = s.boot := by
  grind [State.mapQueue, State.onPart_boot, State.setPending_boot, State.setTable_boot]

@[simp] theorem State.unmapQueue_boot (s : State) (k : Nat) (x : QSlot) (state : Nat) : (s.unmapQueue k x state).boot = s.boot := by
  grind [State.unmapQueue, State.setTable_boot]

@[simp] theorem ite_boot {c : Prop} [Decidable c] {b : Boot} (hs : s.boot = b) (hu : u.boot = b) : (if c then s else u).boot = b := by
  split
  · exact hs
  · exact hu

@[simp] theorem State.displace_boot (s : State) (k : Nat) (x : QSlot) : (s.displace k x).boot = s.boot := by
  unfold State.displace
  exact ite_boot (State.unmapQueue_boot _ _ _ _) ((State.setPending_boot _ _ _).trans (State.unmapQueue_boot _ _ _ _))

@[simp] theorem State.mapNext_boot (s : State) (p : Nat) : (s.mapNext p).boot = s.boot := by
  unfold State.mapNext
  split
  · rfl
  · dsimp only
    split
    · rename_i hk; exact (State.mapQueue_boot _ _ _).trans (State.pick_boot hk)
    · rfl

@[simp] theorem State.queueError_boot (s : State) (q code tag : Nat) : (s.queueError q code tag).boot = s.boot := by
  grind [State.queueError, State.freePlace_boot, State.logDevice_boot, State.setPending_boot, State.setRecord_boot, State.logError_boot]

@[simp] theorem State.notify_boot (s : State) (q w : Nat) : (s.notify q w).boot = s.boot := by
  unfold State.notify
  extract_lets r st r1 s1 s2 p
  split
  · rfl
  · have h2 : s2.boot = s.boot := State.setRecord_boot _ _ _
    clear_value s2
    split
    · exact (State.queueError_boot _ _ _ _).trans h2
    · split
      · exact h2
      · split
        · exact h2
        · split
          · rename_i hk
            exact (State.mapQueue_boot _ _ _).trans ((State.pick_boot hk).trans h2)
          · split
            · exact (State.mapQueue_boot _ _ _).trans ((State.displace_boot _ _ _).trans h2)
            · exact (State.setPending_boot _ _ _).trans h2

theorem State.queueBytes_boot {q a n : Nat} {r0 : List Byte} (he : s.queueBytes q a n = some (r0, u)) : u.boot = s.boot := by
  grind [State.queueBytes, → packetRead_boot]

theorem execNotifyWrite_boot (he : execNotifyWrite s = .next u) : u.boot = s.boot := by
  grind [execNotifyWrite, State.notify_boot, → State.queueBytes_boot, foldl_boot]

theorem execDoorbellWrite_boot (he : execDoorbellWrite s = .next u) : u.boot = s.boot := by
  refine onLink_boot (fun h => ?_) he
  grind [State.notify_boot]

theorem execSlotIdleTimeout_boot (he : execSlotIdleTimeout s = .next u) : u.boot = s.boot := by
  grind [execSlotIdleTimeout, notEnabled, State.unmapQueue_boot, State.mapNext_boot]

theorem execTableBaseWrite_boot (he : execTableBaseWrite s = .next u) : u.boot = s.boot :=
  onLink_boot (fun h => by grind [State.setTable_boot]) he

theorem execBitmapBaseWrite_boot (he : execBitmapBaseWrite s = .next u) : u.boot = s.boot := by
  refine onLink_boot (fun h => ?_) he
  grind [State.notify_boot]

theorem State.nextPacket_boot {q : Nat} {r : Pkt} (he : s.nextPacket q = some (.ok (r, u))) : u.boot = s.boot := by
  unfold State.nextPacket at he
  split at he
  · cases he
  · dsimp only at he
    split at he
    · cases he
    · split at he
      · cases he
      · split at he
        · cases he
        · rename_i hb
          cases he
          exact State.queueBytes_boot hb

@[simp] theorem State.startPacket_boot (s : State) (k : Pkt) (hold : Option Hold) (ref adv : Nat) :
    (s.startPacket k hold ref adv).boot = s.boot := by
  grind [State.startPacket, State.setRecord_boot]

@[simp] theorem State.finishPacket_boot (s : State) (k : Pkt) : (s.finishPacket k).boot = s.boot := by
  grind [State.finishPacket, State.packetDone_boot]

theorem packetStep_boot {c : Nat} {mn : String} {body : State → Pkt → Except Nat (Option State)}
    (hf : ∀ s k t, body s k = .ok (some t) → t.boot = s.boot)
    (he : packetStep c mn body s = .next u) : u.boot = s.boot := by
  grind [packetStep, notEnabled, → State.nextPacket_boot, State.queueError_boot]

theorem readLaunch_boot {k : Pkt} {r0 : Launch} (he : readLaunch s k = .ok (r0, u)) : u.boot = s.boot := by
  grind [readLaunch, → readTemplates_boot, → packetNum_boot, → readTable_boot]

theorem execLaunchPacket_boot (he : execLaunchPacket s = .next u) : u.boot = s.boot := by
  grind [execLaunchPacket, State.emptied_boot, → trialPlace_boot, State.packetDone_boot, → readLaunch_boot, State.startPacket_boot,
    State.logError_boot, → packetStep_boot]

theorem execCopyPacket_boot (he : execCopyPacket s = .next u) : u.boot = s.boot := by
  grind [execCopyPacket, State.startPacket_boot, → packetStep_boot]

theorem execSignalPacket_boot (he : execSignalPacket s = .next u) : u.boot = s.boot := by
  grind [execSignalPacket, State.finishPacket_boot, State.startPacket_boot, → packetStep_boot]

theorem execWaitPacket_boot (he : execWaitPacket s = .next u) : u.boot = s.boot := by
  grind [execWaitPacket, State.startPacket_boot, → packetStep_boot]

theorem waitMet_boot {q : Nat} {e : Started} {r0 : Knot} (he : waitMet s q e = some (r0, u)) : u.boot = s.boot := by
  grind [waitMet, → homeRead_boot]

theorem execWaitPacketSatisfied_boot (he : execWaitPacketSatisfied s = .next u) : u.boot = s.boot := by
  grind [execWaitPacketSatisfied, notEnabled, State.packetDone_boot, → waitMet_boot, State.setRecord_boot]

theorem execWaitPacketTimeout_boot (he : execWaitPacketTimeout s = .next u) : u.boot = s.boot := by
  grind [execWaitPacketTimeout, notEnabled, State.queueError_boot, → waitMet_boot]

theorem execFencePacket_boot (he : execFencePacket s = .next u) : u.boot = s.boot := by
  grind [execFencePacket, State.writeBackAll_boot, State.startPacket_boot, → packetStep_boot, foldl_boot]

theorem execFencePacketComplete_boot (he : execFencePacketComplete s = .next u) : u.boot = s.boot := by
  grind [execFencePacketComplete, notEnabled, State.packetDone_boot]

/-! ### Mgmt -/

@[simp] theorem State.mgmtDone_boot (s : State) (a st : Nat) : (s.mgmtDone a st).boot = s.boot := by
  grind [State.mgmtDone, State.packetDone_boot]

theorem mgmtStep_boot {code : Nat} {mn : String} {sel : W512 → Bool} {run : W512 → State → State × Option Nat}
    (hf : ∀ w s, (run w s).1.boot = s.boot)
    (he : mgmtStep code mn sel run s = .next u) : u.boot = s.boot := by
  grind [mgmtStep, State.mgmtDone_boot, State.startPacket_boot, → packetStep_boot]

theorem execSplit_boot (he : execSplit s = .next u) : u.boot = s.boot := by
  grind [execSplit, → mgmtStep_boot]

theorem execMerge_boot (he : execMerge s = .next u) : u.boot = s.boot := by
  grind [execMerge, → mgmtStep_boot]

@[simp] theorem State.scrubSlices_boot (s : State) (sl : List Nat) : (s.scrubSlices sl).boot = s.boot := by
  grind [State.scrubSlices]

@[simp] theorem State.dropLlc_boot (s : State) (p : Nat) : (s.dropLlc p).boot = s.boot := by
  grind [State.dropLlc]

theorem execCreate_boot (he : execCreate s = .next u) : u.boot = s.boot := by
  grind [execCreate, State.setPart_boot, → mgmtStep_boot, State.scrubSlices_boot, State.dropLlc_boot]

theorem execDestroy_boot (he : execDestroy s = .next u) : u.boot = s.boot := by
  grind [execDestroy, State.killLaunch_boot, → mgmtStep_boot, State.onPart_boot, State.idleFrom_boot, foldl_boot]

@[simp] theorem State.queuesGone_boot (s : State) (p : Nat) : (s.queuesGone p).boot = s.boot := by
  grind [State.queuesGone, State.setPending_boot, State.setTable_boot, foldl_boot]

@[simp] theorem State.forget_boot (s : State) (p node : Nat) : (s.forget p node).boot = s.boot := by
  grind [State.forget, State.setDir_boot, foldl_boot]

theorem execDestroyComplete_boot (he : execDestroyComplete s = .next u) : u.boot = s.boot := by
  grind [execDestroyComplete, State.queuesGone_boot, notEnabled, State.scrubSlices_boot, State.forget_boot, State.mgmtDone_boot,
    State.dropLlc_boot]

theorem execReserve_boot (he : execReserve s = .next u) : u.boot = s.boot := by
  grind [execReserve, State.setPart_boot, → mgmtStep_boot, State.schedule_boot]

theorem execUnreserve_boot (he : execUnreserve s = .next u) : u.boot = s.boot := by
  grind [execUnreserve, State.setPart_boot, → mgmtStep_boot, State.askStop_boot, State.schedule_boot]

@[simp] theorem mapAll_boot (s : State) (p fuel : Nat) : (mapAll p fuel s).boot = s.boot := by
  induction fuel generalizing s with grind [mapAll, State.mapNext_boot]

@[simp] theorem assignSlots_boot (s : State) (p n fuel : Nat) : (assignSlots p n fuel s).boot = s.boot := by
  induction fuel generalizing s with grind [assignSlots, State.setPart_boot, → State.pick_boot]

theorem execSquota_boot (he : execSquota s = .next u) : u.boot = s.boot := by
  grind [execSquota, State.setPart_boot, assignSlots_boot, → mgmtStep_boot, mapAll_boot]

theorem execQon_boot (he : execQon s = .next u) : u.boot = s.boot := by
  refine mgmtStep_boot (s := s) (fun w s => ?_) he
  extract_lets q r s1
  have h1 : s1.boot = s.boot := State.setTable_boot _ _ _
  clear_value s1
  split
  · rfl
  · split
    · rfl
    · split
      · rfl
      · dsimp only
        split
        · exact (State.queueError_boot _ _ _ _).trans h1
        · exact h1

theorem execQoff_boot (he : execQoff s = .next u) : u.boot = s.boot := by
  grind [execQoff, → mgmtStep_boot]

theorem execQoffComplete_boot (he : execQoffComplete s = .next u) : u.boot = s.boot := by
  grind [execQoffComplete, notEnabled, State.setPending_boot, State.mapNext_boot, State.setTable_boot, State.mgmtDone_boot]

theorem execOpenRange_boot (he : execOpenRange s = .next u) : u.boot = s.boot := by
  grind [execOpenRange, State.setPart_boot, → mgmtStep_boot]

@[simp] theorem State.clearDirty_boot (s : State) (us : List (Nat × Nat)) : (s.clearDirty us).boot = s.boot := by
  grind [State.clearDirty, foldl_boot]

@[simp] theorem State.sendSafe_boot (s : State) (ports : List Nat) (a : Nat) (bs : List Byte) : (s.sendSafe ports a bs).boot = s.boot := by
  grind [State.sendSafe, sendFrames_boot, State.free_boot]

@[simp] theorem sendUnits_boot (s : State) (x : Partition) (ports : List Nat) (target : Nat) (xs : List Nat) (fuel : Nat) :
    (sendUnits x ports target xs fuel s).1.boot = s.boot := by
  induction xs generalizing s fuel with grind [sendUnits, State.sendSafe_boot]

@[simp] theorem State.cleanLlc_boot (s : State) (p : Nat) : (s.cleanLlc p).boot = s.boot := by
  grind [State.cleanLlc, State.llcClean_boot, foldl_boot]

theorem execCheckpoint_boot (he : execCheckpoint s = .next u) : u.boot = s.boot := by
  grind [execCheckpoint, → mgmtStep_boot, State.onPart_boot, State.clearDirty_boot, sendUnits_boot, State.cleanLlc_boot]

theorem execCheckpointComplete_boot (he : execCheckpointComplete s = .next u) : u.boot = s.boot := by
  grind [execCheckpointComplete, State.setPart_boot, notEnabled, State.mgmtDone_boot, State.sendSafe_boot]

theorem execRestore_boot (he : execRestore s = .next u) : u.boot = s.boot := by
  grind [execRestore, State.setPart_boot, → mgmtStep_boot, State.emit_boot]

@[simp] theorem pullUnits_boot (s : State) (ports : List Nat) (src units : Nat) : (pullUnits s ports src units).boot = s.boot := by
  grind [pullUnits, State.emit_boot, foldl_boot]

theorem execRestoreManifestArrival_boot (he : execRestoreManifestArrival s = .next u) : u.boot = s.boot := by
  unfold execRestoreManifestArrival at he
  dsimp only at he
  split at he
  · cases he
  · split at he
    · cases he
    · split at he
      · cases he
      · split at he
        · cases he; exact State.mgmtDone_boot _ _ _
        · split at he
          · cases he; rfl
          · cases he
            rw [pullUnits_boot, State.dropLlc_boot]
            split <;> rfl

@[simp] theorem State.putUnit_boot (s : State) (x : Partition) (rel : Nat) (ct : List Byte) : (s.putUnit x rel ct).boot = s.boot := by
  grind [State.putUnit]

theorem execRestoreUnitRecord_boot (he : execRestoreUnitRecord s = .next u) : u.boot = s.boot := by
  grind [execRestoreUnitRecord, State.setPart_boot, notEnabled, State.putUnit_boot]

theorem execRestoreComplete_boot (he : execRestoreComplete s = .next u) : u.boot = s.boot := by
  grind [execRestoreComplete, State.setPart_boot, notEnabled, State.scrubSlices_boot, State.mgmtDone_boot, State.dropLlc_boot]

/-! ### Trap -/

theorem execAsyncTrapEntry_boot (he : execAsyncTrapEntry s = .next u) : u.boot = s.boot := by
  grind [execAsyncTrapEntry, notEnabled, State.settleAll_boot, State.takeAsync_boot]

theorem execFetchFault_boot (he : execFetchFault s = .next u) : u.boot = s.boot := by
  grind [execFetchFault, notEnabled, State.settleAll_boot, State.gangTrap_boot, State.trapOn_boot]

@[simp] theorem State.takeDebug_boot (s : State) (n : Nat) (x : Strand) (ts : List (Nat × Trap)) : (s.takeDebug n x ts).boot = s.boot := by
  grind [State.takeDebug, State.onStrand_boot, State.settleAll_boot, foldl_boot]

theorem execSupervisorTrapResume_boot (he : execSupervisorTrapResume s = .next u) : u.boot = s.boot := by
  grind [execSupervisorTrapResume, State.onStrand_boot, State.killLaunch_boot, notEnabled, State.settleAll_boot, State.askStop_boot, foldl_boot]

/-! ### Power -/

theorem execReqDivWrite_boot (he : execReqDivWrite s = .next u) : u.boot = s.boot :=
  onLink_boot (fun h => by grind [State.retune_boot, State.setCore_boot]) he

theorem execDividerRailReady_boot (he : execDividerRailReady s = .next u) : u.boot = s.boot := by
  grind [execDividerRailReady, notEnabled, State.redivide_boot, State.setCore_boot, State.settleCycles_boot]

theorem execCorePowerOff_boot (he : execCorePowerOff s = .next u) : u.boot = s.boot := by
  grind [execCorePowerOff, notEnabled, State.setCore_boot]

theorem execPowerCapWrite_boot (he : execPowerCapWrite s = .next u) : u.boot = s.boot := onLink_boot (fun h => by cases h; rfl) he

@[simp] theorem throttleAll_boot (s : State) (draw : Nat → Nat) (grant : Vector Nat 4) (xs : List Nat) :
    (throttleAll draw grant xs s).boot = s.boot := by
  induction xs generalizing s with grind [throttleAll, State.retune_boot, State.setCore_boot]

theorem execPowerPeriod_boot (he : execPowerPeriod s = .next u) : u.boot = s.boot := by
  grind [execPowerPeriod, notEnabled, throttleAll_boot]

theorem execThermalMove_boot (he : execThermalMove s = .next u) : u.boot = s.boot := by
  grind [execThermalMove, State.onStrand_boot, notEnabled, State.writeBackAll_boot, State.retune_boot, State.setCore_boot,
    State.settleCore_boot]

@[simp] theorem State.logMove_boot (s : State) (n p : Nat) : (s.logMove n p).boot = s.boot := by
  grind [State.logMove, State.logDevice_boot, State.free_boot, State.logPart_boot]

theorem execThermalMoveDone_boot (he : execThermalMoveDone s = .next u) : u.boot = s.boot := by
  grind [execThermalMoveDone, State.serve_boot, notEnabled, State.logMove_boot, State.setCore_boot, State.setStrand_boot]

theorem execThermLimitCleared_boot (he : execThermLimitCleared s = .next u) : u.boot = s.boot := by
  grind [execThermLimitCleared, notEnabled, State.retune_boot, State.setCore_boot]

theorem execEnergyExhausted_boot (he : execEnergyExhausted s = .next u) : u.boot = s.boot := by
  grind [execEnergyExhausted, State.setPart_boot, notEnabled, State.energyDiv_boot, foldl_boot]

/-! ### Debug -/

@[simp] theorem State.dbgStatus_boot (s : State) (p st : Nat) : (s.dbgStatus p st).boot = s.boot := by
  grind [State.dbgStatus, State.onPart_boot]

@[simp] theorem State.haltNow_boot (s : State) (n : Nat) (x : Strand) : (s.haltNow n x).boot = s.boot := by
  grind [State.haltNow, State.onStrand_boot, State.dbgStatus_boot, State.settleAll_boot, State.abandon_boot, → homeWrite_boot, foldl_boot]

theorem debugStep_boot {op : Nat} {mn : String} {f : State → Nat → Nat → State × Nat} (hf : ∀ s p q, (f s p q).1.boot = s.boot)
    (he : debugStep op mn f s = .next u) : u.boot = s.boot := by
  refine onLink_boot (fun h => ?_) he
  grind [notEnabled, State.dbgStatus_boot, State.setPart_boot]

theorem execHalt_boot (he : execHalt s = .next u) : u.boot = s.boot := by
  grind [execHalt, State.onStrand_boot, → debugStep_boot, State.haltNow_boot, foldl_boot]

@[simp] theorem resumeAll_boot (s : State) (step : Bool) (n : Nat) : (resumeAll step s n).1.boot = s.boot := by
  grind [resumeAll, State.onStrand_boot, State.settleAll_boot, foldl_boot]

theorem execResume_boot (he : execResume s = .next u) : u.boot = s.boot := by
  grind [execResume, resumeAll_boot, → debugStep_boot]

theorem execStep_boot (he : execStep s = .next u) : u.boot = s.boot := by
  grind [execStep, resumeAll_boot, → debugStep_boot]

theorem execBreakpoint_boot (he : execBreakpoint s = .next u) : u.boot = s.boot := by
  grind [execBreakpoint, State.setCore_boot, → debugStep_boot]

@[simp] theorem State.readyReg_boot (s : State) (n : Nat) (x : Strand) (r : DbgReg) : (s.readyReg n x r).boot = s.boot := by
  cases r with grind [State.readyReg, State.fillGran_boot]

theorem execRdreg_boot (he : execRdreg s = .next u) : u.boot = s.boot := by
  grind [execRdreg, State.onPart_boot, State.readyReg_boot, → debugStep_boot]

theorem execWrreg_boot (he : execWrreg s = .next u) : u.boot = s.boot := by
  grind [execWrreg, State.onStrand_boot, State.readyReg_boot, → debugStep_boot]

theorem execCancel_boot (he : execCancel s = .next u) : u.boot = s.boot := by
  grind [execCancel, State.dropLocks_boot, State.idleFrom_boot, State.setStrand_boot, → debugStep_boot, foldl_boot]

/-! ### Translate -/

@[simp] theorem State.trStatus_boot (s : State) (p st : Nat) (res : Option W64) : (s.trStatus p st res).boot = s.boot := by
  grind [State.trStatus, State.onPart_boot]

theorem translateStep_boot {op : Nat} {mn : String} {f : State → Nat → Partition → State × Nat × Option W64}
    (hf : ∀ s p q, (f s p q).1.boot = s.boot)
    (he : translateStep op mn f s = .next u) : u.boot = s.boot := by
  refine onLink_boot (fun h => ?_) he
  grind [notEnabled, State.trStatus_boot, State.setPart_boot]

theorem execTranslationOpInvalid_boot (he : execTranslationOpInvalid s = .next u) : u.boot = s.boot := by
  grind [execTranslationOpInvalid, notEnabled, → translateStep_boot]

@[simp] theorem State.flushLlc_boot (s : State) (a n : Nat) (drop : Bool) : (s.flushLlc a n drop).boot = s.boot := by
  grind [State.flushLlc, State.llcClean_boot, foldl_boot]

@[simp] theorem State.forgetRegion_boot (s : State) (p g : Nat) : (s.forgetRegion p g).boot = s.boot := by
  grind [State.forgetRegion]

theorem execMapr_boot (he : execMapr s = .next u) : u.boot = s.boot := by
  grind [execMapr, State.setDir_boot, → translateStep_boot, State.forgetRegion_boot]

theorem execUnmapr_boot (he : execUnmapr s = .next u) : u.boot = s.boot := by
  grind [execUnmapr, State.setDir_boot, State.flushLlc_boot, → translateStep_boot, State.forgetRegion_boot]

@[simp] theorem State.setHbmWord_boot (s : State) (pa : Nat) (w : W64) : (s.setHbmWord pa w).boot = s.boot := by
  grind [State.setHbmWord]

theorem execMapp_boot (he : execMapp s = .next u) : u.boot = s.boot := by
  grind [execMapp, State.setHbmWord_boot, State.flushLlc_boot, → translateStep_boot]

theorem execDirty_boot (he : execDirty s = .next u) : u.boot = s.boot := by
  grind [execDirty, → homeWrite_boot, → translateStep_boot]

theorem execMigrate_boot (he : execMigrate s = .next u) : u.boot = s.boot := by
  grind [execMigrate, State.onPart_boot, State.setHbmWord_boot, State.flushLlc_boot, → translateStep_boot, State.emit_boot]

@[simp] theorem moveLine_boot (s : State) (a : Nat) (old new : W64) (i : Nat) : (moveLine a old new s i).boot = s.boot := by
  grind [moveLine]

@[simp] theorem landPage_boot (s : State) (x : Partition) (a : Nat) (new : W64) (bs : List Byte) : (landPage s x a new bs).boot = s.boot := by
  grind [landPage, foldl_boot]

theorem copyPage_boot {x : Partition} {m : Migration} {bs : List Byte} (he : copyPage s x m bs = some u) : u.boot = s.boot := by
  grind [copyPage, landPage_boot, sendFrames_boot, moveLine_boot, foldl_boot]

@[simp] theorem State.releaseHeld_boot (s : State) (a : Nat) : (s.releaseHeld a).boot = s.boot := by
  grind [State.releaseHeld]

@[simp] theorem migrationSignal_boot (s : State) (p : Nat) (knot : W64) (err : Bool) : (migrationSignal s p knot err).boot = s.boot := by
  grind [migrationSignal, State.send_boot]

theorem execMigrationComplete_boot (he : execMigrationComplete s = .next u) : u.boot = s.boot := by
  grind [execMigrationComplete, notEnabled, migrationSignal_boot, State.onPart_boot, State.setHbmWord_boot, State.releaseHeld_boot,
    → copyPage_boot, State.flushLlc_boot]

/-! ### Outside -/

theorem execHostWindowRead_boot (he : execHostWindowRead s = .next u) : u.boot = s.boot := by
  grind [execHostWindowRead, onLink, State.emit_boot]

@[simp] theorem State.sliceWrite_boot (s : State) (p pa : Nat) (bs : List Byte) : (s.sliceWrite p pa bs).boot = s.boot := by
  grind [State.sliceWrite, State.touch_boot, State.markDirty_boot, State.llcPut_boot]

theorem execHostWindowWrite_boot (he : execHostWindowWrite s = .next u) : u.boot = s.boot := by
  unfold execHostWindowWrite at he
  dsimp only at he
  split at he
  · cases he
  · refine onLink_boot (fun h => ?_) he
    grind [State.freePlace_boot, State.logDevice_boot, State.logPart_boot, State.sliceWrite_boot]

@[simp] theorem State.logPort_boot (s : State) (i sev : Nat) : (s.logPort i sev).boot = s.boot := by
  grind [State.logPort, State.logDevice_boot]

@[simp] theorem State.setPort_boot (s : State) (i : Nat) (f : PeerPort → PeerPort) : (s.setPort i f).boot = s.boot := by
  grind [State.setPort]

theorem execPortLaneFailure_boot (he : execPortLaneFailure s = .next u) : u.boot = s.boot := by
  grind [execPortLaneFailure, State.setPort_boot, notEnabled, State.logPort_boot]

theorem execPortDown_boot (he : execPortDown s = .next u) : u.boot = s.boot := by
  grind [execPortDown, State.setPort_boot, notEnabled, State.logPort_boot]

theorem execPortUp_boot (he : execPortUp s = .next u) : u.boot = s.boot := by
  grind [execPortUp, State.setPort_boot, notEnabled]

theorem execPeerSignalRecord_boot (he : execPeerSignalRecord s = .next u) : u.boot = s.boot := by
  grind [execPeerSignalRecord, notEnabled, State.logPort_boot, State.send_boot]

@[simp] theorem answerPull_boot (s : State) (port knot : Nat) (err psn : Bool) : (answerPull s port knot err psn).boot = s.boot := by
  grind [answerPull, State.emit_boot]

theorem pullRead_boot {port a n : Nat} {r0 : List Byte} {r1 : Bool} {r2 : PeerEntry}
    (he : pullRead s port a n = some (r0, r1, r2, u)) : u.boot = s.boot := by
  grind [pullRead, → engineRead_boot]

theorem execPeerPullRecord_boot (he : execPeerPullRecord s = .next u) : u.boot = s.boot := by
  grind [execPeerPullRecord, notEnabled, sendFrames_boot, State.logPort_boot, answerPull_boot, → pullRead_boot]

theorem sendRecords_boot {port src : Nat} {seal_ : Bool} {xs : List Nat} (he : sendRecords port src seal_ xs s = some u) : u.boot = s.boot := by
  induction xs generalizing s with grind [sendRecords, sendFrames_boot, → pullRead_boot]

theorem execPeerRestorePull_boot (he : execPeerRestorePull s = .next u) : u.boot = s.boot := by
  unfold execPeerRestorePull at he
  dsimp only at he
  split at he
  · cases he
  · split at he
    · cases he; exact (answerPull_boot _ _ _ _ _).trans (State.logPort_boot _ _ _)
    · split at he
      · rename_i s1 h1
        cases he
        rw [answerPull_boot]
        split at h1
        · obtain ⟨r, hr, rfl⟩ := Option.map_eq_some_iff.1 h1
          exact (sendFrames_boot _ _ _ _ _ _).trans (pullRead_boot hr)
        · exact sendRecords_boot h1
      · cases he; exact (answerPull_boot _ _ _ _ _).trans (State.logPort_boot _ _ _)

theorem execPeerInboundWrite_boot (he : execPeerInboundWrite s = .next u) : u.boot = s.boot := by
  grind [execPeerInboundWrite, notEnabled, → engineWrite_boot, State.logPort_boot]

theorem execPpsLatch_boot (he : execPpsLatch s = .next u) : u.boot = s.boot := by
  grind [execPpsLatch]

theorem execHoldoverTimeout_boot (he : execHoldoverTimeout s = .next u) : u.boot = s.boot := by
  grind [execHoldoverTimeout, notEnabled]

@[simp] theorem State.poisonAt_boot (s : State) (k : Nat × Nat) : (s.poisonAt k).boot = s.boot := by
  grind [State.poisonAt, State.onStrand_boot]

theorem execHardwareError_boot (he : execHardwareError s = .next u) : u.boot = s.boot := by
  grind [execHardwareError, State.onStrand_boot, notEnabled, State.logDevice_boot, State.poisonAt_boot, State.logPart_boot, foldl_boot]

@[simp] theorem refillLlc_boot (s : State) (ks : List LlcLine) : (refillLlc ks s).boot = s.boot := by
  grind [refillLlc, State.llcPut_boot, foldl_boot]

theorem execLendWrite_boot (he : execLendWrite s = .next u) : u.boot = s.boot :=
  onLink_boot (fun h => by grind [notEnabled, State.onPart_boot, State.setPart_boot, refillLlc_boot, State.dropLlc_boot]) he

@[simp] theorem writeBar0_boot (s : State) (o v : Nat) : (writeBar0 s o v).boot = s.boot := by
  grind [writeBar0]

theorem execRegisterWrite_boot (he : execRegisterWrite s = .next u) : u.boot = s.boot := by
  refine onLink_boot (fun h => ?_) he
  grind [writeBar0_boot, State.setPart_boot]

/-! ### Alafel -/

@[simp] theorem State.setSpdm_boot (s : State) (x : Spdm) : (s.setSpdm x).boot = s.boot := by
  grind [State.setSpdm, State.onPart_boot]

@[simp] theorem State.spdmAnswer_boot (s : State) (code : Nat) (data : List Byte) : (s.spdmAnswer code data).boot = s.boot := by
  grind [State.spdmAnswer, State.onPart_boot, State.emit_boot]

@[simp] theorem State.spdmError_boot (s : State) (code : Nat) : (s.spdmError code).boot = s.boot := by
  grind [State.spdmError, State.spdmAnswer_boot]

theorem spdmStep_boot {mn : String} {r : Bool} {ready : Spdm → Bool} {f : State → Spdm → State} (hf : ∀ s x, (f s x).boot = s.boot)
    (he : spdmStep mn r ready f s = .next u) : u.boot = s.boot := by
  grind [spdmStep, State.spdmError_boot, notEnabled]

@[simp] theorem State.spdmOpen_boot (s : State) (code : Nat) : (s.spdmOpen code).boot = s.boot := by
  grind [State.spdmOpen, State.spdmAnswer_boot]

theorem execGetVersion_boot (he : execGetVersion s = .next u) : u.boot = s.boot := by
  grind [execGetVersion, State.setSpdm_boot, → spdmStep_boot, State.spdmOpen_boot]

theorem execGetCapabilities_boot (he : execGetCapabilities s = .next u) : u.boot = s.boot := by
  grind [execGetCapabilities, State.setSpdm_boot, → spdmStep_boot, State.spdmOpen_boot]

theorem execNegotiateAlgorithms_boot (he : execNegotiateAlgorithms s = .next u) : u.boot = s.boot := by
  grind [execNegotiateAlgorithms, State.setSpdm_boot, → spdmStep_boot, State.spdmOpen_boot]

theorem execGetDigests_boot (he : execGetDigests s = .next u) : u.boot = s.boot := by
  grind [execGetDigests, → spdmStep_boot, State.spdmAnswer_boot]

theorem execGetCertificate_boot (he : execGetCertificate s = .next u) : u.boot = s.boot := by
  grind [execGetCertificate, State.spdmError_boot, → spdmStep_boot, State.spdmAnswer_boot]

theorem execChallenge_boot (he : execChallenge s = .next u) : u.boot = s.boot := by
  grind [execChallenge, State.spdmError_boot, → spdmStep_boot, State.spdmAnswer_boot]

theorem execGetMeasurements_boot (he : execGetMeasurements s = .next u) : u.boot = s.boot := by
  grind [execGetMeasurements, → spdmStep_boot, State.spdmAnswer_boot]

theorem execKeyExchange_boot (he : execKeyExchange s = .next u) : u.boot = s.boot := by
  grind [execKeyExchange, State.setSpdm_boot, → spdmStep_boot, State.spdmOpen_boot]

theorem execFinish_boot (he : execFinish s = .next u) : u.boot = s.boot := by
  grind [execFinish, State.setSpdm_boot, → spdmStep_boot, State.spdmOpen_boot]

theorem execKeyUpdate_boot (he : execKeyUpdate s = .next u) : u.boot = s.boot := by
  grind [execKeyUpdate, State.setSpdm_boot, → spdmStep_boot, State.spdmOpen_boot]

theorem execHeartbeat_boot (he : execHeartbeat s = .next u) : u.boot = s.boot := by
  grind [execHeartbeat, → spdmStep_boot, State.spdmOpen_boot]

theorem execEndSession_boot (he : execEndSession s = .next u) : u.boot = s.boot := by
  grind [execEndSession, State.setSpdm_boot, → spdmStep_boot, State.spdmOpen_boot]

theorem execSpdmUnsupported_boot (he : execSpdmUnsupported s = .next u) : u.boot = s.boot := by
  grind [execSpdmUnsupported, State.spdmError_boot, → spdmStep_boot]

theorem vendorStep_boot {mn : String} {f : State → Nat → Partition → State × Nat} (hf : ∀ s p q, (f s p q).1.boot = s.boot)
    (he : vendorStep mn f s = .next u) : u.boot = s.boot := by
  grind [vendorStep, State.spdmError_boot, → spdmStep_boot, State.spdmAnswer_boot]

theorem execTckInstall_boot (he : execTckInstall s = .next u) : u.boot = s.boot := by
  grind [execTckInstall, State.setPart_boot, → vendorStep_boot]

theorem execTckRemove_boot (he : execTckRemove s = .next u) : u.boot = s.boot := by
  grind [execTckRemove, State.setPart_boot, → vendorStep_boot]

/-! ### Branch -/

theorem branchInstr_boot {a b : BitVec 6} {w : BitVec 12} {cond : W64 → W64 → Bool}
    (he : branchInstr a b w cond s = .next u) : u.boot = s.boot :=
  word_boot (fun s n x => by grind [Eff.Boots, State.retire_boot, State.setStrand_boot]) he

theorem execJal_boot {d : BitVec 6} {w : BitVec 20} (he : execJal d w s = .next u) : u.boot = s.boot :=
  word_boot (fun s n x => by grind [Eff.Boots, State.setStrand_boot]) he

theorem execJalr_boot {d a : BitVec 6} (he : execJalr d a s = .next u) : u.boot = s.boot :=
  word_boot (fun s n x => by grind [Eff.Boots, State.setStrand_boot]) he

/-! ### Capability -/

theorem capInstr_boot {d : BitVec 6} {srcs : List (BitVec 6)} {lat : Nat} {f : Strand → GReg}
    (he : capInstr d srcs lat f s = .next u) : u.boot = s.boot :=
  word_boot (fun s n x => by grind [Eff.Boots, compute_boot]) he

theorem execCgetb_boot {d a : BitVec 6} (he : execCgetb d a s = .next u) : u.boot = s.boot := by
  grind [execCgetb, → capInstr_boot]

theorem execCgetl_boot {d a : BitVec 6} (he : execCgetl d a s = .next u) : u.boot = s.boot := by
  grind [execCgetl, → capInstr_boot]

/-! ### Scalar -/

theorem int2_boot {d a b : BitVec 6} {k lat : Nat} {f : W64 → W64 → W64} (he : int2 d a b k lat f s = .next u) : u.boot = s.boot :=
  word_boot (fun s n x => by grind [Eff.Boots, compute_boot]) he

theorem int1_boot {d a : BitVec 6} {f : W64 → W64} (he : int1 d a f s = .next u) : u.boot = s.boot :=
  word_boot (fun s n x => by grind [Eff.Boots, compute_boot]) he

theorem intD_boot {d : BitVec 6} {srcs : List (BitVec 6)} {f : Strand → W64} (he : intD d srcs f s = .next u) : u.boot = s.boot :=
  word_boot (fun s n x => by grind [Eff.Boots, compute_boot]) he

theorem execLi_boot {d : BitVec 6} {i : BitVec 20} (he : execLi d i s = .next u) : u.boot = s.boot :=
  word_boot (fun s n x => by grind [Eff.Boots, compute_boot]) he

theorem fpOp_boot {d : BitVec 6} {srcs : List (BitVec 6)} {lat : Nat} {f : Strand → W32 × FFlags}
    (he : fpOp d srcs lat f s = .next u) : u.boot = s.boot :=
  word_boot (fun s n x => by grind [Eff.Boots, compute_boot]) he

/-! ### Turns -/

@[simp] theorem State.awaitLine_boot (s : State) (n : Nat) (x : Strand) : (s.awaitLine n x).boot = s.boot := by
  grind [State.awaitLine, State.onStrand_boot, State.blockOn_boot, foldl_boot]

/-! ### Every instruction and every turn -/

theorem execPowerOnReset_boot (hb : s.boot ≠ .rom) (he : execPowerOnReset s = .next u) : u.boot = s.boot := by
  grind [execPowerOnReset, notEnabled]

/-- Out of the ROM no instruction, command or device step moves the boot state. -/
theorem exec_boot (hb : s.boot ≠ .rom) {i : Instr} (he : exec i s = .next u) : u.boot = s.boot := by
  revert he
  unfold exec
  cases i with
  | add | sub | mul | mulh | mulhn | div | divn | rem | remn | and_ | or_ | xor_ | shl | shr | sra | slt | sltn | min_ | max_
  | minn | maxn =>
    exact int2_boot
  | clz | ctz | popc | addi | andi | ori | xori | shli | shri | srai | slti | sltni | exts | extz => exact int1_boot
  | sel | ins | lih => exact intD_boot
  | li => exact execLi_boot
  | fadd | fsub | fmul | ffma | fmin | fmax | fcmpEq | fcmpLt | fcmpLe | fcmpUn | fcvtiI32 | fcvtiN32 | fcvtfI32 | fcvtfN32 =>
    exact fpOp_boot
  | cbnd | cbndx | cperm | caddr | cinc | cgetp | ctagt | cdom | cmov | cclrt | cinci => exact capInstr_boot
  | cgetb => exact execCgetb_boot
  | cgetl => exact execCgetl_boot
  | ldb | ldbn | ldh | ldhn | ldw | ldwn | ldd => exact loadInstr_boot
  | ldc => exact execLdc_boot
  | stb | sth | stw | std => exact storeInstr_boot
  | stc => exact execStc_boot
  | pref => exact execPref_boot
  | wbr => exact execWbr_boot
  | invr => exact execInvr_boot
  | fence => exact execFence_boot
  | aadd | aand | aor | axor | amin | amax | axchg | acas => exact atomicInstr_boot
  | beq | bne | blt | bge | bltn | bgen => exact branchInstr_boot
  | jal => exact execJal_boot
  | jalr => exact execJalr_boot
  | kinit => exact execKinit_boot
  | sig => exact execSig_boot
  | wait => exact execWait_boot
  | kpeek => exact execKpeek_boot
  | kjoin => exact execKjoin_boot
  | waitm => exact execWaitm_boot
  | chadd => exact execChadd_boot
  | ticket => exact execTicket_boot
  | qpush => exact execQpush_boot
  | qpop => exact execQpop_boot
  | launch => exact execLaunch_boot
  | spdef => exact execSpdef_boot
  | spadvp => exact execSpadvp_boot
  | spadvc => exact execSpadvc_boot
  | spwaitp => exact execSpwaitp_boot
  | spwaitc => exact execSpwaitc_boot
  | sbind => exact execSbind_boot
  | sunbind => exact execSunbind_boot
  | srd => exact execSrd_boot
  | bara | baraX => exact baraInstr_boot
  | barw => exact execBarw_boot
  | bar | exch => exact barInstr_boot
  | vclaim => exact execVclaim_boot
  | vgive => exact execVgive_boot
  | tack => exact execTack_boot
  | untack => exact execUntack_boot
  | bob => exact execBob_boot
  | csrr | csrw | csrs | csrc | selvWrite | chnWrite | chlimWrite | chmodeWrite | fpCsrAccess | rlthrRead | evcntRead
  | capCsrRead | tcauseWrite =>
    exact csrAccess_boot
  | trap => exact execTrap_boot
  | nop => exact execNop_boot
  | tret => exact execTret_boot
  | yield => exact execYield_boot
  | done_ => exact execDone_boot
  | sendx => exact execSendx_boot
  | enqM | enqC => exact enqInstr_boot
  | enqX => exact execEnqX_boot
  | vadd | vsub | vmul | vfma | vfms | vfnma | vmin | vmax | vabs | vneg | vrsqe | vrcpe | vcmp | vsel | vbcst | vext | vand
  | vor | vxor | vperm | vshl | vshr | vsra | viadd | visub | vimul | vimin | vimax | vcvt | vpack | vunpk | vreda | vredx | pset
  | pand | por | pnot =>
    exact enterVec_boot
  | vsrd | vsift | vgath | vld | vldl => exact enterBlocking_boot
  | vscat | vst | vstl => exact enterStore_boot
  | mmLdw | mmLdwQ | mmSwap | mmMma | mmMmaQ | mmMmac | mmMmacQ | mmZero | mmRldef | mmAccst | mmAccstSat | mmAccv | mmRlst
  | mmRlmrg | mmThr =>
    exact matNow_boot
  | cpCopy | cpMcast | cpPeer | cpFill | cpGath | cpScat => exact copyNow_boot
  | xcPlan => exact execXcPlan_boot
  | illegalInstruction => exact execIllegalInstruction_boot
  | hostWindowRead => exact execHostWindowRead_boot
  | hostWindowWrite => exact execHostWindowWrite_boot
  | portLaneFailure => exact execPortLaneFailure_boot
  | portDown => exact execPortDown_boot
  | peerSignalRecord => exact execPeerSignalRecord_boot
  | peerPullRecord => exact execPeerPullRecord_boot
  | peerRestorePull => exact execPeerRestorePull_boot
  | peerInboundWrite => exact execPeerInboundWrite_boot
  | restoreUnitRecord => exact execRestoreUnitRecord_boot
  | ppsLatch => exact execPpsLatch_boot
  | holdoverTimeout => exact execHoldoverTimeout_boot
  | powerOnReset => exact execPowerOnReset_boot hb
  | getVersion => exact execGetVersion_boot
  | getCapabilities => exact execGetCapabilities_boot
  | negotiateAlgorithms => exact execNegotiateAlgorithms_boot
  | getDigests => exact execGetDigests_boot
  | getCertificate => exact execGetCertificate_boot
  | challenge => exact execChallenge_boot
  | getMeasurements => exact execGetMeasurements_boot
  | keyExchange => exact execKeyExchange_boot
  | finish => exact execFinish_boot
  | keyUpdate => exact execKeyUpdate_boot
  | heartbeat => exact execHeartbeat_boot
  | endSession => exact execEndSession_boot
  | tckInstall => exact execTckInstall_boot
  | tckRemove => exact execTckRemove_boot
  | spdmUnsupported => exact execSpdmUnsupported_boot
  | split => exact execSplit_boot
  | merge => exact execMerge_boot
  | create => exact execCreate_boot
  | destroy => exact execDestroy_boot
  | destroyComplete => exact execDestroyComplete_boot
  | reserve => exact execReserve_boot
  | unreserve => exact execUnreserve_boot
  | squota => exact execSquota_boot
  | qon => exact execQon_boot
  | qoff => exact execQoff_boot
  | qoffComplete => exact execQoffComplete_boot
  | checkpoint => exact execCheckpoint_boot
  | checkpointComplete => exact execCheckpointComplete_boot
  | openRange => exact execOpenRange_boot
  | restore => exact execRestore_boot
  | restoreComplete => exact execRestoreComplete_boot
  | vdPeriodStart => exact execVdPeriodStart_boot
  | vdBudgetExhausted => exact execVdBudgetExhausted_boot
  | vdGraceExpired => exact execVdGraceExpired_boot
  | superstepBoundary => exact execSuperstepBoundary_boot
  | saveComplete => exact execSaveComplete_boot
  | lazyFillComplete => exact execLazyFillComplete_boot
  | tableBaseWrite => exact execTableBaseWrite_boot
  | bitmapBaseWrite => exact execBitmapBaseWrite_boot
  | notifyWrite => exact execNotifyWrite_boot
  | doorbellWrite => exact execDoorbellWrite_boot
  | slotIdleTimeout => exact execSlotIdleTimeout_boot
  | launchPacket => exact execLaunchPacket_boot
  | copyPacket => exact execCopyPacket_boot
  | signalPacket => exact execSignalPacket_boot
  | waitPacket => exact execWaitPacket_boot
  | waitPacketSatisfied => exact execWaitPacketSatisfied_boot
  | waitPacketTimeout => exact execWaitPacketTimeout_boot
  | fencePacket => exact execFencePacket_boot
  | fencePacketComplete => exact execFencePacketComplete_boot
  | launchComplete => exact execLaunchComplete_boot
  | builtEntryConsume => exact execBuiltEntryConsume_boot
  | dispatchPass => exact execDispatchPass_boot
  | launchHoldTimeout => exact execLaunchHoldTimeout_boot
  | codeCopyLanded => exact execCodeCopyLanded_boot
  | codeCopyFailed => exact execCodeCopyFailed_boot
  | largeStepStart => exact execLargeStepStart_boot
  | vectorArbitrate => exact execVectorArbitrate_boot
  | matrixArbitrate => exact execMatrixArbitrate_boot
  | chainedTileForward => exact execChainedTileForward_boot
  | matrixCommandComplete => exact execMatrixCommandComplete_boot
  | signalApply => exact execSignalApply_boot
  | waitHomeArrival => exact execWaitHomeArrival_boot
  | snapshotJoin => exact execSnapshotJoin_boot
  | waitTimeout => exact execWaitTimeout_boot
  | waitmWake => exact execWaitmWake_boot
  | barrierRelease => exact execBarrierRelease_boot
  | domload => exact execDomload_boot
  | lendWrite => exact execLendWrite_boot
  | reqDivWrite => exact execReqDivWrite_boot
  | dividerRailReady => exact execDividerRailReady_boot
  | powerCapWrite => exact execPowerCapWrite_boot
  | corePowerOff => exact execCorePowerOff_boot
  | powerPeriod => exact execPowerPeriod_boot
  | thermalMove => exact execThermalMove_boot
  | thermalMoveDone => exact execThermalMoveDone_boot
  | energyExhausted => exact execEnergyExhausted_boot
  | asyncTrapEntry => exact execAsyncTrapEntry_boot
  | storeWritebackFault => exact execStoreWritebackFault_boot
  | engineFailure => exact execEngineFailure_boot
  | hardwareError => exact execHardwareError_boot
  | halt => exact execHalt_boot
  | resume => exact execResume_boot
  | step => exact execStep_boot
  | rdreg => exact execRdreg_boot
  | cancel => exact execCancel_boot
  | breakpoint => exact execBreakpoint_boot
  | wrreg => exact execWrreg_boot
  | mapr => exact execMapr_boot
  | unmapr => exact execUnmapr_boot
  | mapp => exact execMapp_boot
  | dirty => exact execDirty_boot
  | migrate => exact execMigrate_boot
  | migrationComplete => exact execMigrationComplete_boot
  | translationOpInvalid => exact execTranslationOpInvalid_boot
  | llcWritebackArrival => exact execLlcWritebackArrival_boot
  | loadDataArrival => exact execLoadDataArrival_boot
  | copyBufferGrant => exact execCopyBufferGrant_boot
  | copyStart => exact execCopyStart_boot
  | copySourceDone => exact execCopySourceDone_boot
  | copyDataVisible => exact execCopyDataVisible_boot
  | spoolReservationGrant => exact execSpoolReservationGrant_boot
  | spoolSlotCounted => exact execSpoolSlotCounted_boot
  | multicastLanding => exact execMulticastLanding_boot
  | exchangeSend => exact execExchangeSend_boot
  | exchangeLanding => exact execExchangeLanding_boot
  | strandEnd => exact execStrandEnd_boot
  | registerWrite => exact execRegisterWrite_boot
  | portUp => exact execPortUp_boot
  | restoreManifestArrival => exact execRestoreManifestArrival_boot
  | thermLimitCleared => exact execThermLimitCleared_boot
  | homeAccessArrival => exact execHomeAccessArrival_boot
  | writeAcknowledged => exact execWriteAcknowledged_boot
  | supervisorTrapResume => exact execSupervisorTrapResume_boot
  | fetchFault => exact execFetchFault_boot

theorem advanceBy_boot (t fuel : Nat) (past : List (Nat × Instr × StepOp)) {s : State} (hb : s.boot ≠ .rom) :
    (advanceBy t fuel past s).boot = s.boot := by
  induction fuel generalizing past s with
  | zero => rfl
  | succ fuel ih =>
    unfold advanceBy
    split
    · rfl
    · rename_i d _
      split
      · rename_i s1 h1
        have h1 := exec_boot (s := { s with tick := max s.tick d.1, op := d.2.2 }) hb h1
        exact (ih _ (s := { s1 with op := s.op, cur := s.cur }) (h1 ▸ hb)).trans h1
      · exact ih _ hb

theorem State.advance_boot {s : State} (hb : s.boot ≠ .rom) (t : Nat) : (s.advance t).boot = s.boot := advanceBy_boot _ _ _ hb

theorem runWord_boot {n : Nat} {x : Strand} (hb : s.boot ≠ .rom) (he : runWord s n x = .next u) : u.boot = s.boot := by
  grind [runWord, exec_boot, foldl_boot, State.onStrand_boot]

theorem boundaryTurn_boot {n : Nat} {x : Strand} (hb : s.boot ≠ .rom) (he : boundaryTurn s n x = .next u) : u.boot = s.boot := by
  grind [boundaryTurn, exec_boot, runWord_boot, State.haltNow_boot, State.takeDebug_boot, State.awaitLine_boot]

theorem fetchTurn_boot {n : Nat} {x : Strand} (hb : s.boot ≠ .rom) (he : fetchTurn s n x = .next u) : u.boot = s.boot := by
  unfold fetchTurn at he
  generalize h1 : s.settleAll _ = s1 at he
  have h1 : s1.boot = s.boot := h1 ▸ State.settleAll_boot _ _
  dsimp only at he
  generalize h2 : List.foldl _ (s1.gangSync _ _) _ = s2 at he
  have h2 : s2.boot = s.boot := by grind [foldl_boot, State.onStrand_boot, State.gangSync_boot]
  grind [exec_boot, boundaryTurn_boot]

theorem coreTurn_boot {n : Nat} (hb : s.boot ≠ .rom) (he : coreTurn n s = .next u) : u.boot = s.boot := by
  unfold coreTurn at he
  split at he
  · cases he
  · extract_lets src s1 at he
    have h1 : s1.boot = s.boot := State.advance_boot hb _
    rw [← h1] at hb ⊢
    split at he
    · split at he
      · cases he
      · split at he
        · exact exec_boot hb he
        · split at he
          · exact fetchTurn_boot hb he
          · split at he
            · split at he
              · cases he; rfl
              · exact boundaryTurn_boot hb he
            · split at he
              · cases he; exact State.fillLine_boot _ _ _
              · exact runWord_boot hb he
    · cases he

theorem firstStep_boot (hb : s.boot ≠ .rom) {cs : List (Instr × StepOp)} (he : firstStep s cs = some u) : u.boot = s.boot := by
  induction cs with
  | nil => cases he
  | cons c cs ih =>
    unfold firstStep at he
    extract_lets z at he
    split at he
    · rename_i s1 h1
      have h1 : s1.boot = s.boot := exec_boot (s := z) hb h1
      split at he
      · exact ih he
      · cases he; exact h1
    · exact ih he

theorem takeTurn_boot (hb : s.boot ≠ .rom) {t : Turn} (he : takeTurn t s = .next u) : u.boot = s.boot := by
  cases t with
  | core n => grind [takeTurn, coreTurn_boot]
  | device i op =>
    unfold takeTurn at he
    dsimp only at he
    split at he
    · exact (exec_boot (s := { s with op := op }) hb he :)
    · split at he
      case h_4 => cases he; rfl
      all_goals exact (exec_boot (s := { s with op := op }) hb he :)

theorem freeTurn_boot (hb : s.boot ≠ .rom) (he : freeTurn s = .next u) : u.boot = s.boot := by
  grind [freeTurn, firstStep_boot, coreTurn_boot, State.advance_boot]

theorem step_boot (hb : s.boot ≠ .rom) (he : step s = .next u) : u.boot = s.boot := by
  change s.turn = .next u at he
  unfold State.turn at he
  rw [if_neg hb] at he
  split at he
  · rename_i t ts _
    exact (takeTurn_boot (s := { s with agenda := ts }) hb he :)
  · exact freeTurn_boot hb he

end Sys2Proof.Machine
end

section
/-! PROOFS. Obligation O59: what recovery leaves unmoved, where the boot leads, and that a running device stays running (R23). -/
namespace Sys2Proof.Machine
open Sys2Proof.Safety

/-! ### What an SPDM answer leaves unmoved (R23, R25) -/

/-- Only the responder, the partitions' mailboxes, the output and the clock may differ: what O59 names is the same in `s` and `t`. -/
structure SameDevice (s t : State) : Prop where
  boot : t.boot = s.boot
  strands : t.strands = s.strands
  cores : t.cores = s.cores
  hbm : t.hbm = s.hbm
  host : t.host = s.host
  scratch : t.scratch = s.scratch
  chip : t.chip = s.chip
  llc : t.llc = s.llc
  launches : t.launches = s.launches
  copies : t.copies = s.copies
  flight : t.flight = s.flight
  measure : t.measure = s.measure
  ide : t.ide = s.ide
  epoch : t.epoch = s.epoch

theorem SameDevice.refl (s : State) : SameDevice s s := ⟨rfl, rfl, rfl, rfl, rfl, rfl, rfl, rfl, rfl, rfl, rfl, rfl, rfl, rfl⟩

theorem SameDevice.trans {s t u : State} (h : SameDevice s t) (k : SameDevice t u) : SameDevice s u :=
  ⟨k.boot.trans h.boot, k.strands.trans h.strands, k.cores.trans h.cores, k.hbm.trans h.hbm, k.host.trans h.host, k.scratch.trans h.scratch,
    k.chip.trans h.chip, k.llc.trans h.llc, k.launches.trans h.launches, k.copies.trans h.copies, k.flight.trans h.flight,
    k.measure.trans h.measure, k.ide.trans h.ide, k.epoch.trans h.epoch⟩

theorem sameDevice_onPart (s : State) (p : Nat) (f : Partition → Partition) : SameDevice s (s.onPart p f) := by
  unfold State.onPart
  split
  · exact ⟨rfl, rfl, rfl, rfl, rfl, rfl, rfl, rfl, rfl, rfl, rfl, rfl, rfl, rfl⟩
  · exact .refl s

theorem sameDevice_setSpdm (s : State) (x : Spdm) : SameDevice s (s.setSpdm x) := by
  unfold State.setSpdm
  split
  · exact ⟨rfl, rfl, rfl, rfl, rfl, rfl, rfl, rfl, rfl, rfl, rfl, rfl, rfl, rfl⟩
  · exact sameDevice_onPart s _ _

theorem sameDevice_emit (s : State) (e : Output) : SameDevice s (s.emit e) :=
  ⟨rfl, rfl, rfl, rfl, rfl, rfl, rfl, rfl, rfl, rfl, rfl, rfl, rfl, rfl⟩

theorem sameDevice_spdmAnswer (s : State) (code : Nat) (data : List Byte) : SameDevice s (s.spdmAnswer code data) := by
  have hemit := sameDevice_emit s (.spdm (spdmPath s) code data)
  unfold State.spdmAnswer
  dsimp only
  split
  · exact hemit
  · exact hemit.trans (sameDevice_onPart _ _ _)

theorem sameDevice_spdmOpen (s : State) (code : Nat) : SameDevice s (s.spdmOpen code) := by
  refine (sameDevice_spdmAnswer s code (Config.spdmBytes code s.freeCtr)).trans ?_
  exact ⟨rfl, rfl, rfl, rfl, rfl, rfl, rfl, rfl, rfl, rfl, rfl, rfl, rfl, rfl⟩

theorem sameDevice_spdmStep {s t : State} {mn : String} {inRecovery : Bool} {ready : Spdm → Bool} {f : State → Spdm → State}
    (hf : ∀ x, SameDevice s (f s x)) (he : spdmStep mn inRecovery ready f s = .next t) : SameDevice s t := by
  unfold spdmStep at he
  split at he
  · cases he
  · split at he
    · cases he
    · split at he
      · cases he; exact .refl s
      · split at he
        · cases he; exact hf _
        · cases he; exact sameDevice_spdmAnswer s _ _

theorem sameDevice_getVersion {s t : State} (he : execGetVersion s = .next t) : SameDevice s t := by
  unfold execGetVersion at he
  refine sameDevice_spdmStep (fun _ => ?_) he
  exact (sameDevice_setSpdm s _).trans (sameDevice_spdmOpen _ _)

theorem sameDevice_getCapabilities {s t : State} (he : execGetCapabilities s = .next t) : SameDevice s t := by
  unfold execGetCapabilities at he
  refine sameDevice_spdmStep (fun _ => ?_) he
  exact (sameDevice_setSpdm s _).trans (sameDevice_spdmOpen _ _)

theorem sameDevice_getMeasurements {s t : State} (he : execGetMeasurements s = .next t) : SameDevice s t := by
  unfold execGetMeasurements at he
  refine sameDevice_spdmStep (fun _ => ?_) he
  exact sameDevice_spdmAnswer s _ _

/-! ### A step in recovery -/

/-- Of the device's own steps recovery takes the three SPDM requests; every other is passed over. -/
theorem takeTurn_device_recovery {s : State} (hr : s.boot = .recovery) {i : Instr} (op : StepOp)
    (hi : i ∉ [Instr.getVersion, .getCapabilities, .getMeasurements]) : takeTurn (.device i op) s = .next s := by
  simp only [List.mem_cons, List.not_mem_nil, or_false, not_or] at hi
  obtain ⟨hversion, hcapabilities, hmeasurements⟩ := hi
  dsimp only [takeTurn]
  rw [if_neg (by simp [hr])]
  split
  · exact absurd rfl hversion
  · exact absurd rfl hcapabilities
  · exact absurd rfl hmeasurements
  · rfl

theorem sameDevice_takeTurn {s t : State} (hr : s.boot = .recovery) {w : Turn} (he : takeTurn w s = .next t) : SameDevice s t := by
  have hrun : s.boot ≠ .running := by simp [hr]
  cases w with
  | core n =>
    rw [takeTurn, if_neg hrun] at he
    cases he
    exact .refl s
  | device i op =>
    have hop : SameDevice s { s with op := op } := ⟨rfl, rfl, rfl, rfl, rfl, rfl, rfl, rfl, rfl, rfl, rfl, rfl, rfl, rfl⟩
    dsimp only [takeTurn] at he
    rw [if_neg hrun] at he
    split at he
    · exact hop.trans (sameDevice_getVersion he)
    · exact hop.trans (sameDevice_getCapabilities he)
    · exact hop.trans (sameDevice_getMeasurements he)
    · cases he
      exact .refl s

theorem step_of_agenda {s : State} (hb : s.boot ≠ .rom) {w : Turn} {rest : List Turn} (ha : s.agenda = w :: rest) :
    step s = takeTurn w { s with agenda := rest } := by
  change s.turn = _
  rw [State.turn, if_neg hb, ha]

theorem sameDevice_step {s t : State} (hr : s.boot = .recovery) (he : step s = .next t) : SameDevice s t := by
  have hrom : s.boot ≠ .rom := by simp [hr]
  cases ha : s.agenda with
  | nil =>
    change s.turn = _ at he
    rw [State.turn, if_neg hrom, ha] at he
    change freeTurn s = _ at he
    rw [freeTurn, if_neg (by simp [hr])] at he
    cases he
    exact ⟨rfl, rfl, rfl, rfl, rfl, rfl, rfl, rfl, rfl, rfl, rfl, rfl, rfl, rfl⟩
  | cons w rest =>
    rw [step_of_agenda hrom ha] at he
    have hrest : SameDevice s { s with agenda := rest } := ⟨rfl, rfl, rfl, rfl, rfl, rfl, rfl, rfl, rfl, rfl, rfl, rfl, rfl, rfl⟩
    exact hrest.trans (sameDevice_takeTurn (s := { s with agenda := rest }) hr he)

theorem step_recovery_passes_over {s t : State} (hr : s.boot = .recovery) (he : step s = .next t) {i : Instr} {op : StepOp} {rest : List Turn}
    (ha : s.agenda = .device i op :: rest) (hi : i ∉ [Instr.getVersion, .getCapabilities, .getMeasurements]) : t = { s with agenda := rest } := by
  rw [step_of_agenda (by simp [hr]) ha, takeTurn_device_recovery (s := { s with agenda := rest }) hr op hi] at he
  cases he
  rfl

/-! ### A step from the ROM -/

/-- No stage fails, or `failedStage` is the first that does. -/
theorem failedStage_cases :
    failedStage = 0 ∧ (∀ k, 1 ≤ k → k ≤ 4 → imagePasses k = true) ∨
      1 ≤ failedStage ∧ failedStage ≤ 4 ∧ imagePasses failedStage = false ∧ ∀ k, 1 ≤ k → k < failedStage → imagePasses k = true := by
  by_cases hall : ∀ k, 1 ≤ k → k ≤ 4 → imagePasses k = true
  · exact .inl ⟨failedStage_eq_zero hall, hall⟩
  · have hbad : ∃ k, 1 ≤ k ∧ k ≤ 4 ∧ imagePasses k = false := by simpa using hall
    obtain ⟨h1, h4, hk⟩ := Nat.find_spec hbad
    have hfirst : ∀ j, 1 ≤ j → j < Nat.find hbad → imagePasses j = true := fun j hj1 hj => by
      by_contra hj0
      exact Nat.find_min hbad hj ⟨hj1, by omega, by simpa using hj0⟩
    rw [failedStage_eq h1 h4 hk hfirst]
    exact .inr ⟨h1, h4, hk, hfirst⟩

theorem step_rom {s t : State} (hb : s.boot = .rom) (he : step s = .next t) :
    t = { s with boot := if failedStage = 0 then .running else .recovery, failStage := failedStage
                 measure := Vector.ofFn (bootMeasure s.debugUnlocked failedStage) } := by
  change s.turn = _ at he
  rw [State.turn, if_pos hb, exec_powerOnReset hb] at he
  cases he
  rfl

/-- Settles O59: in recovery by `sameDevice_step`, from the ROM by the first stage that fails, and running by the boot state's frame. -/
theorem recoveryStays : Obligations.RecoveryStays := by
  unfold Obligations.RecoveryStays
  intro s t he
  refine ⟨fun hr => ?_, fun hb => ?_, fun hb => ?_⟩
  · have h := sameDevice_step hr he
    exact ⟨h.boot.trans hr, h.strands, h.cores, h.hbm, h.host, h.scratch, h.chip, h.llc, h.launches, h.copies, h.flight, h.measure, h.ide, h.epoch,
      fun i op rest ha hi => step_recovery_passes_over hr he ha hi⟩
  · rw [step_rom hb he]
    refine ⟨rfl, rfl, rfl, ?_⟩
    obtain ⟨h0, hall⟩ | ⟨h1, h4, hbad, hfirst⟩ := failedStage_cases
    · exact .inl ⟨if_pos h0, h0, hall⟩
    · exact .inr ⟨if_neg (by omega), h1, h4, hbad, hfirst⟩
  · exact (step_boot (by simp [hb]) he).trans hb

end Sys2Proof.Machine
end

section
/-! SUPPORT. Tables by their entries; the partitions and the virtual devices that an operation leaves alone. -/
namespace Sys2Proof.Machine

/-! ### Tables -/

theorem Tbl.mem_of_find {α : Type} {t : Tbl α} {k : Nat} {x : α} (h : t.find k = some x) : (k, x) ∈ t := by
  induction t with
  | nil => cases h
  | cons e t ih =>
    obtain ⟨j, y⟩ := e
    by_cases hj : j = k
    · rw [Tbl.find, if_pos hj] at h
      cases h
      exact hj ▸ List.mem_cons_self
    · rw [Tbl.find, if_neg hj] at h
      exact List.mem_cons_of_mem _ (ih h)

theorem Tbl.find_of_mem_sorted {α : Type} {t : Tbl α} {lo k : Nat} {x : α} (ht : Tbl.sortedFrom lo t = true) (h : (k, x) ∈ t) :
    lo ≤ k ∧ t.find k = some x := by
  induction t generalizing lo with
  | nil => cases h
  | cons e t ih =>
    obtain ⟨j, y⟩ := e
    simp only [Tbl.sortedFrom, Bool.and_eq_true, decide_eq_true_eq] at ht
    rcases List.mem_cons.1 h with h | h
    · cases h
      exact ⟨ht.1, if_pos rfl⟩
    · obtain ⟨hk, hfind⟩ := ih ht.2 h
      exact ⟨by omega, (if_neg (by omega)).trans hfind⟩

/-- In a table in its canonical form the entry listed under a key is the one found there. -/
theorem Tbl.find_of_mem {α : Type} {t : Tbl α} {k : Nat} {x : α} (ht : t.wf = true) (h : (k, x) ∈ t) : t.find k = some x :=
  (Tbl.find_of_mem_sorted ht h).2

theorem mem_insertNat {j k : Nat} {l : List Nat} : j ∈ insertNat k l ↔ j = k ∨ j ∈ l := by
  induction l with
  | nil => simp [insertNat]
  | cons i l ih =>
    unfold insertNat
    split_ifs with hlt heq
    · simp
    · simp [heq]
    · simp only [List.mem_cons, ih]
      tauto

theorem mem_foldl_insertNat {j : Nat} (l acc : List Nat) : j ∈ l.foldl (fun a k => insertNat k a) acc ↔ j ∈ l ∨ j ∈ acc := by
  induction l generalizing acc with
  | nil => simp
  | cons i l ih =>
    rw [List.foldl_cons, ih, mem_insertNat, List.mem_cons]
    tauto

theorem mem_rowsOf {j : Nat} {l : List Nat} : j ∈ rowsOf l ↔ j ∈ l := by simp [rowsOf, mem_foldl_insertNat]

/-! ### A virtual device -/

@[simp] theorem Partition.vd_setVd_same (q : Partition) (v : Nat) (d : Vd) : (q.setVd v d).vd v = d := by
  simp [Partition.vd, Partition.setVd, Tbl.getD]

theorem Partition.vd_setVd_other (q : Partition) {v w : Nat} (d : Vd) (h : v ≠ w) : (q.setVd w d).vd v = q.vd v := by
  simp [Partition.vd, Partition.setVd, Tbl.getD, Tbl.find_put_other _ _ h]

/-- Virtual device `v` of partition `p`, if the partition exists. -/
def State.vdOf (s : State) (p v : Nat) : Option Vd := (s.part p).map (·.vd v)

theorem State.vdOf_of_part {s : State} {p : Nat} {q : Partition} (h : s.part p = some q) (v : Nat) : s.vdOf p v = some (q.vd v) := by
  simp [State.vdOf, h]

theorem State.vdOf_eq_some {s : State} {p v : Nat} {d : Vd} (h : s.vdOf p v = some d) : ∃ y, s.part p = some y ∧ y.vd v = d :=
  Option.map_eq_some_iff.1 h

theorem State.vdOf_onVd_same (s : State) (p v : Nat) (f : Vd → Vd) : (s.onVd p v f).vdOf p v = (s.vdOf p v).map f := by
  cases h : s.part p with
  | none => simp [State.vdOf, State.onVd, State.onPart, h]
  | some q => simp [State.vdOf, State.onVd, State.part_onPart_same h, h]

theorem State.vdOf_onVd_other (s : State) (p : Nat) {v w : Nat} (f : Vd → Vd) (h : v ≠ w) : (s.onVd p w f).vdOf p v = s.vdOf p v := by
  cases hq : s.part p with
  | none => simp [State.vdOf, State.onVd, State.onPart, hq]
  | some q => simp [State.vdOf, State.onVd, State.part_onPart_same hq, hq, Partition.vd_setVd_other _ _ h]

/-! ### What leaves the strands, the tick or the partitions alone -/

@[simp] theorem State.onPart_tick (s : State) (p : Nat) (f : Partition → Partition) : (s.onPart p f).tick = s.tick := by
  unfold State.onPart
  split <;> rfl

@[simp] theorem State.onVd_strands (s : State) (p v : Nat) (f : Vd → Vd) : (s.onVd p v f).strands = s.strands := State.onPart_strands _ _ _

@[simp] theorem State.onVd_tick (s : State) (p v : Nat) (f : Vd → Vd) : (s.onVd p v f).tick = s.tick := State.onPart_tick _ _ _

theorem State.strandsOf_congr {s t : State} (h : t.strands = s.strands) (p v : Nat) : t.strandsOf p v = s.strandsOf p v := by
  simp [State.strandsOf, h]

@[simp] theorem State.onStrand_parts (s : State) (n : Nat) (f : Strand → Strand) : (s.onStrand n f).parts = s.parts := by
  unfold State.onStrand
  split <;> rfl

@[simp] theorem State.onStrand_tick (s : State) (n : Nat) (f : Strand → Strand) : (s.onStrand n f).tick = s.tick := by
  unfold State.onStrand
  split <;> rfl

theorem State.part_congr {s t : State} (h : t.parts = s.parts) (p : Nat) : t.part p = s.part p := by simp [State.part, h]

end Sys2Proof.Machine
end

section
/-! PROOFS. Virtual devices (R33): how a pass over a partition's virtual devices leaves one of them. -/
namespace Sys2Proof.Machine

/-! ### What schedule does with a virtual device -/

/-- A stop request (R33): the budget stops running. -/
def Vd.asked (tick : Nat) (d : Vd) : Vd := if d.stop.isSome then d else { d with stop := some tick, remaining := d.left tick }

/-- A virtual device without strands leaves its turn at once. -/
def Vd.idled (tick : Nat) (d : Vd) : Vd := { d with remaining := d.left tick, running := false, stop := none }

theorem Vd.asked_asked (tick : Nat) (d : Vd) : (d.asked tick).asked tick = d.asked tick := by
  unfold Vd.asked
  split <;> simp_all

theorem Vd.idled_idled (tick : Nat) (d : Vd) : (d.idled tick).idled tick = d.idled tick := by simp [Vd.idled, Vd.left]

/-- How virtual device `v` of `q` is passed over: `alone` says that none of its strands is left. -/
def Vd.passed (tick : Nat) (alone : Bool) (d : Vd) : Vd := if alone then d.idled tick else d.asked tick

theorem Vd.passed_passed (tick : Nat) (b : Bool) (d : Vd) : (d.passed tick b).passed tick b = d.passed tick b := by
  cases b
  · exact d.asked_asked tick
  · exact d.idled_idled tick

/-- The virtual devices that schedule looks at: those with an entry, and those with a strand. -/
def State.vdsSeen (s : State) (p : Nat) (q : Partition) : List Nat :=
  rowsOf (q.vds.map (·.1) ++ (s.strands.filter (·.2.id.part == p)).map (·.2.id.vd))

/-- One step of the pass that schedule makes from `s`, in which `q` is the partition and `best` the virtual device that should run. -/
def State.passOver (s : State) (p : Nat) (q : Partition) (best : Option Nat) (z : State) (v : Nat) : State :=
  if some v = best then z
  else if (z.strandsOf p v).isEmpty && !(q.vd v).saving then
    z.onVd p v fun d => { d with remaining := d.left s.tick, running := false, stop := none }
  else z.askStop p v

/-- Schedule passes over the virtual devices, then starts the best one where nothing stands in its way. -/
theorem State.schedule_eq {s : State} {p : Nat} {q : Partition} (h : s.part p = some q) (hfree : q.free = false) :
    s.schedule p = (s.vdsSeen p q).foldl (s.passOver p q (s.bestVd p)) s ∨
      ∃ b, s.bestVd p = some b ∧ s.schedule p =
        ((s.vdsSeen p q).foldl (s.passOver p q (s.bestVd p)) s).onVd p b fun d => { d with running := true, start := s.tick } := by
  generalize hr : (s.vdsSeen p q).foldl (s.passOver p q (s.bestVd p)) s = r
  change List.foldl _ s (rowsOf _) = r at hr
  unfold State.schedule
  rw [h]
  dsimp only
  rw [if_neg (by simp [hfree])]
  unfold State.passOver at hr
  rw [hr]
  split
  · exact .inl rfl
  · rename_i b hb
    split
    · exact .inl rfl
    · exact .inr ⟨b, hb, rfl⟩

theorem State.schedule_free {s : State} {p : Nat} {q : Partition} (h : s.part p = some q) (hfree : q.free = true) : s.schedule p = s := by
  simp [State.schedule, h, hfree]

section
variable {s : State} {p : Nat} {q : Partition} {best : Option Nat}

theorem State.passOver_strands (z : State) (v : Nat) : (s.passOver p q best z v).strands = z.strands := by
  unfold State.passOver
  split_ifs
  · rfl
  · exact State.onVd_strands _ _ _ _
  · exact State.onVd_strands _ _ _ _

theorem State.passOver_tick (z : State) (v : Nat) : (s.passOver p q best z v).tick = z.tick := by
  unfold State.passOver
  split_ifs
  · rfl
  · exact State.onVd_tick _ _ _ _
  · exact State.onVd_tick _ _ _ _

theorem State.vdOf_passOver_other (z : State) {v w : Nat} (h : v ≠ w) : (s.passOver p q best z w).vdOf p v = z.vdOf p v := by
  unfold State.passOver
  split_ifs
  · rfl
  · exact State.vdOf_onVd_other _ _ _ h
  · exact State.vdOf_onVd_other _ _ _ h

/-- Nothing keeps virtual device `v` from leaving its turn at once. -/
def State.alone (s : State) (p : Nat) (q : Partition) (v : Nat) : Bool := (s.strandsOf p v).isEmpty && !(q.vd v).saving

theorem State.vdOf_passOver_same {z : State} (hz : z.strands = s.strands) (ht : z.tick = s.tick) (v : Nat) :
    (s.passOver p q best z v).vdOf p v = if some v = best then z.vdOf p v else (z.vdOf p v).map (Vd.passed s.tick (s.alone p q v)) := by
  unfold State.passOver State.alone Vd.passed
  rw [State.strandsOf_congr hz]
  split_ifs with hb hempty
  · rfl
  · exact State.vdOf_onVd_same _ _ _ _
  · rw [← ht]
    exact State.vdOf_onVd_same _ _ _ _

/-- The pass leaves a virtual device passed over once, the best one and those not seen as they were. -/
theorem State.vdOf_foldl_passOver (v : Nat) (vs : List Nat) {z : State} (hz : z.strands = s.strands) (ht : z.tick = s.tick) :
    (vs.foldl (s.passOver p q best) z).vdOf p v =
      if v ∈ vs ∧ some v ≠ best then (z.vdOf p v).map (Vd.passed s.tick (s.alone p q v)) else z.vdOf p v := by
  induction vs generalizing z with
  | nil => simp
  | cons w vs ih =>
    rw [List.foldl_cons, ih ((State.passOver_strands z w).trans hz) ((State.passOver_tick z w).trans ht)]
    by_cases hw : v = w
    · subst hw
      rw [State.vdOf_passOver_same hz ht]
      by_cases hb : some v = best
      · simp [hb]
      · simp [hb, Function.comp_def, Vd.passed_passed]
    · simp [State.vdOf_passOver_other z hw, hw]

end

/-- What schedule makes of a virtual device: it is left alone or passed over; where it is the best it may start. -/
theorem State.schedule_vd {s : State} {p : Nat} {q : Partition} (h : s.part p = some q) (hfree : q.free = false) (v : Nat) :
    let e := if v ∈ s.vdsSeen p q ∧ some v ≠ s.bestVd p then (q.vd v).passed s.tick (s.alone p q v) else q.vd v
    ∃ y, (s.schedule p).part p = some y ∧ (y.vd v = e ∨ s.bestVd p = some v ∧ y.vd v = { e with running := true, start := s.tick }) := by
  intro e
  have hpass : ((s.vdsSeen p q).foldl (s.passOver p q (s.bestVd p)) s).vdOf p v = some e := by
    rw [State.vdOf_foldl_passOver v _ rfl rfl, State.vdOf_of_part h]
    simp only [e]
    split_ifs <;> rfl
  rcases State.schedule_eq h hfree with hs | ⟨b, hb, hs⟩
  · obtain ⟨y, hy, hv⟩ := State.vdOf_eq_some hpass
    exact ⟨y, hs ▸ hy, .inl hv⟩
  · by_cases hvb : v = b
    · subst hvb
      obtain ⟨y, hy, hv⟩ := State.vdOf_eq_some ((State.vdOf_onVd_same _ _ _ _).trans (congrArg _ hpass))
      exact ⟨y, hs ▸ hy, .inr ⟨hb, hv⟩⟩
    · obtain ⟨y, hy, hv⟩ := State.vdOf_eq_some ((State.vdOf_onVd_other _ _ _ hvb).trans hpass)
      exact ⟨y, hs ▸ hy, .inl hv⟩

end Sys2Proof.Machine
end

section
/-! PROOFS. Virtual devices: a period's start and the end of a budget (R33, R133). -/
namespace Sys2Proof.Machine

/-! ### A period's start -/

/-- The virtual device at the start of a period, as R33 has it. -/
def Vd.renewed (d : Vd) (r : Nat × Nat) (tick : Nat) : Vd :=
  let n := d.pendRsv.getD r
  let spent := decide (d.quotaUj ≠ 0) && decide (d.quotaUj ≤ d.overrunUj)
  { d with
    rsv := some n, pendRsv := none, remaining := n.1 - d.debit, debit := d.debit - n.1, deadline := d.deadline + n.2, start := tick
    usedUj := d.overrunUj, overrunUj := if spent then d.overrunUj - d.quotaUj else 0, exhausted := spent }

theorem Vd.renewed_exhausted (d : Vd) (r : Nat × Nat) (tick : Nat) :
    (d.renewed r tick).exhausted = true ↔ d.quotaUj ≠ 0 ∧ d.quotaUj ≤ d.overrunUj := by
  simp [Vd.renewed]

/-- What schedule leaves of the fields that a period's start writes, at the tick of that start. -/
structure Vd.Renewed (e d : Vd) : Prop where
  rsv : d.rsv = e.rsv
  pendRsv : d.pendRsv = e.pendRsv
  remaining : d.remaining = e.remaining
  debit : d.debit = e.debit
  deadline : d.deadline = e.deadline
  usedUj : d.usedUj = e.usedUj
  exhausted : d.exhausted = e.exhausted

theorem Vd.left_of_start {d : Vd} {tick : Nat} (h : d.start = tick) : d.left tick = d.remaining := by
  simp [Vd.left, h]

theorem Vd.renewed_passed {d : Vd} {tick : Nat} (h : d.start = tick) (b : Bool) : d.Renewed (d.passed tick b) := by
  unfold Vd.passed Vd.asked Vd.idled
  rw [Vd.left_of_start h]
  split_ifs <;> exact ⟨rfl, rfl, rfl, rfl, rfl, rfl, rfl⟩

theorem State.schedule_renewed {s : State} {p : Nat} {q : Partition} (h : s.part p = some q) {v : Nat} (ht : (q.vd v).start = s.tick) :
    ∃ y, (s.schedule p).part p = some y ∧ (q.vd v).Renewed (y.vd v) := by
  have hsame : (q.vd v).Renewed (q.vd v) := ⟨rfl, rfl, rfl, rfl, rfl, rfl, rfl⟩
  cases hfree : q.free with
  | true => exact ⟨q, (State.schedule_free h hfree).symm ▸ h, hsame⟩
  | false =>
    obtain ⟨y, hy, hv⟩ := State.schedule_vd h hfree v
    have hpassed : (q.vd v).Renewed
        (if v ∈ s.vdsSeen p q ∧ some v ≠ s.bestVd p then (q.vd v).passed s.tick (s.alone p q v) else q.vd v) := by
      split_ifs
      · exact Vd.renewed_passed ht _
      · exact hsame
    rcases hv with hv | ⟨-, hv⟩
    · exact ⟨y, hy, hv ▸ hpassed⟩
    · obtain ⟨h1, h2, h3, h4, h5, h6, h7⟩ := hpassed
      exact ⟨y, hy, hv ▸ ⟨h1, h2, h3, h4, h5, h6, h7⟩⟩

/-! ### The throttle divider at a period's start leaves partitions and tick -/

theorem State.settleTo_parts (s : State) (ms : List Nat) (t : Nat) : (s.settleTo ms t).parts = s.parts :=
  foldl_keeps (g := State.parts) (fun _ _ => State.onStrand_parts _ _ _) _ _

theorem State.settleTo_tick (s : State) (ms : List Nat) (t : Nat) : (s.settleTo ms t).tick = s.tick :=
  foldl_keeps (g := State.tick) (fun _ _ => State.onStrand_tick _ _ _) _ _

theorem State.settleCycles_parts (s : State) (n : Nat) : (s.settleCycles n).parts = s.parts := by
  grind [State.settleCycles, State.settleCore, State.settleAll, State.settleTo_parts]

theorem State.settleCycles_tick (s : State) (n : Nat) : (s.settleCycles n).tick = s.tick := by
  grind [State.settleCycles, State.settleCore, State.settleAll, State.settleTo_tick]

theorem State.redivide_parts (s : State) (n d e : Nat) : (s.redivide n d e).parts = s.parts := by
  unfold State.redivide
  split
  · exact foldl_keeps (g := State.parts) (fun _ _ => State.onStrand_parts _ _ _) _ _
  · rfl

theorem State.redivide_tick (s : State) (n d e : Nat) : (s.redivide n d e).tick = s.tick := by
  unfold State.redivide
  split
  · exact foldl_keeps (g := State.tick) (fun _ _ => State.onStrand_tick _ _ _) _ _
  · rfl

theorem State.retune_parts (s : State) (n : Nat) : (s.retune n).parts = s.parts := by
  grind [State.retune, State.redivide_parts, State.settleCycles_parts, State.setCore_parts]

theorem State.retune_tick (s : State) (n : Nat) : (s.retune n).tick = s.tick := by
  grind [State.retune, State.redivide_tick, State.settleCycles_tick, State.setCore_tick]

theorem State.energyDiv_parts (s : State) (n : Nat) (x : Strand) : (s.energyDiv n x).parts = s.parts := by
  grind [State.energyDiv, State.retune_parts, State.settleCycles_parts, State.setCore_parts]

theorem State.energyDiv_tick (s : State) (n : Nat) (x : Strand) : (s.energyDiv n x).tick = s.tick := by
  grind [State.energyDiv, State.retune_tick, State.settleCycles_tick, State.setCore_tick]

/-- VD_PERIOD_START: the virtual device is renewed, then the partition is scheduled. -/
theorem exec_vdPeriodStart {s : State} {q : Partition} {r : Nat × Nat} (h : s.part s.op.a = some q) (hr : (q.vd s.op.b).rsv = some r)
    (hd : (q.vd s.op.b).deadline ≤ s.tick) :
    ∃ t y, exec .vdPeriodStart s = .next t ∧ t.part s.op.a = some y ∧ ((q.vd s.op.b).renewed r s.tick).Renewed (y.vd s.op.b) := by
  let s1 := s.setPart s.op.a (q.setVd s.op.b ((q.vd s.op.b).renewed r s.tick))
  let s2 := (s1.strandsOf s.op.a s.op.b).foldl (fun (z : State) x => z.energyDiv x.1 x.2) s1
  have hexec : execVdPeriodStart s = .next (s2.schedule s.op.a) := by
    unfold execVdPeriodStart
    rw [h]
    simp only [hr]
    rw [if_neg (by omega)]
    rfl
  have hpart : s2.part s.op.a = some (q.setVd s.op.b ((q.vd s.op.b).renewed r s.tick)) := by
    rw [State.part_congr (foldl_keeps (g := State.parts) (fun _ _ => State.energyDiv_parts _ _ _) _ _)]
    exact State.part_setPart_same _ _ _
  have htick : s2.tick = s.tick := foldl_keeps (g := State.tick) (fun _ _ => State.energyDiv_tick _ _ _) _ _
  obtain ⟨y, hy, hv⟩ := State.schedule_renewed (v := s.op.b) hpart (by simp [htick, Vd.renewed])
  rw [Partition.vd_setVd_same] at hv
  exact ⟨_, y, hexec, hy, hv⟩

/-! ### A budget that has run out -/

theorem Vd.left_le (d : Vd) (tick : Nat) : d.left tick ≤ d.remaining := by
  unfold Vd.left
  split_ifs <;> omega

theorem Partition.free_of_rsv {q : Partition} {v : Nat} (h : (q.vd v).rsv.isSome = true) : q.free = false := by
  unfold Partition.vd Tbl.getD at h
  split at h
  · rename_i d hd
    simp only [Partition.free, Bool.not_eq_eq_eq_not, Bool.not_false, List.any_eq_true]
    exact ⟨_, Tbl.mem_of_find hd, h⟩
  · cases h

theorem Partition.mem_vds_of_rsv {q : Partition} {v : Nat} (h : (q.vd v).rsv.isSome = true) : v ∈ q.vds.map (·.1) := by
  unfold Partition.vd Tbl.getD at h
  split at h
  · rename_i d hd
    exact List.mem_map.2 ⟨_, Tbl.mem_of_find hd, rfl⟩
  · cases h

/-- A fold that keeps what it has or takes the next ends with one of them. -/
theorem foldl_choice_mem {α : Type} {f : Option α → α → Option α} (hf : ∀ b e, f b e = some e ∨ f b e = b) {xs : List α} {acc : Option α} {e : α}
    (h : xs.foldl f acc = some e) : e ∈ xs ∨ acc = some e := by
  induction xs generalizing acc with
  | nil => exact .inr h
  | cons x xs ih =>
    rcases ih h with hmem | hacc
    · exact .inl (List.mem_cons_of_mem _ hmem)
    · rcases hf acc x with hx | hx
      · rw [hx] at hacc
        cases hacc
        exact .inl List.mem_cons_self
      · exact .inr (hx.symm.trans hacc)

/-- The virtual device that should run has budget left (R33). -/
theorem State.bestVd_left {s : State} {p b : Nat} {q : Partition} (h : s.part p = some q) (hwf : q.vds.wf = true) (hb : s.bestVd p = some b) :
    0 < (q.vd b).left s.tick := by
  unfold State.bestVd at hb
  rw [h] at hb
  obtain ⟨⟨k, d⟩, hfold, hk⟩ := Option.map_eq_some_iff.1 hb
  have hchoice : (k, d) ∈ _ ∨ none = some (k, d) := foldl_choice_mem (fun b e => by
    cases b with
    | none => exact .inl rfl
    | some c => exact ite_eq_or_eq _ _ _) hfold
  rcases hchoice with hmem | hnone
  · obtain ⟨hmem, hok⟩ := List.mem_filter.1 hmem
    cases hk
    have hvd : q.vd k = d := by simp [Partition.vd, Tbl.getD, Tbl.find_of_mem hwf hmem]
    rw [hvd]
    simp only [Bool.and_eq_true, decide_eq_true_eq] at hok
    obtain ⟨⟨⟨-, hleft⟩, -⟩, -⟩ := hok
    exact hleft
  · cases hnone

/-- A virtual device that has just been asked to stop with no budget left: schedule leaves it the request while it has strands, and takes it off
its turn where it has none. -/
theorem State.schedule_exhausted {s : State} {p v : Nat} {q : Partition} (h : s.part p = some q) (hwf : q.vds.wf = true)
    (hrsv : (q.vd v).rsv.isSome = true) (hstop : (q.vd v).stop = some s.tick) (hrem : (q.vd v).remaining = 0) :
    ∃ y, (s.schedule p).part p = some y ∧ (y.vd v).remaining = 0 ∧ (s.strandsOf p v ≠ [] → (y.vd v).stop = some s.tick) ∧
      (s.strandsOf p v = [] → (q.vd v).saving = false → (y.vd v).running = false) := by
  have hseen : v ∈ s.vdsSeen p q := mem_rowsOf.2 (List.mem_append_left _ (Partition.mem_vds_of_rsv hrsv))
  have hbest : s.bestVd p ≠ some v := fun hb => by
    have hleft := State.bestVd_left h hwf hb
    have hle := (q.vd v).left_le s.tick
    omega
  obtain ⟨y, hy, hv⟩ := State.schedule_vd h (Partition.free_of_rsv hrsv) v
  rw [if_pos ⟨hseen, hbest.symm⟩] at hv
  have hv : y.vd v = (q.vd v).passed s.tick (s.alone p q v) := hv.resolve_right fun hb => hbest hb.1
  refine ⟨y, hy, ?_, fun hes => ?_, fun hes hsaving => ?_⟩
  · rw [hv]
    unfold Vd.passed Vd.idled Vd.asked
    split_ifs
    · exact Nat.le_zero.1 (hrem ▸ Vd.left_le _ _)
    · exact hrem
    · exact Nat.le_zero.1 (hrem ▸ Vd.left_le _ _)
  · have halone : s.alone p q v = false := by simp [State.alone, hes]
    rw [hv, halone]
    simp [Vd.passed, Vd.asked, hstop]
  · have halone : s.alone p q v = true := by simp [State.alone, hes, hsaving]
    rw [hv, halone]
    rfl

theorem State.askStop_of_part {s : State} {p : Nat} {q : Partition} (h : s.part p = some q) (v : Nat) :
    s.askStop p v = s.setPart p (q.setVd v ((q.vd v).asked s.tick)) :=
  State.onPart_of_some h _

/-- VD_BUDGET_EXHAUSTED: the virtual device gets a stop request, then the partition is scheduled. -/
theorem exec_vdBudgetExhausted {s : State} {q : Partition} (h : s.part s.op.a = some q) (hwf : q.vds.wf = true)
    (hrsv : (q.vd s.op.b).rsv.isSome = true) (hrun : (q.vd s.op.b).running = true) (hstop : (q.vd s.op.b).stop = none)
    (hleft : (q.vd s.op.b).remaining ≤ s.tick - (q.vd s.op.b).start) :
    ∃ t y, exec .vdBudgetExhausted s = .next t ∧ t.part s.op.a = some y ∧ (y.vd s.op.b).remaining = 0 ∧
      (s.strandsOf s.op.a s.op.b ≠ [] → (y.vd s.op.b).stop = some s.tick) ∧
      (s.strandsOf s.op.a s.op.b = [] → (q.vd s.op.b).saving = false → (y.vd s.op.b).running = false) := by
  have h0 : (q.vd s.op.b).left s.tick = 0 := by
    simp only [Vd.left, hrun, hstop, Option.isNone_none, Bool.and_self, if_true]
    omega
  have hexec : execVdBudgetExhausted s = .next ((s.askStop s.op.a s.op.b).schedule s.op.a) := by
    unfold execVdBudgetExhausted
    rw [h]
    simp [hrsv, hrun, hstop, h0]
  have hasked : (q.vd s.op.b).asked s.tick = { q.vd s.op.b with stop := some s.tick, remaining := 0 } := by simp [Vd.asked, hstop, h0]
  rw [State.askStop_of_part h, hasked] at hexec
  let q1 := q.setVd s.op.b { q.vd s.op.b with stop := some s.tick, remaining := 0 }
  have hvd : q1.vd s.op.b = { q.vd s.op.b with stop := some s.tick, remaining := 0 } := Partition.vd_setVd_same _ _ _
  obtain ⟨y, hy, hrem, hstops, hidles⟩ := State.schedule_exhausted (q := q1) (v := s.op.b) (State.part_setPart_same s s.op.a _)
    (Tbl.wf_put q.vds s.op.b _ hwf) (by rw [hvd]; exact hrsv) (by rw [hvd]; rfl) (by rw [hvd])
  exact ⟨_, y, hexec, hy, hrem, hstops, fun hes hsaving => hidles hes (by rw [hvd]; exact hsaving)⟩

end Sys2Proof.Machine
end

section
/-! PROOFS. Virtual devices: a stop request becomes a save (R117, R118). -/
namespace Sys2Proof.Machine

/-! ### The strands of a virtual device -/

theorem State.mem_strandsOf {s : State} {p v : Nat} {e : Nat × Strand} (h : s.strands.wf = true) :
    e ∈ s.strandsOf p v ↔ s.strand e.1 = some e.2 ∧ e.2.id.part = p ∧ e.2.id.vd = v := by
  have hmem : e ∈ s.strands ↔ s.strand e.1 = some e.2 := ⟨Tbl.find_of_mem h, Tbl.mem_of_find⟩
  simp [State.strandsOf, hmem]

/-- Whether core `n` has a strand of the virtual device, told from the list of its cores. -/
theorem State.mem_cores_strandsOf {s : State} {p v n : Nat} {x : Strand} (h : s.strands.wf = true) (hx : s.strand n = some x) :
    n ∈ (s.strandsOf p v).map (·.1) ↔ x.id.part = p ∧ x.id.vd = v := by
  constructor
  · intro hn
    obtain ⟨e, he, rfl⟩ := List.mem_map.1 hn
    obtain ⟨he, hid⟩ := (State.mem_strandsOf h).1 he
    cases hx.symm.trans he
    exact hid
  · intro hid
    exact List.mem_map.2 ⟨(n, x), (State.mem_strandsOf h).2 ⟨hx, hid⟩, rfl⟩

/-- A change made once to each strand of a list of cores, where making it twice makes no difference. -/
theorem State.strand_foldl_onStrand {f : Strand → Strand} (hf : ∀ x, f (f x) = f x) (es : List (Nat × Strand)) (s : State) (n : Nat) :
    (es.foldl (fun (z : State) e => z.onStrand e.1 f) s).strand n = if n ∈ es.map (·.1) then (s.strand n).map f else s.strand n := by
  induction es generalizing s with
  | nil => simp
  | cons e es ih =>
    rw [List.foldl_cons, ih, State.strand_onStrand]
    by_cases hn : n = e.1
    · subst hn
      cases hx : s.strand e.1 <;> simp [hf]
    · simp only [List.map_cons, List.mem_cons, hn, false_or, if_false]

/-! ### The save begins -/

/-- A strand that is to stop at its next instruction boundary. -/
def Strand.askedToStop (x : Strand) : Strand := { x with stopReq := true }

/-- The virtual device once its save has begun (R117). -/
def Vd.beginSave (d : Vd) (tick : Nat) (forced : Bool) : Vd :=
  { d with debit := d.debit + (tick - d.stop.getD tick), stop := some tick, saving := true, forced := forced }

theorem State.beginSave_eq (s : State) (p v : Nat) (forced : Bool) :
    let s1 := s.onVd p v fun d => d.beginSave s.tick forced
    s.beginSave p v forced = (s1.strandsOf p v).foldl (fun (z : State) e => z.onStrand e.1 Strand.askedToStop) s1 := rfl

theorem State.beginSave_part {s : State} {p : Nat} {q : Partition} (h : s.part p = some q) (v : Nat) (forced : Bool) :
    ∃ y, (s.beginSave p v forced).part p = some y ∧ y.vd v = (q.vd v).beginSave s.tick forced := by
  refine ⟨q.setVd v ((q.vd v).beginSave s.tick forced), ?_, Partition.vd_setVd_same _ _ _⟩
  rw [State.beginSave_eq, State.part_congr (foldl_keeps (g := State.parts) (fun _ _ => State.onStrand_parts _ _ _) _ _)]
  exact State.part_onPart_same h _

theorem State.beginSave_strand {s : State} (hwf : s.strands.wf = true) (p v : Nat) (forced : Bool) {n : Nat} {x : Strand}
    (hx : s.strand n = some x) :
    (s.beginSave p v forced).strand n = some (if x.id.part = p ∧ x.id.vd = v then x.askedToStop else x) := by
  rw [State.beginSave_eq, State.strand_foldl_onStrand (f := Strand.askedToStop) (fun _ => rfl), State.strandsOf_congr (State.onVd_strands _ _ _ _)]
  have hsame : ∀ f, (s.onVd p v f).strand n = some x := fun f => by rw [State.strand, State.onVd_strands]; exact hx
  rw [hsame]
  by_cases hid : x.id.part = p ∧ x.id.vd = v
  · rw [if_pos ((State.mem_cores_strandsOf hwf hx).2 hid), if_pos hid]
    rfl
  · rw [if_neg fun hn => hid ((State.mem_cores_strandsOf hwf hx).1 hn), if_neg hid]

theorem exec_superstepBoundary {s : State} {q : Partition} (h : s.part s.op.a = some q) (hstop : (q.vd s.op.b).stop.isSome = true)
    (hsaving : (q.vd s.op.b).saving = false) (hbound : ∀ e ∈ s.strandsOf s.op.a s.op.b, e.2.atBoundary = true)
    (hmesh : s.inMesh s.op.a s.op.b = false) : exec .superstepBoundary s = .next (s.beginSave s.op.a s.op.b false) := by
  have hall : (s.strandsOf s.op.a s.op.b).all (·.2.atBoundary) = true := List.all_eq_true.2 hbound
  change execSuperstepBoundary s = _
  unfold execSuperstepBoundary
  rw [h]
  simp only [hstop, hsaving, hall, hmesh]
  rfl

theorem exec_vdGraceExpired {s : State} {q : Partition} {t0 : Nat} (h : s.part s.op.a = some q) (hstop : (q.vd s.op.b).stop = some t0)
    (hsaving : (q.vd s.op.b).saving = false) (hgrace : t0 + q.page.grace ≤ s.tick) :
    exec .vdGraceExpired s = .next (s.beginSave s.op.a s.op.b true) := by
  change execVdGraceExpired s = _
  unfold execVdGraceExpired
  rw [h]
  simp only [hstop, hsaving, hgrace]
  rfl

end Sys2Proof.Machine
end

section
/-! PROOFS. Virtual devices: the first step of a save stops every strand (R119, R127). -/
namespace Sys2Proof.Machine

/-! ### Phase and stop request of a core's strand -/

/-- The phase of the strand on core `n` and whether it is to stop at its next boundary. -/
def State.stopAt (s : State) (n : Nat) : Option (Phase × Bool) := (s.strand n).map fun x => (x.phase, x.stopReq)

theorem State.stopAt_congr {s t : State} (h : t.strands = s.strands) (n : Nat) : t.stopAt n = s.stopAt n := by
  simp [State.stopAt, State.strand, h]

theorem State.stopAt_setStrand (s : State) (m : Nat) (y : Strand) (n : Nat) :
    (s.setStrand m y).stopAt n = if n = m then some (y.phase, y.stopReq) else s.stopAt n := by
  unfold State.stopAt
  split_ifs with h
  · rw [h, State.strand_setStrand_same]
    rfl
  · rw [State.strand_setStrand_other _ _ h]

theorem State.stopAt_setStrand_keeps {s : State} {m : Nat} {x y : Strand} (hx : s.strand m = some x) (hp : y.phase = x.phase)
    (hr : y.stopReq = x.stopReq) (n : Nat) : (s.setStrand m y).stopAt n = s.stopAt n := by
  rw [State.stopAt_setStrand]
  split_ifs with h
  · rw [h, State.stopAt, hx, hp, hr]
    rfl
  · rfl

theorem State.stopAt_onStrand_keeps (s : State) (m : Nat) {f : Strand → Strand} (hp : ∀ x, (f x).phase = x.phase)
    (hr : ∀ x, (f x).stopReq = x.stopReq) (n : Nat) : (s.onStrand m f).stopAt n = s.stopAt n := by
  unfold State.onStrand
  split
  · rename_i x hx
    exact State.stopAt_setStrand_keeps hx (hp x) (hr x) n
  · rfl

theorem Strand.TimedTo.phase {x y : Strand} (h : x.TimedTo y) : y.phase = x.phase := by rw [h.1]

theorem Strand.TimedTo.stopReq {x y : Strand} (h : x.TimedTo y) : y.stopReq = x.stopReq := by rw [h.1]

theorem State.settleMember_timed (s : State) (ms : List Nat) (t n : Nat) (x : Strand) : x.TimedTo (s.settleMember ms t n x) := by
  unfold State.settleMember
  split
  · exact (x.settleAs_timed _ _ _).trans (Strand.settleAs_timed _ _ _ _)
  · exact x.settleAs_timed _ _ _

theorem State.stopAt_settleTo (s : State) (ms : List Nat) (t n : Nat) : (s.settleTo ms t).stopAt n = s.stopAt n :=
  foldl_keeps (g := fun z => State.stopAt z n) (fun z m => State.stopAt_onStrand_keeps z m
    (fun x => (s.settleMember_timed ms t m x).phase) (fun x => (s.settleMember_timed ms t m x).stopReq) n) _ _

theorem State.stopAt_settleStop (s : State) (m : Nat) (x : Strand) (stop n : Nat) : (s.settleStop m x stop).stopAt n = s.stopAt n := by
  unfold State.settleStop
  split_ifs
  · exact State.stopAt_settleTo _ _ _ _
  · rfl

theorem State.stopAt_sendBack (s : State) (m : Nat) (l : Line) (n : Nat) : (s.sendBack m l).stopAt n = s.stopAt n := by
  unfold State.sendBack
  split_ifs
  · rfl
  · split
    · rfl
    · rename_i x hx
      refine Eq.trans (State.stopAt_setStrand_keeps (x := x) ?_ ?_ ?_ n) (State.stopAt_congr (State.send_strands s _) n)
      · exact hx
      · rfl
      · rfl

theorem State.stopAt_writeBackAll (s : State) (m n : Nat) : (s.writeBackAll m).stopAt n = s.stopAt n := by
  unfold State.writeBackAll
  split
  · rfl
  · rw [State.stopAt_onStrand_keeps]
    · exact foldl_keeps (g := fun z => State.stopAt z n) (fun z l => State.stopAt_sendBack z m l n) _ _
    · exact fun _ => rfl
    · exact fun _ => rfl

theorem State.stopAt_dropLocks (s : State) (m : Nat) (f : Lock → Bool) (n : Nat) : (s.dropLocks m f).stopAt n = s.stopAt n :=
  State.stopAt_congr (State.setCluster_strands _ _ _) n

theorem State.stopAt_dropClaims (s : State) (m n : Nat) : (s.dropClaims m).stopAt n = s.stopAt n :=
  State.stopAt_congr (State.setCell_strands _ _ _) n

/-! ### Stopping the strands of a list of cores -/

/-- The strand of the core is stopped, every other keeps its phase and its stop request. -/
theorem State.stopAt_quiesce (s : State) (stop m n : Nat) :
    (s.quiesce stop m).stopAt n = if n = m then (s.stopAt n).map fun _ => (.saving, false) else s.stopAt n := by
  unfold State.quiesce
  extract_lets s1
  have h1 : s1.stopAt n = s.stopAt n := by
    show State.stopAt (match s.strand m with | some x => _ | none => _) n = _
    split
    · exact State.stopAt_settleStop _ _ _ _ _
    · rfl
  split
  · rename_i hm
    split_ifs with hn
    · have hnone : s.stopAt n = none := by rw [← h1, hn, State.stopAt, hm]; rfl
      rw [hnone]
      rfl
    · rfl
  · rename_i x hx
    extract_lets accv i late y0 y1 y2 y s2 s3 s4
    rw [State.stopAt_writeBackAll, foldl_keeps (g := fun z => State.stopAt z n) (fun z c => State.stopAt_dropLocks z m _ n),
      State.stopAt_dropClaims]
    change (s1.setStrand m y).stopAt n = _
    rw [State.stopAt_setStrand, h1]
    split_ifs with hn
    · have hsome : s.stopAt n = some (x.phase, x.stopReq) := by rw [← h1, hn, State.stopAt, hx]; rfl
      rw [hsome]
      rfl
    · rfl

theorem State.stopAt_foldl_quiesce (stop n : Nat) (es : List (Nat × Strand)) (s : State) :
    (es.foldl (fun (z : State) e => z.quiesce stop e.1) s).stopAt n =
      if n ∈ es.map (·.1) then (s.stopAt n).map fun _ => (.saving, false) else s.stopAt n := by
  induction es generalizing s with
  | nil => simp
  | cons e es ih =>
    rw [List.foldl_cons, ih, State.stopAt_quiesce]
    by_cases hn : n = e.1
    · subst hn
      cases hx : s.stopAt e.1 <;> simp
    · simp only [List.map_cons, List.mem_cons, hn, false_or, if_false]

/-- SAVE_COMPLETE while some strand has not stopped: all of them stop. -/
theorem exec_saveComplete_stops {s : State} {q : Partition} (hwf : s.strands.wf = true) (h : s.part s.op.a = some q)
    (hsaving : (q.vd s.op.b).saving = true) (hsome : ∃ e ∈ s.strandsOf s.op.a s.op.b, e.2.phase ≠ .saving)
    (hall : ∀ e ∈ s.strandsOf s.op.a s.op.b, e.2.stoppable = true) :
    ∃ t, exec .saveComplete s = .next t ∧ ∀ n x, s.strand n = some x ∧ x.id.part = s.op.a ∧ x.id.vd = s.op.b
      → ∃ y, t.strand n = some y ∧ y.phase = .saving ∧ y.stopReq = false := by
  have hany : (s.strandsOf s.op.a s.op.b).any (·.2.phase != .saving) = true := by simpa using hsome
  have hstoppable : (s.strandsOf s.op.a s.op.b).all (·.2.stoppable) = true := List.all_eq_true.2 hall
  refine ⟨(s.strandsOf s.op.a s.op.b).foldl (fun (z : State) e => z.quiesce ((q.vd s.op.b).stop.getD s.tick) e.1) s, ?_, ?_⟩
  · change execSaveComplete s = _
    unfold execSaveComplete
    dsimp only
    rw [h]
    dsimp only
    rw [hsaving, hany, hstoppable]
    rfl
  · rintro n x ⟨hx, hid⟩
    have hstop := State.stopAt_foldl_quiesce ((q.vd s.op.b).stop.getD s.tick) n (s.strandsOf s.op.a s.op.b) s
    rw [if_pos ((State.mem_cores_strandsOf hwf hx).2 hid), State.stopAt, State.stopAt, hx] at hstop
    obtain ⟨y, hy, hyp⟩ := Option.map_eq_some_iff.1 hstop
    obtain ⟨hphase, hreq⟩ := Prod.mk.inj hyp
    exact ⟨y, hy, hphase, hreq⟩

end Sys2Proof.Machine
end

section
/-! PROOFS. Virtual devices: writing the images of a save keeps the partitions that exist (R127). -/
namespace Sys2Proof.Machine

/-- Which keys a table holds. -/
def heldBy {α : Type} (t : Tbl α) (k : Nat) : Bool := (t.find k).isSome

/-- Which partitions exist. -/
def State.partsHeld (s : State) : Nat → Bool := heldBy s.parts

theorem State.partsHeld_setPart {s : State} {p : Nat} {q : Partition} (h : s.part p = some q) (x : Partition) :
    (s.setPart p x).partsHeld = s.partsHeld := by
  funext k
  change ((s.setPart p x).part k).isSome = (s.part k).isSome
  by_cases hk : k = p
  · rw [hk, State.part_setPart_same, h]
    rfl
  · rw [State.part_setPart_other _ _ hk]

theorem State.onPart_partsHeld (s : State) (p : Nat) (f : Partition → Partition) : (s.onPart p f).partsHeld = s.partsHeld := by
  unfold State.onPart
  split
  · rename_i q hq
    exact State.partsHeld_setPart hq _
  · rfl

theorem State.onVd_partsHeld (s : State) (p v : Nat) (f : Vd → Vd) : (s.onVd p v f).partsHeld = s.partsHeld := State.onPart_partsHeld _ _ _

theorem foldl_partsHeld {α : Type} {f : State → α → State} (hf : ∀ s x, (f s x).partsHeld = s.partsHeld) (xs : List α) (s : State) :
    (xs.foldl f s).partsHeld = s.partsHeld :=
  foldl_keeps hf xs s

section
variable {s u : State}

theorem State.markDirty_partsHeld (s : State) (a plog : Nat) : (s.markDirty a plog).partsHeld = s.partsHeld := by
  grind [State.markDirty, State.partsHeld]

theorem State.memWrite_partsHeld (s : State) (a : Nat) (l : Line) (t : W64) (plog : Nat) : (s.memWrite a l t plog).partsHeld = s.partsHeld := by
  grind [State.memWrite, State.partsHeld, State.markDirty_partsHeld]

theorem State.llcDrop_partsHeld (s : State) (line : Nat) : (s.llcDrop line).partsHeld = s.partsHeld := by
  grind [State.llcDrop, State.partsHeld]

theorem State.charge_partsHeld (s : State) (p v e k : Nat) : (s.charge p v e k).partsHeld = s.partsHeld := by
  grind [State.charge, State.onVd_partsHeld]

theorem State.chargeFill_partsHeld (s : State) (p v sectors : Nat) : (s.chargeFill p v sectors).partsHeld = s.partsHeld := by
  grind [State.chargeFill, State.partsHeld, State.charge_partsHeld, State.onVd_partsHeld]

theorem State.writeFrame_partsHeld (s : State) (l : Line) : (s.writeFrame l).1.partsHeld = s.partsHeld := by
  grind [State.writeFrame, State.memWrite_partsHeld]

theorem State.llcClean_partsHeld (s : State) (k : LlcLine) : (s.llcClean k).partsHeld = s.partsHeld := by
  grind [State.llcClean, State.partsHeld, State.partsHeld_setPart, State.charge_partsHeld, State.writeFrame_partsHeld]

theorem State.llcPut_partsHeld (s : State) (k : LlcLine) : (s.llcPut k).partsHeld = s.partsHeld := by
  grind [State.llcPut, State.partsHeld, State.free, State.llcClean_partsHeld, State.llcDrop_partsHeld]

theorem State.llcUnalias_partsHeld (s : State) (line : Nat) (t : W64) (plog : Nat) : (s.llcUnalias line t plog).partsHeld = s.partsHeld := by
  grind [State.llcUnalias, State.partsHeld, State.llcClean_partsHeld, State.llcDrop_partsHeld, foldl_partsHeld]

theorem llcRead_partsHeld {w : Who} {line : Nat} {sectors : BitVec 4} {r : Line}
    (he : llcRead s w line sectors = .ok r u) : u.partsHeld = s.partsHeld := by
  grind [llcRead, State.llcPut_partsHeld, State.llcUnalias_partsHeld, State.chargeFill_partsHeld]

theorem llcWrite_partsHeld {w : Who} {l : Line} {r : Unit} (he : llcWrite s w l = .ok r u) : u.partsHeld = s.partsHeld := by
  grind [llcWrite, State.llcPut_partsHeld, State.llcUnalias_partsHeld, State.memWrite_partsHeld]

theorem globRead_partsHeld {w : Who} {xs : List (Nat × Nat × Nat)} {r : Got} (he : globRead w xs s = .ok r u) : u.partsHeld = s.partsHeld := by
  induction xs generalizing s r with grind [globRead, → llcRead_partsHeld]

theorem globWrite_partsHeld {w : Who} {tag : Bool} {xs : List (Nat × Nat × Nat)} {acc : List Byte} {r : Unit}
    (he : globWrite w tag xs acc s = .ok r u) : u.partsHeld = s.partsHeld := by
  induction xs generalizing s acc r with grind [globWrite, → llcWrite_partsHeld]

theorem State.touch_partsHeld (s : State) (l : Loc) (n : Nat) : (s.touch l n).partsHeld = s.partsHeld := by
  grind [State.touch, State.partsHeld]

theorem State.imageFetch_partsHeld (s : State) (p v base off n : Nat) : (s.imageFetch p v base off n).2.partsHeld = s.partsHeld := by
  grind [State.imageFetch, → globRead_partsHeld]

theorem State.imageWrite_partsHeld (s : State) (p v base off : Nat) (bs : List Byte) :
    (s.imageWrite p v base off bs).partsHeld = s.partsHeld := by
  grind [State.imageWrite, State.touch_partsHeld, → globWrite_partsHeld]

theorem State.imageTagOf_partsHeld (s : State) (p v base : Nat) : (s.imageTagOf p v base).2.partsHeld = s.partsHeld := by
  grind [State.imageTagOf, State.imageFetch_partsHeld]

theorem State.reseal_partsHeld (s : State) (p v base : Nat) : (s.reseal p v base).partsHeld = s.partsHeld := by
  grind [State.reseal, State.imageTagOf_partsHeld, State.imageWrite_partsHeld]

theorem putParts_partsHeld {w : Who} {base : Nat} {xs : List (Nat × List Byte)}
    (he : putParts w base xs s = some u) : u.partsHeld = s.partsHeld := by
  induction xs generalizing s with grind [putParts, → globWrite_partsHeld]

theorem markPoison_partsHeld (s : State) (w : Who) (l : Loc) : (markPoison s w l).partsHeld = s.partsHeld := by
  cases l with grind [markPoison, State.partsHeld, State.llcPut_partsHeld]

theorem homeWriteBad_glob_partsHeld {w : Who} {a : Nat} {bs : List Byte} {bad : List (Nat × Nat)} {r : Unit}
    (he : homeWriteBad s w (.glob a) bs bad = .ok r u) : u.partsHeld = s.partsHeld := by
  unfold homeWriteBad at he
  split at he
  · rename_i s1 h1
    have h1 : s1.partsHeld = s.partsHeld := (globWrite_partsHeld h1).trans (State.touch_partsHeld _ _ _)
    cases he
    exact (foldl_partsHeld (fun _ _ => foldl_partsHeld (fun _ _ => markPoison_partsHeld _ _ _) _ _) _ _).trans h1
  · rename_i hno
    exact absurd he (hno _ _)

theorem putLines_partsHeld {w : Who} {n base : Nat} {x : Strand} {is : List Nat} (he : putLines w n base x is s = some u) :
    u.partsHeld = s.partsHeld := by
  induction is generalizing s with grind [putLines, → homeWriteBad_glob_partsHeld]

/-! ### What the steward keeps of the strands that are saved (R127) -/

/-- `z` is what is kept of strand `x` of core `n`. -/
def Saved.isOf (z : Saved) (n : Nat) (x : Strand) : Prop :=
  z.core = n ∧ z.vd = x.id.vd ∧ z.strand.pc = x.pc ∧ z.strand.gen = x.gen + 1

theorem saveContext_isOf {n : Nat} {x : Strand} {tick : Nat} {forced : Bool} {z : Saved} (he : saveContext s n x tick forced = some (u, z)) :
    u.partsHeld = s.partsHeld ∧ z.isOf n x := by
  unfold saveContext at he
  dsimp only at he
  split at he
  · cases he
  · rename_i s1 h1
    split at he
    · cases he
    · rename_i s2 h2
      cases he
      exact ⟨(State.reseal_partsHeld _ _ _ _).trans ((putLines_partsHeld h2).trans (putParts_partsHeld h1)), rfl, rfl, rfl, rfl⟩

theorem saveAll_isOf {tick : Nat} {forced : Bool} {es : List (Nat × Strand)} {ys : List Saved}
    (he : saveAll tick forced es s = some (u, ys)) : u.partsHeld = s.partsHeld ∧ ∀ e ∈ es, ∃ z ∈ ys, z.isOf e.1 e.2 := by
  induction es generalizing s ys with
  | nil =>
    cases he
    exact ⟨rfl, fun _ h => by cases h⟩
  | cons e es ih =>
    unfold saveAll at he
    split at he
    · cases he
    · rename_i s1 y h1
      obtain ⟨hparts1, hy⟩ := saveContext_isOf h1
      split at he
      · cases he
      · rename_i s2 zs h2
        cases he
        obtain ⟨hparts2, hzs⟩ := ih h2
        refine ⟨hparts2.trans hparts1, fun e1 he1 => ?_⟩
        rcases List.mem_cons.1 he1 with rfl | he1
        · exact ⟨y, List.mem_cons_self, hy⟩
        · obtain ⟨z, hz, hof⟩ := hzs e1 he1
          exact ⟨z, List.mem_cons_of_mem _ hz, hof⟩

end

end Sys2Proof.Machine
end

section
/-! PROOFS. Virtual devices: the cores of a saved virtual device are given back (R127, R130 to R132). -/
namespace Sys2Proof.Machine

/-! ### The saved contexts of the partitions -/

/-- The saved contexts of each partition in a table. -/
def savedIn (t : Tbl Partition) (k : Nat) : Option (List Saved) := (t.find k).map (·.saved)

/-- The saved contexts of each partition. -/
def State.savedBy (s : State) : Nat → Option (List Saved) := savedIn s.parts

theorem State.savedBy_congr {s t : State} (h : t.parts = s.parts) : t.savedBy = s.savedBy := by simp [State.savedBy, h]

theorem State.onVd_savedBy (s : State) (p v : Nat) (f : Vd → Vd) : (s.onVd p v f).savedBy = s.savedBy := by
  unfold State.onVd
  cases hp : s.part p with
  | none => simp [State.onPart, hp]
  | some q =>
    rw [State.onPart_of_some hp]
    funext k
    change ((s.setPart p _).part k).map (·.saved) = (s.part k).map (·.saved)
    by_cases hk : k = p
    · rw [hk, State.part_setPart_same, hp]
      rfl
    · rw [State.part_setPart_other _ _ hk]

theorem serve_parts (c fuel : Nat) (s : State) : (serve c fuel s).parts = s.parts := by
  induction fuel generalizing s with grind [serve, State.setCell_parts, State.onStrand_parts]

theorem State.dropClaims_parts (s : State) (n : Nat) : (s.dropClaims n).parts = s.parts := State.setCell_parts _ _ _

/-- A strand that leaves its core leaves the saved contexts as they are. -/
theorem State.vacate_savedBy (s : State) (n : Nat) (x : Strand) : (s.vacate n x).savedBy = s.savedBy := by
  have hflush : (s.flushEvents x).savedBy = s.savedBy := State.onVd_savedBy _ _ _ _
  rw [← hflush]
  unfold State.vacate
  extract_lets s1 s2
  have h1 : s1.parts = (s.flushEvents x).parts := (State.dropClaims_parts _ n).trans (State.setCell_parts _ _ _)
  have h2 : s2.parts = s1.parts := State.delStrand_parts s1 n
  clear_value s1 s2
  refine State.savedBy_congr ?_
  rw [State.serve, serve_parts, State.retune_parts, State.setCore_parts, h2, h1]

/-! ### The cores that have a strand -/

/-- Which cores have a strand. -/
def State.coresHeld (s : State) : Nat → Bool := heldBy s.strands

theorem State.coresHeld_eq_false {s : State} {n : Nat} : s.coresHeld n = false ↔ s.strand n = none := by
  simp [State.coresHeld, heldBy, State.strand]

theorem State.onStrand_coresHeld (s : State) (n : Nat) (f : Strand → Strand) : (s.onStrand n f).coresHeld = s.coresHeld := by
  funext m
  change ((s.onStrand n f).strand m).isSome = (s.strand m).isSome
  rw [State.strand_onStrand]
  split_ifs <;> simp

theorem State.settleCycles_coresHeld (s : State) (n : Nat) : (s.settleCycles n).coresHeld = s.coresHeld := by
  unfold State.settleCycles State.settleCore State.settleAll State.settleTo
  split
  · rfl
  · split_ifs
    · split
      · exact foldl_keeps (fun _ _ => State.onStrand_coresHeld _ _ _) _ _
      · rfl
    · rfl

theorem State.redivide_coresHeld (s : State) (n d e : Nat) : (s.redivide n d e).coresHeld = s.coresHeld := by
  unfold State.redivide
  split
  · exact foldl_keeps (fun _ _ => State.onStrand_coresHeld _ _ _) _ _
  · rfl

theorem State.retune_coresHeld (s : State) (n : Nat) : (s.retune n).coresHeld = s.coresHeld := by
  unfold State.retune
  dsimp only
  split_ifs
  · exact (State.redivide_coresHeld _ _ _ _).trans (State.settleCycles_coresHeld s n)
  · exact State.settleCycles_coresHeld s n

theorem serve_coresHeld (c fuel : Nat) (s : State) : (serve c fuel s).coresHeld = s.coresHeld := by
  induction fuel generalizing s with
  | zero => rfl
  | succ fuel ih =>
    unfold serve
    split
    · rfl
    · split_ifs
      · rfl
      · exact (ih _).trans (State.onStrand_coresHeld _ _ _)

theorem heldBy_del {α : Type} {t : Tbl α} (h : t.wf = true) (n m : Nat) : heldBy (t.del n) m = (m != n && heldBy t m) := by
  unfold heldBy
  by_cases hm : m = n
  · rw [hm, Tbl.find_del_same t h]
    simp
  · rw [Tbl.find_del_other t hm]
    simp [hm]

/-- A core is empty once its strand has left it; the others stay as they are. -/
theorem State.vacate_coresHeld {s : State} (h : s.strands.wf = true) (n : Nat) (x : Strand) (m : Nat) :
    (s.vacate n x).coresHeld m = (m != n && s.coresHeld m) := by
  unfold State.vacate
  extract_lets s1 s2
  have h2 : s2.strands = s.strands.del n := congrArg (Tbl.del · n) (State.onVd_strands s x.id.part x.id.vd _)
  clear_value s2
  rw [State.serve, serve_coresHeld, State.retune_coresHeld, State.coresHeld, State.setCore_strands, h2]
  exact heldBy_del h n m

end Sys2Proof.Machine
end

section
/-! PROOFS. Virtual devices: the last step of a save keeps the contexts and gives the cores back (R127). -/
namespace Sys2Proof.Machine

/-- One saved context's core, granules, locks and barrier slots go back. -/
def State.giveBack (z : State) (y : Saved) : State :=
  let x := y.strand
  let c := clusterOf y.core
  let z1 := (z.dropLocks y.core fun k => y.locks.contains k).vacate y.core x
  let u := z1.cluster c
  if !y.bars.isEmpty then z1.setCluster c { u with bars := x.id.bslots.foldl (fun (b : Tbl Bar) j => b.del j) u.bars } else z1

/-- The saved contexts of partition `q` with those of `ys` for virtual device `v`. -/
def Partition.keep (q : Partition) (v : Nat) (ys : List Saved) : Partition :=
  { q with saved := q.saved.filter (fun y => !(y.vd == v && ys.any (·.core == y.core))) ++ ys }

theorem keepSaved_eq (p v : Nat) (ys : List Saved) (s : State) :
    let s1 := s.onPart p (·.keep v ys)
    keepSaved p v ys s = ys.foldl State.giveBack { s1 with cmdCtr := s1.cmdCtr + 1 } := rfl

theorem State.giveBack_savedBy (z : State) (y : Saved) : (z.giveBack y).savedBy = z.savedBy := by
  have hvacate := State.vacate_savedBy (z.dropLocks y.core fun k => y.locks.contains k) y.core y.strand
  unfold State.giveBack
  dsimp only
  split_ifs
  · exact (State.savedBy_congr (State.setCluster_parts _ _ _)).trans hvacate
  · exact hvacate

theorem State.giveBack_coresHeld {z : State} (h : z.strands.wf = true) (y : Saved) (n : Nat) :
    (z.giveBack y).coresHeld n = (n != y.core && z.coresHeld n) := by
  have hvacate := State.vacate_coresHeld (s := z.dropLocks y.core fun k => y.locks.contains k) h y.core y.strand n
  unfold State.giveBack
  dsimp only
  split_ifs
  · rw [State.coresHeld, State.setCluster_strands]
    exact hvacate
  · exact hvacate

theorem Canonical.giveBack {z : State} (h : Canonical z) (y : Saved) : Canonical (z.giveBack y) :=
  Canonical.ite (((h.dropLocks _ _).vacate _ _).setCluster _ _) ((h.dropLocks _ _).vacate _ _)

/-- No core of the saved contexts has a strand any longer. -/
theorem coresHeld_foldl_giveBack {n : Nat} (ys : List Saved) {z : State} (h : Canonical z) (hn : z.coresHeld n = false ∨ n ∈ ys.map (·.core)) :
    (ys.foldl State.giveBack z).coresHeld n = false := by
  induction ys generalizing z with
  | nil => exact hn.resolve_right fun hmem => by cases hmem
  | cons y ys ih =>
    refine ih (h.giveBack y) ?_
    rw [State.giveBack_coresHeld h.strands_wf]
    by_cases hy : n = y.core
    · exact .inl (by simp [hy])
    · exact hn.imp (fun hz => by simp [hz]) fun hmem => (List.mem_cons.1 hmem).resolve_left hy

theorem State.part_of_savedBy {s : State} {p : Nat} {l : List Saved} (h : s.savedBy p = some l) : ∃ q, s.part p = some q ∧ q.saved = l :=
  Option.map_eq_some_iff.1 h

theorem State.savedBy_of_part {s : State} {p : Nat} {q : Partition} (h : s.part p = some q) : s.savedBy p = some q.saved := by
  change (s.part p).map (·.saved) = _
  rw [h]
  rfl

/-- The virtual device's contexts are kept, its cores are empty, and it has left. -/
theorem keepSaved_vdGone {s : State} (h : Canonical s) {p : Nat} {q : Partition} (hp : s.part p = some q) (v : Nat) (ys : List Saved) :
    ∃ y, ((keepSaved p v ys s).vdGone p v).part p = some y ∧ (y.vd v).saving = false ∧ (y.vd v).running = false ∧ (y.vd v).stop = none ∧
      ∀ z ∈ ys, z ∈ y.saved ∧ ((keepSaved p v ys s).vdGone p v).strand z.core = none := by
  have hsaved : (keepSaved p v ys s).savedBy p = some (q.keep v ys).saved := by
    rw [keepSaved_eq, foldl_keeps State.giveBack_savedBy]
    exact State.savedBy_of_part (State.part_onPart_same hp _)
  obtain ⟨y, hy, hys⟩ := State.part_of_savedBy hsaved
  have hcanonical : Canonical { s.onPart p (·.keep v ys) with cmdCtr := (s.onPart p (·.keep v ys)).cmdCtr + 1 } := h.onPart _ _
  refine ⟨_, State.part_onPart_same hy _, ?_, ?_, ?_, fun z hz => ⟨?_, ?_⟩⟩
  · rw [Partition.vd_setVd_same]
  · rw [Partition.vd_setVd_same]
  · rw [Partition.vd_setVd_same]
  · change z ∈ y.saved
    rw [hys]
    exact List.mem_append_right _ hz
  · refine State.coresHeld_eq_false.1 ?_
    rw [State.coresHeld, State.vdGone, State.onVd_strands]
    exact coresHeld_foldl_giveBack ys hcanonical (.inr (List.mem_map.2 ⟨z, hz, rfl⟩))

/-- SAVE_COMPLETE once every strand has stopped: the images are written, the contexts are kept and the cores go back. -/
theorem exec_saveComplete_saves {s s1 : State} {q : Partition} {ys : List Saved} (hs : Canonical s) (h : s.part s.op.a = some q)
    (hsaving : (q.vd s.op.b).saving = true)
    (hready : ∀ e ∈ s.strandsOf s.op.a s.op.b, e.2.phase = .saving ∧ e.2.unacked = 0 ∧ s.runningOf e.1 = [] ∧ ∀ r ∈ e.2.vRdy, r.2 ≤ s.tick)
    (hsave : saveAll s.tick (q.vd s.op.b).forced (s.strandsOf s.op.a s.op.b) s = some (s1, ys)) :
    ∃ t y, exec .saveComplete s = .next t ∧ t.part s.op.a = some y ∧ (y.vd s.op.b).saving = false ∧ (y.vd s.op.b).running = false ∧
      (y.vd s.op.b).stop = none ∧ ∀ n x, s.strand n = some x ∧ x.id.part = s.op.a ∧ x.id.vd = s.op.b
        → t.strand n = none ∧ ∃ z ∈ y.saved, z.core = n ∧ z.vd = s.op.b ∧ z.strand.pc = x.pc ∧ z.strand.gen = x.gen + 1 := by
  have hany : (s.strandsOf s.op.a s.op.b).any (·.2.phase != .saving) = false := by
    simp only [List.any_eq_false, bne_iff_ne, not_not]
    exact fun e he => (hready e he).1
  have hall : ((s.strandsOf s.op.a s.op.b).all fun e =>
      e.2.unacked == 0 && (s.runningOf e.1).isEmpty && e.2.vRdy.all (fun r => decide (r.2 ≤ s.tick))) = true := by
    refine List.all_eq_true.2 fun e he => ?_
    obtain ⟨-, hacked, hidle, hvec⟩ := hready e he
    simpa [hacked, hidle] using fun a b hab => hvec (a, b) hab
  have hexec : exec .saveComplete s = .next ((keepSaved s.op.a s.op.b ys s1).vdGone s.op.a s.op.b) := by
    change execSaveComplete s = _
    unfold execSaveComplete
    dsimp only
    rw [h]
    dsimp only
    rw [hsaving, hany, hall, hsave]
    rfl
  obtain ⟨hparts, hof⟩ := saveAll_isOf hsave
  obtain ⟨q1, hq1⟩ : ∃ q1, s1.part s.op.a = some q1 := by
    refine Option.isSome_iff_exists.1 ((congrFun hparts s.op.a).trans ?_)
    change (s.part s.op.a).isSome = true
    rw [h]
    rfl
  have h1 : Canonical s1 := (good_saveAll _ _ _ hs).some hsave
  obtain ⟨y, hy, hsaved, hrun, hstop, hkept⟩ := keepSaved_vdGone h1 hq1 s.op.b ys
  refine ⟨_, y, hexec, hy, hsaved, hrun, hstop, ?_⟩
  rintro n x ⟨hx, hpart, hvd⟩
  obtain ⟨z, hz, hcore, hzvd, hpc, hgen⟩ := hof (n, x) ((State.mem_strandsOf hs.strands_wf).2 ⟨hx, hpart, hvd⟩)
  obtain ⟨hmem, hnone⟩ := hkept z hz
  rw [hcore] at hnone
  exact ⟨hnone, z, hmem, hcore, hzvd.trans hvd, hpc, hgen⟩

end Sys2Proof.Machine
end

section
/-! PROOFS. Virtual devices: lazy fills (R129), and obligation O48. -/
namespace Sys2Proof.Machine

/-! ### Bytes of a bank -/

theorem Bank.bytes_writeList (bs : List Byte) (b : Bank) (a : Nat) : (b.writeList a bs).bytes = writeRaw b.bytes a bs := by
  induction bs generalizing b a with
  | nil => rfl
  | cons x bs ih => exact ih (b.write a x) (a + 1)

theorem Bank.readList_congr {b c : Bank} (h : b.bytes = c.bytes) (a n : Nat) : b.readList a n = c.readList a n := by
  induction n generalizing a with
  | zero => rfl
  | succ n ih => simp [Bank.readList, Bank.read, h, ih]

theorem Bank.bytes_foldl_setPoison {f : Nat → Bool} {g : Nat → Nat} (ks : List Nat) (b : Bank) :
    (ks.foldl (fun (b : Bank) k => if f k then b.setPoison (g k) else b) b).bytes = b.bytes := by
  induction ks generalizing b with
  | nil => rfl
  | cons k ks ih =>
    rw [List.foldl_cons, ih]
    split_ifs <;> rfl

/-- Bytes written without their tags and poison read back, whatever is marked poisoned afterwards. -/
theorem Bank.readList_writeRaw {b c : Bank} (h : b.wf = true) {a : Nat} {bs : List Byte} (hc : c.bytes = writeRaw b.bytes a bs) :
    c.readList a bs.length = bs := by
  rw [Bank.readList_congr (hc.trans (Bank.bytes_writeList bs b a).symm), Bank.readList_writeList bs b a h]

/-! ### One line, one granule -/

theorem State.fillLine_of_read {s s1 : State} (hs : Canonical s) {n i : Nat} {x : Strand} {g : Got} (hx : s.strand n = some x)
    (hi : i ∈ x.lineAbsent)
    (hread : globRead ⟨x.id.part, x.id.vd, 0⟩ (runsOf (s.imageBase x.id.part x.id.vd n + 0x4000 + 256 * i) 256) s = .ok g s1) :
    (s.fillLine n i).scratch.readList (scratchAt n (256 * i)) g.bytes.length = g.bytes ∧
      (s.fillLine n i).strand n = some { x with lineAbsent := removeNat i x.lineAbsent } := by
  obtain ⟨⟨-, -, hscratch, -⟩, -⟩ : Canonical s1 := (good_globRead _ _ hs).ok hread
  unfold State.fillLine
  rw [hx]
  dsimp only
  rw [if_pos (List.contains_iff_mem.2 hi), hread]
  refine ⟨?_, State.strand_setStrand_same _ _ _⟩
  exact Bank.readList_writeRaw hscratch (Bank.bytes_foldl_setPoison _ _)

theorem State.fillGran_of_read {s s1 : State} {n i : Nat} {x : Strand} {g : Got} (hx : s.strand n = some x)
    (hread : globRead ⟨x.id.part, x.id.vd, 0⟩ (runsOf (s.imageBase x.id.part x.id.vd n + 0x2000 + 512 * i) 512) s = .ok g s1) :
    (s.fillGran n i).strand n = some { x with
      granAbsent := x.granAbsent &&& ~~~(1#16 <<< i)
      v := Vector.ofFn fun r => if r.val / 8 = i then BitVec.ofNat 512 (numOf ((g.bytes.drop (64 * (r.val % 8))).take 64)) else x.v[r.val] } := by
  unfold State.fillGran
  rw [hx]
  dsimp only
  rw [hread]
  exact State.strand_setStrand_same _ _ _

/-- The granule that is filled is no longer absent. -/
theorem getLsbD_granFilled (b : BitVec 16) (i : Fin 16) : (b &&& ~~~(1#16 <<< i.val)).getLsbD i = false := by
  simp

/-- LAZY_FILL_COMPLETE of a line that is absent. -/
theorem exec_lazyFillComplete_line {s s1 : State} (hs : Canonical s) {x : Strand} {g : Got} (hx : s.strand s.op.a = some x)
    (hflag : s.op.flag = false) (hi : s.op.b ∈ x.lineAbsent)
    (hread : globRead ⟨x.id.part, x.id.vd, 0⟩ (runsOf (s.imageBase x.id.part x.id.vd s.op.a + 0x4000 + 256 * s.op.b) 256) s = .ok g s1)
    (hlen : g.bytes.length = 256) :
    ∃ t, exec .lazyFillComplete s = .next t ∧ t.scratch.readList (scratchAt s.op.a (256 * s.op.b)) 256 = g.bytes ∧
      t.strand s.op.a = some { x with lineAbsent := removeNat s.op.b x.lineAbsent } := by
  obtain ⟨hbytes, hstrand⟩ := State.fillLine_of_read hs hx hi hread
  refine ⟨s.fillLine s.op.a s.op.b, ?_, hlen ▸ hbytes, hstrand⟩
  change execLazyFillComplete s = _
  unfold execLazyFillComplete
  rw [hx]
  dsimp only
  rw [if_neg (by simp [hflag]), if_pos (List.contains_iff_mem.2 hi)]

/-- LAZY_FILL_COMPLETE of a granule that is absent. -/
theorem exec_lazyFillComplete_gran {s s1 : State} {x : Strand} {g : Got} {i : Fin 16} (hx : s.strand s.op.a = some x) (hflag : s.op.flag = true)
    (hb : s.op.b = i) (hi : x.granAbsent.getLsbD i = true)
    (hread : globRead ⟨x.id.part, x.id.vd, 0⟩ (runsOf (s.imageBase x.id.part x.id.vd s.op.a + 0x2000 + 512 * i) 512) s = .ok g s1) :
    ∃ t y, exec .lazyFillComplete s = .next t ∧ t.strand s.op.a = some y ∧ y.granAbsent.getLsbD i = false ∧ y.g = x.g ∧
      ∀ r : BitVec 7, y.getV r =
        if r.toNat / 8 = i then BitVec.ofNat 512 (numOf ((g.bytes.drop (64 * (r.toNat % 8))).take 64)) else x.getV r := by
  refine ⟨s.fillGran s.op.a i, _, ?_, State.fillGran_of_read hx hread, getLsbD_granFilled _ i, rfl, fun r => Vector.getElem_ofFn _⟩
  change execLazyFillComplete s = _
  unfold execLazyFillComplete
  rw [hx]
  dsimp only
  rw [if_pos hflag, hb, if_pos ⟨i.isLt, hi⟩]

/-- Settles O48: each clause by the lemma of its step. -/
theorem virtualDevices : Obligations.VirtualDevices := by
  unfold Obligations.VirtualDevices
  intro s q hmem htbl hq
  have hs : Canonical s := ⟨hmem, htbl⟩
  have hwf := hs.strands_wf
  intro p v d mine es saves
  have hsaves : ∀ {i : Instr} {t0 : Nat} {forced : Bool}, d.stop = some t0 → exec i s = .next (s.beginSave p v forced)
      → saves i t0 forced := by
    intro i t0 forced hstop hexec
    obtain ⟨y, hy, hvd⟩ := State.beginSave_part hq v forced
    refine ⟨_, y, hexec, hy, ?_, fun n x hx => State.beginSave_strand hwf p v forced hx⟩
    rw [hvd, Vd.beginSave, hstop]
    rfl
  refine ⟨fun r hrsv hdue => ?_, fun hvds hrsv hrun hstop hleft => ?_, fun t0 hstop hsaving => ⟨fun hbound hmesh => ?_, fun hgrace => ?_⟩,
    fun hsaving => ⟨fun hsome hall => ?_, fun hready s1 ys hsave => ?_⟩,
    fun x hx => ⟨fun hflag hi g s1 hread hlen => ?_, fun hflag i hb hi g s1 hread => ?_⟩⟩
  · obtain ⟨t, y, hexec, hy, he⟩ := exec_vdPeriodStart hq hrsv hdue
    exact ⟨t, y, hexec, hy, he.rsv, he.pendRsv, he.remaining, he.debit, he.deadline, he.usedUj,
      (Bool.eq_iff_iff.1 he.exhausted).trans (Vd.renewed_exhausted _ _ _)⟩
  · exact exec_vdBudgetExhausted hq hvds hrsv hrun hstop hleft
  · exact hsaves hstop (exec_superstepBoundary hq (Option.isSome_of_mem hstop) hsaving hbound hmesh)
  · exact hsaves hstop (exec_vdGraceExpired hq hstop hsaving hgrace)
  · exact exec_saveComplete_stops hwf hq hsaving hsome hall
  · exact exec_saveComplete_saves hs hq hsaving hready hsave
  · exact exec_lazyFillComplete_line hs hx hflag hi hread hlen
  · exact exec_lazyFillComplete_gran hx hflag hb hi hread

end Sys2Proof.Machine
end

section
/-! SUPPORT. Queue records (R39, R40): their fields, their bytes in the table, the slot that holds a queue, and what a write of a record or of a
pending-notify bit changes. -/
namespace Sys2Proof.Machine

/-! ### Fields of a record -/

theorem getLsbD_setField (w : W512) {hi lo : Nat} (v : Nat) (hhi : hi < 512) (i : Nat) :
    (setField w hi lo v).getLsbD i = if lo ≤ i ∧ i ≤ hi then v.testBit (i - lo) else w.getLsbD i := by
  have hmask : ((2 ^ (hi + 1 - lo) - 1) * 2 ^ lo).testBit i = decide (lo ≤ i ∧ i ≤ hi) := by
    rw [Nat.testBit_mul_two_pow, Nat.testBit_two_pow_sub_one, Bool.eq_iff_iff]
    simp only [Bool.and_eq_true, decide_eq_true_eq]
    omega
  simp only [setField, BitVec.getLsbD_or, BitVec.getLsbD_and, BitVec.getLsbD_not, BitVec.getLsbD_ofNat, hmask, Nat.testBit_mul_two_pow]
  by_cases hi512 : i < 512
  · by_cases hin : lo ≤ i ∧ i ≤ hi
    · simp [hi512, hin]
    · simp [hi512, hin]
  · have hout : ¬(lo ≤ i ∧ i ≤ hi) := by omega
    simp [hi512, hout, BitVec.getLsbD_of_ge w i (by omega)]

theorem testBit_bitsN {n : Nat} (w : BitVec n) (hi lo i : Nat) : (bitsN w hi lo).testBit i = (decide (i < hi + 1 - lo) && w.getLsbD (lo + i)) := by
  rw [bitsN, Nat.testBit_mod_two_pow, Nat.testBit_shiftRight]
  rfl

/-- A field reads what was written to it, cut to its width. -/
theorem bitsN_setField_same (w : W512) {hi lo : Nat} (v : Nat) (hhi : hi < 512) :
    bitsN (setField w hi lo v) hi lo = v % 2 ^ (hi + 1 - lo) := by
  refine Nat.eq_of_testBit_eq fun i => ?_
  rw [testBit_bitsN, Nat.testBit_mod_two_pow, getLsbD_setField w v hhi]
  by_cases hi' : i < hi + 1 - lo
  · rw [if_pos (by omega), Nat.add_sub_cancel_left]
  · simp [hi']

/-- A write of one field leaves every field beside it alone. -/
theorem bitsN_setField_other (w : W512) {hi lo hi' lo' : Nat} (v : Nat) (hhi : hi < 512) (h : hi' < lo ∨ hi < lo') :
    bitsN (setField w hi lo v) hi' lo' = bitsN w hi' lo' := by
  refine Nat.eq_of_testBit_eq fun i => ?_
  rw [testBit_bitsN, testBit_bitsN, getLsbD_setField w v hhi]
  by_cases hi' : i < hi' + 1 - lo'
  · rw [if_neg (by omega)]
  · simp [hi']

theorem bitsN_lt {n : Nat} (w : BitVec n) (hi lo : Nat) : bitsN w hi lo < 2 ^ (hi + 1 - lo) := Nat.mod_lt _ (by positivity)

/-! ### Bytes -/

theorem length_bytesOf (v n : Nat) : (bytesOf v n).length = n := by
  induction n generalizing v with
  | zero => rfl
  | succ n ih => rw [bytesOf, List.length_cons, ih]

theorem numOf_bytesOf (v n : Nat) : numOf (bytesOf v n) = v % 256 ^ n := by
  induction n generalizing v with
  | zero => simp [bytesOf, numOf, Nat.mod_one]
  | succ n ih =>
    rw [bytesOf, numOf, ih, BitVec.toNat_ofNat]
    exact ((congrArg (v % ·) (pow_succ' 256 n)).trans Nat.mod_mul).symm

theorem ofNat_numOf_bytesOf {n : Nat} (w : BitVec (8 * n)) : BitVec.ofNat (8 * n) (numOf (bytesOf w.toNat n)) = w := by
  have hlt : w.toNat < (2 ^ 8) ^ n := pow_mul 2 8 n ▸ w.isLt
  rw [numOf_bytesOf, show w.toNat % 256 ^ n = w.toNat from Nat.mod_eq_of_lt hlt, BitVec.ofNat_toNat, BitVec.setWidth_eq]

theorem Bank.readList_of_read {b c : Bank} {a n : Nat} (h : ∀ i, i < n → b.read (a + i) = c.read (a + i)) : b.readList a n = c.readList a n := by
  induction n generalizing a with
  | zero => rfl
  | succ n ih =>
    rw [Bank.readList, Bank.readList, ih fun i hi => by simpa [Nat.add_assoc, Nat.add_comm 1] using h (i + 1) (by omega)]
    exact congrArg (· :: _) (h 0 (by omega))

theorem Bank.take_readList (b : Bank) (a m n : Nat) : (b.readList a (m + n)).take m = b.readList a m := by
  induction m generalizing a with
  | zero => simp [Bank.readList]
  | succ m ih => rw [Nat.succ_add, Bank.readList, List.take_succ_cons, ih, Bank.readList]

/-! ### Tables searched by their values -/

theorem Tbl.find_of_find? {α : Type} {t : Tbl α} {f : Nat × α → Bool} {k : Nat} {x : α} (ht : t.wf = true) (h : t.find? f = some (k, x)) :
    t.find k = some x :=
  Tbl.find_of_mem ht (List.mem_of_find?_eq_some h)

/-- The first entry that a test of the value finds is replaced by one that passes it too: it is then the first. -/
theorem Tbl.find?_put_found {α : Type} {t : Tbl α} {f : α → Bool} {lo k : Nat} {x y : α} (ht : Tbl.sortedFrom lo t = true)
    (h : t.find? (fun e => f e.2) = some (k, x)) (hy : f y = true) : (t.put k y).find? (fun e => f e.2) = some (k, y) := by
  induction t generalizing lo with
  | nil => cases h
  | cons e t ih =>
    obtain ⟨j, z⟩ := e
    simp only [Tbl.sortedFrom, Bool.and_eq_true, decide_eq_true_eq] at ht
    rw [List.find?_cons] at h
    cases hz : f z with
    | true =>
      simp only [hz, Option.some.injEq, Prod.mk.injEq] at h
      simp [Tbl.put, h.1, hy]
    | false =>
      simp only [hz] at h
      have hk : j + 1 ≤ k := (Tbl.find_of_mem_sorted ht.2 (List.mem_of_find?_eq_some h)).1
      rw [Tbl.put, if_neg (by omega), if_neg (by omega), List.find?_cons]
      simp only [hz]
      exact ih ht.2 h

/-- An entry that passes a test where none did is the one that it finds. -/
theorem Tbl.find?_put_none {α : Type} {t : Tbl α} {f : α → Bool} (k : Nat) {y : α} (h : t.find? (fun e => f e.2) = none) (hy : f y = true) :
    (t.put k y).find? (fun e => f e.2) = some (k, y) := by
  induction t with
  | nil => simp [Tbl.put, hy]
  | cons e t ih =>
    obtain ⟨j, z⟩ := e
    rw [List.find?_cons] at h
    cases hz : f z with
    | true => simp [hz] at h
    | false =>
      simp only [hz] at h
      unfold Tbl.put
      split_ifs
      · simp [hy]
      · simp [hy]
      · simp [hz, ih h]

/-- Once the first entry found is removed, what is found has a higher key. -/
theorem Tbl.lt_of_find?_del {α : Type} {t : Tbl α} {f : α → Bool} {lo k j : Nat} {x y : α} (ht : Tbl.sortedFrom lo t = true)
    (h : t.find? (fun e => f e.2) = some (k, x)) (hd : (t.del k).find? (fun e => f e.2) = some (j, y)) : k < j := by
  induction t generalizing lo with
  | nil => cases h
  | cons e t ih =>
    obtain ⟨i, z⟩ := e
    simp only [Tbl.sortedFrom, Bool.and_eq_true, decide_eq_true_eq] at ht
    rw [List.find?_cons] at h
    cases hz : f z with
    | true =>
      simp only [hz, Option.some.injEq, Prod.mk.injEq] at h
      rw [Tbl.del, if_pos h.1] at hd
      have := (Tbl.find_of_mem_sorted ht.2 (List.mem_of_find?_eq_some hd)).1
      omega
    | false =>
      simp only [hz] at h
      have hk : i + 1 ≤ k := (Tbl.find_of_mem_sorted ht.2 (List.mem_of_find?_eq_some h)).1
      rw [Tbl.del, if_neg (by omega), List.find?_cons] at hd
      simp only [hz] at hd
      exact ih ht.2 h hd

/-! ### The record in the table -/

theorem State.qTable_setTable_same {s : State} (h : s.hbm.wf = true) (q : Nat) (r : W512) : (s.setTable q r).qTable q = r := by
  have hread := Bank.readList_writeList (bytesOf r.toNat 64) s.hbm (s.tableBase.toNat + 64 * q) h
  rw [length_bytesOf] at hread
  unfold State.qTable State.setTable
  rw [hread]
  exact ofNat_numOf_bytesOf (n := 64) r

@[simp] theorem State.setTable_qslots (s : State) (q : Nat) (r : W512) : (s.setTable q r).qslots = s.qslots := by
  simp only [State.setTable]

theorem State.qTable_congr {s t : State} (hhbm : t.hbm = s.hbm) (hbase : t.tableBase = s.tableBase) (q : Nat) : t.qTable q = s.qTable q := by
  simp [State.qTable, hhbm, hbase]

/-! ### Where a queue's record stands (R39, R45) -/

/-- The queue holds one of the 64 slots: its record is the slot's copy. -/
def State.Slotted (s : State) (q : Nat) : Prop := ∃ k x, s.slotOfQueue q = some (k, x) ∧ k < 64

/-- The byte with the queue's pending-notify bit lies outside its record in the table. -/
def State.BitApart (s : State) (q : Nat) : Prop :=
  s.bitmapBase.toNat + q / 8 < s.tableBase.toNat + 64 * q ∨ s.tableBase.toNat + 64 * q + 64 ≤ s.bitmapBase.toNat + q / 8

theorem State.slotOfQueue_congr {s t : State} (h : t.qslots = s.qslots) (q : Nat) : t.slotOfQueue q = s.slotOfQueue q := by
  simp [State.slotOfQueue, h]

theorem State.queue_of_slotOfQueue {s : State} {q k : Nat} {x : QSlot} (h : s.slotOfQueue q = some (k, x)) : x.queue = q := by
  simpa using List.find?_some h

theorem State.find_of_slotOfQueue {s : State} (hwf : s.qslots.wf = true) {q k : Nat} {x : QSlot} (h : s.slotOfQueue q = some (k, x)) :
    s.qslots.find k = some x :=
  Tbl.find_of_find? hwf h

theorem State.qRecord_congr {s t : State} (hslots : t.qslots = s.qslots) (hhbm : t.hbm = s.hbm) (hbase : t.tableBase = s.tableBase)
    (hset : t.tableSet = s.tableSet) (q : Nat) : t.qRecord q = s.qRecord q := by
  simp [State.qRecord, State.slotOfQueue, State.qTable, hslots, hhbm, hbase, hset]

theorem State.qRecord_of_slot {s : State} {q k : Nat} {x : QSlot} (h : s.slotOfQueue q = some (k, x)) (hk : k < 64) :
    s.qRecord q = if q = 0 && s.tableSet then (s.qTable 0 &&& recordGiven) ||| (x.record &&& ~~~recordGiven) else x.record := by
  rw [State.qRecord, h]
  exact if_pos hk

theorem State.qRecord_of_not_slotted {s : State} {q : Nat} (h : ¬ s.Slotted q) : s.qRecord q = s.qTable q := by
  unfold State.qRecord
  split
  · rename_i k x hx
    exact if_neg fun hk => h ⟨k, x, hx, hk⟩
  · rfl

/-- A record put together from two copies of itself is that record. -/
theorem and_or_and_not (r m : W512) : (r &&& m) ||| (r &&& ~~~m) = r := by
  rw [← BitVec.and_or_distrib_left, BitVec.or_not_self, BitVec.and_allOnes]

/-! ### Writing a queue's record -/

theorem State.setRecord_of_slot {s : State} {q k : Nat} {x : QSlot} (h : s.slotOfQueue q = some (k, x)) (hk : k < 64) (r : W512) :
    s.setRecord q r =
      let s1 : State := { s with qslots := s.qslots.put k { x with record := r } }
      if q = 0 && !s.tableSet then s1 else s1.setTable q r := by
  rw [State.setRecord, h]
  exact if_pos hk

theorem State.setRecord_of_not_slotted {s : State} {q : Nat} (h : ¬ s.Slotted q) (r : W512) : s.setRecord q r = s.setTable q r := by
  unfold State.setRecord
  split
  · rename_i k x hx
    exact if_neg fun hk => h ⟨k, x, hx, hk⟩
  · rfl

/-- A write of a queue's record changes nothing but the memory and the slots. -/
theorem State.setRecord_only (s : State) (q : Nat) (r : W512) : ∃ b qs, s.setRecord q r = { s with hbm := b, qslots := qs } := by
  by_cases h : s.Slotted q
  · obtain ⟨k, x, hx, hk⟩ := h
    rw [State.setRecord_of_slot hx hk]
    dsimp only
    split
    · exact ⟨_, _, rfl⟩
    · exact ⟨_, _, rfl⟩
  · exact ⟨_, _, State.setRecord_of_not_slotted h r⟩

/-- The slot of the queue after a write of its record. -/
theorem State.slotOfQueue_setRecord {s : State} (hwf : s.qslots.wf = true) {q k : Nat} {x : QSlot} (h : s.slotOfQueue q = some (k, x)) (hk : k < 64)
    (r : W512) : (s.setRecord q r).slotOfQueue q = some (k, { x with record := r }) := by
  have hput : (s.qslots.put k { x with record := r }).find? (fun e => e.2.queue == q) = some (k, { x with record := r }) :=
    Tbl.find?_put_found (f := fun y : QSlot => y.queue == q) hwf h (by simpa using State.queue_of_slotOfQueue h)
  rw [State.setRecord_of_slot h hk]
  dsimp only
  split <;> exact hput

/-- A queue outside the 64 slots keeps its place when its record in the table is written. -/
theorem State.slotOfQueue_setRecord_of_not_slotted {s : State} {q : Nat} (h : ¬ s.Slotted q) (r : W512) :
    (s.setRecord q r).slotOfQueue q = s.slotOfQueue q := by
  rw [State.setRecord_of_not_slotted h]
  exact State.slotOfQueue_congr (State.setTable_qslots s q r) q

theorem State.slotted_setRecord {s : State} (hwf : s.qslots.wf = true) {q : Nat} (r : W512) : (s.setRecord q r).Slotted q ↔ s.Slotted q := by
  by_cases h : s.Slotted q
  · obtain ⟨k, x, hx, hk⟩ := h
    exact ⟨fun _ => ⟨k, x, hx, hk⟩, fun _ => ⟨k, _, State.slotOfQueue_setRecord hwf hx hk r, hk⟩⟩
  · rw [State.Slotted, State.slotOfQueue_setRecord_of_not_slotted h]
    rfl

/-- A queue's record reads what was written to it. -/
theorem State.qRecord_setRecord {s : State} (hs : Canonical s) (q : Nat) (r : W512) : (s.setRecord q r).qRecord q = r := by
  obtain ⟨⟨hhbm, -⟩, -⟩ := id hs
  by_cases h : s.Slotted q
  · obtain ⟨k, x, hx, hk⟩ := h
    rw [State.qRecord_of_slot (State.slotOfQueue_setRecord hs.qslots_wf hx hk r) hk]
    split
    · rename_i hq
      obtain ⟨b, qs, hr⟩ := s.setRecord_only q r
      simp only [hr, Bool.and_eq_true, decide_eq_true_eq] at hq
      have htable : (s.setRecord q r).qTable 0 = r := by
        rw [State.setRecord_of_slot hx hk, if_neg (by simp [hq.2]), hq.1]
        exact State.qTable_setTable_same (by exact hhbm) 0 r
      rw [htable, and_or_and_not]
    · rfl
  · rw [State.qRecord_of_not_slotted (mt (State.slotted_setRecord hs.qslots_wf r).1 h), State.setRecord_of_not_slotted h]
    exact State.qTable_setTable_same hhbm q r

/-! ### Changes of the slots that leave the records alone -/

theorem State.slotOfQueue_map {s t : State} {f : Nat × QSlot → Nat × QSlot} (hf : ∀ e, (f e).2.queue = e.2.queue)
    (h : t.qslots = s.qslots.map f) (q : Nat) : t.slotOfQueue q = (s.slotOfQueue q).map f := by
  rw [State.slotOfQueue, h, List.find?_map]
  congr 2
  funext e
  simp [hf]

/-- What the slots keep beside the records may change: the records read the same. -/
theorem State.qRecord_map {s : State} {f : Nat × QSlot → Nat × QSlot} (hkey : ∀ e, (f e).1 = e.1) (hqueue : ∀ e, (f e).2.queue = e.2.queue)
    (hrecord : ∀ e, (f e).2.record = e.2.record) (q : Nat) : ({ s with qslots := s.qslots.map f } : State).qRecord q = s.qRecord q := by
  unfold State.qRecord
  rw [State.slotOfQueue_map hqueue rfl]
  cases s.slotOfQueue q with
  | none => rfl
  | some e =>
    obtain ⟨k, x⟩ := e
    simp only [Option.map_some]
    rw [hkey, hrecord]
    rfl

/-! ### The pending-notify bit (R44) -/

theorem State.qTable_setPending {s : State} {q : Nat} (h : s.BitApart q) (b : Bool) : (s.setPending q b).qTable q = s.qTable q := by
  have hread : (s.setPending q b).hbm.readList (s.tableBase.toNat + 64 * q) 64 = s.hbm.readList (s.tableBase.toNat + 64 * q) 64 :=
    Bank.readList_of_read fun i hi => Bank.read_write_other _ _ (by rcases h with h | h <;> omega)
  rw [State.qTable, State.qTable, ← hread]
  rfl

theorem State.qRecord_setPending {s : State} {q : Nat} (hq : q ≠ 0) (h : s.Slotted q ∨ s.BitApart q) (b : Bool) :
    (s.setPending q b).qRecord q = s.qRecord q := by
  by_cases hslot : s.Slotted q
  · obtain ⟨k, x, hx, hk⟩ := hslot
    have hx' : (s.setPending q b).slotOfQueue q = some (k, x) := hx
    rw [State.qRecord_of_slot hx hk, State.qRecord_of_slot hx' hk]
    simp [hq]
  · rw [State.qRecord_of_not_slotted hslot]
    exact (State.qRecord_of_not_slotted (s := s.setPending q b) hslot).trans (State.qTable_setPending (h.resolve_left hslot) b)

theorem State.pendingBit_setPending {s : State} (h : s.hbm.wf = true) (q : Nat) (b : Bool) : (s.setPending q b).pendingBit q = b := by
  obtain ⟨hbytes, -, -⟩ := (Bank.wf_iff _).1 h
  have hlt : q % 8 < 8 := Nat.mod_lt _ (by decide)
  unfold State.pendingBit State.setPending
  dsimp only
  rw [Bank.read_write_same _ _ _ hbytes]
  cases b <;> simp [hlt]

/-! ### A queue in error (R51) -/

theorem State.onPart_eq (s : State) (p : Nat) (f : Partition → Partition) : s.onPart p f = { s with parts := (s.onPart p f).parts } := by
  unfold State.onPart
  split <;> rfl

/-- Logging changes nothing but the logs and how many free values have been taken. -/
theorem State.logError_only (s : State) (e : ErrInfo) :
    ∃ n ps l c, s.logError e = { s with freeCtr := n, parts := ps, log := l, logCount := c } := by
  unfold State.logError State.logPart
  dsimp only
  split
  · exact ⟨_, _, _, _, State.onPart_eq _ _ _⟩
  · exact ⟨_, _, _, _, State.onPart_eq _ _ _⟩

theorem State.logError_flight (s : State) (e : ErrInfo) : (s.logError e).flight = s.flight := by
  obtain ⟨n, ps, l, c, hlog⟩ := s.logError_only e
  rw [hlog]

theorem State.logError_qRecord (s : State) (e : ErrInfo) (q : Nat) : (s.logError e).qRecord q = s.qRecord q := by
  obtain ⟨n, ps, l, c, hlog⟩ := s.logError_only e
  rw [hlog]
  exact State.qRecord_congr rfl rfl rfl rfl q

/-- The record of a queue that is put in error. -/
def erroneous (r : W512) (code : Nat) : W512 := setField (setField r 35 34 3) 71 64 code

/-- A mapped queue in error is no longer idle. -/
def State.unidle (s : State) (q : Nat) : State :=
  { s with qslots := s.qslots.map fun e => if e.2.queue = q then (e.1, { e.2 with idle := none }) else e }

theorem State.qRecord_unidle (s : State) (q m : Nat) : (s.unidle q).qRecord m = s.qRecord m :=
  State.qRecord_map (fun e => by split <;> rfl) (fun e => by split <;> rfl) (fun e => by split <;> rfl) m

theorem State.slotted_unidle {s : State} {q m : Nat} (h : s.Slotted m) : (s.unidle q).Slotted m := by
  obtain ⟨k, x, hx, hk⟩ := h
  have hmap := State.slotOfQueue_map (s := s) (t := s.unidle q)
    (f := fun e => if e.2.queue = q then (e.1, { e.2 with idle := none }) else e) (fun e => by split <;> rfl) rfl m
  rw [hx, Option.map_some] at hmap
  split at hmap
  · exact ⟨_, _, hmap, hk⟩
  · exact ⟨_, _, hmap, hk⟩

theorem State.queueError_eq (s : State) (q code tag : Nat) :
    let s2 := (s.setRecord q (erroneous (s.qRecord q) code)).unidle q
    s.queueError q code tag =
      if q = 0 then s2.freePlace.2.logDevice ⟨5, 2, 0xFF, tag, 0⟩ s2.freePlace.1.1 s2.freePlace.1.2
      else (s2.setPending q false).logError ⟨5, 2, qPart (s.qRecord q), tag, 0⟩ := rfl

theorem State.qRecord_queueError {s : State} (hs : Canonical s) {q : Nat} (h : q = 0 ∨ s.Slotted q ∨ s.BitApart q) (code tag : Nat) :
    (s.queueError q code tag).qRecord q = erroneous (s.qRecord q) code := by
  have hrecord : ((s.setRecord q (erroneous (s.qRecord q) code)).unidle q).qRecord q = erroneous (s.qRecord q) code :=
    (State.qRecord_unidle _ _ _).trans (State.qRecord_setRecord hs _ _)
  rw [State.queueError_eq]
  split_ifs with hq
  · exact hrecord
  · refine (State.logError_qRecord _ _ q).trans (Eq.trans ?_ hrecord)
    refine State.qRecord_setPending hq ((h.resolve_left hq).imp (fun hslot => ?_) fun hapart => ?_) false
    · exact State.slotted_unidle ((State.slotted_setRecord hs.qslots_wf _).2 hslot)
    · obtain ⟨b, qs, hr⟩ := s.setRecord_only q (erroneous (s.qRecord q) code)
      rw [hr]
      exact hapart

theorem State.queueError_flight (s : State) (q code tag : Nat) : (s.queueError q code tag).flight = s.flight := by
  obtain ⟨b, qs, hr⟩ := s.setRecord_only q (erroneous (s.qRecord q) code)
  rw [State.queueError_eq, hr]
  split_ifs
  · rfl
  · exact State.logError_flight _ _

theorem qState_erroneous (r : W512) (code : Nat) : qState (erroneous r code) = 3 := by
  rw [qState, erroneous, bitsN_setField_other _ _ (by decide) (by decide), bitsN_setField_same _ _ (by decide)]
  rfl

theorem errStatus_erroneous (r : W512) {code : Nat} (h : code < 256) : bitsN (erroneous r code) 71 64 = code := by
  rw [erroneous, bitsN_setField_same _ _ (by decide)]
  exact Nat.mod_eq_of_lt h

theorem qRead_erroneous (r : W512) (code : Nat) : qRead (erroneous r code) = qRead r := by
  rw [qRead, erroneous, bitsN_setField_other _ _ (by decide) (by decide), bitsN_setField_other _ _ (by decide) (by decide)]
  rfl

end Sys2Proof.Machine
end

section
/-! PROOFS. Notifies of host queues (R39, R41, R42, R44 to R46), and obligation O50. -/
namespace Sys2Proof.Machine

/-! ### The bases of the table and of the bitmap (R39) -/

theorem onLink_of_up {s : State} (h : s.linkUp = true) (f : Out) : onLink s f = f := if_pos h

theorem exec_tableBaseWrite_off {s : State} (hs : Canonical s) (hlink : s.linkUp = true) (hoff : s.queuesOff = true) :
    ∃ t, exec .tableBaseWrite s = .next t ∧ t.tableBase = BitVec.ofNat 64 s.op.b ∧ t.qTable 0 = s.qRecord 0 ∧ t.bitmapBase = s.bitmapBase := by
  refine ⟨({ s with tableBase := BitVec.ofNat 64 s.op.b, tableSet := true } : State).setTable 0 (s.qRecord 0), ?_, ?_, ?_, ?_⟩
  · change execTableBaseWrite s = _
    rw [execTableBaseWrite, onLink_of_up hlink, if_pos hoff]
  · simp only [State.setTable]
  · exact State.qTable_setTable_same (by exact hs.1.1) 0 _
  · simp only [State.setTable]

theorem exec_tableBaseWrite_on {s : State} (hlink : s.linkUp = true) (hon : s.queuesOff = false) : exec .tableBaseWrite s = .next s := by
  change execTableBaseWrite s = _
  rw [execTableBaseWrite, onLink_of_up hlink, if_neg (by simp [hon])]

theorem exec_bitmapBaseWrite {s : State} (hlink : s.linkUp = true) :
    exec .bitmapBaseWrite s = .next (if s.queuesOff then { s with bitmapBase := BitVec.ofNat 64 s.op.b } else s) := by
  change execBitmapBaseWrite s = _
  rw [execBitmapBaseWrite, onLink_of_up hlink]

/-! ### What a notify does (R42, R44) -/

theorem qState_lt (r : W512) : qState r < 4 := bitsN_lt r 35 34

/-- A queue takes notes while it is idle or mapped. -/
def QTakes (r : W512) : Prop := qState r = 1 ∨ qState r = 2

theorem not_qTakes {r : W512} : ¬ QTakes r ↔ qState r = 0 ∨ qState r = 3 := by
  have := qState_lt r
  unfold QTakes
  omega

/-- The record of a queue with a new write_index. -/
def written (r : W512) (w : Nat) : W512 := setField r 383 352 w

/-- The queue's write_index is taken over, and its slot notes whether it is idle. -/
def State.noteIndex (s : State) (q w : Nat) : State :=
  let s1 := s.setRecord q (written (s.qRecord q) w)
  { s1 with qslots := s1.qslots.map fun e => if e.2.queue = q ∧ e.1 < 64 then (e.1, e.2.settleIdle s.tick) else e }

/-- Notify by its parts. -/
theorem State.notify_eq (s : State) (q w : Nat) :
    s.notify q w =
      (let r1 := written (s.qRecord q) w
      let s1 := s.noteIndex q w
      if qState (s.qRecord q) ≠ 1 ∧ qState (s.qRecord q) ≠ 2 ∨ w = qWrite (s.qRecord q) then s
      else if 2 ^ qLog2 r1 < qPending r1 then s1.queueError q 5 0
      else if qState (s.qRecord q) = 2 || ((s1.slotOfQueue q).map (·.2.stopping)).getD false then s1
      else match s.part (qPart r1) with
      | none => s1
      | some _ =>
        match s1.pick (s1.queueSlotsFree (qPart r1)) with
        | some k => k.2.mapQueue q k.1
        | none =>
          match s1.victim (qPart r1) with
          | some v => (s1.displace v.1 v.2).mapQueue q v.1
          | none => s1.setPending q true) := rfl

theorem State.notify_untaken {s : State} {q w : Nat} (h : ¬ QTakes (s.qRecord q) ∨ w = qWrite (s.qRecord q)) : s.notify q w = s := by
  rw [State.notify_eq]
  exact if_pos (h.imp_left not_or.1)

theorem QSlot.settleIdle_queue (x : QSlot) (t : Nat) : (x.settleIdle t).queue = x.queue := by
  unfold QSlot.settleIdle
  split <;> rfl

theorem QSlot.settleIdle_record (x : QSlot) (t : Nat) : (x.settleIdle t).record = x.record := by
  unfold QSlot.settleIdle
  split <;> rfl

theorem State.qRecord_noteIndex {s : State} (hs : Canonical s) (q w : Nat) : (s.noteIndex q w).qRecord q = written (s.qRecord q) w := by
  refine (State.qRecord_map (fun e => ?_) (fun e => ?_) (fun e => ?_) q).trans (State.qRecord_setRecord hs q _)
  · split <;> rfl
  · split
    · exact QSlot.settleIdle_queue _ _
    · rfl
  · split
    · exact QSlot.settleIdle_record _ _
    · rfl

theorem Canonical.noteIndex {s : State} (hs : Canonical s) (q w : Nat) : Canonical (s.noteIndex q w) :=
  (hs.setRecord q _).qslots (Tbl.wf_map (fun e => by split <;> rfl) (hs.setRecord q _).qslots_wf)

theorem State.noteIndex_bitApart {s : State} {q w : Nat} (h : s.BitApart q) : (s.noteIndex q w).BitApart q := by
  obtain ⟨b, qs, hr⟩ := s.setRecord_only q (written (s.qRecord q) w)
  rw [State.noteIndex, hr]
  exact h

/-- A queue that holds no slot: only its record in the table is written. -/
theorem State.noteIndex_of_no_slot {s : State} {q : Nat} (h : s.slotOfQueue q = none) (w : Nat) :
    s.noteIndex q w = s.setTable q (written (s.qRecord q) w) := by
  have hr := State.setRecord_of_not_slotted (s := s) (q := q) (fun ⟨_, _, hx, _⟩ => by simp [h] at hx) (written (s.qRecord q) w)
  have hslots : (s.qslots.map fun e => if e.2.queue = q ∧ e.1 < 64 then (e.1, e.2.settleIdle s.tick) else e) = s.qslots := by
    refine (List.map_congr_left fun e he => if_neg fun hq => ?_).trans (List.map_id _)
    exact List.find?_eq_none.1 h e he (by simpa using hq.1)
  rw [State.noteIndex, hr]
  simp only [State.setTable, hslots]

/-! ### The fields of a record whose write_index is new -/

theorem qWrite_written (r : W512) {w : Nat} (h : w < 2 ^ 32) : qWrite (written r w) = w := by
  rw [qWrite, written, bitsN_setField_same _ _ (by decide)]
  exact Nat.mod_eq_of_lt h

theorem bitsN_written {hi lo : Nat} (r : W512) (w : Nat) (h : hi < 352 ∨ 383 < lo) : bitsN (written r w) hi lo = bitsN r hi lo :=
  bitsN_setField_other r w (by decide) h

theorem qState_written (r : W512) (w : Nat) : qState (written r w) = qState r := bitsN_written r w (by decide)
theorem qRead_written (r : W512) (w : Nat) : qRead (written r w) = qRead r := bitsN_written r w (by decide)
theorem qLog2_written (r : W512) (w : Nat) : qLog2 (written r w) = qLog2 r := bitsN_written r w (by decide)
theorem qPart_written (r : W512) (w : Nat) : qPart (written r w) = qPart r := bitsN_written r w (by decide)

theorem qPending_written (r : W512) {w : Nat} (h : w < 2 ^ 32) : qPending (written r w) = (w + 2 ^ 32 - qRead r) % 2 ^ 32 := by
  rw [qPending, qWrite_written r h, qRead_written]

/-! ### Taking and losing a slot (R43 to R46) -/

/-- A slot is picked wherever there is one. -/
theorem State.exists_pick (s : State) {ks : List Nat} (h : ks ≠ []) : ∃ k n, k ∈ ks ∧ s.pick ks = some (k, { s with freeCtr := n }) := by
  match ks, h with
  | [k], _ => exact ⟨k, s.freeCtr, List.mem_singleton_self k, rfl⟩
  | k :: j :: ks, _ =>
    have hlt : (s.free (k :: j :: ks).length).1 < (k :: j :: ks).length := Nat.mod_lt _ (by simp)
    refine ⟨(k :: j :: ks)[(s.free (k :: j :: ks).length).1], s.freeCtr + 1, List.getElem_mem hlt, ?_⟩
    change Option.map _ (k :: j :: ks)[(s.free (k :: j :: ks).length).1]? = _
    rw [List.getElem?_eq_getElem hlt]
    rfl

theorem State.pick_nil (s : State) : s.pick [] = none := rfl

/-- The record of a queue that is mapped into slot `k`. -/
def mapped (r : W512) (k : Nat) : W512 := setField (setField r 35 34 2) 33 28 k

theorem qState_mapped (r : W512) (k : Nat) : qState (mapped r k) = 2 := by
  rw [qState, mapped, bitsN_setField_other _ _ (by decide) (by decide), bitsN_setField_same _ _ (by decide)]
  rfl

theorem qWrite_mapped (r : W512) (k : Nat) : qWrite (mapped r k) = qWrite r := by
  rw [qWrite, mapped, bitsN_setField_other _ _ (by decide) (by decide), bitsN_setField_other _ _ (by decide) (by decide)]
  rfl

theorem State.mapQueue_slotOfQueue {s : State} {q : Nat} (h : s.slotOfQueue q = none) (k : Nat) :
    ∃ y, (s.mapQueue q k).slotOfQueue q = some (k, y) ∧ y.record = mapped (s.qTable q) k := by
  refine ⟨(⟨q, mapped (s.qTable q) k, s.mapOrder, none, [], false, none⟩ : QSlot).settleIdle s.tick, ?_, QSlot.settleIdle_record _ _⟩
  have hold : (s.qslots.find? fun e => e.2.queue == q) = none := h
  unfold State.mapQueue
  rw [hold]
  dsimp only
  rw [State.onPart_eq]
  exact Tbl.find?_put_none (f := fun y : QSlot => y.queue == q) k h (by simp [QSlot.settleIdle_queue])

theorem le_foldl_max {α : Type} (f : α → Nat) (l : List α) (m : Nat) : m ≤ l.foldl (fun m e => max m (f e)) m := by
  induction l generalizing m with
  | nil => exact le_rfl
  | cons e l ih => exact (le_max_left _ _).trans (ih _)

/-- A slot that is freed: the record in the table has the state given. -/
theorem State.unmapQueue_spec {s : State} (hs : Canonical s) {k : Nat} (hk : k < 64) (x : QSlot) {state : Nat} (hstate : state < 4) :
    (s.unmapQueue k x state).qslots.find k = none ∧ qState ((s.unmapQueue k x state).qTable x.queue) = state := by
  unfold State.unmapQueue
  extract_lets r s1 far s2
  have hs1 : Canonical s1 := hs.qslots (Tbl.wf_del _ _ hs.qslots_wf)
  have hs2 : Canonical s2 := Canonical.ite hs1 (hs1.putSlot _ _)
  have hnone : s1.qslots.find k = none := Tbl.find_del_same s.qslots hs.qslots_wf
  have hfar : k < far := lt_of_lt_of_le hk (le_foldl_max (fun e : Nat × QSlot => e.1 + 1) s1.qslots 64)
  refine ⟨?_, ?_⟩
  · rw [State.setTable_qslots]
    show Tbl.find (if _ then s1 else _ : State).qslots k = none
    split
    · exact hnone
    · exact (Tbl.find_put_other _ _ (by omega)).trans hnone
  · rw [State.qTable_setTable_same hs2.1.1, qState, bitsN_setField_other _ _ (by decide) (by decide), bitsN_setField_same _ _ (by decide)]
    exact Nat.mod_eq_of_lt hstate

/-! ### Notifies by their outcome (R42, R44) -/

theorem State.queueSlotsFree_setTable (s : State) (q : Nat) (r : W512) (p : Nat) : (s.setTable q r).queueSlotsFree p = s.queueSlotsFree p := by
  simp only [State.queueSlotsFree, State.part, State.setTable]

@[simp] theorem State.setPending_qslots (s : State) (q : Nat) (b : Bool) : (s.setPending q b).qslots = s.qslots := by
  simp only [State.setPending]

theorem State.victim_setTable (s : State) (q : Nat) (r : W512) (p : Nat) : (s.setTable q r).victim p = s.victim p := by
  simp only [State.victim, State.slotsOf, State.setTable]

section
variable {s : State} {q w : Nat}

/-- A queue with more packets than its ring holds is put in error (R41). -/
theorem State.notify_overrun (htakes : QTakes (s.qRecord q)) (hw : w ≠ qWrite (s.qRecord q)) (hlt : w < 2 ^ 32)
    (h : 2 ^ qLog2 (s.qRecord q) < (w + 2 ^ 32 - qRead (s.qRecord q)) % 2 ^ 32) : s.notify q w = (s.noteIndex q w).queueError q 5 0 := by
  rw [State.notify_eq]
  dsimp only
  rw [if_neg (by unfold QTakes at htakes; omega), qLog2_written, qPending_written _ hlt, if_pos h]

/-- A mapped queue stays in its slot. -/
theorem State.notify_mapped (hstate : qState (s.qRecord q) = 2) (hw : w ≠ qWrite (s.qRecord q)) (hlt : w < 2 ^ 32)
    (h : (w + 2 ^ 32 - qRead (s.qRecord q)) % 2 ^ 32 ≤ 2 ^ qLog2 (s.qRecord q)) : s.notify q w = s.noteIndex q w := by
  rw [State.notify_eq]
  dsimp only
  rw [if_neg (by omega), qLog2_written, qPending_written _ hlt, if_neg (by omega), if_pos (by simp [hstate])]

/-- An idle queue without a slot is mapped into a free one of its partition, or displaces a queue, or becomes pending. -/
theorem State.notify_idle (hstate : qState (s.qRecord q) = 1) (hw : w ≠ qWrite (s.qRecord q)) (hlt : w < 2 ^ 32)
    (h : (w + 2 ^ 32 - qRead (s.qRecord q)) % 2 ^ 32 ≤ 2 ^ qLog2 (s.qRecord q)) (hslot : s.slotOfQueue q = none) {x : Partition}
    (hx : s.part (qPart (s.qRecord q)) = some x) :
    s.notify q w =
      (let s1 := s.setTable q (written (s.qRecord q) w)
      match s1.pick (s.queueSlotsFree (qPart (s.qRecord q))) with
      | some k => k.2.mapQueue q k.1
      | none =>
        match s.victim (qPart (s.qRecord q)) with
        | some v => (s1.displace v.1 v.2).mapQueue q v.1
        | none => s1.setPending q true) := by
  have hnote := State.noteIndex_of_no_slot hslot w
  have hslot1 : (s.noteIndex q w).slotOfQueue q = none := by
    rw [hnote]
    exact (State.slotOfQueue_congr (State.setTable_qslots _ _ _) q).trans hslot
  rw [State.notify_eq]
  dsimp only
  rw [if_neg (by omega), qLog2_written, qPending_written _ hlt, if_neg (by omega), hslot1, if_neg (by simp [hstate]), qPart_written, hx, hnote]
  simp only [State.queueSlotsFree_setTable, State.victim_setTable]

theorem State.notify_overruns (hs : Canonical s) (htakes : QTakes (s.qRecord q)) (hw : w ≠ qWrite (s.qRecord q)) (hlt : w < 2 ^ 32)
    (h : 2 ^ qLog2 (s.qRecord q) < (w + 2 ^ 32 - qRead (s.qRecord q)) % 2 ^ 32) (hapart : s.BitApart q) :
    (s.notify q w).qRecord q = erroneous (written (s.qRecord q) w) 5 := by
  rw [State.notify_overrun htakes hw hlt h, State.qRecord_queueError (hs.noteIndex q w) (.inr (.inr (State.noteIndex_bitApart hapart))),
    State.qRecord_noteIndex hs]

section
variable (hs : Canonical s) (hstate : qState (s.qRecord q) = 1) (hw : w ≠ qWrite (s.qRecord q)) (hlt : w < 2 ^ 32)
  (h : (w + 2 ^ 32 - qRead (s.qRecord q)) % 2 ^ 32 ≤ 2 ^ qLog2 (s.qRecord q)) (hslot : s.slotOfQueue q = none) {x : Partition}
  (hx : s.part (qPart (s.qRecord q)) = some x)
include hs hstate hw hlt h hslot hx

/-- An idle queue takes a free slot of its partition. -/
theorem State.notify_maps (hfree : s.queueSlotsFree (qPart (s.qRecord q)) ≠ []) :
    ∃ j y, j ∈ s.queueSlotsFree (qPart (s.qRecord q)) ∧ (s.notify q w).slotOfQueue q = some (j, y) ∧ qWrite y.record = w ∧ qState y.record = 2 := by
  obtain ⟨j, n, hj, hpick⟩ := (s.setTable q (written (s.qRecord q) w)).exists_pick hfree
  have htable : (s.setTable q (written (s.qRecord q) w)).qTable q = written (s.qRecord q) w := State.qTable_setTable_same hs.1.1 q _
  generalize ht : s.setTable q (written (s.qRecord q) w) = t at hpick htable
  have hslot1 : ({ t with freeCtr := n } : State).slotOfQueue q = none := by
    refine (State.slotOfQueue_congr ?_ q).trans hslot
    rw [← State.setTable_qslots s q (written (s.qRecord q) w), ht]
  obtain ⟨y, hy, hrecord⟩ := State.mapQueue_slotOfQueue hslot1 j
  have hrecord1 : y.record = mapped (written (s.qRecord q) w) j :=
    hrecord.trans (congrArg (mapped · j) ((State.qTable_congr rfl rfl q).trans htable))
  refine ⟨j, y, hj, ?_, ?_, ?_⟩
  · rw [State.notify_idle hstate hw hlt h hslot hx, ht]
    dsimp only
    rw [hpick]
    exact hy
  · rw [hrecord1, qWrite_mapped, qWrite_written _ hlt]
  · rw [hrecord1, qState_mapped]

/-- Where there is no free slot and nothing to displace it becomes pending. -/
theorem State.notify_pends (hfree : s.queueSlotsFree (qPart (s.qRecord q)) = []) (hvictim : s.victim (qPart (s.qRecord q)) = none) :
    (s.notify q w).pendingBit q = true ∧ (s.notify q w).slotOfQueue q = none := by
  rw [State.notify_idle hstate hw hlt h hslot hx, hfree, hvictim]
  dsimp only
  rw [State.pick_nil]
  exact ⟨State.pendingBit_setPending (hs.setTable q _).1.1 q true,
    (State.slotOfQueue_congr ((State.setPending_qslots _ _ _).trans (State.setTable_qslots _ _ _)) q).trans hslot⟩

end

end

/-! ### The host's writes (R12, R42) -/

/-- The blocks of a host write that hold no notify word of a queue that takes notes. -/
theorem exec_notifyWrite_host {s : State} (hflag : s.op.flag = true)
    (h : s.linkUp = false ∨ ∀ q, q < 4096 → qDev (s.qRecord q) = true ∨ qState (s.qRecord q) = 0 ∨ qState (s.qRecord q) = 3 ∨
      qNotify (s.qRecord q) / 64 < s.op.b / 64 ∨ (s.op.b + s.op.data.length - 1) / 64 < qNotify (s.qRecord q) / 64) :
    exec .notifyWrite s = .next { s with host := s.host.writeList s.op.b s.op.data } := by
  change execNotifyWrite s = _
  unfold execNotifyWrite
  extract_lets read s1 n hit
  rw [if_pos hflag]
  rcases h with h | h
  · rw [if_neg (by simp [h])]
  · have hrecord : ∀ q, s1.qRecord q = s.qRecord q := State.qRecord_congr rfl rfl rfl rfl
    have hnone : (List.range 4096).filter hit = [] := by
      refine List.filter_eq_nil_iff.2 fun q hq => ?_
      have hno := h q (List.mem_range.1 hq)
      simp only [hit, hrecord, n, Bool.and_eq_true, Bool.or_eq_true, Bool.not_eq_true', beq_iff_eq, decide_eq_true_eq]
      rintro ⟨⟨⟨⟨hdev, hstate⟩, hlo⟩, hhi⟩, -⟩
      rw [hdev] at hno
      simp only [Bool.false_eq_true, false_or] at hno
      omega
    rw [hnone]
    split <;> rfl

/-- NOTIFY_WRITE of one queue that takes notes and whose notify word can be reached. -/
theorem exec_notifyWrite_read {s z : State} (hflag : s.op.flag = false) {bs : List Byte} (htakes : QTakes (s.qRecord s.op.a))
    (hreach : qDev (s.qRecord s.op.a) = true ∨ s.linkUp = true) (hread : s.queueBytes s.op.a (qNotify (s.qRecord s.op.a)) 8 = some (bs, z)) :
    exec .notifyWrite s = .next (z.notify s.op.a (numOf (bs.take 4))) := by
  change execNotifyWrite s = _
  unfold execNotifyWrite
  rw [if_neg (by simp [hflag]), if_pos (by simpa using ⟨htakes, hreach⟩)]
  dsimp only
  rw [hread]

/-- NOTIFY_WRITE of one queue that takes no note, or whose notify word lies in host memory while the link is down. -/
theorem exec_notifyWrite_ignored {s : State} (hflag : s.op.flag = false)
    (h : ¬ QTakes (s.qRecord s.op.a) ∨ (s.linkUp = false ∧ qDev (s.qRecord s.op.a) = false)) : exec .notifyWrite s = .next s := by
  change execNotifyWrite s = _
  unfold execNotifyWrite
  rw [if_neg (by simp [hflag]), if_neg]
  simp only [Bool.and_eq_true, Bool.or_eq_true, beq_iff_eq]
  rintro ⟨htakes, hreach⟩
  rcases h with h | ⟨hlink, hdev⟩
  · exact h htakes
  · simp [hlink, hdev] at hreach

/-- DOORBELL_WRITE at a doorbell is a notify of the queue that the word names. -/
theorem exec_doorbellWrite {s : State} (hlink : s.linkUp = true) (hpage : s.op.a % 4096 = 0) (hslot : s.op.a / 4096 < 64) :
    exec .doorbellWrite s = .next (s.notify (s.op.b / 2 ^ 52 % 4096) (s.op.b % 2 ^ 32)) := by
  change execDoorbellWrite s = _
  rw [execDoorbellWrite, onLink_of_up hlink, if_pos ⟨hpage, hslot⟩]

/-- SLOT_IDLE_TIMEOUT: the queue leaves its slot and is idle. -/
theorem exec_slotIdleTimeout {s : State} (hs : Canonical s) {x : QSlot} {n : Nat} (hx : s.qslots.find s.op.a = some x) (hidle : x.idle = some n)
    (hlo : 1 ≤ s.op.a) (hhi : s.op.a < 64) (hstate : qState x.record = 2) (hstop : x.stopping = false) (hdue : n + 20000 ≤ s.tick) :
    ∃ z : State, exec .slotIdleTimeout s = .next (z.mapNext (qPart x.record)) ∧ z.qslots.find s.op.a = none ∧ qState (z.qTable x.queue) = 1 := by
  refine ⟨s.unmapQueue s.op.a x 1, ?_, State.unmapQueue_spec hs hhi x (by decide)⟩
  change execSlotIdleTimeout s = _
  unfold execSlotIdleTimeout
  rw [hx]
  dsimp only
  rw [hidle]
  exact if_pos ⟨hlo, hhi, hstate, hstop, hdue⟩

/-- Settles O50: each clause by the lemma of its step and of the notify that it makes. -/
theorem queueNotifies : Obligations.QueueNotifies := by
  unfold Obligations.QueueNotifies
  intro s hmem htbl
  have hs : Canonical s := ⟨hmem, htbl⟩
  refine ⟨fun hlink hoff => ⟨exec_tableBaseWrite_off hs hlink hoff, ?_⟩, fun hlink hon => ⟨exec_tableBaseWrite_on hlink hon, ?_⟩,
    exec_notifyWrite_host, fun hflag => ?_, fun hlink hpage hslot => ?_,
    fun x n hx hidle hlo hhi hstate hstop hdue => exec_slotIdleTimeout hs hx hidle hlo hhi hstate hstop hdue⟩
  · rw [exec_bitmapBaseWrite hlink, if_pos hoff]
  · rw [exec_bitmapBaseWrite hlink, if_neg (by simp [hon])]
  · intro r
    refine ⟨fun hno => exec_notifyWrite_ignored hflag (.inl (not_qTakes.2 hno)), fun hlink hdev => exec_notifyWrite_ignored hflag (.inr ⟨hlink, hdev⟩),
      fun htakes hlink hdev hclean => ?_, fun htakes hdev bs s1 hread => exec_notifyWrite_read hflag htakes (.inl hdev) hread⟩
    have hread : s.queueBytes s.op.a (qNotify r) 8 = some (s.host.readList (qNotify r) 8, s) := by
      unfold State.queueBytes
      rw [if_neg (by simp [show qDev (s.qRecord s.op.a) = false from hdev]), if_neg (by simpa using hclean)]
    rw [exec_notifyWrite_read hflag htakes (.inr hlink) hread]
    exact congrArg (fun bs => Host.Outcome.next (s.notify s.op.a (numOf bs))) (Bank.take_readList _ _ 4 4)
  · intro q w r pending
    have hlt : w < 2 ^ 32 := Nat.mod_lt _ (by decide)
    rw [exec_doorbellWrite hlink hpage hslot]
    refine ⟨fun hno => ?_, fun htakes hw => ⟨fun hover hapart => ?_, fun hfits => ⟨fun e hstate he => ?_, fun x hstate hnone hx =>
      ⟨fun hfree => ?_, fun hfree hvictim => ?_⟩⟩⟩⟩
    · rw [State.notify_untaken ((or_assoc.2 hno).imp_left not_qTakes.2)]
    · have hrecord := State.notify_overruns hs htakes hw hlt hover hapart
      refine ⟨_, rfl, ?_, ?_, ?_⟩
      · rw [hrecord, qState_erroneous]
      · rw [hrecord, errStatus_erroneous _ (by decide)]
      · rw [hrecord, qRead_erroneous, qRead_written]
    · refine ⟨_, rfl, ?_⟩
      rw [State.notify_mapped hstate hw hlt hfits, State.qRecord_noteIndex hs]
      exact ⟨qWrite_written _ hlt, (qState_written _ _).trans hstate, qRead_written _ _⟩
    · obtain ⟨j, y, hj, hy, hwrite, hmapped⟩ := State.notify_maps hs hstate hw hlt hfits hnone hx hfree
      exact ⟨_, j, y, rfl, hj, hy, hwrite, hmapped⟩
    · exact ⟨_, rfl, State.notify_pends hs hstate hw hlt hfits hnone hx hfree hvictim⟩

end Sys2Proof.Machine
end

section
/-! SUPPORT. Packets of a queue (R47, R48): the start of one, the completion of one that has started, and the shape that the steps share. -/
namespace Sys2Proof.Machine

/-! ### A slot whose list of started packets changes -/

section
variable {s t : State} (hwf : s.qslots.wf = true) {q k : Nat} {x y : QSlot} (h : s.slotOfQueue q = some (k, x))
  (hslots : t.qslots = s.qslots.put k y) (hqueue : y.queue = x.queue)
include hwf h hslots hqueue

theorem State.slotOfQueue_putSlot : t.slotOfQueue q = some (k, y) := by
  rw [State.slotOfQueue, hslots]
  exact Tbl.find?_put_found (f := fun y : QSlot => y.queue == q) hwf h (by simpa [hqueue] using State.queue_of_slotOfQueue h)

/-- A slot's entry is replaced by one with the same queue and record: the queue's record reads the same. -/
theorem State.qRecord_putSlot (hrecord : y.record = x.record) (hhbm : t.hbm = s.hbm) (hbase : t.tableBase = s.tableBase)
    (hset : t.tableSet = s.tableSet) : t.qRecord q = s.qRecord q := by
  unfold State.qRecord
  rw [h, State.slotOfQueue_putSlot hwf h hslots hqueue]
  dsimp only
  rw [hrecord, hset, State.qTable_congr hhbm hbase, State.qTable_congr hhbm hbase]

end

/-! ### The completion of a packet (R48, R49) -/

/-- The message that a packet's completion sends to its knot, if it has one. -/
def completionMsgs (q part vd : Nat) (knot delta : W64) (chain : Nat) (ovf err psn : Bool) : List Msg :=
  if knot = 0 then [] else [.signal ⟨noCore, false, part, vd, packetLoc q knot.toNat, delta, chain, queueOrigin q, ovf, err, psn⟩]

theorem packetSignal_eq (s : State) (q part vd : Nat) (knot delta : W64) (chain : Nat) (ovf err psn : Bool) :
    packetSignal s q part vd knot delta chain ovf err psn = { s with flight := s.flight ++ completionMsgs q part vd knot delta chain ovf err psn } := by
  unfold packetSignal completionMsgs
  split
  · simp
  · rfl

/-- The slot once the packet with index `i` has completed. -/
def QSlot.completed (x : QSlot) (i tick : Nat) : QSlot := ({ x with started := x.started.filter (·.index != i) }).settleIdle tick

theorem QSlot.completed_queue (x : QSlot) (i tick : Nat) : (x.completed i tick).queue = x.queue := QSlot.settleIdle_queue _ _
theorem QSlot.completed_record (x : QSlot) (i tick : Nat) : (x.completed i tick).record = x.record := QSlot.settleIdle_record _ _
theorem QSlot.completed_started (x : QSlot) (i tick : Nat) : (x.completed i tick).started = x.started.filter (·.index != i) := by
  unfold QSlot.completed QSlot.settleIdle
  split <;> rfl

section
variable {s : State} {q k i : Nat} {x : QSlot} {p : Started}

/-- A packet that has started completes: it leaves its slot's list, an empty slot behind the 64 goes, and its knot is signalled. -/
theorem State.packetDone_eq (hslot : s.slotOfQueue q = some (k, x)) (hp : x.started.find? (·.index == i) = some p) (chain : Nat)
    (ovf err psn : Bool) :
    s.packetDone q i chain ovf err psn =
      { s with
        qslots := if 64 ≤ k ∧ (x.completed i s.tick).started.isEmpty ∧ (x.completed i s.tick).off.isNone then s.qslots.del k
          else s.qslots.put k (x.completed i s.tick)
        flight := s.flight ++ completionMsgs q (qPart x.record) (qVd x.record) p.knot p.delta chain ovf err psn } := by
  unfold State.packetDone
  rw [hslot]
  dsimp only
  rw [hp]
  dsimp only
  rw [packetSignal_eq]
  unfold QSlot.completed
  split <;> rfl

theorem State.packetDone_flight (hslot : s.slotOfQueue q = some (k, x)) (hp : x.started.find? (·.index == i) = some p) (chain : Nat)
    (ovf err psn : Bool) : (s.packetDone q i chain ovf err psn).flight =
      s.flight ++ completionMsgs q (qPart x.record) (qVd x.record) p.knot p.delta chain ovf err psn := by
  rw [State.packetDone_eq hslot hp]

theorem State.packetDone_slotOfQueue (hwf : s.qslots.wf = true) (hslot : s.slotOfQueue q = some (k, x))
    (hp : x.started.find? (·.index == i) = some p) (hk : k < 64) (chain : Nat) (ovf err psn : Bool) :
    (s.packetDone q i chain ovf err psn).slotOfQueue q = some (k, x.completed i s.tick) := by
  refine State.slotOfQueue_putSlot hwf hslot ?_ (QSlot.completed_queue _ _ _)
  rw [State.packetDone_eq hslot hp]
  exact if_neg fun h => absurd h.1 (by omega)

/-- A completion leaves the queue's record as it is. -/
theorem State.packetDone_qRecord (hwf : s.qslots.wf = true) (hslot : s.slotOfQueue q = some (k, x))
    (hp : x.started.find? (·.index == i) = some p) (chain : Nat) (ovf err psn : Bool) :
    (s.packetDone q i chain ovf err psn).qRecord q = s.qRecord q := by
  rw [State.packetDone_eq hslot hp]
  split_ifs with h
  · have hout : ∀ t : State, t.qslots = s.qslots.del k → ¬ t.Slotted q := by
      rintro t ht ⟨j, y, hy, hj⟩
      rw [State.slotOfQueue, ht] at hy
      have := Tbl.lt_of_find?_del (f := fun y : QSlot => y.queue == q) hwf hslot hy
      omega
    have hnot : ¬ s.Slotted q := by
      rintro ⟨j, y, hy, hj⟩
      cases hslot.symm.trans hy
      omega
    rw [State.qRecord_of_not_slotted hnot]
    exact (State.qRecord_of_not_slotted (hout _ rfl)).trans (State.qTable_congr rfl rfl q)
  · exact State.qRecord_putSlot hwf hslot rfl (QSlot.completed_queue _ _ _) (QSlot.completed_record _ _ _) rfl rfl rfl

end

/-! ### The start of a packet (R47, R48) -/

/-- What a queue keeps of a packet that has started. -/
def Pkt.entry (k : Pkt) (hold : Option Hold) (ref : Nat) : Started :=
  ⟨qRead k.qrec, kKnot k.w, kDelta k.w, BitVec.ofNat 32 (kTag k.w), kSys k.w, hold, ref⟩

/-- The record of a queue whose read_index is new. -/
def advanced (r : W512) (i : Nat) : W512 := setField r 351 320 (i % 2 ^ 32)

theorem qRead_advanced (r : W512) (i : Nat) : qRead (advanced r i) = i % 2 ^ 32 := by
  rw [qRead, advanced, bitsN_setField_same _ _ (by decide)]
  exact Nat.mod_mod _ _

theorem bitsN_advanced {hi lo : Nat} (r : W512) (i : Nat) (h : hi < 320 ∨ 351 < lo) : bitsN (advanced r i) hi lo = bitsN r hi lo :=
  bitsN_setField_other r _ (by decide) h

theorem qPart_advanced (r : W512) (i : Nat) : qPart (advanced r i) = qPart r := bitsN_advanced r i (by decide)
theorem qVd_advanced (r : W512) (i : Nat) : qVd (advanced r i) = qVd r := bitsN_advanced r i (by decide)
theorem qChain_advanced (r : W512) (i : Nat) : qChain (advanced r i) = qChain r := bitsN_advanced r i (by decide)

/-- The start of a packet changes nothing but the memory and the slots. -/
theorem State.startPacket_only (s : State) (k : Pkt) (hold : Option Hold) (ref adv : Nat) :
    ∃ b qs, s.startPacket k hold ref adv = { s with hbm := b, qslots := qs } := by
  obtain ⟨b, qs, hr⟩ := s.setRecord_only k.q (setField (s.qRecord k.q) 351 320 ((qRead k.qrec + adv) % 2 ^ 32))
  unfold State.startPacket
  rw [hr]
  dsimp only
  split
  · exact ⟨b, qs, rfl⟩
  · exact ⟨b, _, rfl⟩

section
variable (s : State) (k : Pkt) (hold : Option Hold) (ref adv : Nat)

@[simp] theorem State.startPacket_flight : (s.startPacket k hold ref adv).flight = s.flight := by
  obtain ⟨b, qs, honly⟩ := s.startPacket_only k hold ref adv
  rw [honly]

@[simp] theorem State.startPacket_launches : (s.startPacket k hold ref adv).launches = s.launches := by
  obtain ⟨b, qs, honly⟩ := s.startPacket_only k hold ref adv
  rw [honly]

@[simp] theorem State.startPacket_copies : (s.startPacket k hold ref adv).copies = s.copies := by
  obtain ⟨b, qs, honly⟩ := s.startPacket_only k hold ref adv
  rw [honly]

@[simp] theorem State.startPacket_strands : (s.startPacket k hold ref adv).strands = s.strands := by
  obtain ⟨b, qs, honly⟩ := s.startPacket_only k hold ref adv
  rw [honly]

end

section
variable {s : State} {k : Pkt} {x : QSlot} (hs : Canonical s) (hslot : s.slotOfQueue k.q = some (k.slot, x)) (hk : k.slot < 64)
  (hold : Option Hold) (ref adv : Nat)
include hs hslot hk

theorem State.startPacket_eq :
    s.startPacket k hold ref adv =
      (let r := advanced (s.qRecord k.q) (qRead k.qrec + adv)
      let s1 := s.setRecord k.q r
      { s1 with qslots := s1.qslots.put k.slot { x with record := r, started := x.started ++ [k.entry hold ref], idle := none } }) := by
  have hfind := State.find_of_slotOfQueue (hs.setRecord k.q (advanced (s.qRecord k.q) (qRead k.qrec + adv))).qslots_wf
    (State.slotOfQueue_setRecord hs.qslots_wf hslot hk _)
  unfold State.startPacket
  dsimp only
  unfold advanced at hfind
  rw [hfind]
  rfl

theorem State.startPacket_slotOfQueue :
    (s.startPacket k hold ref adv).slotOfQueue k.q = some (k.slot, { x with
      record := advanced (s.qRecord k.q) (qRead k.qrec + adv), started := x.started ++ [k.entry hold ref], idle := none }) := by
  rw [State.startPacket_eq hs hslot hk]
  exact State.slotOfQueue_putSlot (hs.setRecord k.q _).qslots_wf (State.slotOfQueue_setRecord hs.qslots_wf hslot hk _) rfl rfl

theorem State.startPacket_qRecord :
    (s.startPacket k hold ref adv).qRecord k.q = advanced (s.qRecord k.q) (qRead k.qrec + adv) := by
  rw [State.startPacket_eq hs hslot hk]
  refine Eq.trans ?_ (State.qRecord_setRecord hs k.q _)
  exact State.qRecord_putSlot (hs.setRecord k.q _).qslots_wf (State.slotOfQueue_setRecord hs.qslots_wf hslot hk _) rfl rfl rfl rfl rfl rfl

end

/-- A packet that completes in the step that starts it: it leaves no entry, read_index has gone on, its knot is signalled with the queue's chain. -/
theorem State.packetDone_startPacket {s z : State} {k : Pkt} (hs : Canonical s) (hslot : s.slotOfQueue k.q = some (k.slot, k.x)) (hk : k.slot < 64)
    (hfresh : ∀ e ∈ k.x.started, e.index ≠ qRead k.qrec) (hrecord : s.qRecord k.q = k.qrec) (hold : Option Hold) (ref adv : Nat)
    (hz : z.qslots = (s.startPacket k hold ref adv).qslots) (hflight : z.flight = s.flight) (err : Bool) :
    let t := z.packetDone k.q (qRead k.qrec) (qChain k.qrec) false err false
    (∃ y, t.slotOfQueue k.q = some (k.slot, y) ∧ y.started = k.x.started ∧ qRead y.record = (qRead k.qrec + adv) % 2 ^ 32) ∧
      t.flight = s.flight ++ completionMsgs k.q (qPart k.qrec) (qVd k.qrec) (kKnot k.w) (kDelta k.w) (qChain k.qrec) false err false ∧
      t.launches = z.launches := by
  have hzslot := (State.slotOfQueue_congr hz k.q).trans (State.startPacket_slotOfQueue hs hslot hk hold ref adv)
  have hwf : z.qslots.wf = true := by
    rw [hz]
    exact (hs.startPacket k hold ref adv).qslots_wf
  have hnone : k.x.started.find? (·.index == qRead k.qrec) = none := List.find?_eq_none.2 fun e he => by simpa using hfresh e he
  have hp : (k.x.started ++ [k.entry hold ref]).find? (·.index == qRead k.qrec) = some (k.entry hold ref) := by
    rw [List.find?_append, hnone]
    simp [Pkt.entry]
  refine ⟨⟨_, State.packetDone_slotOfQueue hwf hzslot hp hk _ _ _ _, ?_, ?_⟩, ?_, ?_⟩
  · rw [QSlot.completed_started, List.filter_append, List.filter_eq_self.2 fun e he => by simpa using hfresh e he]
    simp [Pkt.entry]
  · rw [QSlot.completed_record]
    exact qRead_advanced _ _
  · rw [State.packetDone_flight hzslot hp, hflight, hrecord, qPart_advanced, qVd_advanced]
    rfl
  · rw [State.packetDone_eq hzslot hp]

/-! ### The shape of a packet step -/

theorem State.nextPacket_spec {s s1 : State} {q : Nat} {k : Pkt} (h : s.nextPacket q = some (.ok (k, s1))) : k.q = q ∧ k.slot < 64 := by
  unfold State.nextPacket at h
  split at h
  · cases h
  · dsimp only at h
    split_ifs at h with hno
    · cases h
    · split at h
      · cases h
      · cases h
        exact ⟨rfl, Nat.lt_of_not_le fun hle => hno (.inl hle)⟩

theorem headerFault_le {s : State} {k : Pkt} {e : Nat} (h : headerFault s k = some e) : e ≤ 3 := by
  unfold headerFault at h
  dsimp only at h
  split_ifs at h <;> cases h <;> decide

section
variable {s s1 s2 : State} {k : Pkt} {t e : Nat} {mn : String} {body : State → Pkt → Except Nat (Option State)}
  (hnext : s.nextPacket s.op.a = some (.ok (k, s1)))
include hnext

theorem packetStep_malformed (he : headerFault s1 k = some e) : packetStep t mn body s = .next (s1.queueError k.q e (kTag k.w)) := by
  unfold packetStep
  rw [hnext]
  dsimp only
  rw [he]

variable (hok : headerFault s1 k = none) (ht : kType k.w = t) (horder : kOrder k.w = true → k.x.started = [])
include hok ht horder

theorem packetStep_refused (hb : body s1 k = .error e) : packetStep t mn body s = .next (s1.queueError k.q e (kTag k.w)) := by
  unfold packetStep
  rw [hnext]
  dsimp only
  rw [hok]
  dsimp only
  rw [if_neg (by simpa [ht] using horder), hb]

theorem packetStep_done (hb : body s1 k = .ok (some s2)) : packetStep t mn body s = .next s2 := by
  unfold packetStep
  rw [hnext]
  dsimp only
  rw [hok]
  dsimp only
  rw [if_neg (by simpa [ht] using horder), hb]

end

end Sys2Proof.Machine
end

section
/-! PROOFS. What launch, copy and fence packets need beside the shape of a packet step (R47 to R49). -/
namespace Sys2Proof.Machine

/-! ### The launch that a packet asks for (R48, R52) -/

theorem readTable_error {s : State} {p v e : Nat} {r : BitVec 1024} (h : readTable s p v r = .error e) : e ≤ 4 := by
  unfold readTable at h
  split_ifs at h
  split at h
  · cases h
    decide
  · dsimp only at h
    split_ifs at h
    cases h
    decide

theorem readTemplates_error {p v e : Nat} {r : BitVec 1024} {n k : Nat} {s : State} (h : readTemplates p v r n k s = .error e) : e ≤ 4 := by
  induction n generalizing k s with
  | zero => cases h
  | succ n ih =>
    unfold readTemplates at h
    split at h
    · cases h
      decide
    · dsimp only at h
      split_ifs at h
      · cases h
        decide
      · split at h
        · cases h
          exact readTable_error ‹_›
        · split at h
          · cases h
            exact ih ‹_›
          · cases h

/-- What a launch has of its packet and its queue. -/
structure LaunchOf (k : Pkt) (l : Launch) : Prop where
  device : k.q ≠ 0
  part : l.part = qPart k.qrec
  vd : l.vd = qVd k.qrec
  queue : l.queue = k.q
  knot : l.knot = kKnot k.w
  chain0 : l.chain0 = qChain k.qrec
  record : recordOk l.record l.vd = true

theorem readLaunch_spec (s : State) (k : Pkt) : ExGood (· ≤ 4) (fun r => LaunchOf k r.1) (readLaunch s k) := by
  unfold readLaunch
  extract_lets p v a
  split
  · exact (by decide : 2 ≤ 4)
  split
  · exact (by decide : 3 ≤ 4)
  rename_i hname
  split
  · exact (by decide : 3 ≤ 4)
  rename_i n s1 hread
  extract_lets r tb
  split
  · exact (by decide : 4 ≤ 4)
  rename_i hrecord
  have htb : ∀ e, tb = .error e → e ≤ 4 := by
    intro e he
    simp only [tb] at he
    split_ifs at he
    · split at he
      · cases he
        exact readTable_error ‹_›
      · exact readTemplates_error he
    · exact readTemplates_error he
    · split at he
      · cases he
        exact readTable_error ‹_›
      · cases he
  clear_value tb
  split
  · exact htb _ rfl
  · exact ⟨fun hq => hname (.inl hq), rfl, rfl, rfl, rfl, rfl, by simpa using hrecord⟩

theorem readLaunch_error {s : State} {k : Pkt} {e : Nat} (h : readLaunch s k = .error e) : e < 256 :=
  lt_of_le_of_lt ((readLaunch_spec s k).error h) (by decide)

/-! ### The command of a copy packet (R48, R403) -/

theorem kNum_lt (w : W512) (i n : Nat) : kNum w i n < 2 ^ (8 * n) := Nat.mod_lt _ (by positivity)

/-- The body of a command word, read from the word's number. -/
theorem decCopy_ofNat {n : Nat} (h : n < 2 ^ 256) : (decCopy (BitVec.ofNat 256 n)).src.toNat = n / 2 ^ 128 % 2 ^ 64 ∧
    (decCopy (BitVec.ofNat 256 n)).dst.toNat = n / 2 ^ 64 % 2 ^ 64 ∧ (decCopy (BitVec.ofNat 256 n)).len.toNat = n / 2 ^ 16 % 2 ^ 32 := by
  have htoNat : (BitVec.ofNat 256 n).toNat = n := by
    rw [BitVec.toNat_ofNat]
    exact Nat.mod_eq_of_lt h
  simp only [decCopy, BitVec.extractLsb'_toNat, htoNat, Nat.shiftRight_eq_div_pow, and_self]

theorem decCopy_of_fields {src dst len flag n : Nat} (hsrc : src < 2 ^ 64) (hdst : dst < 2 ^ 64) (hlen : len < 2 ^ 32) (hflag : flag ≤ 2 ^ 12)
    (hn : n = src * 2 ^ 128 + dst * 2 ^ 64 + len * 2 ^ 16 + flag + 0x200) : (decCopy (BitVec.ofNat 256 n)).src.toNat = src ∧
    (decCopy (BitVec.ofNat 256 n)).dst.toNat = dst ∧ (decCopy (BitVec.ofNat 256 n)).len.toNat = len := by
  obtain ⟨hsrcBits, hdstBits, hlenBits⟩ := decCopy_ofNat (n := n) (by omega)
  exact ⟨hsrcBits.trans (by omega), hdstBits.trans (by omega), hlenBits.trans (by omega)⟩

/-- The body of the command names what the packet names. -/
theorem decCopy_copyPacketWord (w : W512) : (decCopy (copyPacketWord w)).src.toNat = kNum w 24 8 ∧
    (decCopy (copyPacketWord w)).dst.toNat = kNum w 32 8 ∧ (decCopy (copyPacketWord w)).len.toNat = kNum w 40 4 :=
  decCopy_of_fields (flag := if kNum w 44 1 = 2 then 2 ^ 12 else 0) (kNum_lt w 24 8) (kNum_lt w 32 8) (kNum_lt w 40 4) (by split <;> decide) rfl

/-! ### The core caches that a fence writes back (R48, R187) -/

/-- The cache and the general registers of the strand on core `n`. -/
def State.cacheAt (s : State) (n : Nat) : Option (List Line × Vector GReg 64) := (s.strand n).map fun x => (x.cache, x.g)

theorem State.cacheAt_of_strand {s : State} {n : Nat} {x : Strand} (h : s.strand n = some x) : s.cacheAt n = some (x.cache, x.g) := by
  rw [State.cacheAt, h]
  rfl

theorem State.cacheAt_sendBack (s : State) (m : Nat) (l : Line) (n : Nat) : (s.sendBack m l).cacheAt n = s.cacheAt n := by
  unfold State.sendBack
  split_ifs
  · rfl
  · split
    · rfl
    · rename_i x hx
      by_cases hn : n = m
      · rw [hn, State.cacheAt_of_strand hx]
        exact congrArg (Option.map fun y : Strand => (y.cache, y.g)) (State.strand_setStrand_same _ _ _)
      · exact congrArg (Option.map _) (State.strand_setStrand_other _ _ hn)

theorem State.sendBack_qslots (s : State) (m : Nat) (l : Line) : (s.sendBack m l).qslots = s.qslots := by
  unfold State.sendBack
  split_ifs
  · rfl
  · split <;> rfl

theorem State.onStrand_qslots (s : State) (n : Nat) (f : Strand → Strand) : (s.onStrand n f).qslots = s.qslots := by
  unfold State.onStrand
  split <;> rfl

theorem State.writeBackAll_qslots (s : State) (m : Nat) : (s.writeBackAll m).qslots = s.qslots := by
  unfold State.writeBackAll
  split
  · rfl
  · exact (State.onStrand_qslots _ _ _).trans (foldl_keeps (g := State.qslots) (fun z l => State.sendBack_qslots z m l) _ _)

theorem State.cacheAt_writeBackAll (s : State) (m n : Nat) :
    (s.writeBackAll m).cacheAt n = if n = m then (s.cacheAt n).map fun c => (cleanLines c.1, c.2) else s.cacheAt n := by
  unfold State.writeBackAll
  split
  · rename_i hm
    split_ifs with hn
    · rw [hn, State.cacheAt, hm]
      rfl
    · rfl
  · rename_i x hx
    have hsent : ∀ j, (x.cache.foldl (fun (z : State) l => z.sendBack m l) s).cacheAt j = s.cacheAt j := fun j =>
      foldl_keeps (g := fun z => State.cacheAt z j) (fun z l => State.cacheAt_sendBack z m l j) _ _
    rw [← hsent n, State.cacheAt, State.cacheAt, State.strand_onStrand]
    split_ifs
    · simp only [Option.map_map]
      rfl
    · rfl

theorem mask_of_mem_cleanLines {c : List Line} {l : Line} (h : l ∈ cleanLines c) : l.mask = 0 := by
  obtain ⟨j, -, rfl⟩ := List.mem_map.1 (List.mem_filter.1 h).1
  rfl

/-- A core whose cache is written back, or was clean, has a clean cache; its general registers stay. -/
theorem State.cacheAt_foldl_writeBackAll {n : Nat} (cores : List Nat) {s : State} {c : List Line} {g : Vector GReg 64}
    (h : s.cacheAt n = some (c, g)) (hclean : n ∈ cores ∨ ∀ l ∈ c, l.mask = 0) :
    ∃ d, (cores.foldl (fun (z : State) m => z.writeBackAll m) s).cacheAt n = some (d, g) ∧ ∀ l ∈ d, l.mask = 0 := by
  induction cores generalizing s c with
  | nil => exact ⟨c, h, hclean.resolve_left List.not_mem_nil⟩
  | cons m cores ih =>
    have hstep := State.cacheAt_writeBackAll s m n
    rw [h] at hstep
    by_cases hn : n = m
    · rw [if_pos hn] at hstep
      exact ih hstep (.inr fun l hl => mask_of_mem_cleanLines hl)
    · rw [if_neg hn] at hstep
      exact ih hstep (hclean.imp_left fun hmem => (List.mem_cons.1 hmem).resolve_left hn)

end Sys2Proof.Machine
end

section
/-! PROOFS. The packets of a queue start, complete or fail (R47 to R49, R51). -/
namespace Sys2Proof.Machine

/-! ### The next packet of a queue -/

/-- A queue in error: its state, its err_status, its read_index at the packet, no signal. -/
structure Failed (q : Nat) (r : W512) (flight : List Msg) (e : Nat) (t : State) : Prop where
  state : qState (t.qRecord q) = 3
  status : bitsN (t.qRecord q) 71 64 = e
  read : qRead (t.qRecord q) = qRead r
  flight : t.flight = flight

theorem State.queueError_failed {s : State} (hs : Canonical s) {q : Nat} (h : q = 0 ∨ s.Slotted q ∨ s.BitApart q) {e : Nat} (he : e < 256)
    (tag : Nat) : Failed q (s.qRecord q) s.flight e (s.queueError q e tag) := by
  have hrecord := State.qRecord_queueError hs h e tag
  exact ⟨by rw [hrecord, qState_erroneous], by rw [hrecord, errStatus_erroneous _ he], by rw [hrecord, qRead_erroneous],
    State.queueError_flight _ _ _ _⟩

/-- The packet that a queue may start, in a state in its form where the queue still holds its slot. -/
structure NextOf (s s1 : State) (k : Pkt) : Prop where
  next : s.nextPacket s.op.a = some (.ok (k, s1))
  canonical : Canonical s1
  slot : s1.slotOfQueue k.q = some (k.slot, k.x)
  lt : k.slot < 64
  fresh : ∀ e ∈ k.x.started, e.index ≠ qRead k.qrec
  qrec : s1.qRecord k.q = k.qrec

/-- Such a packet with a good header, which no packet before it holds. -/
structure ReadyOf (s s1 : State) (k : Pkt) : Prop extends NextOf s s1 k where
  header : headerFault s1 k = none
  order : kOrder k.w = true → k.x.started = []

/-- The queue's slot lists the packet behind those started before it. -/
structure StartedAs (k : Pkt) (hold : Option Hold) (ref : Nat) (t : State) : Prop where
  slot : ∃ y, t.slotOfQueue k.q = some (k.slot, y) ∧ y.started = k.x.started ++ [k.entry hold ref]

/-- The packet has completed in the step that started it. -/
structure CompletedAs (k : Pkt) (flight : List Msg) (err : Bool) (t : State) : Prop where
  slot : ∃ y, t.slotOfQueue k.q = some (k.slot, y) ∧ y.started = k.x.started ∧ qRead y.record = (qRead k.qrec + 1) % 2 ^ 32
  flight : t.flight =
    flight ++ completionMsgs k.q (qPart k.qrec) (qVd k.qrec) (kKnot k.w) (kDelta k.w) (qChain k.qrec) false err false

section
variable {s s1 : State} {k : Pkt}

theorem NextOf.failed (h : NextOf s s1 k) {e : Nat} (he : e < 256) : Failed k.q k.qrec s1.flight e (s1.queueError k.q e (kTag k.w)) := by
  have hfail := State.queueError_failed h.canonical (.inr (.inl ⟨_, _, h.slot, h.lt⟩)) he (kTag k.w)
  rwa [h.qrec] at hfail

theorem NextOf.startedAs (h : NextOf s s1 k) (hold : Option Hold) (ref adv : Nat) : StartedAs k hold ref (s1.startPacket k hold ref adv) :=
  ⟨_, State.startPacket_slotOfQueue h.canonical h.slot h.lt hold ref adv, rfl⟩

/-- A malformed packet of any type puts its queue in error. -/
theorem NextOf.malformed (h : NextOf s s1 k) {e : Nat} (he : headerFault s1 k = some e) {i : Instr}
    (hi : i ∈ [Instr.launchPacket, .copyPacket, .signalPacket, .waitPacket, .fencePacket]) :
    exec i s = .next (s1.queueError k.q e (kTag k.w)) := by
  simp only [List.mem_cons, List.not_mem_nil, or_false] at hi
  rcases hi with rfl | rfl | rfl | rfl | rfl
  · exact packetStep_malformed h.next he
  · exact packetStep_malformed h.next he
  · exact packetStep_malformed h.next he
  · exact packetStep_malformed h.next he
  · exact packetStep_malformed h.next he

variable (h : ReadyOf s s1 k)
include h

/-! ### Signal packets -/

theorem exec_signalPacket_malformed (ht : kType k.w = 3) (hbits : bitsN k.w 511 192 ≠ 0) :
    exec .signalPacket s = .next (s1.queueError k.q 2 (kTag k.w)) :=
  packetStep_refused h.next h.header ht h.order (if_pos hbits)

/-- A signal packet completes at once. -/
theorem exec_signalPacket (ht : kType k.w = 3) (hbits : bitsN k.w 511 192 = 0) :
    ∃ t, exec .signalPacket s = .next t ∧ CompletedAs k s1.flight false t := by
  obtain ⟨hslot, hflight, -⟩ := State.packetDone_startPacket h.canonical h.slot h.lt h.fresh h.qrec none 0 1
    (z := s1.startPacket k none 0 1) rfl (by simp) false
  exact ⟨_, packetStep_done h.next h.header ht h.order (if_neg (not_not.2 hbits)), hslot, hflight⟩

/-! ### Launch packets -/

theorem exec_launchPacket_malformed (ht : kType k.w = 1) {e : Nat} (he : readLaunch s1 k = .error e) :
    exec .launchPacket s = .next (s1.queueError k.q e (kTag k.w)) := by
  refine packetStep_refused h.next h.header ht h.order ?_
  dsimp only
  rw [he]

section
variable {l : Launch} {s2 : State} (ht : kType k.w = 1) (hl : readLaunch s1 k = .ok (l, s2))
include ht hl

/-- The dispatcher takes the launch. -/
theorem exec_launchPacket_taken (hfits : rResident l.record = false ∨ trialPlace (s2.emptied l.part) l ≠ none) :
    ∃ t, exec .launchPacket s = .next t ∧ t.launches = s2.launches ++ [l] ∧ t.launchCtr = s2.launchCtr + 1 := by
  refine ⟨{ s2.startPacket k none (2 * l.id + 1) 1 with launches := s2.launches ++ [l], launchCtr := s2.launchCtr + 1 }, ?_, rfl, rfl⟩
  refine packetStep_done h.next h.header ht h.order ?_
  dsimp only
  rw [hl]
  refine if_neg ?_
  rw [Bool.and_eq_true, Option.isNone_iff_eq_none]
  rintro ⟨hresident, hnone⟩
  rcases hfits with hfits | hfits
  · simp [hfits] at hresident
  · exact hfits hnone

/-- A resident launch that never fits completes with its error flag. -/
theorem exec_launchPacket_unfit (hslots : s2.qslots = s1.qslots) (hresident : rResident l.record = true)
    (hnone : trialPlace (s2.emptied l.part) l = none) :
    ∃ t, exec .launchPacket s = .next t ∧ t.launches = s2.launches ∧ CompletedAs k s2.flight true t := by
  have hspec : LaunchOf k l := (readLaunch_spec s1 k).ok hl
  have hs2 : Canonical s2 := (good_readLaunch h.canonical k).ok hl
  have hslot : s2.slotOfQueue k.q = some (k.slot, k.x) := (State.slotOfQueue_congr hslots _).trans h.slot
  have hqrec : s2.qRecord k.q = k.qrec := by
    rw [← h.qrec, State.qRecord_of_slot hslot h.lt, State.qRecord_of_slot h.slot h.lt]
    simp [hspec.device]
  obtain ⟨n, ps, g, c, hlog⟩ := (s2.startPacket k none 0 1).logError_only ⟨6, 2, l.part, kTag k.w, 0⟩
  obtain ⟨hdone, hflight, hlaunches⟩ := State.packetDone_startPacket hs2 hslot h.lt h.fresh hqrec none 0 1
    (z := (s2.startPacket k none 0 1).logError ⟨6, 2, l.part, kTag k.w, 0⟩) (by rw [hlog]) (by simp [hlog]) true
  refine ⟨_, packetStep_done h.next h.header ht h.order ?_, hlaunches.trans (by simp [hlog]), hdone, hflight⟩
  dsimp only
  rw [hl]
  exact if_pos (by simp [hresident, hnone])

end

/-! ### Copy packets -/

/-- The copy command of a packet, with its number (R48, R235). -/
def Pkt.command (k : Pkt) (number : Nat) : Cmd :=
  ⟨.copy, copyPacketWord k.w, 0, noCore, if k.q = 0 then 64 else qPart k.qrec, qVd k.qrec, 0, false, 0, qChain k.qrec, false, queueOrigin k.q,
    false, [], number, false, 0, (0, 0, 0), none, []⟩

theorem exec_copyPacket_malformed (ht : kType k.w = 2)
    (hbits : bitsN k.w 511 360 ≠ 0 ∨ kNum k.w 40 4 = 0 ∨ (kNum k.w 44 1 ≠ 1 ∧ kNum k.w 44 1 ≠ 2)) :
    exec .copyPacket s = .next (s1.queueError k.q 2 (kTag k.w)) :=
  packetStep_refused h.next h.header ht h.order (if_pos hbits)

section
variable (ht : kType k.w = 2) (hbits : bitsN k.w 511 360 = 0) (hlen : kNum k.w 40 4 ≠ 0) (hdir : kNum k.w 44 1 = 1 ∨ kNum k.w 44 1 = 2)
include ht hbits hlen hdir

theorem exec_copyPacket_outside (hrange : packetRange s1 k.q (qPart k.qrec) (kNum k.w 24 8) 1 = false ∨
      packetRange s1 k.q (qPart k.qrec) (kNum k.w 32 8) 1 = false) :
    exec .copyPacket s = .next (s1.queueError k.q 3 (kTag k.w)) := by
  refine packetStep_refused h.next h.header ht h.order ?_
  dsimp only
  rw [if_neg (by tauto), if_pos (by simpa using hrange)]

/-- A copy packet becomes a copy command of its slice. -/
theorem exec_copyPacket (hsrc : packetRange s1 k.q (qPart k.qrec) (kNum k.w 24 8) 1 = true)
    (hdst : packetRange s1 k.q (qPart k.qrec) (kNum k.w 32 8) 1 = true) (hroom : ∀ j, s1.buffers j < 32) :
    ∃ t c, exec .copyPacket s = .next t ∧ (∃ ref, StartedAs k none ref t) ∧ t.copies = s1.copies ++ [c] ∧ c.queue = some k.q ∧
      c.phase = .granted ∧ c.cmd.op = .copy ∧ c.cmd.word = copyPacketWord k.w ∧ c.chain = qChain k.qrec := by
  obtain ⟨hslot⟩ := h.startedAs none (2 * s1.cmdCtr) 1
  let c := CopyCmd.ofCmd (k.command s1.cmdCtr) (some k.q) (s1.copySlice (k.command s1.cmdCtr) (some k.q)) s1.cmdCtr
  let z := s1.startPacket k none (2 * s1.cmdCtr) 1
  refine ⟨{ z with copies := z.copies ++ [c], cmdCtr := s1.cmdCtr + 1 }, c, packetStep_done h.next h.header ht h.order ?_,
    ⟨2 * s1.cmdCtr, ⟨hslot⟩⟩, congrArg (· ++ [c]) (State.startPacket_copies _ _ _ _ _), rfl, rfl, rfl, rfl, rfl⟩
  dsimp only
  rw [if_neg (by tauto), if_neg (by simp [hsrc, hdst])]
  exact if_neg (by simpa using hroom _)

end

/-! ### Wait packets -/

theorem exec_waitPacket_malformed (ht : kType k.w = 4) (hbits : bitsN k.w 511 384 ≠ 0) :
    exec .waitPacket s = .next (s1.queueError k.q 2 (kTag k.w)) :=
  packetStep_refused h.next h.header ht h.order (if_pos hbits)

theorem exec_waitPacket_outside (ht : kType k.w = 4) (hbits : bitsN k.w 511 384 = 0)
    (hrange : kNum k.w 24 8 % 32 ≠ 0 ∨ packetRange s1 k.q (qPart k.qrec) (kNum k.w 24 8) 32 = false) :
    exec .waitPacket s = .next (s1.queueError k.q 3 (kTag k.w)) := by
  refine packetStep_refused h.next h.header ht h.order ?_
  dsimp only
  rw [if_neg (not_not.2 hbits), if_pos (by simpa using hrange)]

/-- A wait packet starts: read_index stays at it. -/
theorem exec_waitPacket (ht : kType k.w = 4) (hbits : bitsN k.w 511 384 = 0) (halign : kNum k.w 24 8 % 32 = 0)
    (hrange : packetRange s1 k.q (qPart k.qrec) (kNum k.w 24 8) 32 = true) :
    ∃ t, exec .waitPacket s = .next t ∧ qRead (t.qRecord k.q) = qRead k.qrec ∧ t.flight = s1.flight ∧
      StartedAs k (some (.wait (packetLoc k.q (kNum k.w 24 8)) (BitVec.ofNat 64 (kNum k.w 32 8))
        (if kNum k.w 40 8 = 0 then none else some (s1.tick + kNum k.w 40 8)))) 0 t := by
  let hold : Hold := .wait (packetLoc k.q (kNum k.w 24 8)) (BitVec.ofNat 64 (kNum k.w 32 8))
    (if kNum k.w 40 8 = 0 then none else some (s1.tick + kNum k.w 40 8))
  have hread : qRead k.qrec < 2 ^ 32 := bitsN_lt k.qrec 351 320
  refine ⟨s1.startPacket k (some hold) 0 0, packetStep_done h.next h.header ht h.order ?_, ?_, State.startPacket_flight _ _ _ _ _, h.startedAs _ _ _⟩
  · dsimp only
    rw [if_neg (not_not.2 hbits), if_neg (by simp [halign, hrange])]
  · rw [State.startPacket_qRecord h.canonical h.slot h.lt, qRead_advanced]
    exact Nat.mod_eq_of_lt hread

/-! ### Fence packets -/

theorem exec_fencePacket_malformed (ht : kType k.w = 5) (hbits : bitsN k.w 511 192 ≠ 0) :
    exec .fencePacket s = .next (s1.queueError k.q 2 (kTag k.w)) :=
  packetStep_refused h.next h.header ht h.order (if_pos hbits)

/-- A fence packet starts: the caches of the partition's cores are written back. -/
theorem exec_fencePacket (ht : kType k.w = 5) (hbits : bitsN k.w 511 192 = 0) (hempty : k.x.started = []) :
    ∃ t, exec .fencePacket s = .next t ∧ StartedAs k (some .fence) 0 t ∧ (k.q ≠ 0 → ∀ n x, s1.strand n = some x → x.id.part = qPart k.qrec →
      ∃ y, t.strand n = some y ∧ (∀ l ∈ y.cache, l.mask = 0) ∧ y.g = x.g) := by
  let cores := if k.q = 0 then [] else (s1.strands.filter fun e => e.2.id.part == qPart k.qrec).map (·.1)
  let z := s1.startPacket k (some .fence) 0 1
  obtain ⟨y, hslot, hy⟩ := h.startedAs (some .fence) 0 1
  have hqslots : (cores.foldl (fun (z : State) n => z.writeBackAll n) z).qslots = z.qslots :=
    foldl_keeps (g := State.qslots) (fun z n => State.writeBackAll_qslots z n) _ _
  refine ⟨cores.foldl (fun (z : State) n => z.writeBackAll n) z, packetStep_done h.next h.header ht h.order ?_,
    ⟨y, (State.slotOfQueue_congr hqslots _).trans hslot, hy⟩, fun hq n x hx hpart => ?_⟩
  · dsimp only
    rw [if_neg (not_not.2 hbits), if_neg (by simp [hempty])]
  · have hcore : n ∈ cores := by
      simp only [cores, if_neg hq, List.mem_map, List.mem_filter, beq_iff_eq]
      exact ⟨(n, x), ⟨Tbl.mem_of_find hx, hpart⟩, rfl⟩
    have hz : z.cacheAt n = some (x.cache, x.g) := State.cacheAt_of_strand ((congrArg (Tbl.find · n) (State.startPacket_strands _ _ _ _ _)).trans hx)
    obtain ⟨d, hd, hclean⟩ := State.cacheAt_foldl_writeBackAll cores hz (.inl hcore)
    obtain ⟨w, hw, hwd⟩ := Option.map_eq_some_iff.1 hd
    obtain ⟨hcache, hg⟩ := Prod.mk.inj hwd
    exact ⟨w, hw, hcache ▸ hclean, hg⟩

end

end Sys2Proof.Machine
end

section
/-! PROOFS. Packets that hold their queue (R48, R51), and obligation O51. -/
namespace Sys2Proof.Machine

/-! ### Wait packets that are satisfied -/

theorem chain_knotOf_lt (bs : List Byte) : (knotOf bs).chain < 2 ^ 48 := Nat.mod_lt _ (by decide)

/-- The record of a queue whose wait packet is satisfied: its chain joins the knot's, read_index goes on. -/
def joined (r : W512) (chain : Nat) : W512 := advanced (setField r 303 256 chain) (qRead r + 1)

theorem qChain_joined (r : W512) {chain : Nat} (h : chain < 2 ^ 48) : qChain (joined r chain) = chain := by
  rw [joined, qChain_advanced, qChain, bitsN_setField_same _ _ (by decide)]
  exact Nat.mod_eq_of_lt h

theorem qRead_joined (r : W512) (chain : Nat) : qRead (joined r chain) = (qRead r + 1) % 2 ^ 32 := qRead_advanced _ _

theorem qPart_joined (r : W512) (chain : Nat) : qPart (joined r chain) = qPart r :=
  (qPart_advanced _ _).trans (bitsN_setField_other r chain (by decide) (by decide))

theorem qVd_joined (r : W512) (chain : Nat) : qVd (joined r chain) = qVd r :=
  (qVd_advanced _ _).trans (bitsN_setField_other r chain (by decide) (by decide))

/-- The record whose partition and virtual device a completion names: the slot's copy, which for a queue outside the 64 slots is the one it was
displaced with. -/
def State.completer (s : State) (q j : Nat) (x : QSlot) : W512 := if j < 64 then s.qRecord q else x.record

/-- The queue's slot once its record is written keeps its started packets, and names the same partition and virtual device. -/
theorem State.slot_setRecord_joined {s : State} (hwf : s.qslots.wf = true) {q j : Nat} {x : QSlot} (h : s.slotOfQueue q = some (j, x)) (chain : Nat) :
    ∃ y, (s.setRecord q (joined (s.qRecord q) chain)).slotOfQueue q = some (j, y) ∧ y.started = x.started ∧
      qPart y.record = qPart (s.completer q j x) ∧ qVd y.record = qVd (s.completer q j x) := by
  unfold State.completer
  by_cases hj : j < 64
  · rw [if_pos hj]
    exact ⟨_, State.slotOfQueue_setRecord hwf h hj _, rfl, qPart_joined _ _, qVd_joined _ _⟩
  · have hnot : ¬ s.Slotted q := by
      rintro ⟨i, y, hy, hi⟩
      cases h.symm.trans hy
      exact hj hi
    rw [if_neg hj]
    exact ⟨x, (State.slotOfQueue_setRecord_of_not_slotted hnot _).trans h, rfl, rfl, rfl⟩

section
variable {s s1 : State} {j : Nat} {x : QSlot} {e : Started} (hs : Canonical s) (hhold : s.holding s.op.a = some (j, x, e))
  (hslot : s.slotOfQueue s.op.a = some (j, x)) (hfind : x.started.find? (fun k => k.index == e.index) = some e)
include hs hhold hslot hfind

/-- WAIT_PACKET_SATISFIED: the knot has the count, in time. -/
theorem exec_waitPacketSatisfied {l : Loc} {target : W64} {dl : Option Nat} (hwait : e.hold = some (.wait l target dl)) {g : Got}
    (hread : homeRead s ⟨qPart (s.qRecord s.op.a), qVd (s.qRecord s.op.a), 0⟩ l 32 = .ok g s1) (hslots : s1.qslots = s.qslots)
    (hqrec : s1.qRecord s.op.a = s.qRecord s.op.a) (hcount : target.sle (knotOf g.bytes).count = true) (htime : ∀ d, dl = some d → s.tick ≤ d) :
    let r := s.qRecord s.op.a
    let chain := max (qChain r) (knotOf g.bytes).chain
    let f := s.completer s.op.a j x
    ∃ t, exec .waitPacketSatisfied s = .next t ∧ t.qRecord s.op.a = joined r chain ∧
      t.flight = s1.flight ++ completionMsgs s.op.a (qPart f) (qVd f) e.knot e.delta chain (knotOf g.bytes).overflow false false := by
  intro r chain f
  have hs1 : Canonical s1 := (good_homeRead hs _ _ _).ok hread
  have hmet : waitMet s s.op.a e = some (knotOf g.bytes, s1) := by
    unfold waitMet
    rw [hwait]
    dsimp only
    rw [hread]
    refine if_pos ?_
    rw [hcount, Bool.true_and]
    cases dl with
    | none => rfl
    | some d => simp [htime d rfl]
  obtain ⟨y, hy, hstarted, hpart, hvd⟩ := State.slot_setRecord_joined hs1.qslots_wf ((State.slotOfQueue_congr hslots _).trans hslot) chain
  have hfy : y.started.find? (fun k => k.index == e.index) = some e := hstarted ▸ hfind
  have hf : s1.completer s.op.a j x = f := by simp only [f, State.completer, hqrec]
  rw [hf] at hpart hvd
  rw [hqrec] at hy
  have hwf := (hs1.setRecord s.op.a (joined r chain)).qslots_wf
  refine ⟨(s1.setRecord s.op.a (joined r chain)).packetDone s.op.a e.index chain (knotOf g.bytes).overflow false false, ?_, ?_, ?_⟩
  · change execWaitPacketSatisfied s = _
    unfold execWaitPacketSatisfied
    dsimp only
    rw [hhold]
    dsimp only
    rw [hmet]
    dsimp only
    rw [hqrec]
    rfl
  · rw [State.packetDone_qRecord hwf hy hfy, State.qRecord_setRecord hs1]
  · obtain ⟨b, qs, honly⟩ := s1.setRecord_only s.op.a (joined r chain)
    rw [State.packetDone_flight hy hfy, hpart, hvd, honly]

omit hfind in
/-- WAIT_PACKET_TIMEOUT: the packet's timeout has passed (R51). -/
theorem exec_waitPacketTimeout {l : Loc} {target : W64} {d : Nat} (hwait : e.hold = some (.wait l target (some d))) (hlate : d < s.tick)
    (hunmet : waitMet s s.op.a e = none) (hplace : s.op.a = 0 ∨ j < 64 ∨ s.BitApart s.op.a) :
    ∃ t, exec .waitPacketTimeout s = .next t ∧ Failed s.op.a (s.qRecord s.op.a) s.flight 6 t := by
  let y : QSlot := { x with started := x.started.filter (·.index != e.index) }
  let z : State := { s with qslots := s.qslots.put j y }
  have hz : Canonical z := hs.putSlot j y
  have hzslot : z.slotOfQueue s.op.a = some (j, y) := State.slotOfQueue_putSlot hs.qslots_wf hslot rfl rfl
  have hqrec : z.qRecord s.op.a = s.qRecord s.op.a := State.qRecord_putSlot hs.qslots_wf hslot rfl rfl rfl rfl rfl rfl
  have hfail := State.queueError_failed hz (hplace.imp_right (Or.imp_left fun hj => ⟨j, y, hzslot, hj⟩)) (e := 6) (by decide) e.tag.toNat
  rw [hqrec] at hfail
  refine ⟨z.queueError s.op.a 6 e.tag.toNat, ?_, hfail⟩
  change execWaitPacketTimeout s = _
  unfold execWaitPacketTimeout
  dsimp only
  rw [hhold]
  dsimp only
  rw [hwait]
  exact if_pos ⟨hlate, by simp [hunmet]⟩

omit hs in
/-- FENCE_PACKET_COMPLETE: the write-backs have been performed. -/
theorem exec_fencePacketComplete (hfence : e.hold = some .fence) (hidle : s.op.a = 0 ∨ s.backing (qPart (s.qRecord s.op.a)) = false) :
    ∃ t, exec .fencePacketComplete s = .next t ∧ t.flight = s.flight ++
      completionMsgs s.op.a (qPart x.record) (qVd x.record) e.knot e.delta (qChain (s.qRecord s.op.a)) false false false := by
  refine ⟨_, ?_, State.packetDone_flight hslot hfind (qChain (s.qRecord s.op.a)) false false false⟩
  change execFencePacketComplete s = _
  unfold execFencePacketComplete
  dsimp only
  rw [hhold]
  exact if_pos (by simpa [hfence] using hidle)

end

/-- Settles O51: each clause by the lemma of its step. -/
theorem packets : Obligations.Packets := by
  unfold Obligations.Packets
  intro s q hsq signal
  refine ⟨fun k s1 hnext hmem htbl hslot hfresh hqrec => ?_, fun j x e hhold hslot hfind hmem htbl => ?_⟩
  · obtain ⟨hq, hlt⟩ := State.nextPacket_spec hnext
    subst hq
    have h : NextOf s s1 k := ⟨hsq ▸ hnext, ⟨hmem, htbl⟩, hslot, hlt, hfresh, hqrec.symm⟩
    intro w p next starts completes fails
    have hfails : ∀ {i : Instr} {e : Nat}, e < 256 → exec i s = .next (s1.queueError k.q e (kTag w)) → fails i e := by
      intro i e he hexec
      obtain ⟨hstate, hstatus, hread, hflight⟩ := h.failed he
      exact ⟨_, hexec, hstate, hstatus, hread, hflight⟩
    have hstarts : ∀ {i : Instr} {P : State → Started → Prop} {t : State} {hold : Option Hold} {ref : Nat}, exec i s = .next t →
        StartedAs k hold ref t → P t (k.entry hold ref) → starts i P := by
      rintro i P t hold ref hexec ⟨y, hy, hstarted⟩ hP
      exact ⟨t, y, _, hexec, hy, hstarted, rfl, rfl, rfl, hP⟩
    refine ⟨fun e he i hi => hfails (lt_of_le_of_lt (headerFault_le he) (by decide)) (h.malformed he hi), fun hheader horder => ?_⟩
    have hr : ReadyOf s s1 k := ⟨h, hheader, horder⟩
    refine ⟨fun ht => ⟨fun hbits => ?_, fun hbits => ?_⟩, fun ht => ⟨fun e he => ?_, fun l s2 hl hslots hbase => ?_⟩,
      fun ht => ⟨fun hbits => ?_, fun hbits hlen hdir => ⟨fun hrange => ?_, fun hsrc hdst hroom => ?_⟩⟩,
      fun ht => ⟨fun hbits => ?_, fun hbits hrange => ?_, fun hbits halign hrange => ?_⟩, fun ht => ⟨fun hbits => ?_, fun hbits hempty => ?_⟩⟩
    · obtain ⟨t, hexec, ⟨y, hy, hstarted, hread⟩, hflight⟩ := exec_signalPacket hr ht hbits
      exact ⟨t, y, hexec, hy, hstarted, hread, hflight⟩
    · exact hfails (by decide) (exec_signalPacket_malformed hr ht hbits)
    · exact hfails (readLaunch_error he) (exec_launchPacket_malformed hr ht he)
    · have hspec : LaunchOf k l := (readLaunch_spec s1 k).ok hl
      refine ⟨hspec.part, hspec.vd, hspec.queue, hspec.knot, hspec.chain0, hspec.record, fun hfits => exec_launchPacket_taken hr ht hl hfits,
        fun hresident hnone => ?_⟩
      obtain ⟨t, hexec, hlaunches, -, hflight⟩ := exec_launchPacket_unfit hr ht hl hslots hresident hnone
      exact ⟨t, hexec, hlaunches, hflight⟩
    · exact hfails (by decide) (exec_copyPacket_malformed hr ht hbits)
    · exact hfails (by decide) (exec_copyPacket_outside hr ht hbits hlen hdir hrange)
    · obtain ⟨t, c, hexec, ⟨ref, hstarted⟩, hcopies, hqueue, hphase, hop, hword, hchain⟩ :=
        exec_copyPacket hr ht hbits hlen hdir hsrc hdst hroom
      obtain ⟨hs, hd, hl⟩ := decCopy_copyPacketWord k.w
      exact hstarts hexec hstarted ⟨c, hcopies, hqueue, hphase, hop, hword ▸ hs, hword ▸ hd, hword ▸ hl, hchain⟩
    · exact hfails (by decide) (exec_waitPacket_malformed hr ht hbits)
    · exact hfails (by decide) (exec_waitPacket_outside hr ht hbits hrange)
    · obtain ⟨t, hexec, hread, hflight, hstarted⟩ := exec_waitPacket hr ht hbits halign hrange
      exact hstarts hexec hstarted ⟨hread, hflight, rfl⟩
    · exact hfails (by decide) (exec_fencePacket_malformed hr ht hbits)
    · obtain ⟨t, hexec, hstarted, hclean⟩ := exec_fencePacket hr ht hbits hempty
      exact hstarts hexec hstarted ⟨rfl, hclean⟩
  · subst hsq
    have hs : Canonical s := ⟨hmem, htbl⟩
    intro r from_
    refine ⟨fun l target dl hwait => ⟨fun g s1 hread hslots hbase hhbm hqrec => ?_, fun d hd hlate hunmet hplace => ?_⟩,
      fun hfence hidle => exec_fencePacketComplete hhold hslot hfind hfence hidle⟩
    · intro n hcount htime
      obtain ⟨t, hexec, hrecord, hflight⟩ := exec_waitPacketSatisfied hs hhold hslot hfind hwait hread hslots hqrec hcount htime
      have hchain : max (qChain r) n.chain < 2 ^ 48 := max_lt (bitsN_lt r 303 256) (chain_knotOf_lt _)
      exact ⟨t, hexec, by rw [hrecord, qChain_joined _ hchain], by rw [hrecord, qRead_joined], hflight⟩
    · subst hd
      obtain ⟨t, hexec, hstate, hstatus, hread, hflight⟩ := exec_waitPacketTimeout hs hhold hslot hwait hlate hunmet (.inr hplace)
      exact ⟨t, hexec, hstate, hstatus, hread, hflight⟩

end Sys2Proof.Machine
end

section
/-! SUPPORT. The strand of dispatch (R53): its registers and CSRs. -/
namespace Sys2Proof.Machine

theorem bitsN_ofNat_low (v k : Nat) (hk : k < 64) : bitsN (BitVec.ofNat 64 v) k 0 = v % 2 ^ (k + 1) := by
  rw [bitsN, BitVec.toNat_ofNat, Nat.shiftRight_zero, Nat.sub_zero, Nat.mod_mod_of_dvd _ (pow_dvd_pow 2 (by omega))]

section
variable (l : Launch) (e : TeamReq) (cs js : List Nat) (n j : Nat)

/-- The CSRs of dispatch that carry the strand's place and its launch's limits (R53, R75, R169). -/
theorem dispatchStrand_csrAt :
    let x := dispatchStrand l e cs js n j
    let r := l.recordFor e
    x.csrAt 0x01#7 = BitVec.ofNat 64 j ∧ x.csrAt 0x07#7 = BitVec.ofNat 64 n ∧ x.csrAt 0x10#7 = BitVec.ofNat 64 e.chain ∧
      x.csrAt 0x13#7 = BitVec.ofNat 64 (bitsN r 623 576) ∧ x.csrAt 0x20#7 = BitVec.ofNat 64 (rSelv r) ∧
      x.csrAt 0x21#7 = BitVec.ofNat 64 (bitsN r 497 482 * 4) := by
  simp [Strand.csrAt, dispatchStrand, dispatchCsrs]

theorem dispatchStrand_chain : (dispatchStrand l e cs js n j).chain = e.chain % 2 ^ 48 := by
  obtain ⟨-, -, h, -⟩ := dispatchStrand_csrAt l e cs js n j
  rw [Strand.chain, h, bitsN_ofNat_low _ _ (by decide)]

theorem dispatchStrand_chlim : (dispatchStrand l e cs js n j).chlim = bitsN (l.recordFor e) 623 576 := by
  obtain ⟨-, -, -, h, -⟩ := dispatchStrand_csrAt l e cs js n j
  rw [Strand.chlim, h, bitsN_ofNat_low _ _ (by decide), Nat.mod_eq_of_lt (bitsN_lt _ 623 576)]

theorem dispatchStrand_selv : (dispatchStrand l e cs js n j).selv = rSelv (l.recordFor e) % 2 ^ 19 := by
  obtain ⟨-, -, -, -, h, -⟩ := dispatchStrand_csrAt l e cs js n j
  rw [Strand.selv, h, bitsN_ofNat_low _ _ (by decide)]

theorem dispatchStrand_getV (k : BitVec 7) : (dispatchStrand l e cs js n j).getV k = 0 := by
  simp [Strand.getV, dispatchStrand, Strand.blank]

theorem dispatchStrand_getP (k : BitVec 3) (hk : k ≠ 0) : (dispatchStrand l e cs js n j).getP k = 0 := by
  rw [Strand.getP, if_neg hk]
  simp [dispatchStrand, Strand.blank]

/-- A general register at dispatch: g3 the argument, g4 and g5 the payload of a built launch, every other zero (R53, R56). -/
theorem dispatchStrand_getG (k : BitVec 6) : (dispatchStrand l e cs js n j).getG k =
    if rBuilt l.record = true ∧ k = 5 then GReg.data (bitsN e.entry 255 128)
    else if rBuilt l.record = true ∧ k = 4 then GReg.data (bitsN e.entry 127 0)
    else if k = 3 then argCap l.part (rPerm (l.recordFor e)) (rArg (l.recordFor e) + e.argOff) (rArgLen (l.recordFor e) - e.argOff)
    else ⟨0, false⟩ := by
  have h : ∀ m : Nat, m < 64 → (k.toNat = m ↔ k = BitVec.ofNat 6 m) := fun m hm => by
    rw [← BitVec.toNat_inj, BitVec.toNat_ofNat, Nat.mod_eq_of_lt hm]
  have h3 := h 3 (by decide)
  have h4 := h 4 (by decide)
  have h5 := h 5 (by decide)
  have hg : (dispatchStrand l e cs js n j).g = dispatchRegs l e := rfl
  by_cases h0 : k = 0
  · subst h0
    simp [Strand.getG]
  · rw [Strand.getG, if_neg h0]
    simp only [hg, dispatchRegs]
    by_cases hb : rBuilt l.record = true
    · simp [hb, Vector.getElem_set, eq_comm (b := k.toNat), h3, h4, h5, GReg.data]
    · simp [hb, Vector.getElem_set, eq_comm (b := k.toNat), h3, GReg.data]

end

end Sys2Proof.Machine
end

section
/-! SUPPORT. Placement of a team (R57 to R61): where it fits, and the strands that it gets. -/
namespace Sys2Proof.Machine

/-! ### Where a team fits -/

section
variable (s : State) (p v g need : Nat)

/-- The cores accepted are free ones of those offered, in their order. -/
theorem pickCores_spec (cs : List Nat) : (pickCores s p v g need cs).Sublist cs ∧ ∀ n ∈ pickCores s p v g need cs, s.strand n = none := by
  have key : ∀ (cs acc : List Nat), ∃ xs, cs.foldl (fun acc n => if acc.length < need && s.coreFree p v n && granFits s g acc n then acc ++ [n] else acc)
      acc = acc ++ xs ∧ xs.Sublist cs ∧ ∀ n ∈ xs, s.strand n = none := by
    intro cs
    induction cs with
    | nil => exact fun acc => ⟨[], by simp⟩
    | cons n cs ih =>
      intro acc
      rw [List.foldl_cons]
      split
      next h =>
        obtain ⟨xs, hxs, hsub, hfree⟩ := ih (acc ++ [n])
        refine ⟨n :: xs, by rw [hxs, List.append_assoc, List.singleton_append], hsub.cons_cons n, ?_⟩
        have hn : s.strand n = none := by
          simp only [State.coreFree, Bool.and_eq_true, Option.isNone_iff_eq_none] at h
          exact h.1.2.1.1.1
        exact List.forall_mem_cons.2 ⟨hn, hfree⟩
      next =>
        obtain ⟨xs, hxs, hsub, hfree⟩ := ih acc
        exact ⟨xs, hxs, hsub.cons n, hfree⟩
  obtain ⟨xs, hxs, hsub, hfree⟩ := key cs []
  rw [pickCores, hxs, List.nil_append]
  exact ⟨hsub, hfree⟩

theorem pickRun_spec {cs run : List Nat} (h : pickRun s p v g need cs = some run) : run.Sublist cs ∧ ∀ n ∈ run, s.strand n = none := by
  obtain ⟨i, -, hi⟩ := List.exists_of_findSome?_eq_some h
  simp only [Option.ite_none_right_eq_some, Option.some.injEq] at hi
  obtain ⟨⟨hpick, -⟩, rfl⟩ := hi
  exact ⟨(List.take_sublist _ _).trans (List.drop_sublist _ _), hpick ▸ (pickCores_spec s p v g need _).2⟩

end

theorem nodup_clusterCores (c : Nat) : (clusterCores c).Nodup := List.nodup_range.map fun _ _ h => Nat.add_left_cancel h

/-- A team is fitted on cores of its own that have no strand (R57 to R59). -/
theorem fitsIn_spec {s : State} {l : Launch} {t : TeamReq} {c : Nat} {cs js : List Nat} (h : fitsIn s l t c = some (cs, js)) :
    cs.Nodup ∧ ∀ n ∈ cs, s.strand n = none := by
  simp only [fitsIn, Option.ite_none_right_eq_some, Option.some.injEq, Prod.mk.injEq] at h
  obtain ⟨-, hcs, -⟩ := h
  have hspec : cs.Sublist (clusterCores c) ∧ ∀ n ∈ cs, s.strand n = none := by
    rw [← hcs]
    split
    next =>
      cases hrun : pickRun s l.part l.vd (rGran (l.recordFor t)) (rTeam (l.recordFor t)) (clusterCores c) with
      | none => exact ⟨List.nil_sublist _, by simp⟩
      | some run => exact pickRun_spec s _ _ _ _ hrun
    next => exact pickCores_spec s _ _ _ _ _
  exact ⟨hspec.1.nodup (nodup_clusterCores c), hspec.2⟩

/-! ### Strands that have not started

The clock of a strand of dispatch stands at 0 and no result is on its way, so that a new divider of its core changes nothing in it. -/

/-- A strand as dispatch makes it, as far as its clock goes. -/
structure Strand.Still (x : Strand) : Prop where
  placed : x.phase = .placed
  now : x.now = 0
  gRdy : x.gRdy = []
  vRdy : x.vRdy = []
  bobbin : x.bobbin.next = 0

theorem Strand.Still.redivide {x : Strand} (h : x.Still) (t d e : Nat) : x.redivide t d e = x := by
  obtain ⟨-, hnow, hg, hv, hb⟩ := h
  have hk : (x.now - t - 1) / d = 0 := by simp [hnow]
  have hgRdy : (x.gRdy.map fun r => (r.1, shiftTick t d e r.2)) = x.gRdy := by simp [hg]
  have hvRdy : (x.vRdy.map fun r => (r.1, shiftTick t d e r.2)) = x.vRdy := by simp [hv]
  have hbob : ({ x.bobbin with next := shiftTick t d e x.bobbin.next } : Bobbin) = x.bobbin := by
    rw [hb, shiftTick, if_pos (Nat.zero_le t), ← hb]
  unfold Strand.redivide
  dsimp only
  rw [if_pos hk, hgRdy, hvRdy, hbob]

theorem still_dispatchStrand (l : Launch) (t : TeamReq) (cs js : List Nat) (n j : Nat) (plb) :
    ({ dispatchStrand l t cs js n j with plb := plb } : Strand).Still := ⟨rfl, rfl, rfl, rfl, rfl⟩

/-- The strands that move with a strand of dispatch are its team's, or itself. -/
theorem mem_members_dispatchStrand {l : Launch} {t : TeamReq} {cs js : List Nat} {n j m : Nat} (hn : n ∈ cs) (plb)
    (h : m ∈ ({ dispatchStrand l t cs js n j with plb := plb } : Strand).members n) : m ∈ cs := by
  by_cases hgang : (rTacked (l.recordFor t) && decide (2 ≤ rTeam (l.recordFor t))) = true
  · simp only [Strand.members, dispatchStrand, if_pos hgang, if_true] at h
    exact h
  · simp only [Strand.members, dispatchStrand, if_neg hgang, Gang.none, Bool.false_eq_true, if_false, List.mem_singleton] at h
    exact h ▸ hn

/-- Where only strands that have not started move with a core's strand, its divider changes no strand. -/
theorem State.redivide_still {s : State} {n d e : Nat} (h : ∀ x, s.strand n = some x → ∀ m ∈ x.members n, ∀ y, s.strand m = some y → y.Still) :
    ∃ ss, s.redivide n d e = { s with strands := ss } ∧ ∀ m, ss.find m = s.strand m := by
  unfold State.redivide
  split
  next x hx =>
    have key : ∀ (ms : List Nat) (z : State), (∀ m ∈ ms, ∀ y, z.strand m = some y → y.Still) → ∃ ss,
        ms.foldl (fun (z : State) m => z.onStrand m fun y => if y.codeCore m = n then y.redivide s.tick d e else y) z = { z with strands := ss } ∧
          ∀ m, ss.find m = z.strand m := by
      intro ms
      induction ms with
      | nil => exact fun z _ => ⟨z.strands, rfl, fun _ => rfl⟩
      | cons k ms ih =>
        intro z hz
        obtain ⟨hk, hms⟩ := List.forall_mem_cons.1 hz
        have hsame : ∀ m, (z.onStrand k fun y => if y.codeCore k = n then y.redivide s.tick d e else y).strand m = z.strand m := by
          intro m
          rw [State.strand_onStrand]
          split_ifs with hm
          · rw [hm]
            cases hy : z.strand k with
            | none => rfl
            | some y => simp [(hk y hy).redivide]
          · rfl
        obtain ⟨ss, hss, hfind⟩ := ih (z.onStrand k fun y => if y.codeCore k = n then y.redivide s.tick d e else y) fun m hm y hy =>
          hms m hm y (hsame m ▸ hy)
        refine ⟨ss, ?_, fun m => (hfind m).trans (hsame m)⟩
        rw [List.foldl_cons, hss]
        unfold State.onStrand
        split <;> rfl
    exact key _ s (h x hx)
  next => exact ⟨s.strands, rfl, fun _ => rfl⟩

/-- A core whose strand has not started takes its divider: nothing but the core's entry changes. -/
theorem State.retune_still {s : State} {n : Nat} {x : Strand} (hx : s.strand n = some x) (hstill : x.Still)
    (h : ∀ m ∈ x.members n, ∀ y, s.strand m = some y → y.Still) :
    ∃ ss c, s.retune n = { s with strands := ss, cores := s.cores.put n c } ∧ ∀ m, ss.find m = s.strand m := by
  have hsettle : s.settleCycles n = s := by
    simp [State.settleCycles, hx, hstill.placed]
  simp only [State.retune, hsettle]
  split
  next =>
    obtain ⟨ss, hss, hfind⟩ := State.redivide_still (s := s) (n := n) (d := (s.coreCfg n).div) (e := s.effDiv n) fun y hy => by
      rw [hx, Option.some.injEq] at hy
      exact hy ▸ h
    rw [hss]
    exact ⟨ss, _, rfl, hfind⟩
  next => exact ⟨s.strands, _, rfl, fun _ => rfl⟩

/-! ### The strands of a team that is placed -/

section
variable (l : Launch) (t : TeamReq) (cs js : List Nat) (slow : Bool)

/-- One strand of a team takes its core. -/
def placeMember (z : State) (e : Nat × Nat) : State :=
  ((z.setStrand e.1 { dispatchStrand l t cs js e.1 e.2 with plb := (z.coreCfg e.1).plb }).setCore e.1
    { z.coreCfg e.1 with powered := true, slow := slow }).retune e.1

variable {l t cs js slow} {z : State}

theorem placeMember_spec {e : Nat × Nat} (he : e.1 ∈ cs) (hz : ∀ m ∈ cs, ∀ y, z.strand m = some y → y.Still) :
    ∃ ss c, placeMember l t cs js slow z e = { z with strands := ss, cores := z.cores.put e.1 c } ∧
      ss.find e.1 = some { dispatchStrand l t cs js e.1 e.2 with plb := (z.coreCfg e.1).plb } ∧ ∀ m, m ≠ e.1 → ss.find m = z.strand m := by
  unfold placeMember
  set x : Strand := { dispatchStrand l t cs js e.1 e.2 with plb := (z.coreCfg e.1).plb } with hxdef
  set u := (z.setStrand e.1 x).setCore e.1 { z.coreCfg e.1 with powered := true, slow := slow } with hu
  have hx : x.Still := still_dispatchStrand ..
  have hsame : u.strand e.1 = some x := State.strand_setStrand_same z e.1 x
  have hother : ∀ m, m ≠ e.1 → u.strand m = z.strand m := fun m hm => State.strand_setStrand_other z x hm
  obtain ⟨ss, c, hss, hfind⟩ := State.retune_still hsame hx fun m hm y hy => by
    by_cases hme : m = e.1
    · rw [hme, hsame, Option.some.injEq] at hy
      exact hy ▸ hx
    · exact hz m (mem_members_dispatchStrand he _ hm) y (hother m hme ▸ hy)
  refine ⟨ss, c, ?_, (hfind _).trans hsame, fun m hm => (hfind m).trans (hother m hm)⟩
  rw [hss, hu]
  simp only [State.setCore, State.setStrand, Tbl.put_put]

/-- The strands of a team take their cores one after another; no other strand changes. -/
theorem placeMembers_spec : ∀ (es : List (Nat × Nat)) {z : State}, (es.map (·.1)).Nodup → (∀ e ∈ es, e.1 ∈ cs) →
    (∀ m ∈ cs, ∀ y, z.strand m = some y → y.Still) →
    ∃ ss cc, es.foldl (placeMember l t cs js slow) z = { z with strands := ss, cores := cc } ∧
      (∀ e ∈ es, ss.find e.1 = some { dispatchStrand l t cs js e.1 e.2 with plb := (z.coreCfg e.1).plb }) ∧
      ∀ n, n ∉ es.map (·.1) → ss.find n = z.strand n
  | [], z, _, _, _ => ⟨z.strands, z.cores, rfl, by simp, fun _ _ => rfl⟩
  | e :: es, z, hnodup, hmem, hz => by
    rw [List.map_cons, List.nodup_cons] at hnodup
    obtain ⟨he, hes⟩ := List.forall_mem_cons.1 hmem
    obtain ⟨ss, c, hplace, hsame, hother⟩ := placeMember_spec (l := l) (t := t) (js := js) (slow := slow) he hz
    have hstill : ∀ m ∈ cs, ∀ y, (placeMember l t cs js slow z e).strand m = some y → y.Still := by
      intro m hm y hy
      rw [hplace] at hy
      by_cases hme : m = e.1
      · subst hme
        exact Option.some.inj (hsame.symm.trans hy) ▸ still_dispatchStrand ..
      · exact hz m hm y ((hother m hme).symm.trans hy)
    obtain ⟨ss', cc, hfold, hplaced, hrest⟩ := placeMembers_spec es hnodup.2 hes hstill
    refine ⟨ss', cc, ?_, List.forall_mem_cons.2 ⟨?_, fun k hk => ?_⟩, fun n hn => ?_⟩
    · rw [List.foldl_cons, hfold, hplace]
    · rw [hrest _ hnodup.1, hplace]
      exact hsame
    · have hne : k.1 ≠ e.1 := fun h => hnodup.1 (h ▸ List.mem_map_of_mem hk)
      have hcfg : (placeMember l t cs js slow z e).coreCfg k.1 = z.coreCfg k.1 := by
        rw [hplace]
        simp [State.coreCfg, Tbl.getD, Tbl.find_put_other _ _ hne]
      rw [hplaced k hk, hcfg]
    · rw [List.map_cons, List.mem_cons, not_or] at hn
      rw [hrest n hn.2, hplace]
      exact hother n hn.1

end

/-- A team's barrier records in its cluster (R61). -/
def withBars (z : State) (c : Nat) (cs js : List Nat) : State :=
  z.setCluster c { z.cluster c with bars := js.foldl (fun (b : Tbl Bar) j => b.put j (Bar.fresh cs)) (z.cluster c).bars }

theorem placeTeam_eq (s : State) (l : Launch) (t : TeamReq) (c : Nat) (cs js : List Nat) :
    placeTeam s l t c cs js = withBars (cs.zipIdx.foldl (placeMember l t cs js (s.exhausted l.part l.vd)) s) c cs js := rfl

/-- A team takes the cores that fit it; every other strand, the partitions and the launches stay. -/
theorem placeTeam_spec {s : State} (l : Launch) (t : TeamReq) (c : Nat) {cs : List Nat} (js : List Nat) (hnodup : cs.Nodup)
    (hfree : ∀ n ∈ cs, s.strand n = none) :
    ∃ ss cc cl, placeTeam s l t c cs js = { s with strands := ss, cores := cc, clusters := cl } ∧
      (∀ (k : Nat) (h : k < cs.length), ss.find cs[k] = some { dispatchStrand l t cs js cs[k] k with plb := (s.coreCfg cs[k]).plb }) ∧
      ∀ n, n ∉ cs → ss.find n = s.strand n := by
  obtain ⟨ss, cc, hfold, hplaced, hrest⟩ := placeMembers_spec (l := l) (t := t) (cs := cs) (js := js) (slow := s.exhausted l.part l.vd) cs.zipIdx
    (z := s) (by simpa using hnodup) (fun e he => List.fst_mem_of_mem_zipIdx he) fun m hm y hy => by simp [hfree m hm] at hy
  have hplace : placeTeam s l t c cs js = withBars { s with strands := ss, cores := cc } c cs js := by rw [placeTeam_eq, hfold]
  exact ⟨ss, cc, _, hplace, fun k hk => hplaced (cs[k], k) (List.mk_mem_zipIdx_iff_getElem?.2 (List.getElem?_eq_getElem hk)),
    fun n hn => hrest n (by simpa using hn)⟩

/-- The head team of a launch is placed in the first cluster of the ring that fits it (R59). -/
theorem placeHead_spec {s : State} {l : Launch} {t : TeamReq} {p : Partition} {c : Nat} {cs js : List Nat} (hp : s.part l.part = some p)
    (hfit : (clusterRing p.node p.nextCluster).findSome? (fun c => (fitsIn s l t c).map fun r => (c, r)) = some (c, cs, js)) :
    ∃ u ss cc cl, placeHead s l t = some u ∧
      u = ({ s with strands := ss, cores := cc, clusters := cl }.setPart l.part
        { p with nextCluster := nodeFirst p.node + (c + 1 - nodeFirst p.node) % nodeSize p.node }).setLaunch l.placedHead ∧
      (∀ (k : Nat) (h : k < cs.length), ss.find cs[k] = some { dispatchStrand l t cs js cs[k] k with plb := (s.coreCfg cs[k]).plb }) ∧
      ∀ n, n ∉ cs → ss.find n = s.strand n := by
  obtain ⟨d, -, hd⟩ := List.exists_of_findSome?_eq_some hfit
  obtain ⟨r, hr, hdc⟩ := Option.map_eq_some_iff.1 hd
  obtain ⟨rfl, rfl⟩ := Prod.mk.inj hdc
  obtain ⟨hnodup, hfree⟩ := fitsIn_spec hr
  obtain ⟨ss, cc, cl, hplace, hplaced, hrest⟩ := placeTeam_spec l t d js hnodup hfree
  refine ⟨_, ss, cc, cl, ?_, rfl, hplaced, hrest⟩
  rw [placeHead, hp]
  dsimp only
  rw [hfit]
  dsimp only
  rw [hplace]

end Sys2Proof.Machine
end

section
/-! SUPPORT. The dispatcher's pass (R59, R60) where no context comes back. -/
namespace Sys2Proof.Machine

theorem exec_dispatchPass (s : State) : exec .dispatchPass s = execDispatchPass s := rfl

/-! ### Ranks -/

theorem mem_insertRank {q : Partition} {l k : Launch} : ∀ {ks : List Launch}, k ∈ insertRank q l ks ↔ k = l ∨ k ∈ ks
  | [] => by simp [insertRank]
  | m :: ks => by
    rw [insertRank]
    split
    · rw [List.mem_cons]
    · rw [List.mem_cons, mem_insertRank (ks := ks), List.mem_cons]
      tauto

theorem mem_foldr_insertRank {q : Partition} {k : Launch} : ∀ {ks : List Launch}, k ∈ ks.foldr (insertRank q) [] ↔ k ∈ ks
  | [] => Iff.rfl
  | m :: ks => by rw [List.foldr_cons, mem_insertRank, mem_foldr_insertRank, List.mem_cons]

/-- A launch of the partition takes part in dispatch (R59). -/
def takesPart (p : Nat) (q : Partition) (l : Launch) : Bool := l.part == p && l.inList && q.runs l.vd && !q.saved.any (·.vd == l.vd)

theorem mem_ranked {s : State} {p : Nat} {q : Partition} (hq : s.part p = some q) {l : Launch} :
    l ∈ s.ranked p ↔ l ∈ s.launches ∧ takesPart p q l = true := by
  simp only [State.ranked, hq]
  rw [mem_foldr_insertRank, List.mem_filter]
  rfl

theorem mem_of_mem_heldIn {l : Launch} : ∀ {ls : List Launch}, l ∈ heldIn ls → l ∈ ls
  | [], h => h
  | k :: ls, h => by
    rw [heldIn] at h
    split at h
    · exact List.mem_cons.2 (.inl (List.mem_singleton.1 h))
    · exact List.mem_cons.2 ((List.mem_cons.1 h).imp_right mem_of_mem_heldIn)

/-! ### Rounds -/

section
variable {s : State} {p : Nat}

theorem dispatchLoop_stuck (h : ∀ l ∈ s.ranked p, placeLaunch s l = none) : ∀ n, dispatchLoop p n s = s
  | 0 => rfl
  | n + 1 => by
    have hnone : (heldIn (s.ranked p)).findSome? (fun l => placeLaunch s l) = none :=
      List.findSome?_eq_none_iff.2 fun l hl => h l (mem_of_mem_heldIn hl)
    rw [dispatchLoop, hnone]

/-- A round places for the only launch that takes part. -/
theorem dispatchLoop_single {l : Launch} {u : State} (hl : s.ranked p = [l]) (hu : placeLaunch s l = some u) (n : Nat) :
    dispatchLoop p (n + 1) s = dispatchLoop p n u := by
  have hheld : heldIn [l] = [l] := by
    rw [heldIn]
    split <;> rfl
  rw [dispatchLoop, hl, hheld, List.findSome?_cons_of_isSome (by rw [hu]; rfl), hu]

theorem State.putBack_none {q : Partition} (hq : s.part p = some q) (hsaved : q.saved = []) (hunread : q.unread = []) : s.putBack p = s := by
  simp only [State.putBack, hq, hsaved, hunread]
  rfl

/-- A pass in which no virtual device changes and no context comes back is its rounds (R59, R60). -/
theorem exec_dispatchPass_rounds {q : Partition} (hq : s.part s.op.a = some q) (hstate : q.state ≠ 3) (hfree : q.free = true) (hsaved : q.saved = [])
    (hunread : q.unread = []) : exec .dispatchPass s = .next ((dispatchLoop s.op.a 2049 s).noteBlocked s.op.a) := by
  rw [exec_dispatchPass, execDispatchPass, hq]
  dsimp only
  rw [if_neg hstate, State.dispatch, State.schedule_free hq hfree, State.putBack_none hq hsaved hunread]

theorem placedHead_last {l : Launch} {e : TeamReq} (hbuilt : rBuilt l.record = false) (hhead : l.head = some e)
    (hstage : e.stage + 1 = rStages l.record) (hindex : e.index + 1 = l.teams) :
    l.placedHead = { l with head := none, blocked := none, holds := false, inList := false } := by
  rw [Launch.placedHead, hbuilt, if_neg Bool.false_ne_true, hhead]
  dsimp only
  rw [if_neg (by omega), if_neg (by omega)]
  rfl

/-- With the last team of the only launch placed no launch takes part. -/
theorem ranked_placed {t : State} {l : Launch} {q x : Partition} (hq : s.part p = some q) (hl : s.ranked p = [l]) (hx : t.part p = some x)
    (hsame : ∀ k, takesPart p x k = takesPart p q k) {m : Launch} (hm : m.part = l.part ∧ m.id = l.id ∧ m.inList = false)
    (hlaunches : t.launches = s.launches.map fun k => if k.part = m.part ∧ k.id = m.id then m else k) : t.ranked p = [] := by
  rw [List.eq_nil_iff_forall_not_mem]
  intro k hk
  obtain ⟨hmem, htakes⟩ := (mem_ranked hx).1 hk
  rw [hlaunches] at hmem
  obtain ⟨k', hk', rfl⟩ := List.mem_map.1 hmem
  obtain ⟨hpart, hid, hin⟩ := hm
  split at htakes
  next => simp [takesPart, hin] at htakes
  next hother =>
    have hk'l : k' ∈ s.ranked p := (mem_ranked hq).2 ⟨hk', hsame k' ▸ htakes⟩
    rw [hl, List.mem_singleton] at hk'l
    exact hother ⟨hk'l ▸ hpart.symm, hk'l ▸ hid.symm⟩

variable {q : Partition} {l : Launch} {e : TeamReq} {c : Nat} {cs js : List Nat}

/-- The pass places the last team of the only launch that takes part (R59). -/
theorem exec_dispatchPass_placed (hq : s.part s.op.a = some q) (hstate : q.state ≠ 3) (hfree : q.free = true) (hsaved : q.saved = [])
    (hunread : q.unread = []) (hl : s.ranked s.op.a = [l]) (hbuilt : rBuilt l.record = false) (hres : rResident l.record = false)
    (hhead : l.head = some e) (hstage : e.stage + 1 = rStages l.record) (hindex : e.index + 1 = l.teams) (hpart : l.part = s.op.a)
    (hfit : (clusterRing q.node q.nextCluster).findSome? (fun c => (fitsIn s l e c).map fun r => (c, r)) = some (c, cs, js)) :
    ∃ t, exec .dispatchPass s = .next t ∧
      t.part s.op.a = some { q with nextCluster := nodeFirst q.node + (c + 1 - nodeFirst q.node) % nodeSize q.node } ∧
      (∀ (k : Nat) (h : k < cs.length), t.strand cs[k] = some { dispatchStrand l e cs js cs[k] k with plb := (s.coreCfg cs[k]).plb }) ∧
      ∀ n, n ∉ cs → t.strand n = s.strand n := by
  obtain ⟨u, ss, cc, cl, hplace, hu, hplaced, hrest⟩ := placeHead_spec (hpart ▸ hq) hfit
  have hlast := placedHead_last hbuilt hhead hstage hindex
  have hlaunch : placeLaunch s l = some u := by
    rw [placeLaunch, Launch.headTeam, hbuilt, if_neg Bool.false_ne_true, hhead]
    dsimp only
    rw [hres, if_neg Bool.false_ne_true, hplace]
  have hupart : u.part s.op.a = some { q with nextCluster := nodeFirst q.node + (c + 1 - nodeFirst q.node) % nodeSize q.node } := by
    rw [hu, ← hpart]
    exact State.part_setPart_same _ _ _
  have hempty : u.ranked s.op.a = [] := ranked_placed (m := l.placedHead) hq hl hupart (fun k => rfl) (by rw [hlast]; exact ⟨rfl, rfl, rfl⟩)
    (by rw [hu]; rfl)
  refine ⟨u.noteBlocked s.op.a, ?_, hupart, ?_, ?_⟩
  · rw [exec_dispatchPass_rounds hq hstate hfree hsaved hunread, dispatchLoop_single hl hlaunch 2048, dispatchLoop_stuck (by simp [hempty])]
  · rw [hu]
    exact hplaced
  · rw [hu]
    exact hrest

end

end Sys2Proof.Machine
end

section
/-! SUPPORT. The hold, the entries, the large step and the completion of a launch (R49, R55, R56, R60, R116). -/
namespace Sys2Proof.Machine

theorem exec_launchHoldTimeout (s : State) : exec .launchHoldTimeout s = execLaunchHoldTimeout s := rfl
theorem exec_builtEntryConsume (s : State) : exec .builtEntryConsume s = execBuiltEntryConsume s := rfl
theorem exec_largeStepStart (s : State) : exec .largeStepStart s = execLargeStepStart s := rfl
theorem exec_launchComplete (s : State) : exec .launchComplete s = execLaunchComplete s := rfl

theorem State.mem_of_launchOf {s : State} {p id : Nat} {l : Launch} (h : s.launchOf p id = some l) : l ∈ s.launches := List.mem_of_find?_eq_some h

/-- A launch that is replaced stands in the list. -/
theorem State.mem_setLaunch {s : State} {l m : Launch} (hl : l ∈ s.launches) (hpart : m.part = l.part) (hid : m.id = l.id) : m ∈ (s.setLaunch m).launches :=
  List.mem_map.2 ⟨l, hl, if_pos ⟨hpart.symm, hid.symm⟩⟩

theorem State.logError_launches (s : State) (e : ErrInfo) : (s.logError e).launches = s.launches := by
  obtain ⟨n, ps, l, c, h⟩ := s.logError_only e
  rw [h]

theorem State.logError_strands (s : State) (e : ErrInfo) : (s.logError e).strands = s.strands := by
  obtain ⟨n, ps, l, c, h⟩ := s.logError_only e
  rw [h]

section
variable {s : State} {l : Launch}

/-- The top launch that has not fitted for 200,000 tk holds (R60). -/
theorem exec_launchHoldTimeout_holds {b : Nat} (hl : s.launchOf s.op.a s.op.b = some l) (hb : l.blocked = some b) (hin : l.inList = true)
    (hholds : l.holds = false) (hlate : b + 200000 ≤ s.tick) : exec .launchHoldTimeout s = .next (s.setLaunch { l with holds := true }) := by
  rw [exec_launchHoldTimeout, execLaunchHoldTimeout, hl]
  dsimp only
  rw [hb]
  dsimp only
  rw [if_pos (by simp [hin, hholds, hlate])]

/-! ### Entries of a built launch (R55, R56) -/

/-- An entry that can be read and says that it is ready, and no field of which is in error. -/
structure EntryOk (l : Launch) (e : W256) : Prop where
  ready : bit1 e 31 = true
  tmpl : bitsN e 15 0 < rTmpls l.record
  inputs : bitsN e 71 64 ≤ 32
  masked : bitsN e 71 64 = popcount32 (bitsN e 63 32)
  arg : bitsN e 223 192 ≤ rArgLen (l.tmpls.getD (bitsN e 15 0) 0)
  zero79 : bitsN e 79 72 = 0
  zero30 : bitsN e 30 17 = 0

theorem nextEntryOf_unread (h : packetRead s noCore l.part l.vd (entryAddr l.record l.consumed) 32 = none) : nextEntryOf s l = (.error, s) := by
  rw [nextEntryOf, h]

theorem nextEntryOf_ready {bs : List Byte} {s1 : State} (h : packetRead s noCore l.part l.vd (entryAddr l.record l.consumed) 32 = some (bs, s1))
    (he : EntryOk l (BitVec.ofNat 256 (numOf bs))) : nextEntryOf s l = (.entry (BitVec.ofNat 256 (numOf bs)), s1) := by
  rw [nextEntryOf, h]
  dsimp only
  obtain ⟨hready, htmpl, hinputs, hmasked, harg, h79, h30⟩ := he
  rw [if_neg (by rw [hready]; decide), if_neg ?_]
  simp only [Bool.or_eq_true, decide_eq_true_eq, bne_iff_ne, not_or, not_le, not_lt, not_not]
  exact ⟨⟨⟨⟨⟨htmpl, hinputs⟩, hmasked⟩, harg⟩, h79⟩, h30⟩

/-- The launch whose consumption an entry in error ends (R56). -/
def Launch.stopped (l : Launch) : Launch := { l with closed := true, inList := false, err := true }

/-- The launch once entry `e` has been consumed (R56). -/
def Launch.withEntry (l : Launch) (e : W256) : Launch :=
  { l with consumed := l.consumed + 1, rest := entryTeams l e, closed := bit1 e 16, inList := !(bit1 e 16 && (entryTeams l e).isEmpty) }

/-- A built launch whose next entry is to be consumed. -/
structure Consuming (s : State) (l : Launch) : Prop where
  launch : s.launchOf s.op.a s.op.b = some l
  built : rBuilt l.record = true
  inList : l.inList = true
  opened : l.closed = false
  rest : l.rest = []

theorem exec_builtEntryConsume_error {z : State} (h : Consuming s l) (hz : nextEntryOf s l = (.error, z)) :
    exec .builtEntryConsume s = .next ((z.setLaunch l.stopped).logError ⟨6, 2, l.part, l.tag.toNat, rRq l.record⟩) := by
  rw [exec_builtEntryConsume, execBuiltEntryConsume, h.launch]
  dsimp only
  rw [if_neg (by simp [h.built, h.inList, h.opened, h.rest]), hz]
  rfl

theorem exec_builtEntryConsume_ok {s1 s2 : State} {e : W256} (h : Consuming s l) (hz : nextEntryOf s l = (.entry e, s1))
    (hconsume : consumeEntry s1 l e = .ok () s2) : exec .builtEntryConsume s = .next (s2.setLaunch (l.withEntry e)) := by
  rw [exec_builtEntryConsume, execBuiltEntryConsume, h.launch]
  dsimp only
  rw [if_neg (by simp [h.built, h.inList, h.opened, h.rest]), hz]
  dsimp only
  rw [hconsume]
  rfl

/-- An entry that cannot be read ends the consumption, with the launch's error flag. -/
theorem exec_builtEntryConsume_unread (h : Consuming s l) (hread : packetRead s noCore l.part l.vd (entryAddr l.record l.consumed) 32 = none) :
    ∃ t, exec .builtEntryConsume s = .next t ∧ l.stopped ∈ t.launches := by
  refine ⟨_, exec_builtEntryConsume_error h (nextEntryOf_unread hread), ?_⟩
  rw [State.logError_launches]
  exact State.mem_setLaunch (State.mem_of_launchOf h.launch) rfl rfl

/-! ### Large steps (R116) -/

theorem Tbl.find_map {α : Type} {f : Nat × α → Nat × α} (hf : ∀ e, (f e).1 = e.1) (t : Tbl α) (k : Nat) :
    Tbl.find (t.map f) k = (t.find k).map fun x => (f (k, x)).2 := by
  induction t with
  | nil => rfl
  | cons e t ih =>
    obtain ⟨j, x⟩ := e
    have he : f (j, x) = (j, (f (j, x)).2) := Prod.ext (hf _) rfl
    rw [List.map_cons, he, Tbl.find, Tbl.find, ih]
    split
    next hj => rw [hj, Option.map_some]
    next => rfl

/-- A strand of the launch whose code has landed starts; any other stays. -/
def Launch.startOf (l : Launch) (tick : Nat) (x : Strand) : Strand :=
  if x.id.launch = l.id ∧ x.id.part = l.part ∧ x.phase = .placed ∧ x.stash = [3] then { x with phase := .live, stash := [], now := tick } else x

theorem exec_largeStepStart_starts {b : Nat} (hl : s.launchOf s.op.a s.op.b = some l) (hheld : l.stepHeld = true) (hb : l.blocked = some b)
    (hlate : b ≤ s.tick) : ∃ t, exec .largeStepStart s = .next t ∧ ∀ n x, s.strand n = some x → t.strand n = some (l.startOf s.tick x) := by
  rw [exec_largeStepStart, execLargeStepStart, hl]
  dsimp only
  rw [hb]
  dsimp only
  rw [if_pos (by simp [hheld, hlate])]
  refine ⟨_, rfl, fun n x hx => ?_⟩
  refine (Tbl.find_map (fun e => ?_) s.strands n).trans ?_
  · split <;> rfl
  · rw [show s.strands.find n = some x from hx, Option.map_some]
    unfold Launch.startOf
    split <;> rfl

/-! ### Completion (R49) -/

/-- Nothing of the launch is left: no strand, saved context or command, and no error that waits for its writes. -/
structure Launch.Finished (s : State) (l : Launch) : Prop where
  inList : l.inList = false
  err : l.err = false
  strands : ∀ k ∈ s.strands, ¬ (k.2.id.part = l.part ∧ k.2.id.launch = l.id)
  commands : s.commandsOf l.part l.id = false
  part : ∀ q, s.part l.part = some q → q.destroyStatus = none ∧ ∀ k ∈ q.saved, k.strand.id.launch ≠ l.id

/-- A launch that has finished leaves the list and its packet completes, with the launch's chain (R49). -/
theorem exec_launchComplete_finished {j : Nat} {y : QSlot} {e : Started} (hl : s.launchOf s.op.a s.op.b = some l) (h : l.Finished s)
    (hslot : s.slotOfQueue l.queue = some (j, y)) (href : y.started.find? (fun k => k.ref == 2 * l.id + 1) = some e)
    (hindex : y.started.find? (fun k => k.index == e.index) = some e) : ∃ t, exec .launchComplete s = .next t ∧
      t.launches = s.launches.filter (fun k => !(k.part == l.part && k.id == l.id)) ∧
      t.flight = s.flight ++ completionMsgs l.queue (qPart y.record) (qVd y.record) e.knot e.delta (if l.anyRan then l.finalChain else l.chain0)
        l.finalOvf false l.psn := by
  have hstrands : (s.strands.any fun e => e.2.id.part == l.part && e.2.id.launch == l.id) = false := by
    simpa using h.strands
  have hbusy : (((s.part l.part).map fun p => p.destroyStatus.isSome).getD false || l.inList ||
      (s.strands.any fun e => e.2.id.part == l.part && e.2.id.launch == l.id) ||
      ((s.part l.part).map fun p => p.saved.any fun y => y.strand.id.launch == l.id).getD false || s.commandsOf l.part l.id ||
      (l.err && s.disowned l.part l.vd)) = false := by
    rw [hstrands, h.inList, h.err, h.commands]
    cases hp : s.part l.part with
    | none => rfl
    | some q =>
      obtain ⟨hdestroy, hsaved⟩ := h.part q hp
      have hany : (q.saved.any fun y => y.strand.id.launch == l.id) = false := by simpa using hsaved
      simp [hdestroy, hany]
  rw [exec_launchComplete, execLaunchComplete, hl]
  dsimp only
  rw [if_neg (by rw [hbusy]; exact Bool.false_ne_true)]
  have hslot' : ({ s with launches := s.launches.filter fun k => !(k.part == l.part && k.id == l.id) } : State).slotOfQueue l.queue = some (j, y) := hslot
  rw [hslot', Option.bind_some, href, Option.map_some]
  refine ⟨_, rfl, ?_, ?_⟩
  · rw [State.packetDone_eq hslot' hindex]
  · rw [State.packetDone_flight hslot' hindex, h.err]

end

end Sys2Proof.Machine
end

section
/-! SUPPORT. The code copy of a team (R61): it lands, or the code cannot be read. -/
namespace Sys2Proof.Machine

theorem exec_codeCopyLanded (s : State) : exec .codeCopyLanded s = execCodeCopyLanded s := rfl
theorem exec_codeCopyFailed (s : State) : exec .codeCopyFailed s = execCodeCopyFailed s := rfl

theorem Strand.teamOf_refl (x : Strand) : x.teamOf x = true := by simp [Strand.teamOf]

/-! ### The copy lands -/

section
variable {s : State} {n : Nat} {x : Strand}

/-- The code of a team of one strand is written below its selvage. -/
theorem writeCode_single (hx : s.strand n = some x) (hteam : x.id.team = [n]) (r : BitVec 1024) (bs : List Byte) : ∃ ps, writeCode s x r bs =
    { s with scratch := s.scratch.writeList (scratchAt n 0) bs, strands := s.strands.put n { x with stash := [1] }, parts := ps } := by
  have hlead : (rTacked r && n != [n].headD n) = false := by simp
  simp only [writeCode, hteam, List.foldl_cons, List.foldl_nil, hx, Strand.teamOf_refl, hlead, if_true, Bool.false_eq_true, if_false]
  exact ⟨_, State.onPart_eq _ _ _⟩

/-- A strand goes on after its code copy has landed, and its launch's entry changes. -/
theorem landed_strand (hx : s.strand n = some x) (hteam : x.id.team = [n]) (r : BitVec 1024) (bs : List Byte) (f : Strand → Strand) (m : Launch) :
    ((((writeCode s x r bs).onStrand n f).setLaunch m).strand n = some (f { x with stash := [1] })) ∧
      (((writeCode s x r bs).onStrand n f).setLaunch m).scratch = s.scratch.writeList (scratchAt n 0) bs := by
  obtain ⟨ps, hps⟩ := writeCode_single hx hteam r bs
  have hy : (writeCode s x r bs).strand n = some { x with stash := [1] } := by
    rw [hps]
    exact Tbl.find_put_same _ _ _
  rw [State.onStrand, hy]
  refine ⟨State.strand_setStrand_same _ _ _, ?_⟩
  change (writeCode s x r bs).scratch = _
  rw [hps]

end

section
variable {s s1 : State} {x : Strand} {l : Launch} {r : BitVec 1024} {bs : List Byte}

/-- What becomes of a strand whose code has landed: it starts, in a large step at the step's boundary (R61, R116). -/
def Launch.landed (l : Launch) (s : State) (y : Strand) : Strand :=
  if l.stepHeld = true ∧ s.tick < l.blocked.getD (s.boundary s.tick) then { y with stash := [3] } else y.started s.tick

theorem Launch.landed_spec (l : Launch) (s : State) (y : Strand) :
    (l.landed s y).pc = y.pc ∧ (l.landed s y).g = y.g ∧ (l.stepHeld = false → (l.landed s y).phase = .live ∧ (l.landed s y).now = s.tick) ∧
      (l.stepHeld = true → s.tick < l.blocked.getD (s.boundary s.tick) → (l.landed s y).phase = y.phase ∧ (l.landed s y).stash = [3]) := by
  unfold Launch.landed
  split
  next h => exact ⟨rfl, rfl, fun hheld => absurd (hheld.symm.trans h.1) Bool.false_ne_true, fun _ _ => ⟨rfl, rfl⟩⟩
  next h => exact ⟨rfl, rfl, fun _ => ⟨rfl, rfl⟩, fun hheld hearly => absurd ⟨hheld, hearly⟩ h⟩

theorem exec_codeCopyLanded_lone (hx : s.strand s.op.a = some x) (hr : s.recordOf x = some (l, r)) (hphase : x.phase = .placed) (hstash : x.stash = [])
    (htacked : x.gang.tacked = false) (hteam : x.id.team = [s.op.a]) (hread : readCode s x r = some (bs, s1)) (hstrands : s1.strands = s.strands) :
    ∃ t, t.strand s.op.a = some (l.landed s { x with stash := [1] }) ∧ exec .codeCopyLanded s = .next t ∧
      t.scratch = s1.scratch.writeList (scratchAt s.op.a 0) bs := by
  have hx1 : s1.strand s.op.a = some x := by rw [State.strand, hstrands]; exact hx
  have hwith : x.startsWith s.op.a = [s.op.a] := by simp [Strand.startsWith, htacked]
  rw [exec_codeCopyLanded, execCodeCopyLanded, hx]
  dsimp only
  rw [hr]
  dsimp only
  rw [if_neg (by simp [hphase, hstash, htacked]), if_neg (by simp [hstash]), hread, Option.map_some]
  dsimp only
  rw [hwith]
  simp only [List.foldl_cons, List.foldl_nil]
  by_cases hheld : l.stepHeld = true
  · rw [if_neg (by simp [hheld])]
    by_cases hlate : l.blocked.getD (s.boundary s.tick) ≤ s.tick
    · obtain ⟨hstrand, hscratch⟩ := landed_strand hx1 hteam r bs (·.started s.tick)
        { l with anyRan := true, blocked := some (l.blocked.getD (s.boundary s.tick)) }
      exact ⟨_, by rw [hstrand, Launch.landed, if_neg (by omega)], if_pos hlate, hscratch⟩
    · obtain ⟨hstrand, hscratch⟩ := landed_strand hx1 hteam r bs (fun y => { y with stash := [3] })
        { l with blocked := some (l.blocked.getD (s.boundary s.tick)) }
      exact ⟨_, by rw [hstrand, Launch.landed, if_pos ⟨hheld, by omega⟩], if_neg hlate, hscratch⟩
  · obtain ⟨hstrand, hscratch⟩ := landed_strand hx1 hteam r bs (·.started s.tick) { l with anyRan := true }
    exact ⟨_, by rw [hstrand, Launch.landed, if_neg fun h => hheld h.1], if_pos (by simp [hheld]), hscratch⟩

end

/-! ### The code cannot be read -/

section
variable (x : Strand) (tick : Nat)

/-- A core whose strand is of the team of `x` loses it. -/
def dropMember (z : State) (n : Nat) : State :=
  match z.strand n with
  | some y => if y.teamOf x then (z.delStrand n).setCore n { z.coreCfg n with idle := tick, plb := y.plb } else z
  | none => z

theorem dropMember_strands (z : State) (n : Nat) : (dropMember x tick z n).strands = z.strands ∨
    (dropMember x tick z n).strands = z.strands.del n := by
  unfold dropMember
  split
  · split
    · exact .inr rfl
    · exact .inl rfl
  · exact .inl rfl

/-- Every strand of the team leaves its core. -/
theorem dropMembers_strand {n : Nat} : ∀ (ns : List Nat) {z : State}, z.strands.wf = true →
    (z.strand n = none ∨ n ∈ ns ∧ ∃ y, z.strand n = some y ∧ y.teamOf x = true) → (ns.foldl (dropMember x tick) z).strand n = none
  | [], z, _, h => by simpa using h
  | m :: ns, z, hwf, h => by
    rw [List.foldl_cons]
    have hnone : z.strand n = none → (dropMember x tick z m).strand n = none := by
      intro hn
      rw [State.strand]
      obtain hs | hs := dropMember_strands x tick z m
      · rw [hs]
        exact hn
      · rw [hs]
        by_cases hnm : n = m
        · rw [hnm]
          exact Tbl.find_del_same _ hwf
        · rw [Tbl.find_del_other _ hnm]
          exact hn
    have hwf' : (dropMember x tick z m).strands.wf = true := by
      obtain hs | hs := dropMember_strands x tick z m
      · rw [hs]
        exact hwf
      · rw [hs]
        exact Tbl.wf_del _ _ hwf
    refine dropMembers_strand ns hwf' ?_
    obtain hn | ⟨hmem, y, hy, hteam⟩ := h
    · exact .inl (hnone hn)
    · by_cases hnm : n = m
      · subst hnm
        refine .inl ?_
        rw [dropMember, hy]
        dsimp only
        rw [if_pos hteam]
        exact Tbl.find_del_same _ hwf
      · refine .inr ⟨(List.mem_cons.1 hmem).resolve_left hnm, y, ?_, hteam⟩
        rw [State.strand]
        obtain hs | hs := dropMember_strands x tick z m
        · rw [hs]
          exact hy
        · rw [hs, Tbl.find_del_other _ hnm]
          exact hy

end

theorem State.dropTeam_strand {s : State} {x y : Strand} {n : Nat} (hwf : s.strands.wf = true) (hn : n ∈ x.id.team) (hy : s.strand n = some y)
    (hteam : y.teamOf x = true) : (s.dropTeam x).strand n = none := by
  have hdrop : (x.id.team.foldl (dropMember x s.tick) s).strand n = none := dropMembers_strand x s.tick _ hwf (.inr ⟨hn, y, hy, hteam⟩)
  rw [← State.coresHeld_eq_false] at hdrop ⊢
  have hcores : (s.dropTeam x).coresHeld = (x.id.team.foldl (dropMember x s.tick) s).coresHeld :=
    (serve_coresHeld _ _ _).trans (serve_coresHeld _ _ _)
  rw [hcores]
  exact hdrop

/-- A launch whose code cannot be read. -/
def Launch.failed (l : Launch) : Launch :=
  { l with err := true, inList := false, closed := true, head := none, rest := [], holds := false, blocked := none }

theorem State.eq_of_mem_setLaunch {s : State} {m k : Launch} (hk : k ∈ (s.setLaunch m).launches) (hpart : k.part = m.part) (hid : k.id = m.id) : k = m := by
  obtain ⟨j, -, hj⟩ := List.mem_map.1 hk
  split at hj
  next => exact hj.symm
  next hother => exact absurd ⟨hj ▸ hpart, hj ▸ hid⟩ hother

theorem exec_codeCopyFailed_unread {s : State} {x : Strand} {l : Launch} {r : BitVec 1024} (hwf : s.strands.wf = true) (hx : s.strand s.op.a = some x)
    (hr : s.recordOf x = some (l, r)) (hphase : x.phase = .placed) (hstash : x.stash = []) (hread : readCode s x r = none) :
    ∃ t, exec .codeCopyFailed s = .next t ∧ (∀ n y, n ∈ x.id.team → s.strand n = some y → y.teamOf x = true → t.strand n = none) ∧
      ∀ k ∈ t.launches, k.part = l.part → k.id = l.id → k = l.failed := by
  refine ⟨((s.dropTeam x).setLaunch l.failed).logError ⟨6, 2, l.part, l.tag.toNat, rCode r⟩, ?_, fun n y hn hy hteam => ?_, fun k hk hpart hid => ?_⟩
  · rw [exec_codeCopyFailed, execCodeCopyFailed, hx]
    dsimp only
    rw [hr]
    dsimp only
    rw [if_neg (by simp [hphase, hstash, hread])]
    rfl
  · rw [State.strand, State.logError_strands]
    exact State.dropTeam_strand hwf hn hy hteam
  · rw [State.logError_launches] at hk
    exact State.eq_of_mem_setLaunch (m := l.failed) hk hpart hid

end Sys2Proof.Machine
end

section
/-! PROOFS. Obligation O49: dispatch, placement, start and completion of launches. -/
namespace Sys2Proof.Machine

/-- Settles O49: each clause by the lemma of its step. -/
theorem launches : Obligations.Launches := by
  unfold Obligations.Launches
  intro s _ htbl
  refine ⟨fun l e cs js n j => ?_, fun q hq hstate hfree hsaved hunread => ⟨fun hstuck => ?_, ?_⟩, fun l b hl => ⟨?_, ?_, ?_, ?_⟩,
    fun x l r hx hr hphase hstash => ⟨?_, fun hread => ?_⟩⟩
  · obtain ⟨hteam, hcore, -, -, -, hhandler⟩ := dispatchStrand_csrAt l e cs js n j
    refine ⟨rfl, rfl, rfl, rfl, dispatchStrand_chain .., dispatchStrand_chlim .., dispatchStrand_selv .., hcore, hteam, by rw [hhandler, Nat.mul_comm],
      dispatchStrand_getV l e cs js n j, dispatchStrand_getP l e cs js n j, by rw [dispatchStrand_getG]; simp, fun k h3 hbuilt => ?_⟩
    rw [dispatchStrand_getG]
    obtain hbuilt | ⟨h4, h5⟩ := hbuilt
    · rw [if_neg (by simp [hbuilt]), if_neg (by simp [hbuilt]), if_neg h3]
    · rw [if_neg fun h => h5 h.2, if_neg fun h => h4 h.2, if_neg h3]
  · rw [exec_dispatchPass_rounds hq hstate hfree hsaved hunread, dispatchLoop_stuck hstuck]
    exact ⟨_, rfl, rfl, rfl, rfl⟩
  · intro l e c cs js hl hbuilt hres hhead hstage hindex hpart hfit
    exact exec_dispatchPass_placed hq hstate hfree hsaved hunread hl hbuilt hres hhead hstage hindex hpart hfit
  · exact fun hb hin hholds hlate => exec_launchHoldTimeout_holds hl hb hin hholds hlate
  · intro hbuilt hin hopened hrest
    have h : Consuming s l := ⟨hl, hbuilt, hin, hopened, hrest⟩
    refine ⟨fun hread => ?_, fun bs s1 s2 hread => ?_⟩
    · obtain ⟨t, hexec, ht⟩ := exec_builtEntryConsume_unread h hread
      exact ⟨t, _, hexec, ht, rfl, rfl, rfl, rfl⟩
    · intro e hready htmpl hinputs hmasked harg h79 h30 hconsume
      exact ⟨l.withEntry e, exec_builtEntryConsume_ok h (nextEntryOf_ready hread ⟨hready, htmpl, hinputs, hmasked, harg, h79, h30⟩) hconsume,
        rfl, rfl, rfl, rfl, rfl⟩
  · exact fun hheld hb hlate => exec_largeStepStart_starts hl hheld hb hlate
  · intro j y e hin herr hstrands hcommands hpart hslot href hindex hknot
    obtain ⟨t, hexec, hlaunches, hflight⟩ := exec_launchComplete_finished hl ⟨hin, herr, hstrands, hcommands, hpart⟩ hslot href hindex
    refine ⟨t, hexec, fun k hk hkl => ?_, by rw [hflight, completionMsgs, if_neg hknot]⟩
    rw [hlaunches, List.mem_filter] at hk
    simp [hkl.1, hkl.2] at hk
  · intro bs s1 htacked hteam hread hstrands
    obtain ⟨t, hstrand, hexec, hscratch⟩ := exec_codeCopyLanded_lone hx hr hphase hstash htacked hteam hread hstrands
    obtain ⟨hpc, hg, hlive, hheld⟩ := l.landed_spec s { x with stash := [1] }
    refine ⟨t, _, hstrand, hexec, fun hwf => by rw [hscratch, Bank.readList_writeList _ _ _ hwf], hpc, hg, hlive, fun hstep hearly => ?_⟩
    obtain ⟨hplaced, hmark⟩ := hheld hstep hearly
    exact ⟨hplaced.trans hphase, hmark⟩
  · obtain ⟨t, hexec, hleft, hfailed⟩ := exec_codeCopyFailed_unread htbl.1 hx hr hphase hstash hread
    exact ⟨t, hexec, hleft, fun k hk hpart hid => by rw [hfailed k hk hpart hid]; exact ⟨rfl, rfl⟩⟩

end Sys2Proof.Machine
end

section
/-! SUPPORT. Words of a gang and what brings a gang about (R65, R79, R352): strands whose clocks move on together, members that are
changed one after the other, and a word that every member does. -/
namespace Sys2Proof.Machine

/-! ### Clocks that move on -/

/-- Every strand of `s` stands in `t` too, cycles aside. -/
def State.TimedTo (s t : State) : Prop := ∀ m x, s.strand m = some x → ∃ y, t.strand m = some y ∧ x.TimedTo y

theorem State.TimedTo.refl (s : State) : s.TimedTo s := fun _ x hx => ⟨x, hx, .refl x⟩

theorem State.TimedTo.trans {s t u : State} (h : s.TimedTo t) (k : t.TimedTo u) : s.TimedTo u := by
  intro m x hx
  obtain ⟨y, hy, hxy⟩ := h m x hx
  obtain ⟨z, hz, hyz⟩ := k m y hy
  exact ⟨z, hz, hxy.trans hyz⟩

theorem State.onStrand_timedTo (s : State) (n : Nat) {f : Strand → Strand} (hf : ∀ x : Strand, x.TimedTo (f x)) :
    s.TimedTo (s.onStrand n f) := by
  intro m x hx
  rw [State.strand_onStrand, hx]
  split
  · exact ⟨f x, rfl, hf x⟩
  · exact ⟨x, rfl, .refl x⟩

theorem State.foldl_timedTo {α : Type} {f : State → α → State} (hf : ∀ (z : State) a, z.TimedTo (f z a)) (xs : List α) (s : State) :
    s.TimedTo (xs.foldl f s) := by
  induction xs generalizing s with
  | nil => exact .refl s
  | cons a xs ih => exact (hf s a).trans (ih _)

theorem State.settleAll_timedTo (s : State) (ms : List Nat) : s.TimedTo (s.settleAll ms) :=
  State.foldl_timedTo (fun z n => z.onStrand_timedTo n (s.settleMember_timed ms s.tick n)) _ _

theorem State.gangSync_timedTo (s : State) (ms : List Nat) (cls : Nat) : s.TimedTo (s.gangSync ms cls) :=
  State.foldl_timedTo (fun z (p : Nat × Nat) => z.onStrand_timedTo p.1 fun x => x.spend_timed _ _) _ _

theorem Strand.TimedTo.runnable {x y : Strand} (h : x.TimedTo y) : y.runnable = x.runnable := by rw [h.1]; rfl
theorem Strand.TimedTo.gang {x y : Strand} (h : x.TimedTo y) : y.gang = x.gang := by rw [h.1]
theorem Strand.TimedTo.bobIdle {x y : Strand} (h : x.TimedTo y) : y.bobIdle = x.bobIdle := by rw [h.1]; rfl

/-! ### A strand that goes on with another gang -/

/-- `y` is strand `x` gone on at the next word, in the gang `G`. -/
structure Strand.GoneOn (x y : Strand) (G : Gang) : Prop where
  gang : y.gang = G
  pc : y.pc = (x.pc + 4) % 2 ^ 64
  g : y.g = x.g
  v : y.v = x.v
  wait : y.wait = none

theorem Strand.GoneOn.after_timed {w x y : Strand} {G : Gang} (h : w.TimedTo x) (k : x.GoneOn y G) : w.GoneOn y G := by
  obtain ⟨-, -, hpc, hg, hv, -⟩ := h.keeps
  exact ⟨k.gang, hpc ▸ k.pc, k.g.trans hg, k.v.trans hv, k.wait⟩

theorem Strand.GoneOn.then_timed {x y z : Strand} {G : Gang} (k : x.GoneOn y G) (h : y.TimedTo z) : x.GoneOn z G := by
  obtain ⟨-, -, hpc, hg, hv, -, hwait, hgang, -⟩ := h.keeps
  exact ⟨hgang.trans k.gang, hpc.trans k.pc, hg.trans k.g, hv.trans k.v, hwait.trans k.wait⟩

/-- The end of a word, and the strand's new gang. -/
theorem Strand.finish_goneOn (x : Strand) (k d : Nat) (G : Gang) : x.GoneOn { x.finish k d (x.pcPlus 4) with gang := G } G := by
  obtain ⟨-, -, hpc, hg, hv, -, hwait, -⟩ := (x.finish_ended k d (x.pcPlus 4)).keeps
  exact ⟨rfl, hpc, hg, hv, hwait⟩

/-! ### Members changed one after the other -/

/-- What a fold that leaves core `m` alone leaves there. -/
theorem State.strand_foldl_onStrand_other (f : State → Nat → Strand → Strand) {ms : List Nat} {m : Nat} (hm : m ∉ ms) (s : State) :
    (ms.foldl (fun (z : State) n => z.onStrand n (f z n)) s).strand m = s.strand m := by
  induction ms generalizing s with
  | nil => rfl
  | cons n ms ih =>
    rw [List.mem_cons, not_or] at hm
    rw [List.foldl_cons, ih hm.2, State.strand_onStrand, if_neg hm.1]

/-- Each of some different strands is changed once. -/
theorem State.strand_foldl_onStrand_each {f : State → Nat → Strand → Strand} {R : Strand → Strand → Prop} (hf : ∀ z n x, R x (f z n x))
    {ms : List Nat} (hms : ms.Nodup) {m : Nat} (hm : m ∈ ms) {s : State} {x : Strand} (hx : s.strand m = some x) :
    ∃ y, (ms.foldl (fun (z : State) n => z.onStrand n (f z n)) s).strand m = some y ∧ R x y := by
  induction ms generalizing s with
  | nil => cases hm
  | cons n ms ih =>
    rw [List.nodup_cons] at hms
    rw [List.foldl_cons]
    rcases List.mem_cons.1 hm with rfl | hmem
    · rw [State.strand_foldl_onStrand_other _ hms.1, State.strand_onStrand, if_pos rfl, hx]
      exact ⟨_, rfl, hf _ _ _⟩
    · refine ih hms.2 hmem ?_
      rw [State.strand_onStrand, if_neg (fun h : m = n => hms.1 (h ▸ hmem)), hx]

/-! ### A word of a tacked gang -/

/-- A word of a gang whose members can all run it: their clocks are settled, then the gang does it. -/
theorem word_gang {s : State} {x : Strand} (hx : s.strand s.cur = some x) (hr : x.runnable = true) (ht : x.gang.tacked = true)
    (hall : ∀ m ∈ x.gang.members, ∃ w, s.strand m = some w ∧ w.runnable = true) (f : State → Nat → Strand → Eff) :
    ∃ z, s.TimedTo z ∧ word s f = .next (runGang f x.gang.members z) := by
  have htimed := (s.settleAll_timedTo x.gang.members).trans
    ((s.settleAll x.gang.members).gangSync_timedTo x.gang.members (if s.gangCharge x.gang.members x = 2 then 2 else 0))
  refine ⟨_, htimed, ?_⟩
  unfold word
  rw [hx]
  simp only [hr, ht, if_true]
  refine if_pos (List.all_eq_true.2 fun m hm => ?_)
  obtain ⟨w, hw, hwr⟩ := hall m hm
  obtain ⟨y, hy, hwy⟩ := htimed m w hw
  rw [hy]
  exact hwy.runnable.trans hwr

/-- Members that each do the word by a change `R` of their own strand alone, where that may rest on what `I` says of the device. -/
theorem runAll_each {f : State → Nat → Strand → Eff} {I : State → Prop} {P : Strand → Prop} {R : Strand → Strand → Prop}
    (hf : ∀ z n x, I z → z.strand n = some x → P x → ∃ y, f z n x = .done (z.setStrand n y) ∧ I (z.setStrand n y) ∧ R x y)
    {ms : List Nat} (hms : ms.Nodup) {s : State} (hI : I s) (hP : ∀ m ∈ ms, ∃ x, s.strand m = some x ∧ P x) :
    ∃ t, runAll f ms s = some t ∧ (∀ m, m ∉ ms → t.strand m = s.strand m) ∧
      ∀ m ∈ ms, ∀ x, s.strand m = some x → ∃ y, t.strand m = some y ∧ R x y := by
  induction ms generalizing s with
  | nil => exact ⟨s, rfl, fun _ _ => rfl, fun _ h => by cases h⟩
  | cons n ms ih =>
    rw [List.nodup_cons] at hms
    obtain ⟨x, hx, hPx⟩ := hP n List.mem_cons_self
    obtain ⟨y, hdone, hIy, hR⟩ := hf s n x hI hx hPx
    have hother : ∀ m ∈ ms, (s.setStrand n y).strand m = s.strand m := fun m hm =>
      State.strand_setStrand_other _ _ fun h => hms.1 (h ▸ hm)
    obtain ⟨t, ht, hrest, heach⟩ := ih hms.2 hIy fun m hm => by rw [hother m hm]; exact hP m (List.mem_cons_of_mem _ hm)
    refine ⟨t, by simp only [runAll, hx, hdone, ht], fun m hm => ?_, fun m hm w hw => ?_⟩
    · rw [List.mem_cons, not_or] at hm
      rw [hrest m hm.2, State.strand_setStrand_other _ _ hm.1]
    · rcases List.mem_cons.1 hm with rfl | hmem
      · cases hx.symm.trans hw
        exact ⟨y, by rw [hrest m hms.1, State.strand_setStrand_same], hR⟩
      · exact heach m hmem w ((hother m hmem).trans hw)

/-- A word that every member of the gang does. -/
theorem runGang_done {f : State → Nat → Strand → Eff} {ms : List Nat} {s t : State} (h : runAll f ms s = some t) :
    runGang f ms s = ms.foldl (fun (z : State) n => z.onStrand n (·.stampFrom s.cmdCtr)) (t.gangSync ms 0) := by
  simp only [runGang, h]

end Sys2Proof.Machine
end

section
/-! PROOFS. Gangs (R65, R352, R353), and obligation O28. -/
namespace Sys2Proof.Machine

/-! ### TACK (R352) -/

/-- Core `m`'s strand has issued its TACK, and is a strand of the team and stage of `x`. -/
def State.Tacking (s : State) (x : Strand) (m : Nat) : Prop :=
  ∃ w, s.strand m = some w ∧ w.gang.tacking.isSome = true ∧ w.id.launch = x.id.launch ∧ w.id.index = x.id.index ∧ w.id.stage = x.id.stage

/-- Strand `w` has issued its TACK with this mask, at the PC and with the selvage of `x`. -/
structure Strand.AgreesOn (w x : Strand) (mask : W64) : Prop where
  mask : w.gang.tacking = some mask
  pc : w.pc = x.pc
  selv : w.selv = x.selv

/-- The gang of cores `cs`. -/
def Gang.of (cs : List Nat) : Gang := ⟨cs.headD 0, cs, Option.none, true, false⟩

/-- The named strands agree: the gang forms, and each goes on at the next word. -/
theorem State.tack_forms {s : State} {x : Strand} {mask : W64} {cs : List Nat} (hcs : cs.Nodup)
    (hall : ∀ m ∈ cs, ∃ w, s.strand m = some w ∧ w.AgreesOn x mask) {m : Nat} (hm : m ∈ cs) {w : Strand} (hw : s.strand m = some w) :
    ∃ y, (s.tack cs).strand m = some y ∧ w.GoneOn y (Gang.of cs) := by
  have hxs : ∀ y ∈ cs.filterMap s.strand, y.AgreesOn x mask := by
    intro y hy
    obtain ⟨k, hk, hky⟩ := List.mem_filterMap.1 hy
    obtain ⟨v, hv, hvx⟩ := hall k hk
    cases hv.symm.trans hky
    exact hvx
  obtain ⟨lead, hlead⟩ : ∃ lead, (cs.filterMap s.strand).head? = some lead := by
    cases h : cs.filterMap s.strand with
    | nil => exact absurd (List.mem_filterMap.2 ⟨m, hm, hw⟩) (h ▸ List.not_mem_nil)
    | cons v _ => exact ⟨v, rfl⟩
  have hl := hxs lead (List.mem_of_head? hlead)
  have hsame : ((cs.filterMap s.strand).all fun y => y.gang.tacking == lead.gang.tacking && y.pc == lead.pc && y.selv == lead.selv) = true := by
    refine List.all_eq_true.2 fun y hy => ?_
    have h := hxs y hy
    simp [h.mask, h.pc, h.selv, hl.mask, hl.pc, hl.selv]
  obtain ⟨v, hv, hwv⟩ := s.settleAll_timedTo cs m w hw
  obtain ⟨y, hy, hvy⟩ := State.strand_foldl_onStrand_each (R := fun v y => v.GoneOn y (Gang.of cs))
    (fun z n v => v.finish_goneOn 1 (z.divOf n) (Gang.of cs)) hcs hm hv
  obtain ⟨u, hu, hyu⟩ := State.gangSync_timedTo _ cs 0 m y hy
  refine ⟨u, ?_, (hvy.then_timed hyu).after_timed hwv⟩
  unfold State.tack
  simp only [hlead, hsame, if_true]
  exact hu

theorem tackCores_of_timed {x y : Strand} (h : x.TimedTo y) (mask : W64) : tackCores y mask = tackCores x mask := by
  unfold tackCores
  rw [h.keeps.1]

/-- The strand that issues a TACK: cycles aside, its gang notes the mask. -/
def Strand.issuesTack (x : Strand) (d : Nat) (mask : W64) : Strand := { x.issued d with gang := { x.gang with tacking := some mask } }

theorem Strand.issuesTack_eq (x : Strand) (d : Nat) (mask : W64) :
    ∃ w b, x.TimedTo w ∧ x.issuesTack d mask = { w with begun := b, gang := { x.gang with tacking := some mask } } := by
  obtain ⟨w, b, hw, hissued⟩ := Claim.issued_eq x d
  exact ⟨w, b, hw, by rw [Strand.issuesTack, hissued]⟩

theorem Strand.issuesTack_keeps (x : Strand) (d : Nat) (mask : W64) :
    (x.issuesTack d mask).gang = { x.gang with tacking := some mask } ∧ (x.issuesTack d mask).id = x.id ∧ (x.issuesTack d mask).pc = x.pc ∧
    (x.issuesTack d mask).g = x.g ∧ (x.issuesTack d mask).v = x.v ∧ (x.issuesTack d mask).selv = x.selv := by
  obtain ⟨w, b, hw, h⟩ := x.issuesTack_eq d mask
  obtain ⟨hid, -, hpc, hg, hv, -⟩ := hw.keeps
  rw [h]
  exact ⟨rfl, hid, hpc, hg, hv, hw.selv⟩

section
open Sys2Proof.Claim (atWord begun operands begun_timed operands_timed)
variable {s : State} {x : Strand} {a : BitVec 6} {cs : List Nat}

/-- An illegal use by a strand alone traps with its word (R134). -/
theorem illegal_atWord (h : s.Alone x) {z : Strand} (hz : x.TimedTo z) :
    illegal (atWord s x) s.cur z = .trap z (.precise 0x01 ((s.fetchWord s.cur x.pc).setWidth 64)) := by
  obtain ⟨-, -, htacked⟩ := h
  obtain ⟨-, -, hpc, -⟩ := hz.keeps
  simp only [illegal, State.wordAt, Strand.codeCore, hz.gang, hpc, htacked]
  rfl

/-- TACK of a strand alone goes past its first two tests. -/
theorem begun_untacked (h : s.Alone x) (hp : x.pending [a] = false) : ¬ (begun s x).gang.tacked = true ∧ ¬ (begun s x).pending [a] = true := by
  obtain ⟨-, -, htacked⟩ := h
  have ht := begun_timed s x
  rw [ht.gang, ht.pending, htacked, hp]
  exact ⟨Bool.false_ne_true, Bool.false_ne_true⟩

/-- The strand of the current core once it has issued its TACK. -/
def tacker (s : State) (x : Strand) (a : BitVec 6) : Strand :=
  (operands s x [a]).issuesTack ((atWord s x).divOf s.cur) ((operands s x [a]).rd a &&& 0xFFFF)

theorem tacker_keeps (s : State) (x : Strand) (a : BitVec 6) :
    (tacker s x a).gang = { x.gang with tacking := some (x.rd a &&& 0xFFFF) } ∧ (tacker s x a).id = x.id ∧ (tacker s x a).pc = x.pc ∧
    (tacker s x a).g = x.g ∧ (tacker s x a).v = x.v ∧ (tacker s x a).selv = x.selv := by
  obtain ⟨hgang, hid, hpc, hg, hv, hselv⟩ :=
    (operands s x [a]).issuesTack_keeps ((atWord s x).divOf s.cur) ((operands s x [a]).rd a &&& 0xFFFF)
  have ht := operands_timed s x [a]
  obtain ⟨tid, -, tpc, tg, tv, -, -, tgang, -⟩ := ht.keeps
  exact ⟨hgang.trans (by rw [tgang, ht.rd]), hid.trans tid, hpc.trans tpc, hg.trans tg, hv.trans tv, hselv.trans ht.selv⟩

/-- A TACK whose mask is not allowed (R352). -/
theorem traps_tack (h : Claim.Alone s x) (hp : x.pending [a] = false) (hcs : tackCores x (x.rd a) = none) (hw : x.wait = none) :
    Claim.Traps (.tack a) s x 0x01 ((s.fetchWord s.cur x.pc).setWidth 64) := by
  obtain ⟨htacked, hpend⟩ := begun_untacked h hp
  refine Claim.traps_of h rfl hw (by decide) (by decide) (operands_timed s x [a]) ((if_neg htacked).trans ((if_neg hpend).trans ?_))
  extract_lets z
  have hz : x.TimedTo z := operands_timed s x [a]
  rw [hz.rd, tackCores_of_timed hz, hcs]
  exact illegal_atWord h hz

/-- The test of R352 at core `m` of a device in which the current core's strand has issued its TACK. -/
theorem tacker_test (s : State) (x : Strand) (a : BitVec 6) (m : Nat) :
    (((s.setStrand s.cur (tacker s x a)).strand m).any fun z =>
      z.gang.tacking.isSome && z.id.launch == x.id.launch && z.id.index == x.id.index && z.id.stage == x.id.stage) = true ↔
      (m ≠ s.cur → s.Tacking x m) := by
  obtain ⟨hgang, hid, -⟩ := tacker_keeps s x a
  by_cases hm : m = s.cur
  · simp [hm, hgang, hid]
  · rw [State.strand_setStrand_other _ _ hm]
    cases hw : s.strand m with
    | none => simp [State.Tacking, hw, hm]
    | some w => simp [State.Tacking, hw, hm, and_assoc]

/-- What a TACK does whose mask is allowed, the bobbin idle: the gang forms once every other strand named has issued its own (R352). -/
theorem tack_effect (h : s.Alone x) (hp : x.pending [a] = false) (hcs : tackCores x (x.rd a) = some cs) (hb : x.bobIdle = true) :
    ∃ (f : State → Nat → Strand → Eff) (b : Bool), exec (.tack a) s = word s f ∧
      (b = true ↔ ∀ m ∈ cs, m ≠ s.cur → s.Tacking x m) ∧
      f (atWord s x) s.cur (begun s x) = if b then .done ((s.setStrand s.cur (tacker s x a)).tack cs)
        else .block (s.setStrand s.cur (tacker s x a)) .own := by
  obtain ⟨htacked, hpend⟩ := begun_untacked h hp
  refine ⟨_, cs.all fun m => ((s.setStrand s.cur (tacker s x a)).strand m).any fun z =>
      z.gang.tacking.isSome && z.id.launch == x.id.launch && z.id.index == x.id.index && z.id.stage == x.id.stage, rfl, ?_, ?_⟩
  · rw [List.all_eq_true]
    exact forall₂_congr fun m _ => tacker_test s x a m
  · refine (if_neg htacked).trans ((if_neg hpend).trans ?_)
    extract_lets z _ _ y s1
    have hs1 : s1 = s.setStrand s.cur (tacker s x a) := Claim.setStrand_atWord _ _ _
    have hz : x.TimedTo z := operands_timed s x [a]
    rw [hz.rd, tackCores_of_timed hz, hcs]
    refine (if_neg (by simp [hz.bobIdle, hb])).trans ?_
    rw [hz.keeps.1, hs1]
    congr 4
    funext m
    cases (s.setStrand s.cur (tacker s x a)).strand m <;> rfl

/-- A TACK before that of another strand named: the strand waits at it (R352). -/
theorem exec_tack_waits (h : s.Alone x) (hp : x.pending [a] = false) (hcs : tackCores x (x.rd a) = some cs) (hb : x.bobIdle = true)
    (hsome : ∃ m ∈ cs, m ≠ s.cur ∧ ¬ s.Tacking x m) : ∃ y, exec (.tack a) s = .next (s.setStrand s.cur y) ∧
      y.wait = some .own ∧ y.gang.tacking = some (x.rd a &&& 0xFFFF) ∧ y.gang.tacked = false ∧ y.pc = x.pc ∧ y.g = x.g := by
  obtain ⟨f, b, hexec, hb, hf⟩ := tack_effect h hp hcs hb
  have hfalse : b = false := by
    obtain ⟨m, hm, hne, hnot⟩ := hsome
    exact Bool.eq_false_iff.2 fun ht => hnot (hb.1 ht m hm hne)
  rw [hfalse] at hf
  obtain ⟨hgang, -, hpc, hg, -⟩ := tacker_keeps s x a
  obtain ⟨w, c, hw, hissued⟩ := Claim.issued_eq (tacker s x a) ((s.setStrand s.cur (tacker s x a)).divOf s.cur)
  obtain ⟨-, -, tpc, tg, -, -, -, tgang, -⟩ := hw.keeps
  refine ⟨{ w with begun := c, wait := some .own }, ?_, rfl, ?_, ?_, tpc.trans hpc, tg.trans hg⟩
  · rw [hexec, word_block h hf, State.blockOn, State.onStrand, State.strand_setStrand_same]
    simp only [reduceCtorEq, if_false]
    rw [hissued, State.setStrand_setStrand]
  · exact (congrArg Gang.tacking (tgang.trans hgang) :)
  · exact (congrArg Gang.tacked (tgang.trans hgang)).trans h.2.2

/-- The last TACK, every strand named agreeing: the gang forms (R65, R352). -/
theorem exec_tack_forms (h : s.Alone x) (hp : x.pending [a] = false) (hcs : tackCores x (x.rd a) = some cs) (hb : x.bobIdle = true)
    (hall : ∀ m ∈ cs, m ≠ s.cur → s.Tacking x m ∧ ∀ w, s.strand m = some w → w.AgreesOn x (x.rd a &&& 0xFFFF)) (hnodup : cs.Nodup) :
    ∃ t, exec (.tack a) s = .next t ∧ ∀ m ∈ cs, ∃ w y, (if m = s.cur then some x else s.strand m) = some w ∧ t.strand m = some y ∧
      w.GoneOn y (Gang.of cs) := by
  obtain ⟨f, b, hexec, hb, hf⟩ := tack_effect h hp hcs hb
  rw [hb.2 fun m hm hne => (hall m hm hne).1] at hf
  refine ⟨_, hexec.trans (word_done h hf), fun m hm => ?_⟩
  obtain ⟨hgang, -, hpc, hg, hv, hselv⟩ := tacker_keeps s x a
  have hagree : ∀ m ∈ cs, ∃ w, (s.setStrand s.cur (tacker s x a)).strand m = some w ∧ w.AgreesOn x (x.rd a &&& 0xFFFF) := by
    intro m hm
    by_cases hc : m = s.cur
    · exact ⟨_, by rw [hc]; exact s.strand_setStrand_same _ _, by rw [hgang], hpc, hselv⟩
    · obtain ⟨⟨w, hw, -⟩, hw'⟩ := hall m hm hc
      exact ⟨w, (State.strand_setStrand_other _ _ hc).trans hw, hw' w hw⟩
  obtain ⟨w, hw, -⟩ := hagree m hm
  obtain ⟨y, hy, hwy⟩ := State.tack_forms hnodup hagree hm hw
  by_cases hc : m = s.cur
  · subst hc
    cases hw.symm.trans (s.strand_setStrand_same _ _)
    exact ⟨x, y, if_pos rfl, hy, ⟨hwy.gang, hpc ▸ hwy.pc, hwy.g.trans hg, hwy.v.trans hv, hwy.wait⟩⟩
  · exact ⟨w, y, by rw [if_neg hc, ← State.strand_setStrand_other _ (tacker s x a) hc]; exact hw, hy, hwy⟩

end

/-! ### UNTACK (R353) -/

/-- UNTACK outside a gang (R353). -/
theorem traps_untack {s : State} {x : Strand} (h : Claim.Alone s x) (hw : x.wait = none) :
    Claim.Traps .untack s x 0x01 ((s.fetchWord s.cur x.pc).setWidth 64) := by
  have ht := Claim.begun_timed s x
  exact Claim.traps_of h rfl hw (by decide) (by decide) ht ((if_pos (by rw [ht.gang, h.2.2]; rfl)).trans (illegal_atWord h ht))

/-- A member of a gang that has its code, after UNTACK. -/
def Strand.untacked (x : Strand) (d : Nat) : Strand :=
  let z := (x.finish 1 d (x.pcPlus 4)).own 0
  { z with now := z.now + 0, gang := Gang.none }

theorem Strand.untacked_goneOn (x : Strand) (d : Nat) : x.GoneOn (x.untacked d) Gang.none := by
  obtain ⟨-, -, hpc, hg, hv, -, hwait, -⟩ := (x.finish_ended 1 d (x.pcPlus 4)).keeps
  obtain ⟨-, -, tpc, tg, tv, -, twait, -⟩ := ((x.finish 1 d (x.pcPlus 4)).own_timed 0).keeps
  exact ⟨rfl, tpc.trans hpc, tg.trans hg, tv.trans hv, twait.trans hwait⟩

/-- UNTACK on one member of a gang whose members all have their code (R353): the member goes on alone. -/
theorem untack_effect : ∃ f : State → Nat → Strand → Eff, (∀ s, exec .untack s = word s f) ∧ ∀ (s : State) (n : Nat) (x : Strand),
    x.gang.tacked = true → x.gang.noCode = false → x.bobIdle = true → s.strand n = some x →
    (∀ m ∈ x.gang.members, ∀ w, s.strand m = some w → w.gang.noCode = false) →
    f s n x = .done (s.setStrand n (x.untacked (s.divOf n))) := by
  refine ⟨_, fun s => rfl, fun s n x htacked hcode hidle hx hall => (if_neg (by simp [htacked])).trans ((if_neg (by simp [hidle])).trans ?_)⟩
  have hcopy : (x.gang.members.any fun m => ((s.strand m).map (·.gang.noCode)).getD false) = false := by
    refine List.any_eq_false.2 fun m hm => ?_
    cases hw : s.strand m with
    | none => simp
    | some w => simp [hall m hm w hw]
  simp only [hcopy, hcode, Bool.false_eq_true, if_false, withStrand, hx, Bool.false_and]
  rfl

/-- Every member of gang `G` that has a strand has its code. -/
def State.HaveCode (s : State) (G : Gang) : Prop := ∀ m ∈ G.members, ∀ w, s.strand m = some w → w.gang.noCode = false

theorem State.HaveCode.setStrand {s : State} {G : Gang} (h : s.HaveCode G) (n : Nat) {y : Strand} (hy : y.gang.noCode = false) :
    (s.setStrand n y).HaveCode G := by
  intro m hm w hw
  by_cases hn : m = n
  · subst hn
    cases hw.symm.trans (State.strand_setStrand_same _ _ _)
    exact hy
  · exact h m hm w ((State.strand_setStrand_other _ _ hn).symm.trans hw)

/-- UNTACK in a gang whose members can all run it (R353): each goes on alone. -/
theorem exec_untack {s : State} {x : Strand} (hx : s.strand s.cur = some x) (hr : x.runnable = true) (ht : x.gang.tacked = true)
    (hnodup : x.gang.members.Nodup) (hcode : x.gang.noCode = false)
    (hall : ∀ m ∈ x.gang.members, ∃ w, s.strand m = some w ∧ w.gang = x.gang ∧ w.runnable = true ∧ w.bobIdle = true) :
    ∃ t, exec .untack s = .next t ∧ ∀ m ∈ x.gang.members, ∃ w y, s.strand m = some w ∧ t.strand m = some y ∧ w.GoneOn y Gang.none := by
  obtain ⟨f, hexec, hf⟩ := untack_effect
  have hstep : ∀ (z : State) n (y : Strand), z.HaveCode x.gang → z.strand n = some y → y.gang = x.gang ∧ y.bobIdle = true →
      ∃ w, f z n y = .done (z.setStrand n w) ∧ (z.setStrand n w).HaveCode x.gang ∧ y.GoneOn w Gang.none :=
    fun z n y hz hy ⟨hgang, hidle⟩ => ⟨_, hf z n y (by rw [hgang, ht]) (by rw [hgang, hcode]) hidle hy (by rw [hgang]; exact hz),
      hz.setStrand n rfl, y.untacked_goneOn _⟩
  obtain ⟨z, hz, hword⟩ := word_gang hx hr ht (fun m hm => (hall m hm).imp fun w h => ⟨h.1, h.2.2.1⟩) f
  have hmembers : ∀ m ∈ x.gang.members, ∃ y, z.strand m = some y ∧ y.gang = x.gang ∧ y.bobIdle = true := by
    intro m hm
    obtain ⟨w, hw, hgang, -, hidle⟩ := hall m hm
    obtain ⟨y, hy, hwy⟩ := hz m w hw
    exact ⟨y, hy, hwy.gang.trans hgang, hwy.bobIdle.trans hidle⟩
  have hcodes : z.HaveCode x.gang := by
    intro m hm w hw
    obtain ⟨y, hy, hgang, -⟩ := hmembers m hm
    cases hy.symm.trans hw
    rw [hgang, hcode]
  obtain ⟨u, hu, -, heach⟩ := runAll_each hstep hnodup hcodes hmembers
  refine ⟨_, (hexec s).trans hword, fun m hm => ?_⟩
  obtain ⟨w, hw, -⟩ := hall m hm
  obtain ⟨w1, hw1, h1⟩ := hz m w hw
  obtain ⟨w2, hw2, h2⟩ := heach m hm w1 hw1
  obtain ⟨w3, hw3, h3⟩ := u.gangSync_timedTo x.gang.members 0 m w2 hw2
  obtain ⟨w4, hw4, rfl⟩ := State.strand_foldl_onStrand_each (f := fun _ _ y => y.stampFrom z.cmdCtr) (R := fun y v => v = y.stampFrom z.cmdCtr)
    (fun _ _ _ => rfl) hnodup hm hw3
  obtain ⟨hgang, hpc, hg, hv, hwait⟩ := (h2.then_timed h3).after_timed h1
  rw [runGang_done hu]
  exact ⟨w, _, hw, hw4, hgang, hpc, hg, hv, hwait⟩

/-- Settles O28: TACK by its three outcomes, UNTACK outside a gang and inside one. -/
theorem gangs : Obligations.Gangs := by
  unfold Obligations.Gangs
  refine ⟨fun s x a h hp => ⟨fun hcs hw => traps_tack h hp hcs hw, fun cs hcs hb => ⟨fun hsome => exec_tack_waits h hp hcs hb hsome,
    fun hall _ hnodup => ?_⟩⟩, fun s x h hw => traps_untack h hw, fun s x hx hr ht hnodup _ _ hall hcode => ?_⟩
  · obtain ⟨t, hexec, ht⟩ := exec_tack_forms h hp hcs hb
      (fun m hm hne => ⟨(hall m hm hne).1, fun w hw => ((hall m hm hne).2 w hw).elim fun hmask hrest => ⟨hmask, hrest.1, hrest.2⟩⟩) hnodup
    refine ⟨t, hexec, fun m hm => ?_⟩
    obtain ⟨w, y, hw, hy, hgone⟩ := ht m hm
    exact ⟨w, y, hw, hy, hgone.gang, hgone.pc, hgone.g, hgone.v, hgone.wait⟩
  · obtain ⟨t, hexec, ht⟩ := exec_untack hx hr ht hnodup hcode hall
    refine ⟨t, hexec, fun m hm => ?_⟩
    obtain ⟨w, y, hw, hy, hgone⟩ := ht m hm
    exact ⟨w, y, hw, hy, congrArg Gang.tacked hgone.gang, hgone.pc, hgone.g, hgone.v, hgone.wait⟩

end Sys2Proof.Machine
end

section
/-! SUPPORT. A cell is read after a write. -/
namespace Sys2Proof.Machine

@[simp] theorem State.cell_setCell_same (s : State) (k : Nat) (u : Cell) : (s.setCell k u).cell k = u := by
  simp [State.cell, State.setCell, Tbl.getD]

theorem State.cell_setCell_other (s : State) {k m : Nat} (u : Cell) (h : m ≠ k) : (s.setCell k u).cell m = s.cell m := by
  simp [State.cell, State.setCell, Tbl.getD, Tbl.find_put_other _ _ h]

@[simp] theorem State.setCell_setCell (s : State) (k : Nat) (u v : Cell) : (s.setCell k u).setCell k v = s.setCell k v := by
  simp [State.setCell]

@[simp] theorem State.strand_setCell (s : State) (k : Nat) (u : Cell) (n : Nat) : (s.setCell k u).strand n = s.strand n := rfl

end Sys2Proof.Machine
end

section
/-! PROOFS. The vector lane-group arbiter (R68), and obligation O37. -/
namespace Sys2Proof.Machine

/-! ### The head of a queue (R68, R356) -/

theorem isBlocking_plain {i : Instr} (hmem : isVectorMemory i = false) (hsrd : ∀ d r p, i ≠ .vsrd d r p) : isBlocking i = false := by
  unfold isBlocking
  split <;> simp_all [isVectorMemory]

theorem joinsChain_plain {i : Instr} (hsrd : ∀ d r p, i ≠ .vsrd d r p) : joinsChain i = false := by
  unfold joinsChain
  split <;> simp_all

/-- A head without memory access that reads no stream has the effect of its lanes alone. -/
theorem vecRun_plain (s : State) (n : Nat) (x : Strand) {q : VqEntry} (hmem : isVectorMemory q.ins = false)
    (hsrd : ∀ d r p, q.ins ≠ .vsrd d r p) : vecRun s n x q = .done (s.setStrand n (vecEffect q s.tick x)) := by
  unfold vecRun
  dsimp only
  split <;> simp_all [isVectorMemory]

/-- A queued command that one vector instruction fewer comes before (R224). -/
def Cmd.passed (c : Cmd) : Cmd := { c with after := c.after - 1 }

/-- The strand whose queue's head has left it, with `rest` behind it. -/
def Strand.headGone (x : Strand) (rest : List VqEntry) : Strand :=
  { x.count 2#4 1 with vq := rest, mq := x.mq.map Cmd.passed, cq := x.cq.map Cmd.passed }

theorem bindHead_plain {s : State} {n : Nat} {x : Strand} {q : VqEntry} {rest : List VqEntry} (hx : s.strand n = some x)
    (hq : x.vq = q :: rest) (hmem : isVectorMemory q.ins = false) (hsrd : ∀ d r p, q.ins ≠ .vsrd d r p) :
    bindHead s n = s.setStrand n (vecEffect q s.tick (x.headGone rest)) := by
  have hrun := vecRun_plain (s.setStrand n (x.headGone rest)) n (x.headGone rest) hmem hsrd
  have hblk : (q.fromBob.isNone && isBlocking q.ins) = false := by simp [isBlocking_plain hmem hsrd]
  unfold bindHead
  rw [hx]
  dsimp only
  rw [hq]
  dsimp only
  rw [hblk, joinsChain_plain hsrd]
  change (match vecRun (s.setStrand n (x.headGone rest)) n (x.headGone rest) q with | .done s2 => _ | .trap t => _) = _
  rw [hrun]
  exact State.setStrand_setStrand _ _ _ _

@[simp] theorem Strand.setG_bobbin (x : Strand) (d : BitVec 6) (v : GReg) : (x.setG d v).bobbin = x.bobbin := by rw [Strand.setG_eq]
@[simp] theorem Strand.putV_bobbin (x : Strand) (d : BitVec 7) (w : W512) (t : Nat) : (x.putV d w t).bobbin = x.bobbin := rfl
@[simp] theorem Strand.orFlags_bobbin (x : Strand) (f : BitVec 7) : (x.orFlags f).bobbin = x.bobbin := rfl
@[simp] theorem Strand.putP_bobbin (x : Strand) (d : BitVec 3) (w : BitVec 16) (t : Nat) : (x.putP d w t).bobbin = x.bobbin := by
  rw [Strand.putP, Strand.setP_eq]

/-- The effect of a head leaves the bobbin alone. -/
theorem vecEffect_bobbin (q : VqEntry) (t : Nat) (x : Strand) : (vecEffect q t x).bobbin = x.bobbin := by
  unfold vecEffect
  dsimp only
  split <;> simp [apply_ite Strand.bobbin]

/-! ### Scans (R68) -/

/-- Which cores are ready does not depend on their cell's arbiter. -/
theorem readyCores_setCell (s : State) (k : Nat) (u : Cell) (t : Nat) : readyCores (s.setCell k u) k t = readyCores s k t := rfl

theorem freeLane_isSome {u : Cell} {t : Nat} : (freeLane u t).isSome = true ↔ ∃ g : Fin 4, u.lanes[g] ≤ t := by
  simp [freeLane]

/-- A scan that meets no ready core, still unserved, with a deficit serves nobody. -/
theorem vScan_none {k t : Nat} {rdy ring served : List Nat} {s : State}
    (h : ∀ c ∈ ring, c ∈ rdy → c ∉ served → (s.cell k).def_ c = 0) : vScan k t rdy ring served s = (served, s) := by
  induction ring with
  | nil => rfl
  | cons c ring ih =>
    unfold vScan
    split
    · rfl
    · rw [if_neg, ih fun d hd => h d (List.mem_cons_of_mem _ hd)]
      have := h c List.mem_cons_self
      grind

/-- A scan that meets the lone ready core, still unserved, with a deficit and a lane group free binds its head. -/
theorem vScan_lone {k t c : Nat} {ring served : List Nat} {s : State} (hc : c ∈ ring) (hserved : c ∉ served)
    (hdef : 0 < (s.cell k).def_ c) (hfree : (freeLane (s.cell k) t).isSome = true) :
    ∃ g, vScan k t [c] ring served s = (served ++ [c], bindTo s k c g t) := by
  obtain ⟨g, hg⟩ := Option.isSome_iff_exists.1 hfree
  induction ring with
  | nil => cases hc
  | cons d ring ih =>
    unfold vScan
    rw [hg]
    dsimp only
    by_cases hd : d = c
    · subst hd
      refine ⟨g, (if_pos (by simp [hserved, hdef])).trans (vScan_none fun e _ he hn => ?_)⟩
      rw [List.mem_singleton] at he
      simp [he] at hn
    · rw [if_neg (by simp [hd])]
      exact ih ((List.mem_cons.1 hc).resolve_left fun h => hd h.symm)

theorem Cell.setDef_keeps (u : Cell) (c v : Nat) :
    (u.setDef c v).vptr = u.vptr ∧ (u.setDef c v).vtick = u.vtick ∧ (u.setDef c v).lanes = u.lanes := by
  unfold Cell.setDef
  split <;> exact ⟨rfl, rfl, rfl⟩

theorem Cell.def_setDef (u : Cell) {c : Nat} (hc : c < 8) (v : Nat) : (u.setDef c v).def_ c = v := by
  simp [Cell.setDef, Cell.def_, hc]

/-- Every core of the cell has its turn in a scan. -/
theorem mem_ring {c : Nat} (hc : c < 8) (p : Nat) : c ∈ (List.range 8).map fun i => (p + i) % 8 := by
  refine List.mem_map.2 ⟨(c + 8 - p % 8) % 8, List.mem_range.2 (by omega), by omega⟩

/-! ### One vector cycle (R68) -/

/-- The head of core `n` in cell `k` has been bound, `y` being its strand then; of the rest only the cell's arbiter has moved, within the cycle. -/
def State.Binds (s : State) (k n : Nat) (y : Strand) (t : State) : Prop :=
  ∃ u : Cell, u.vtick = (s.cell k).vtick ∧ t = (s.setStrand n y).setCell k u

theorem State.Binds.setCell {s t : State} {k n : Nat} {y : Strand} (h : s.Binds k n y t) {u : Cell} (hu : u.vtick = (t.cell k).vtick) :
    s.Binds k n y (t.setCell k u) := by
  obtain ⟨v, hv, rfl⟩ := h
  refine ⟨u, ?_, State.setCell_setCell _ _ _ _⟩
  rw [hu, State.cell_setCell_same, hv]

theorem State.Binds.of_setCell {s t : State} {k n : Nat} {y : Strand} {u : Cell} (h : (s.setCell k u).Binds k n y t)
    (hu : u.vtick = (s.cell k).vtick) : s.Binds k n y t := by
  obtain ⟨v, hv, rfl⟩ := h
  rw [State.cell_setCell_same] at hv
  exact ⟨v, hv.trans hu, State.setCell_setCell (s.setStrand n y) _ _ _⟩

section
variable {s : State} {k c t : Nat} {x : Strand} {q : VqEntry} {rest : List VqEntry}

theorem bindTo_plain (hx : s.strand (8 * k + c) = some x) (hq : x.vq = q :: rest) (hmem : isVectorMemory q.ins = false)
    (hsrd : ∀ d r p, q.ins ≠ .vsrd d r p) (g : Fin 4) :
    s.Binds k (8 * k + c) (vecEffect q s.tick (x.headGone rest)) (bindTo s k c g t) := by
  refine ⟨_, ?_, bindHead_plain hx hq hmem hsrd⟩
  exact (Cell.setDef_keeps _ _ _).2.1

theorem refill_lone (s : State) (k c : Nat) :
    refill s k [c] = s.setCell k ((s.cell k).setDef c (min 16 ((s.cell k).def_ c + quantum s (8 * k + c)))) := rfl

/-- The cell after a cycle: only ready cores keep a deficit, and the pointer moves. -/
def Cell.cycled (u : Cell) (rdy : List Nat) : Cell :=
  let v := (List.range 8).foldl (fun (u : Cell) c => if rdy.contains c then u else u.setDef c 0) u
  { v with vptr := (v.vptr + 1) % 8 }

theorem Cell.cycled_keeps (u : Cell) (rdy : List Nat) :
    (u.cycled rdy).vptr = (u.vptr + 1) % 8 ∧ (u.cycled rdy).vtick = u.vtick := by
  have h := foldl_keeps (g := fun u : Cell => (u.vptr, u.vtick)) (f := fun (u : Cell) c => if rdy.contains c then u else u.setDef c 0)
    (fun u c => by
      obtain ⟨hptr, htick, -⟩ := u.setDef_keeps c 0
      split
      · rfl
      · rw [hptr, htick]) (List.range 8) u
  obtain ⟨hptr, htick⟩ := Prod.mk.inj h
  exact ⟨congrArg (fun n => (n + 1) % 8) hptr, htick⟩

theorem arbitrate_none (hr : readyCores s k t = []) : arbitrate s k t = s.setCell k ((s.cell k).cycled []) := by
  have hscan : ∀ ring, vScan k t [] ring [] s = ([], s) := fun ring => vScan_none fun _ _ h => by cases h
  unfold arbitrate
  rw [hr]
  simp only [hscan, refill, List.foldl_nil, ite_self]
  rfl

theorem arbitrate_lone (hr : readyCores s k t = [c]) (hfree : ∃ g : Fin 4, (s.cell k).lanes[g] ≤ t) (hx : s.strand (8 * k + c) = some x)
    (hq : x.vq = q :: rest) (hmem : isVectorMemory q.ins = false) (hsrd : ∀ d r p, q.ins ≠ .vsrd d r p) :
    s.Binds k (8 * k + c) (vecEffect q s.tick (x.headGone rest)) (arbitrate s k t) := by
  have hc : c < 8 := by
    have h : c ∈ readyCores s k t := by rw [hr]; exact List.mem_singleton_self c
    exact List.mem_range.1 (List.mem_filter.1 h).1
  have hring := mem_ring hc (s.cell k).vptr
  have hlane := freeLane_isSome.2 hfree
  unfold arbitrate
  rw [hr]
  extract_lets rdy ring r more s1 u
  suffices hs1 : s.Binds k (8 * k + c) (vecEffect q s.tick (x.headGone rest)) s1 from
    hs1.setCell (u := (s1.cell k).cycled [c]) (Cell.cycled_keeps _ _).2
  by_cases hd : 0 < (s.cell k).def_ c
  · obtain ⟨g, hg⟩ := vScan_lone hring (List.not_mem_nil) hd hlane
    have hr2 : r = ([c], bindTo s k c g t) := hg
    have hbinds := bindTo_plain (t := t) hx hq hmem hsrd g
    show s.Binds _ _ _ (if more = true then _ else _)
    split
    · rw [hr2, vScan_none fun e _ he hn => absurd he hn, refill_lone]
      exact hbinds.setCell (Cell.setDef_keeps _ _ _).2.1
    · rw [hr2]
      exact hbinds
  · have hr2 : r = ([], s) := vScan_none fun e _ he _ => by rw [List.mem_singleton.1 he]; omega
    have hmore : more = true := by
      show ((freeLane (r.2.cell k) t).isSome && !_) = true
      rw [hr2, hlane]
      simp [show rdy = [c] from rfl, hd]
    have hs1 : s1 = (vScan k t [c] ring r.1 (refill r.2 k [c])).2 := if_pos hmore
    rw [hs1, hr2, refill_lone]
    set v := (s.cell k).setDef c (min 16 ((s.cell k).def_ c + quantum s (8 * k + c))) with hv
    obtain ⟨-, htick, hlanes⟩ := (s.cell k).setDef_keeps c (min 16 ((s.cell k).def_ c + quantum s (8 * k + c)))
    have hdef : 0 < v.def_ c := by
      rw [hv, Cell.def_setDef _ hc]
      simp [quantum]
    obtain ⟨g, hg⟩ := vScan_lone (s := s.setCell k v) (t := t) hring (List.not_mem_nil) (by rw [State.cell_setCell_same]; exact hdef)
      (by rw [State.cell_setCell_same]; exact freeLane_isSome.2 (by rw [hlanes]; exact hfree))
    rw [show ring = _ from rfl, hg]
    exact (bindTo_plain (s := s.setCell k v) hx hq hmem hsrd g).of_setCell htick

end

/-! ### Bobbins that are idle -/

theorem feedBobbin_idle {s : State} {n : Nat} (h : ∀ x, s.strand n = some x → x.bobbin.active = false) : feedBobbin s n = s := by
  unfold feedBobbin
  split
  · rfl
  · rename_i x hx
    simp [h x hx]

theorem foldl_feedBobbin_idle {s : State} {ns : List Nat} (h : ∀ n ∈ ns, ∀ x, s.strand n = some x → x.bobbin.active = false) :
    ns.foldl feedBobbin s = s := by
  induction ns with
  | nil => rfl
  | cons n ns ih =>
    rw [List.foldl_cons, feedBobbin_idle (h n List.mem_cons_self)]
    exact ih fun m hm => h m (List.mem_cons_of_mem _ hm)

/-! ### VECTOR_ARBITRATE -/

/-- The cell in its cycle at `tick`: in the cycles since the last one no core was ready. -/
def Cell.inCycle (u : Cell) (tick : Nat) : Cell :=
  { (if tick - u.vtick = 0 then u
     else { u with vptr := (u.vptr + (tick - u.vtick)) % 8, deficit := Vector.replicate 8 0 }) with vtick := tick + 1 }

theorem Cell.inCycle_vptr (u : Cell) (tick : Nat) : ((u.inCycle tick).vptr + 1) % 8 = (u.vptr + (tick - u.vtick) + 1) % 8 := by
  unfold Cell.inCycle
  split <;> simp_all [Nat.add_mod]

theorem Cell.inCycle_lanes (u : Cell) (tick : Nat) : (u.inCycle tick).lanes = u.lanes := by
  unfold Cell.inCycle
  split <;> rfl

theorem exec_vectorArbitrate {s : State} (hk : s.op.a < 256) (ht : (s.cell s.op.a).vtick ≤ s.tick) :
    exec .vectorArbitrate s = .next (((List.range 8).map (8 * s.op.a + ·)).foldl feedBobbin
      (arbitrate (s.setCell s.op.a ((s.cell s.op.a).inCycle s.tick)) s.op.a s.tick)) :=
  if_neg (by omega)

/-- Settles O37: a cycle in which no core is ready, and one with a lone ready head. -/
theorem vectorCycle : Obligations.VectorCycle := by
  unfold Obligations.VectorCycle
  intro s hk ht hidle
  have hcores : ∀ n ∈ (List.range 8).map (8 * s.op.a + ·), ∃ c, c < 8 ∧ 8 * s.op.a + c = n := fun n hn => by
    obtain ⟨c, hc, hn⟩ := List.mem_map.1 hn
    exact ⟨c, List.mem_range.1 hc, hn⟩
  refine ⟨fun hr => ?_, fun c x q rest hr hfree hx hq hmem hsrd => ?_⟩
  · refine ⟨_, exec_vectorArbitrate hk ht, ?_⟩
    rw [arbitrate_none ((readyCores_setCell _ _ _ _).trans hr), foldl_feedBobbin_idle fun n hn x hx => by
      obtain ⟨c, hc, rfl⟩ := hcores n hn
      exact hidle c x hc hx]
    obtain ⟨hptr, htick⟩ := ((s.cell s.op.a).inCycle s.tick).cycled_keeps []
    rw [State.setCell_setCell, State.cell_setCell_same, State.cell_setCell_same]
    exact ⟨rfl, hptr.trans (Cell.inCycle_vptr _ _), htick⟩
  · obtain ⟨u, hu, hbound⟩ := arbitrate_lone (s := s.setCell s.op.a ((s.cell s.op.a).inCycle s.tick)) ((readyCores_setCell _ _ _ _).trans hr)
      (by rw [State.cell_setCell_same, Cell.inCycle_lanes]; exact hfree) hx hq hmem hsrd
    refine ⟨_, exec_vectorArbitrate hk ht, ?_⟩
    rw [hbound, foldl_feedBobbin_idle fun n hn y hy => ?_]
    · rw [State.cell_setCell_same] at hu
      refine ⟨State.strand_setStrand_same _ _ _, fun m hm => State.strand_setStrand_other _ _ hm, rfl, rfl, ?_⟩
      rw [State.cell_setCell_same, hu]
      rfl
    · obtain ⟨d, hd, rfl⟩ := hcores n hn
      rw [State.strand_setCell] at hy
      by_cases hdc : 8 * s.op.a + d = 8 * s.op.a + c
      · rw [hdc, State.strand_setStrand_same] at hy
        cases hy
        rw [vecEffect_bobbin]
        exact hidle d x hd (hdc ▸ hx)
      · rw [State.strand_setStrand_other _ _ hdc] at hy
        exact hidle d y hd hy

end Sys2Proof.Machine
end

section
/-! SUPPORT. The frame of the cells (R3): memory, strands, spools and messages leave the matrix units alone. What reaches memory behind the
cores alone leaves the strands alone as well. One lemma for each operation that a matrix command uses, in the order of the model's files;
they are checked one after the other, as the frame of the boot state is. -/
namespace Sys2Proof.Machine
set_option Elab.async false

/-- What memory behind the cores has no part in: the strands and the cells. -/
def State.sides (s : State) : Tbl Strand × Tbl Cell := (s.strands, s.cells)

theorem foldl_cells {α : Type} {f : State → α → State} (hf : ∀ s x, (f s x).cells = s.cells) (xs : List α) (s : State) :
    (xs.foldl f s).cells = s.cells :=
  foldl_keeps (g := State.cells) hf xs s

theorem foldl_sides {α : Type} {f : State → α → State} (hf : ∀ s x, (f s x).sides = s.sides) (xs : List α) (s : State) :
    (xs.foldl f s).sides = s.sides :=
  foldl_keeps (g := State.sides) hf xs s

theorem State.cells_of_sides {s t : State} (h : t.sides = s.sides) : t.cells = s.cells := congrArg Prod.snd h

theorem State.strands_of_sides {s t : State} (h : t.sides = s.sides) : t.strands = s.strands := congrArg Prod.fst h

variable {s u : State}

/-! ### Memory behind the cores -/

theorem State.onPart_sides (s : State) (p : Nat) (f : Partition → Partition) : (s.onPart p f).sides = s.sides := by
  unfold State.onPart
  split <;> rfl

theorem State.onVd_sides (s : State) (p v : Nat) (f : Vd → Vd) : (s.onVd p v f).sides = s.sides := State.onPart_sides _ _ _

theorem State.markDirty_sides (s : State) (a plog : Nat) : (s.markDirty a plog).sides = s.sides := by
  grind [State.markDirty, State.sides]

theorem State.memWrite_sides (s : State) (a : Nat) (l : Line) (t : W64) (plog : Nat) : (s.memWrite a l t plog).sides = s.sides := by
  grind [State.memWrite, State.sides, State.markDirty_sides]

theorem State.llcDrop_sides (s : State) (line : Nat) : (s.llcDrop line).sides = s.sides := by
  grind [State.llcDrop, State.sides]

theorem State.charge_sides (s : State) (p v e k : Nat) : (s.charge p v e k).sides = s.sides := by
  grind [State.charge, State.onVd_sides]

theorem State.chargeFill_sides (s : State) (p v sectors : Nat) : (s.chargeFill p v sectors).sides = s.sides := by
  grind [State.chargeFill, State.sides, State.charge_sides, State.onVd_sides]

theorem State.writeFrame_sides (s : State) (l : Line) : (s.writeFrame l).1.sides = s.sides := by
  grind [State.writeFrame, State.memWrite_sides]

theorem State.llcClean_sides (s : State) (k : LlcLine) : (s.llcClean k).sides = s.sides := by
  grind [State.llcClean, State.sides, State.setPart, State.charge_sides, State.writeFrame_sides]

theorem State.llcPut_sides (s : State) (k : LlcLine) : (s.llcPut k).sides = s.sides := by
  grind [State.llcPut, State.sides, State.free, State.llcClean_sides, State.llcDrop_sides]

theorem State.llcUnalias_sides (s : State) (line : Nat) (t : W64) (plog : Nat) : (s.llcUnalias line t plog).sides = s.sides := by
  grind [State.llcUnalias, State.sides, State.llcClean_sides, State.llcDrop_sides, foldl_sides]

theorem llcRead_sides {w : Who} {line : Nat} {sectors : BitVec 4} {r : Line} (he : llcRead s w line sectors = .ok r u) : u.sides = s.sides := by
  grind [llcRead, State.llcPut_sides, State.llcUnalias_sides, State.chargeFill_sides]

theorem llcWrite_sides {w : Who} {l : Line} {r : Unit} (he : llcWrite s w l = .ok r u) : u.sides = s.sides := by
  grind [llcWrite, State.llcPut_sides, State.llcUnalias_sides, State.memWrite_sides]

theorem globRead_sides {w : Who} {xs : List (Nat × Nat × Nat)} {r : Got} (he : globRead w xs s = .ok r u) : u.sides = s.sides := by
  induction xs generalizing s r with grind [globRead, → llcRead_sides]

theorem globWrite_sides {w : Who} {tag : Bool} {xs : List (Nat × Nat × Nat)} {acc : List Byte} {r : Unit}
    (he : globWrite w tag xs acc s = .ok r u) : u.sides = s.sides := by
  induction xs generalizing s acc r with grind [globWrite, → llcWrite_sides]

theorem State.touch_sides (s : State) (l : Loc) (n : Nat) : (s.touch l n).sides = s.sides := by
  grind [State.touch, State.sides]

theorem State.imageFetch_sides (s : State) (p v base off n : Nat) : (s.imageFetch p v base off n).2.sides = s.sides := by
  grind [State.imageFetch, → globRead_sides]

theorem State.imageWrite_sides (s : State) (p v base off : Nat) (bs : List Byte) : (s.imageWrite p v base off bs).sides = s.sides := by
  grind [State.imageWrite, State.touch_sides, → globWrite_sides]

theorem State.imageTagOf_sides (s : State) (p v base : Nat) : (s.imageTagOf p v base).2.sides = s.sides := by
  grind [State.imageTagOf, State.imageFetch_sides]

theorem State.reseal_sides (s : State) (p v base : Nat) : (s.reseal p v base).sides = s.sides := by
  grind [State.reseal, State.imageTagOf_sides, State.imageWrite_sides]

theorem State.imageBit_sides (s : State) (p v base off i : Nat) (b : Bool) : (s.imageBit p v base off i b).sides = s.sides := by
  grind [State.imageBit, State.imageWrite_sides, State.imageFetch_sides]

theorem State.imageNote_sides (s : State) (p v base off len : Nat) (tag : Bool) : (s.imageNote p v base off len tag).sides = s.sides := by
  grind [State.imageNote, State.reseal_sides, State.imageBit_sides, foldl_sides]

theorem State.imagePend_sides (s : State) (p : Nat) (y : Saved) : (s.imagePend p y).sides = s.sides := by
  grind [State.imagePend, State.imageWrite_sides, State.reseal_sides]

theorem State.onSaved_sides (s : State) (p v c : Nat) (f : Saved → Saved) : (s.onSaved p v c f).sides = s.sides := by
  grind [State.onSaved, State.onPart_sides]

/-! ### Strands and their traps -/

theorem State.onStrand_cells (s : State) (n : Nat) (f : Strand → Strand) : (s.onStrand n f).cells = s.cells := by
  unfold State.onStrand
  split <;> rfl

theorem State.takeAsync_cells (s : State) (x : Strand) (ms : List Nat) (due : List (Nat × Trap)) : (s.takeAsync x ms due).cells = s.cells := by
  unfold State.takeAsync
  extract_lets sup imp s2
  have h2 : s2.cells = s.cells := by grind [State.notePsn]
  rw [← h2]
  exact foldl_cells (fun z n => z.onStrand_cells n _) _ _

theorem State.trapOn_cells (s : State) (n : Nat) (x : Strand) (t : Trap) : (s.trapOn n x t).cells = s.cells := by
  grind [State.trapOn, State.takeAsync_cells, State.setStrand, State.notePsn]

theorem State.settleAll_cells (s : State) (ms : List Nat) : (s.settleAll ms).cells = s.cells :=
  foldl_cells (fun z n => z.onStrand_cells n _) _ _

theorem State.settleCore_cells (s : State) (n : Nat) : (s.settleCore n).cells = s.cells := by
  grind [State.settleCore, State.settleAll_cells]

theorem State.gangTrap_cells (s : State) (ms : List Nat) (ts : List (Nat × Trap)) : (s.gangTrap ms ts).cells = s.cells := by
  grind [State.gangTrap, State.onStrand_cells, State.notePsn, foldl_cells]

theorem State.trapAt_cells (s : State) (n : Nat) (x : Strand) (t : Trap) : (s.trapAt n x t).cells = s.cells := by
  grind [State.trapAt, State.gangTrap_cells, State.trapOn_cells, State.setStrand_cells]

/-! ### Homes -/

theorem State.fillLine_cells (s : State) (n i : Nat) : (s.fillLine n i).cells = s.cells := by
  grind [State.fillLine, → globRead_sides, State.cells_of_sides, State.setStrand_cells]

theorem State.fillGran_cells (s : State) (n i : Nat) : (s.fillGran n i).cells = s.cells := by
  grind [State.fillGran, → globRead_sides, State.cells_of_sides, State.setStrand_cells]

theorem State.fillRange_cells (s : State) (n off len : Nat) : (s.fillRange n off len).cells = s.cells := by
  grind [State.fillRange, State.fillLine_cells, foldl_cells]

theorem State.scratchPut_cells (s : State) (n off : Nat) (bs : List Byte) (tag : Bool) : (s.scratchPut n off bs tag).cells = s.cells := by
  grind [State.scratchPut, State.onStrand_cells]

theorem homeRead_cells {w : Who} {l : Loc} {n : Nat} {r : Got} (he : homeRead s w l n = .ok r u) : u.cells = s.cells := by
  cases l with grind [homeRead, → globRead_sides, State.imageFetch_sides, State.fillRange_cells, State.cells_of_sides]

theorem homeWrite_cells {w : Who} {l : Loc} {bs : List Byte} {tag : Bool} {r : Unit}
    (he : homeWrite s w l bs tag = .ok r u) : u.cells = s.cells := by
  cases l with grind [homeWrite, → globWrite_sides, State.imageNote_sides, State.fillRange_cells, State.scratchPut_cells, State.touch_sides,
    State.cells_of_sides]

theorem readCuts_cells {w : Who} {l : Loc} {xs : List (Nat × Nat)} {r : (List Byte × List (Nat × Nat))}
    (he : readCuts w l xs s = .ok r u) : u.cells = s.cells := by
  induction xs generalizing s r with grind [readCuts, → homeRead_cells]

theorem homeReadBad_cells {w : Who} {l : Loc} {n : Nat} {r : (List Byte × List (Nat × Nat))}
    (he : homeReadBad s w l n = .ok r u) : u.cells = s.cells := by
  grind [homeReadBad, → readCuts_cells]

theorem markPoison_cells (s : State) (w : Who) (l : Loc) : (markPoison s w l).cells = s.cells := by
  cases l with grind [markPoison, State.llcPut_sides, State.cells_of_sides]

theorem homeWriteBad_cells {w : Who} {l : Loc} {bs : List Byte} {bad : List (Nat × Nat)} {r : Unit}
    (he : homeWriteBad s w l bs bad = .ok r u) : u.cells = s.cells := by
  grind [homeWriteBad, markPoison_cells, → homeWrite_cells, foldl_cells]

/-! ### Spools -/

theorem State.idleFrom_cells (s : State) (ns : List Nat) : (s.idleFrom ns).cells = s.cells := foldl_cells (fun z n => z.setCore_cells n _) _ _

theorem State.setSpool_cells (s : State) (k : SpoolId) (sp : Spool) : (s.setSpool k sp).cells = s.cells := by
  grind [State.setSpool, State.onStrand_cells, State.onSaved_sides, State.imageWrite_sides, State.reseal_sides, State.cells_of_sides]

theorem State.setSlotRec_cells (s : State) (k : SpoolId) (sp : Spool) (j : Nat) (r : SlotRec) : (s.setSlotRec k sp j r).cells = s.cells := by
  grind [State.setSlotRec, → homeWrite_cells]

theorem freeSlots_cells (s : State) (k : SpoolId) (chain : Nat) (origin : W32) (fuel : Nat) :
    (freeSlots k chain origin fuel s).cells = s.cells := by
  induction fuel generalizing s with grind [freeSlots, State.setSlotRec_cells, State.setSpool_cells]

theorem drainDiscards_cells (s : State) (k : SpoolId) (fuel : Nat) : (drainDiscards k fuel s).cells = s.cells := by
  induction fuel generalizing s with grind [drainDiscards, freeSlots_cells]

theorem State.setLanding_cells (s : State) (i : Nat) (l : Landing) : (s.setLanding i l).cells = s.cells := by
  grind [State.setLanding]

theorem State.countSlot_cells (s : State) (i : Nat) (l : Landing) : (s.countSlot i l).cells = s.cells := by
  grind [State.countSlot, drainDiscards_cells, State.setSlotRec_cells, State.setSpool_cells, State.setLanding_cells, State.failCopies,
    → homeWriteBad_cells]

theorem countOwn_cells (s : State) (k : SpoolId) (fuel : Nat) : (countOwn k fuel s).cells = s.cells := by
  induction fuel generalizing s with grind [countOwn, State.countSlot_cells]

theorem State.failReserved_cells (s : State) (id : Nat) (ks : List SpoolId) (f : Nat → Nat × Bool) :
    (s.failReserved id ks f).cells = s.cells := by
  grind [State.failReserved, countOwn_cells, foldl_cells]

theorem State.onContext_cells (s : State) (p v n : Nat) (f : Strand → Strand) : (s.onContext p v n f).cells = s.cells := by
  grind [State.onContext, State.onStrand_cells, State.onSaved_sides, State.cells_of_sides]

/-! ### Memory operands of a matrix command (R384) -/

theorem engineRead_cells {w : Who} {l : Loc} {len : Nat} {ftop : Option Bool} {r0 : List Byte} {r1 : List (Nat × Nat)}
    (he : engineRead s w l len ftop = .ok (r0, r1, u)) : u.cells = s.cells := by
  grind [engineRead, → homeReadBad_cells]

theorem engineWrite_cells {w : Who} {l : Loc} {bs : List Byte} {bad : List (Nat × Nat)} (he : engineWrite s w l bs bad = .ok u) :
    u.cells = s.cells := by
  grind [engineWrite, → homeWriteBad_cells]

theorem windowRows_cells {c : Cmd} {m : MatBody} {n : Nat} {xs : List Nat} {r0 : List (List Nat × Bool)}
    (he : windowRows c m n xs s = .ok (r0, u)) : u.cells = s.cells := by
  induction xs generalizing s r0 with grind [windowRows, → engineRead_cells]

theorem quiltRows_cells {c : Cmd} {m : MatBody} {n : Nat} {r0 : List (List Nat × Bool)} (he : quiltRows s c m n = .ok (r0, u)) :
    u.cells = s.cells := by
  grind [quiltRows, → engineRead_cells]

theorem sourceRows_cells {c : Cmd} {pos : Nat} {m : MatBody} {n : Nat} {r0 : Rows} (he : sourceRows s c pos m n = .ok (r0, u)) :
    u.cells = s.cells := by
  grind [sourceRows, → quiltRows_cells, → windowRows_cells]

theorem freeSource_cells (s : State) (c : Cmd) (chain slots : Nat) : (freeSource s c chain slots).cells = s.cells := by
  grind [freeSource, drainDiscards_cells, freeSlots_cells]

theorem storeRows_cells {c : Cmd} {m : MatBody} {t : Slot} {xs : List Nat} {acc : State × FFlags × Bool} :
    ExGood (fun e => e.state.cells = acc.1.cells) (fun r => r.1.cells = acc.1.cells) (storeRows c m t xs acc) := by
  induction xs generalizing acc with grind [storeRows, ExGood, → engineWrite_cells]

theorem storeLists_cells {c : Cmd} {m : MatBody} {t : Slot} {xs : List Nat} {acc : State × Bool} :
    ExGood (fun e => e.state.cells = acc.1.cells) (fun r => r.1.cells = acc.1.cells) (storeLists c m t xs acc) := by
  induction xs generalizing acc with grind [storeLists, ExGood, → engineWrite_cells]

theorem windowOffers_cells {c : Cmd} {m : MatBody} {xs : List Nat} {r0 : List Offers} (he : windowOffers c m xs s = .ok (r0, u)) :
    u.cells = s.cells := by
  induction xs generalizing s r0 with
  | nil => grind [windowOffers]
  | cons x xs ih =>
    unfold windowOffers at he
    dsimp only at he
    split at he
    · cases he
    · rename_i h1
      rw [← engineRead_cells h1]
      grind [→ engineRead_cells]

/-! ### The end of a command (R385) -/

theorem State.onIssuer_cells (s : State) (c : Cmd) (f : Strand → Strand) : (s.onIssuer c f).cells = s.cells := by
  grind [State.onIssuer, State.onStrand_cells, State.onPart_sides, State.cells_of_sides]

theorem failTrap_cells (s : State) (c : Cmd) (cls knot : Nat) : (failTrap s c cls knot).cells = s.cells := by
  grind [failTrap, State.setLaunch, State.imagePend_sides, State.onIssuer_cells, State.cells_of_sides]

end Sys2Proof.Machine
end

section
/-! PROOFS. No matrix command that ends starts another at a port (R69, R385). -/
namespace Sys2Proof.Machine

/-! ### Ports that stay idle -/

/-- A port idle in `u` is idle in `v`. -/
structure Cell.StartsNone (u v : Cell) : Prop where
  load : u.load.running = none → v.load.running = none
  array : u.array.running = none → v.array.running = none

theorem Cell.StartsNone.of_ports {u v : Cell} (hl : v.load = u.load) (ha : v.array = u.array) : u.StartsNone v :=
  ⟨fun h => hl ▸ h, fun h => ha ▸ h⟩

theorem Cell.StartsNone.port {u v : Cell} (h : u.StartsNone v) {b : Nat} (hb : (u.port b).running = none) : (v.port b).running = none := by
  unfold Cell.port at *
  split_ifs at *
  · exact h.load hb
  · exact h.array hb

/-- Every port that is idle in `s` is idle in `t`. -/
def State.StartsNone (s t : State) : Prop := ∀ k, (s.cell k).StartsNone (t.cell k)

section
variable {s t u : State}

theorem State.StartsNone.trans (h : s.StartsNone t) (h' : t.StartsNone u) : s.StartsNone u :=
  fun k => ⟨fun q => (h' k).load ((h k).load q), fun q => (h' k).array ((h k).array q)⟩

theorem State.cell_congr (h : t.cells = s.cells) (k : Nat) : t.cell k = s.cell k := by rw [State.cell, State.cell, h]

theorem State.StartsNone.of_cells (h : t.cells = s.cells) : s.StartsNone t :=
  fun k => .of_ports (by rw [State.cell_congr h]) (by rw [State.cell_congr h])

theorem State.StartsNone.refl (s : State) : s.StartsNone s := .of_cells rfl

theorem State.StartsNone.setCell {k : Nat} {v : Cell} (h : (s.cell k).StartsNone v) : s.StartsNone (s.setCell k v) := by
  intro m
  by_cases hm : m = k
  · rw [hm, State.cell_setCell_same]
    exact h
  · rw [State.cell_setCell_other _ _ hm]
    exact .of_ports rfl rfl

theorem State.StartsNone.onCell {k : Nat} {f : Cell → Cell} (h : ∀ v, Cell.StartsNone v (f v)) : s.StartsNone (s.onCell k f) := .setCell (h _)

theorem State.StartsNone.foldl {α : Type} {f : State → α → State} (hf : ∀ (z : State) a, z.StartsNone (f z a)) (xs : List α) (s : State) :
    s.StartsNone (xs.foldl f s) := by
  induction xs generalizing s with
  | nil => exact .refl s
  | cons a xs ih => exact (hf s a).trans (ih _)

/-! ### What a command does to its unit (R387 to R400) -/

theorem State.feedTile_startsNone (s : State) (c : Cmd) (i : Nat) (f : Feed) : s.StartsNone (s.feedTile c i f) :=
  .onCell fun v => ⟨id, fun h => by simp [h]⟩

theorem State.dropTiles_startsNone (s : State) (c : Cmd) : s.StartsNone (s.dropTiles c) := by
  unfold State.dropTiles
  refine .foldl (fun z k => ?_) _ _
  exact .onCell fun v => ⟨id, fun h => by simp [h]⟩

theorem release_startsNone (s : State) (c : Cmd) : s.StartsNone (release_ s c) := by
  refine .onCell fun v => ?_
  dsimp only
  split_ifs <;> exact .of_ports rfl rfl

/-- What a command that runs leaves, done or failed, starts nothing. -/
def RunsAlone (s : State) : Except MatFail MatDone → Prop := ExGood (fun e => s.StartsNone e.state) (fun d => s.StartsNone d.state)

theorem doLdw_runsAlone (s : State) (c : Cmd) (m : MatBody) (pos chain : Nat) (ovf : Bool) : RunsAlone s (doLdw s c m pos chain ovf) := by
  unfold doLdw
  split
  · exact .refl s
  · rename_i h
    exact (State.StartsNone.of_cells ((freeSource_cells _ _ _ _).trans (sourceRows_cells h))).trans (.onCell fun v => .of_ports rfl rfl)

theorem doMma_runsAlone (s : State) (c : Cmd) (m : MatBody) (pos chain : Nat) (ovf : Bool) : RunsAlone s (doMma s c m pos chain ovf) := by
  unfold doMma
  dsimp only
  split_ifs
  · exact .refl s
  · exact .refl s
  · split
    · exact .refl s
    · rename_i h
      exact (State.StartsNone.of_cells ((freeSource_cells _ _ _ _).trans (sourceRows_cells h))).trans (.setCell (.of_ports rfl rfl))

theorem doAccst_runsAlone (s : State) (c : Cmd) (m : MatBody) : RunsAlone s (doAccst s c m) := by
  unfold doAccst
  dsimp only
  split_ifs
  · exact .refl s
  · split
    · split
      · exact .refl s
      · split_ifs
        · exact .refl s
        · exact State.StartsNone.of_cells (foldl_cells (fun z k => z.countSlot_cells _ _) _ _)
    · exact .refl s
  · have h := storeRows_cells (c := c) (m := m) (t := (s.cell (cellOf c.core)).slot m.slot) (xs := List.range (matRows m)) (acc := (s, 0, false))
    split
    · rename_i e he
      exact .of_cells (h.error he)
    · rename_i r hr
      exact State.StartsNone.of_cells (h.ok hr)

theorem doRlst_runsAlone (s : State) (c : Cmd) (m : MatBody) : RunsAlone s (doRlst s c m) := by
  unfold doRlst
  dsimp only
  split_ifs
  · exact .refl s
  · have h := storeLists_cells (c := c) (m := m) (t := (s.cell (cellOf c.core)).slot m.slot) (xs := List.range (matRows m)) (acc := (s, false))
    split
    · rename_i e he
      exact .of_cells (h.error he)
    · rename_i r hr
      exact State.StartsNone.of_cells (h.ok hr)

theorem doRlmrg_runsAlone (s : State) (c : Cmd) (m : MatBody) (chain : Nat) (ovf : Bool) : RunsAlone s (doRlmrg s c m chain ovf) := by
  unfold doRlmrg
  dsimp only
  split_ifs
  · exact .refl s
  · exact State.StartsNone.onCell fun v => .of_ports rfl rfl
  · split
    · exact .refl s
    · rename_i h
      exact (State.StartsNone.of_cells (windowOffers_cells h)).trans (.onCell fun v => .of_ports rfl rfl)

theorem doThr_runsAlone (s : State) (c : Cmd) (m : MatBody) : RunsAlone s (doThr s c m) := by
  unfold doThr
  dsimp only
  split_ifs
  · exact .refl s
  · exact State.StartsNone.refl s

theorem matRun_runsAlone (s : State) (r : Running) : RunsAlone s (matRun s r) := by
  unfold matRun
  dsimp only
  split
  case h_1 | h_2 => exact doLdw_runsAlone ..
  case h_3 | h_4 | h_5 => exact State.StartsNone.onCell fun v => .of_ports rfl rfl
  case h_6 | h_7 => exact doAccst_runsAlone ..
  case h_8 => exact State.StartsNone.refl s
  case h_9 => exact doRlst_runsAlone ..
  case h_10 => exact doRlmrg_runsAlone ..
  case h_11 => exact doThr_runsAlone ..
  case h_12 => exact doMma_runsAlone ..

/-! ### The end of a command (R385, R391) -/

theorem finishMatrix_startsNone (c : Cmd) (chain : Nat) (ovf : Bool) (d : MatDone) (err : Option Nat) :
    d.state.StartsNone (finishMatrix c chain ovf d err) := by
  unfold finishMatrix
  extract_lets m ch s0 s1 s2 s3 s4 s5 s6
  have h3 : s3.cells = d.state.cells := by
    have h0 : s0.cells = d.state.cells := by grind [State.notePsn]
    have h1 : s1.cells = s0.cells := s0.onIssuer_cells c _
    have h2 : s2.cells = s1.cells := by grind [State.onIssuer_cells]
    have h3 : s3.cells = s2.cells := by grind [engineSignal, State.send_cells]
    rw [h3, h2, h1, h0]
  have h5 : s5.cells = s4.cells := by grind [failTrap_cells]
  refine ((State.StartsNone.of_cells h3).trans ((release_startsNone s3 c).trans (.of_cells (State.idleFrom_cells _ _)))).trans
    (t := s4) ((State.StartsNone.of_cells h5).trans (.of_cells ?_))
  grind [State.settleCore_cells, State.trapAt_cells, State.fillGran_cells, State.onStrand_cells, foldl_cells]

theorem completeMatrix_startsNone (s : State) (r : Running) : s.StartsNone (completeMatrix s r) := by
  have h := matRun_runsAlone s r
  unfold completeMatrix
  extract_lets c
  split
  · rename_i d hd
    have hstate : s.StartsNone d.state := h.ok hd
    split_ifs
    · exact hstate.trans (State.feedTile_startsNone _ _ _ _)
    · exact hstate.trans (finishMatrix_startsNone _ _ _ _ _)
  · rename_i e he
    extract_lets f ch ovf s2 d
    have hstate : s.StartsNone e.state := h.error he
    have h2 : s2.cells = (e.state.dropTiles c).cells := State.failReserved_cells f.2 _ _ _
    exact ((hstate.trans (e.state.dropTiles_startsNone c)).trans (.of_cells h2)).trans
      (finishMatrix_startsNone _ _ _ { d with flags := e.flags, psn := e.psn } _)

theorem endTile_startsNone (s : State) (k : Nat) (r : Running) (f : Feed) : s.StartsNone (endTile s k r f) := by
  unfold endTile
  extract_lets c m v ch z s1 s2 g
  have h1 : s.StartsNone s1 := .setCell (.of_ports rfl rfl)
  have h2 : s2.cells = s1.cells := by
    show State.cells (match z.2.2.2, v.active.owner with | true, some n => _ | _, _ => _) = _
    split
    · exact State.onContext_cells _ _ _ _ _
    · rfl
  have h3 := h1.trans (.of_cells h2)
  split_ifs
  · exact h3.trans (State.feedTile_startsNone _ _ _ _)
  · exact h3.trans (finishMatrix_startsNone _ _ _ ⟨s2, g.flags, g.psn, [], none, g.rows⟩ _)

end

end Sys2Proof.Machine
end

section
/-! PROOFS. Matrix ports (R69 to R71, R385, R386, R391), and obligation O40. -/
namespace Sys2Proof.Machine

/-! ### A port is written -/

@[simp] theorem Cell.port_setPort (u : Cell) (b : Nat) (p : Port) : (u.setPort b p).port b = p := by
  unfold Cell.port Cell.setPort
  split_ifs <;> rfl

/-- The device with port `b` of cell `k` idle. -/
def State.freed (s : State) (k b : Nat) : State := s.onCell k fun v => v.setPort b { v.port b with running := none }

theorem State.freed_port (s : State) (k b : Nat) : (((s.freed k b).cell k).port b).running = none := by
  rw [State.freed, State.onCell, State.cell_setCell_same, Cell.port_setPort]

/-! ### The end of a command, or of a tile (R385, R391) -/

section
variable {s : State} {r : Running}

theorem headed_of_noLanding (h : ∀ l ∈ s.landings, l.cmd ≠ some r.cmd.id) : (s.landings.find? fun l => l.cmd == some r.cmd.id) = none :=
  List.find?_eq_none.2 fun l hl => by simpa using h l hl

/-- A command whose busy ticks have passed, with nothing that holds it: it waits for the fill of a granule of its MM.ACCV, or completes. -/
theorem exec_matrixCommandComplete (hr : ((s.cell s.op.a).port s.op.b).running = some r) (hend : r.endTick ≤ s.tick) (hlag : r.lag = 0)
    (hland : ∀ l ∈ s.landings, l.cmd ≠ some r.cmd.id) (hheld : matHeld s r.cmd = false) (hfirst : sourceFirst s r = true) :
    (s.accvFill r.cmd = none → exec .matrixCommandComplete s = .next (completeMatrix (s.freed s.op.a s.op.b) r)) ∧
    ∀ z, s.accvFill r.cmd = some (false, z) → exec .matrixCommandComplete s = .next z := by
  change (_ → execMatrixCommandComplete s = _) ∧ ∀ z, _ → execMatrixCommandComplete s = _
  unfold execMatrixCommandComplete
  simp only [hr, headed_of_noLanding hland, hheld, hfirst, hlag, Nat.not_lt.2 hend, if_false, if_true, Bool.not_false, Bool.and_self]
  refine ⟨fun h => ?_, fun z h => ?_⟩
  · rw [h]
    rfl
  · rw [h]

/-- A tile whose busy ticks have passed and that has its rows ends. -/
theorem exec_matrixCommandComplete_tile {f : Feed} (hr : ((s.cell s.op.a).port s.op.b).running = some r) (hend : r.endTick ≤ s.tick)
    (hlag : r.lag ≠ 0) (hf : r.feed = some f) :
    exec .matrixCommandComplete s = .next (endTile (s.freed s.op.a s.op.b) s.op.a r f) := by
  change execMatrixCommandComplete s = _
  unfold execMatrixCommandComplete
  simp only [hr, hf, hlag, Nat.not_lt.2 hend, if_false]
  rfl

theorem State.settleCore_timedTo (s : State) (n : Nat) : s.TimedTo (s.settleCore n) := by
  unfold State.settleCore
  split
  · exact s.settleAll_timedTo _
  · exact .refl s

/-- An MM.ACCV one of whose granules is absent: its strand waits for the fill, and the cells stay as they are (R129, R394). -/
theorem State.accvFill_absent {c : Cmd} {x : Strand} (hx : s.strand c.core = some x) (hop : c.op = .accv) (hw : c.waited = true)
    (habs : x.accvAbsent (decMat c.word) = true) (hwait : x.wait ≠ some .lazy) :
    ∃ z y, s.accvFill c = some (false, z) ∧ z.cells = s.cells ∧ z.strand c.core = some y ∧ y.wait = some .lazy := by
  obtain ⟨y, hy, -⟩ := s.settleCore_timedTo c.core c.core x hx
  refine ⟨(s.settleCore c.core).onStrand c.core fun y => { y with wait := some .lazy }, { y with wait := some .lazy }, ?_,
    (State.onStrand_cells _ _ _).trans (s.settleCore_cells _), ?_, rfl⟩
  · unfold State.accvFill
    rw [hx]
    simp only [hop, hw, habs, beq_self_eq_true, Bool.and_self, if_true]
    rw [beq_eq_false_iff_ne.2 hwait]
  · rw [State.strand_onStrand, if_pos rfl, hy]
    rfl

end

/-! ### Forwarded tiles (R71) -/

theorem State.charge_tick (s : State) (p v e k : Nat) : (s.charge p v e k).tick = s.tick := by
  unfold State.charge
  split
  · exact State.onVd_tick _ _ _ _
  · rfl

theorem State.charge_cell (s : State) (p v e k i : Nat) : (s.charge p v e k).cell i = s.cell i :=
  State.cell_congr (State.cells_of_sides (s.charge_sides p v e k)) i

/-- A forwarded tile that is due starts, and the next unit's is due 2 ticks on. -/
theorem exec_chainedTileForward {s : State} {r : Running} {n : Nat} {rest : List (Running × Option Nat)}
    (hf : (s.cell s.op.a).forwards = (r, some n) :: rest) (hidle : (s.cell s.op.a).array.running = none) (hn : n ≤ s.tick)
    (ha : s.op.a = cellOf r.cmd.core + r.lag) :
    let q : Running := { r with endTick := s.tick + r.busy }
    ∃ t, exec .chainedTileForward s = .next t ∧ (t.cell s.op.a).forwards = rest ∧ (t.cell s.op.a).array.running = some q ∧
      t.strands = s.strands ∧ ∀ e ∈ (t.cell (s.op.a + 1)).forwards, e.1.cmd.id = r.cmd.id → e.2 = some (s.tick + 2) := by
  intro q
  set v : Cell := { s.cell s.op.a with forwards := rest, array := { (s.cell s.op.a).array with running := some q } } with hv
  set z : State := (s.setCell s.op.a v).charge r.cmd.part r.cmd.vd 3 r.busy with hz
  have hexec : exec .chainedTileForward s = .next (z.dueTile q) := by
    change execChainedTileForward s = _
    unfold execChainedTileForward
    simp only [hf, hidle, List.find?_cons, hn, decide_true, List.erase_cons_head]
    rfl
  have hsides : z.sides = (s.setCell s.op.a v).sides := State.charge_sides _ _ _ _ _
  have hother : ∀ m, m ≠ s.op.a + 1 → (z.dueTile q).cell m = z.cell m := fun m hm => by
    rw [State.dueTile, State.onCell, State.cell_setCell_other]
    rw [show cellOf q.cmd.core + q.lag + 1 = s.op.a + 1 by rw [ha]]
    exact hm
  have hcell : (z.dueTile q).cell s.op.a = v := by
    rw [hother _ (by omega), State.charge_cell, State.cell_setCell_same]
  refine ⟨_, hexec, by rw [hcell], by rw [hcell], (State.strands_of_sides hsides : z.strands = _), fun e he hid => ?_⟩
  rw [State.dueTile, State.onCell, show cellOf q.cmd.core + q.lag + 1 = s.op.a + 1 by rw [ha], State.cell_setCell_same] at he
  obtain ⟨p, -, rfl⟩ := List.mem_map.1 he
  have htick : z.tick = s.tick := State.charge_tick _ _ _ _ _
  split_ifs at hid ⊢
  · rw [htick]
  · contradiction

/-! ### The start of a command (R69, R70, R89) -/

/-- The matrix queue of core `n`'s strand. -/
def State.mqOf (s : State) (n : Nat) : Option (List Cmd) := (s.strand n).map (·.mq)

theorem State.mqOf_congr {s t : State} (h : t.strands = s.strands) (n : Nat) : t.mqOf n = s.mqOf n := by
  simp [State.mqOf, State.strand, h]

theorem State.mqOf_setSpool (s : State) (k : SpoolId) (sp : Spool) (n : Nat) : (s.setSpool k sp).mqOf n = s.mqOf n := by
  unfold State.setSpool
  split
  · split
    · rw [State.mqOf, State.mqOf, State.strand_onStrand]
      split
      · cases s.strand n <;> rfl
      · rfl
    · extract_lets s1
      have h1 : s1.sides = s.sides := State.onSaved_sides _ _ _ _ _
      refine State.mqOf_congr (State.strands_of_sides ?_) n
      split
      · exact ((State.reseal_sides _ _ _ _).trans (State.imageWrite_sides _ _ _ _ _ _)).trans h1
      · exact h1
    · rfl
  · rfl

theorem State.mqOf_reserveAccst (s : State) (c : Cmd) (chain : Nat) (ovf : Bool) (n : Nat) :
    (reserveAccst s c chain ovf).mqOf n = s.mqOf n := by
  unfold reserveAccst
  dsimp only
  split_ifs
  · split
    · rfl
    · split_ifs
      · rfl
      · exact (State.mqOf_congr rfl n).trans (State.mqOf_setSpool _ _ _ n)
  · rfl

theorem State.onCell_strands (s : State) (k : Nat) (f : Cell → Cell) : (s.onCell k f).strands = s.strands := rfl

theorem takeOwner_strands (s : State) (c : Cmd) : (takeOwner s c).strands = s.strands := by
  unfold takeOwner
  extract_lets m own s1
  split_ifs
  · exact foldl_keeps (g := State.strands) (fun z k => z.onCell_strands k _) _ s1
  · rfl

/-- The tile of a chained command for the unit `i + 1` to the east, which waits there from the command's start on (R71). -/
def Running.forwardTo (run : Running) (tick : Nat) (z : State) (i : Nat) : State :=
  if isMma run.cmd.op then z.onCell (cellOf run.cmd.core + i + 1) fun e =>
    { e with forwards := e.forwards ++ [({ run with lag := i + 1, taken := 0 }, if i = 0 then some (tick + 2) else none)] }
  else z

theorem Running.forwardTo_cell (run : Running) (tick : Nat) (z : State) (i : Nat) :
    (run.forwardTo tick z i).cell (cellOf run.cmd.core) = z.cell (cellOf run.cmd.core) := by
  unfold Running.forwardTo
  split
  · exact State.cell_setCell_other _ _ (by omega)
  · rfl

theorem Running.forwardTo_strands (run : Running) (tick : Nat) (z : State) (i : Nat) : (run.forwardTo tick z i).strands = z.strands := by
  unfold Running.forwardTo
  split <;> rfl

/-- What the start of a command leaves: its port runs it for its busy ticks, and it has left its core's queue. -/
theorem startMatrix_starts (s : State) (c : Cmd) (ptr credit : Nat) :
    (∃ r, (((startMatrix s c ptr credit).cell (cellOf c.core)).port (portOf c.op)).running = some r ∧ r.cmd = c ∧
      r.endTick = s.tick + busyTicks s c) ∧
    (startMatrix s c ptr credit).mqOf c.core = (s.mqOf c.core).map (·.erase c) := by
  unfold startMatrix
  extract_lets m k busy ins ch run s1 s2 s3 s4
  change (∃ r, ((((List.range m.chain.toNat).foldl (run.forwardTo s.tick) s4).cell k).port (portOf c.op)).running = some r ∧ _) ∧
    ((List.range m.chain.toNat).foldl (run.forwardTo s.tick) s4).mqOf c.core = _
  have h4 : s4.sides = s2.sides := by
    show State.sides (if portOf c.op = 1 then s3.charge c.part c.vd 3 busy else s3) = _
    split
    · exact State.charge_sides _ _ _ _ _
    · rfl
  refine ⟨⟨run, ?_, rfl, rfl⟩, ?_⟩
  · rw [foldl_keeps (g := fun z => State.cell z k) (run.forwardTo_cell s.tick), State.cell_congr (State.cells_of_sides h4)]
    show (((s1.onCell k fun u => u.setPort (portOf c.op) ⟨ptr, credit, some run⟩).cell k).port (portOf c.op)).running = _
    rw [State.onCell, State.cell_setCell_same, Cell.port_setPort]
  · have hstrands := foldl_keeps (g := State.strands) (run.forwardTo_strands s.tick) (List.range m.chain.toNat) s4
    rw [State.mqOf_congr (hstrands.trans (State.strands_of_sides h4))]
    show (s1.strand c.core).map (·.mq) = _
    rw [State.strand_onStrand, if_pos rfl, Option.map_map, ← State.mqOf_congr (takeOwner_strands s c) c.core,
      ← State.mqOf_reserveAccst (takeOwner s c) c ch.1 run.ovf, State.mqOf, Option.map_map]
    rfl

/-! ### Arbitration at a port (R69, R70) -/

theorem cellOf_of_mem_cellRing {k p n : Nat} (h : n ∈ cellRing k p) : cellOf n = k := by
  obtain ⟨i, -, rfl⟩ := List.mem_map.1 h
  unfold cellOf
  omega

theorem mem_cellRing {k n : Nat} (h : cellOf n = k) (p : Nat) : n ∈ cellRing k p := by
  obtain ⟨i, hi, hmod⟩ := List.mem_map.1 (mem_ring (Nat.mod_lt n (by omega : 0 < 8)) p)
  refine List.mem_map.2 ⟨i, hi, ?_⟩
  unfold cellOf at h
  omega

/-- A search that only one element can end ends there. -/
theorem findSome?_lone {α β : Type} {f : α → Option β} {l : List α} {a : α} {b : β} (ha : a ∈ l) (hf : f a = some b)
    (hother : ∀ x ∈ l, x ≠ a → f x = none) : l.findSome? f = some b := by
  obtain ⟨c, hc⟩ : ∃ c, l.findSome? f = some c := Option.isSome_iff_exists.1 (List.findSome?_isSome_iff.2 ⟨a, ha, by rw [hf]; rfl⟩)
  obtain ⟨x, hx, hxc⟩ := List.exists_of_findSome?_eq_some hc
  by_cases h : x = a
  · rw [hc, ← hxc, h, hf]
  · rw [hother x hx h] at hxc
    cases hxc

/-- The head of a core at a port: its strand is live, and the command goes to the port. -/
theorem rawHead_eq_some {s : State} {n b : Nat} {c : Cmd} (h : rawHead s n b = some c) : ∃ x, s.strand n = some x ∧ portOf c.op = b := by
  unfold rawHead at h
  split at h
  · rename_i x hx
    split_ifs at h
    exact ⟨x, hx, by simpa using List.find?_some h⟩
  · cases h

theorem rawHead_of_headCmd {s : State} {n b : Nat} {c : Cmd} (h : headCmd s n b = some c) : rawHead s n b = some c := by
  obtain ⟨d, hd, hc⟩ := Option.bind_eq_some_iff.1 h
  split_ifs at hc
  cases hc
  exact hd

/-- The head of core `n` at port `b`, if it is to be skipped (R70, R397). -/
def skipHead (s : State) (b n : Nat) : Option Cmd := (rawHead s n b).bind fun c => if skips s c then some c else none

/-- The head of core `n` at port `b`, if it may start and is eligible (R70). -/
def startHead (s : State) (b n : Nat) : Option Cmd := (headCmd s n b).bind fun c => if eligible s c then some c else none

/-- Of the heads of cell `k` at port `b`, core `n`'s head `c` is the one that may start, and it is eligible; none is to be skipped. -/
structure LoneHead (s : State) (k b n : Nat) (c : Cmd) : Prop where
  cell : cellOf n = k
  start : startHead s b n = some c
  other : ∀ m, cellOf m = k → m ≠ n → startHead s b m = none
  noSkip : ∀ m, cellOf m = k → skipHead s b m = none

theorem loneHead_of_headCmd {s : State} {k b n : Nat} {c : Cmd} (hn : cellOf n = k) (hhead : headCmd s n b = some c)
    (hother : ∀ m, cellOf m = k → m ≠ n → headCmd s m b = none ∧ ∀ d, rawHead s m b = some d → skips s d = false)
    (hskip : skips s c = false) (helig : eligible s c = true) : LoneHead s k b n c := by
  refine ⟨hn, ?_, fun m hm hmn => ?_, fun m hm => Option.bind_eq_none_iff.2 fun d hd => if_neg ?_⟩
  · rw [startHead, hhead]
    exact if_pos helig
  · rw [startHead, (hother m hm hmn).1]
    rfl
  · by_cases hmn : m = n
    · rw [hmn, rawHead_of_headCmd hhead] at hd
      cases hd
      exact Bool.eq_false_iff.1 hskip
    · exact Bool.eq_false_iff.1 ((hother m hm hmn).2 d hd)

section
variable {s : State} {k b n : Nat} {c : Cmd} (h : LoneHead s k b n c)
include h

theorem LoneHead.findSkip (p : Nat) : (cellRing k p).findSome? (skipHead s b) = none :=
  List.findSome?_eq_none_iff.2 fun m hm => h.noSkip m (cellOf_of_mem_cellRing hm)

theorem LoneHead.findStart (p : Nat) : (cellRing k p).findSome? (startHead s b) = some c :=
  findSome?_lone (mem_cellRing h.cell p) h.start fun m hm => h.other m (cellOf_of_mem_cellRing hm)

/-- The core whose turn it is has that head or none that may start. -/
theorem LoneHead.here {p : Nat} (hp : p < 8) : startHead s b (8 * k + p) = none ∨ startHead s b (8 * k + p) = some c := by
  by_cases hm : 8 * k + p = n
  · exact .inr (hm ▸ h.start)
  · exact .inl (h.other _ (by unfold cellOf; omega) hm)

end

/-- An idle port takes the lone head that may start there (R69). -/
theorem exec_matrixArbitrate_lone {s : State} {n : Nat} {c : Cmd} (hb : s.op.b ≤ 1)
    (hidle : ((s.cell s.op.a).port s.op.b).running = none)
    (hdue : s.op.b = 1 → (s.cell s.op.a).tileDue s.tick = false) (hptr : ((s.cell s.op.a).port s.op.b).ptr < 8)
    (h : LoneHead s s.op.a s.op.b n c) : ∃ ptr credit, exec .matrixArbitrate s = .next (startMatrix s c ptr credit) := by
  have hfree : (((s.cell s.op.a).port s.op.b).running.isSome || decide (1 < s.op.b) ||
      (s.op.b == 1 && (s.cell s.op.a).tileDue s.tick)) = false := by
    rw [hidle, decide_eq_false (by omega)]
    by_cases h1 : s.op.b = 1
    · simp [hdue h1]
    · simp [h1]
  have hskip := h.findSkip ((s.cell s.op.a).port s.op.b).ptr
  have hstart := h.findStart (((s.cell s.op.a).port s.op.b).ptr + 1)
  have hhere := h.here hptr
  unfold skipHead at hskip
  unfold startHead at hstart hhere
  change ∃ ptr credit, execMatrixArbitrate s = _
  unfold execMatrixArbitrate
  simp only [hfree, Bool.false_eq_true, if_false, hskip, hstart]
  by_cases hcredit : 0 < ((s.cell s.op.a).port s.op.b).credit
  · rw [if_pos hcredit]
    obtain hnone | hsome := hhere
    · rw [hnone]
      exact ⟨_, _, rfl⟩
    · rw [hsome]
      exact ⟨_, _, rfl⟩
  · rw [if_neg hcredit]
    exact ⟨_, _, rfl⟩

/-- Settles O40: a head that starts, a forwarded tile that starts, a command or tile that ends or waits for a fill. -/
theorem matrixPorts : Obligations.MatrixPorts := by
  unfold Obligations.MatrixPorts
  refine ⟨fun s n c hb hidle hdue hptr hn hhead hother hcore hskip helig => ?_, fun s r n rest hf hidle hn ha => ?_,
    fun s r hr hend hready => ⟨?_, ?_⟩⟩
  · obtain ⟨ptr, credit, hexec⟩ := exec_matrixArbitrate_lone hb hidle hdue hptr
      (loneHead_of_headCmd hn hhead hother hskip helig)
    obtain ⟨x, hx, hport⟩ := rawHead_eq_some (rawHead_of_headCmd hhead)
    obtain ⟨⟨r, hr, hcmd, hend⟩, hmq⟩ := startMatrix_starts s c ptr credit
    rw [hcore, hport, hn] at hr
    rw [hcore, State.mqOf, State.mqOf, hx] at hmq
    obtain ⟨y, hy, hyq⟩ := Option.map_eq_some_iff.1 hmq
    exact ⟨_, r, x, y, hexec, hr, hcmd, hend, hx, hy, hyq⟩
  · obtain ⟨t, hexec, hrest, hrun, hstrands, hnext⟩ := exec_chainedTileForward hf hidle hn ha
    exact ⟨t, _, hexec, hrest, hrun, rfl, rfl, hstrands, hnext⟩
  · intro hfill
    by_cases hlag : r.lag = 0
    · rw [if_pos hlag] at hready
      obtain ⟨hland, hheld, hfirst⟩ := hready
      exact ⟨_, (exec_matrixCommandComplete hr hend hlag hland hheld hfirst).1 (hfill.resolve_left fun h => h hlag),
        (completeMatrix_startsNone _ r _).port (s.freed_port _ _)⟩
    · rw [if_neg hlag] at hready
      obtain ⟨f, hf⟩ := Option.isSome_iff_exists.1 hready
      exact ⟨_, exec_matrixCommandComplete_tile hr hend hlag hf, (endTile_startsNone _ _ r f _).port (s.freed_port _ _)⟩
  · intro x hlag hx hop hwaited habs hwait
    rw [if_pos hlag] at hready
    obtain ⟨hland, hheld, hfirst⟩ := hready
    obtain ⟨z, y, hfill, hcells, hy, hlazy⟩ := State.accvFill_absent hx hop hwaited habs hwait
    exact ⟨z, y, (exec_matrixCommandComplete hr hend hlag hland hheld hfirst).2 z hfill, by rw [State.cell_congr hcells, hr], hy, hlazy⟩

end Sys2Proof.Machine
end

section
/-! SUPPORT. Chains (R75, R80, R84, R95, R96): what a saturating addition, cycles and a join do to CHN, and what a join and an acquire leave
alone. -/
namespace Sys2Proof.Machine

/-! ### CHN as a number and a flag (R75) -/

theorem Strand.chain_lt (x : Strand) : x.chain < 2 ^ 48 := bitsN_lt _ 47 0

theorem bitsN_chainReg {v : Nat} (h : v < 2 ^ 48) (o : Bool) : bitsN (chainReg v o) 47 0 = v := by
  rw [chainReg, bitsN_ofNat_low _ _ (by decide)]
  cases o <;> simp <;> omega

theorem bit1_chainReg {v : Nat} (h : v < 2 ^ 48) (o : Bool) : bit1 (chainReg v o) 63 = o := by
  have hv : v.testBit 63 = false := Nat.testBit_lt_two_pow (h.trans (by decide))
  rw [bit1, chainReg, BitVec.getLsbD_ofNat]
  cases o
  · exact hv
  · simp only [if_true, Nat.add_comm v, Nat.testBit_two_pow_add_eq, hv]
    rfl

theorem satAdd_fst (a b : Nat) : (satAdd a b).1 = min (2 ^ 48 - 1) (a + b) := by
  unfold satAdd chainMax
  split
  · rw [Nat.min_eq_left (by omega)]
  · rw [Nat.min_eq_right (by omega)]

theorem satAdd_snd (a b : Nat) : (satAdd a b).2 = decide (2 ^ 48 ≤ a + b) := by
  unfold satAdd chainMax
  split
  · exact (decide_eq_true (by omega)).symm
  · exact (decide_eq_false (by omega)).symm

theorem satAdd_lt (a b : Nat) : (satAdd a b).1 < 2 ^ 48 := by
  rw [satAdd_fst]
  omega

/-! ### The limit check (R96) -/

theorem Strand.csrAt_markCross (x : Strand) {c : BitVec 7} (h : c ≠ 0x22#7) : x.markCross.csrAt c = x.csrAt c := by
  unfold Strand.markCross
  split
  · rfl
  · exact x.csrAt_setCsr_other _ h

theorem Strand.csrAt_limitCheck (x : Strand) (a b : Nat) {c : BitVec 7} (h : c ≠ 0x22#7) : (x.limitCheck a b).csrAt c = x.csrAt c := by
  unfold Strand.limitCheck
  split
  · exact x.csrAt_markCross h
  · rfl

/-- The chpend bit is set where it was, or where a crossing is noted that had not been (R96, R135). -/
theorem Strand.chpend_markCross (x : Strand) (h : bit1 (x.csrAt 0x22#7) 11 = true ∨ ∀ t ∈ x.async, t.1 ≠ 0x0C) :
    bit1 (x.markCross.csrAt 0x22#7) 11 = true := by
  unfold Strand.markCross
  split
  case isTrue hany =>
    obtain ⟨t, ht, hc⟩ := List.any_eq_true.1 hany
    exact h.resolve_right fun hnone => hnone t ht (beq_iff_eq.1 hc)
  case isFalse =>
    have hcsr : (x.setCsr 0x22#7 (x.csrAt 0x22#7 ||| 0x800#64)).csrAt 0x22#7 = x.csrAt 0x22#7 ||| 0x800#64 := x.csrAt_setCsr_same _ _
    exact (congrArg (bit1 · 11) hcsr).trans (by simp [bit1])

theorem Strand.chpend_limitCheck (x : Strand) (a b : Nat) (h : bit1 (x.csrAt 0x22#7) 11 = true) :
    bit1 ((x.limitCheck a b).csrAt 0x22#7) 11 = true := by
  unfold Strand.limitCheck
  split
  · exact x.chpend_markCross (.inl h)
  · exact h

/-! ### Setting the chain and adding to it (R80, R95) -/

theorem Strand.csrAt_setChain (x : Strand) (v : Nat) (o : Bool) : (x.setChain v o).csrAt 0x10#7 = chainReg v (x.ovf || o) :=
  (Strand.csrAt_limitCheck _ _ _ (by decide)).trans (x.csrAt_setCsr_same _ _)

theorem Strand.csrAt_setChain_other (x : Strand) (v : Nat) (o : Bool) {c : BitVec 7} (h : c ≠ 0x10#7) (h' : c ≠ 0x22#7) :
    (x.setChain v o).csrAt c = x.csrAt c :=
  (Strand.csrAt_limitCheck _ _ _ h').trans (x.csrAt_setCsr_other _ h)

theorem Strand.chain_setChain (x : Strand) {v : Nat} (h : v < 2 ^ 48) (o : Bool) : (x.setChain v o).chain = v := by
  rw [Strand.chain, x.csrAt_setChain, bitsN_chainReg h]

theorem Strand.ovf_setChain (x : Strand) {v : Nat} (h : v < 2 ^ 48) (o : Bool) : (x.setChain v o).ovf = (x.ovf || o) := by
  rw [Strand.ovf, x.csrAt_setChain, bit1_chainReg h]

theorem Strand.chain_addChain (x : Strand) (t : Nat) : (x.addChain t).chain = min (2 ^ 48 - 1) (x.chain + t) :=
  (x.chain_setChain (satAdd_lt _ _) _).trans (satAdd_fst _ _)

theorem Strand.ovf_addChain (x : Strand) (t : Nat) : (x.addChain t).ovf = (x.ovf || decide (2 ^ 48 ≤ x.chain + t)) :=
  (x.ovf_setChain (satAdd_lt _ _) _).trans (by rw [satAdd_snd])

/-- Own work of `t` ticks (R78): none is added in declared mode (R81). -/
def Strand.ownTicks (x : Strand) (t : Nat) : Nat := if x.declared then 0 else t

theorem Strand.chain_own (x : Strand) (t : Nat) : (x.own t).chain = min (2 ^ 48 - 1) (x.chain + x.ownTicks t) := by
  have := x.chain_lt
  unfold Strand.own Strand.ownTicks
  split
  · omega
  · exact x.chain_addChain t

theorem Strand.ovf_own (x : Strand) (t : Nat) : (x.own t).ovf = (x.ovf || decide (2 ^ 48 ≤ x.chain + x.ownTicks t)) := by
  have := x.chain_lt
  unfold Strand.own Strand.ownTicks
  split
  · rw [decide_eq_false (by omega), Bool.or_false]
  · exact x.ovf_addChain t

theorem Strand.chain_le_own (x : Strand) (t : Nat) : x.chain ≤ (x.own t).chain := by
  have := x.chain_lt
  rw [x.chain_own]
  omega

theorem Strand.chain_le_ownCycles (x : Strand) (k d : Nat) : x.chain ≤ (x.ownCycles k d).chain := by
  unfold Strand.ownCycles
  dsimp only
  split
  · exact x.chain_le_own _
  · exact (x.chain_le_own _).trans (Strand.chain_le_own _ _)

theorem Strand.chain_le_cycles (x : Strand) (k d : Nat) : x.chain ≤ (x.cycles k d).chain :=
  Strand.chain_le_ownCycles { x with now := x.now + k * d } k d

/-- One cycle or none of own work. -/
theorem Strand.cycles_of_le_one (x : Strand) {k : Nat} (h : k ≤ 1) (d : Nat) : x.cycles k d = ({ x with now := x.now + k * d } : Strand).own (k * d) :=
  if_pos (.inl h)

theorem Strand.chpend_own (x : Strand) (t : Nat) (h : bit1 (x.csrAt 0x22#7) 11 = true) : bit1 ((x.own t).csrAt 0x22#7) 11 = true := by
  unfold Strand.own
  split
  · exact h
  · exact Strand.chpend_limitCheck _ _ _ (by rwa [x.csrAt_setCsr_other _ (by decide)])

/-! ### A join (R84) -/

/-- What a join leaves alone. -/
theorem Strand.join_eq (x : Strand) (n : Nat) (j : JoinSrc) : ∃ c a t e, x.join n j = { x with csr := c, async := a, now := t, evts := e } := by
  have h : x.TimedTo (x.setChain x.chain (j.ovf || (satAdd j.chain (transitIn x.declared j.site (.core n))).2)) := x.setChain_timed _ _
  have h' := Strand.setChain_timed (x.setCsr 0x11#7 (j.max.setWidth 64)) (satAdd j.chain (transitIn x.declared j.site (.core n))).1
    (j.ovf || (satAdd j.chain (transitIn x.declared j.site (.core n))).2)
  unfold Strand.join
  dsimp only
  split
  · exact ⟨_, _, _, _, by rw [h'.1]; rfl⟩
  · exact ⟨_, _, _, _, by rw [h.1]; rfl⟩

/-- The last origin is that of what was joined. -/
theorem Strand.csrAt_join (x : Strand) (n : Nat) (j : JoinSrc) : (x.join n j).csrAt 0x12#7 = j.last.setWidth 64 :=
  Strand.csrAt_setCsr_same _ _ _

/-- The chain is at least what was joined, as far as it can be held. -/
theorem Strand.le_chain_join (x : Strand) (n : Nat) (j : JoinSrc) : min j.chain (2 ^ 48 - 1) ≤ (x.join n j).chain := by
  have hsum := satAdd_fst j.chain (transitIn x.declared j.site (.core n))
  have hx := x.chain_lt
  have hchain : (x.join n j).chain = Strand.chain (if x.chain < (satAdd j.chain (transitIn x.declared j.site (.core n))).1
      then (x.setCsr 0x11#7 (j.max.setWidth 64)).setChain (satAdd j.chain (transitIn x.declared j.site (.core n))).1
        (j.ovf || (satAdd j.chain (transitIn x.declared j.site (.core n))).2)
      else x.setChain x.chain (j.ovf || (satAdd j.chain (transitIn x.declared j.site (.core n))).2)) :=
    congrArg (bitsN · 47 0) (Strand.csrAt_setCsr_other _ _ (by decide))
  rw [hchain]
  split
  · rw [Strand.chain_setChain _ (satAdd_lt _ _)]
    omega
  · rw [Strand.chain_setChain _ hx]
    omega

/-! ### An acquire (R194) -/

/-- An acquire above core scope leaves written bytes alone in the cache (R187). -/
theorem Strand.mask_of_mem_acquireAt (x : Strand) {scope : Nat} (h : scope ≠ 0) : ∀ l ∈ (x.acquireAt scope).cache, l.mask ≠ 0 := by
  intro l hl
  rw [Strand.acquireAt, if_neg h, Strand.acquire] at hl
  simpa using (List.mem_filter.1 hl).2

theorem Strand.acquireAt_eq (x : Strand) (scope : Nat) : x.acquireAt scope = { x with cache := (x.acquireAt scope).cache } := by
  unfold Strand.acquireAt
  split <;> rfl

end Sys2Proof.Machine
end

section
/-! PROOFS. CSR accesses (R77, R96, R166, R169, R413), and obligation O30. -/
namespace Sys2Proof.Machine
open Sys2Proof.Claim

/-! ### What one cycle leaves of CHN and the other CSRs (R78) -/

theorem Strand.csrAt_of_csr {x y : Strand} (h : y.csr = x.csr) (c : BitVec 7) : y.csrAt c = x.csrAt c := by simp only [Strand.csrAt, h]

theorem Strand.csrAt_own (x : Strand) (t : Nat) {c : BitVec 7} (h : c ≠ 0x10#7) (h' : c ≠ 0x22#7) : (x.own t).csrAt c = x.csrAt c := by
  unfold Strand.own
  split
  · rfl
  · exact x.csrAt_setChain_other _ _ h h'

/-- The CSRs at the end of an instruction of one cycle: the cycle is own work, charged unless it has been. -/
theorem Strand.csr_finish_one (x : Strand) (d pc : Nat) :
    ∃ w : Strand, w.csr = x.csr ∧ (x.finish 1 d pc).csr = (w.own (if x.begun then 0 else d)).csr := by
  have hk : (if x.begun then 1 - 1 else 1) * d = if x.begun then 0 else d := by split <;> simp
  have hle : (if x.begun then 1 - 1 else 1) ≤ 1 := by split <;> decide
  refine ⟨{ x with now := x.now + if x.begun then 0 else d }, rfl, ?_⟩
  exact (congrArg Strand.csr (x.cycles_of_le_one hle d)).trans (by rw [hk])

/-! ### A word that begins (R78, R134) -/

/-- The divider of a strand that runs alone is its core's, before and after its ticks are charged. -/
theorem divOf_atWord {s : State} {x : Strand} (h : s.strand s.cur = some x) : (atWord s x).divOf s.cur = s.divOf s.cur := by
  unfold State.divOf
  rw [strand_atWord, h]
  simp only [Strand.codeCore, (begun_timed s x).gang]
  rfl

/-- A strand alone waits for a pending register as its gang would (R356). -/
theorem gangPending_atWord {s : State} {x : Strand} (h : s.Alone x) (rs : List (BitVec 6)) :
    gangPending (atWord s x) s.cur (begun s x) rs = x.pending rs := by
  have ht := begun_timed s x
  obtain ⟨-, -, htacked⟩ := h
  simp [gangPending, Strand.members, ht.gang, htacked, ht.pending]

theorem State.onPart_setStrand (s : State) (n : Nat) (x : Strand) (p : Nat) (f : Partition → Partition) :
    (s.setStrand n x).onPart p f = (s.onPart p f).setStrand n x := by
  unfold State.onPart
  rw [show (s.setStrand n x).part p = s.part p from rfl]
  split <;> rfl

/-- Where a strand ends an instruction does not depend on when its results are ready. -/
theorem Ends.of_gRdy {x y : Strand} {q : Tbl Nat} (h : Ends { x with gRdy := q } y) : Ends x y := by
  obtain ⟨hk, hpc⟩ := h
  exact ⟨⟨hk.g, hk.v, hk.p, hk.csr, hk.tcause, hk.ident, hk.streams, hk.granules, hk.queues, hk.caches, hk.barriers, hk.debug, hk.wait⟩, hpc⟩

/-- The end of an instruction whose result has been noted (R300). -/
theorem ends_finish_of_later {x w : Strand} (h : x.TimedTo w) (r : BitVec 6) (j e k d pc : Nat) :
    Ends { x with pc := pc } ((w.later r j e).finish k d pc) := by
  obtain ⟨q, hq⟩ := w.later_eq r j e
  have hw : Strand.TimedTo { x with gRdy := q } { w with gRdy := q } := ⟨by rw [h.1], h.2⟩
  rw [hq]
  exact Ends.of_gRdy (q := q) (ends_finish hw k d pc)

/-- The frame of a write of a g register and of what cycles may change. -/
theorem keeps_of_setG {x y : Strand} {d : BitVec 6} {v : GReg} (h : Keeps (x.setG d v) y [] []) : Keeps x y [d] [] := by
  have hg : ∀ r, r ∉ [d] → y.getG r = x.getG r := fun r hr => by
    rw [h.g r List.not_mem_nil, Strand.getG_setG_other _ _ (fun hrd => hr (List.mem_singleton.2 hrd))]
  rw [Strand.setG_eq] at h
  exact ⟨hg, h.v, h.p, h.csr, h.tcause, h.ident, h.streams, h.granules, h.queues, h.caches, h.barriers, h.debug, h.wait⟩

/-- The block of a word: cycles aside, the strand waits as it was left. -/
theorem State.blockOn_eq {s : State} {n : Nat} {x : Strand} {k : WaitKind} (hx : s.strand n = some x) (hk : k ≠ .lazy) :
    ∃ w q, x.TimedTo w ∧ s.blockOn n k = s.setStrand n { w with begun := q, wait := some k } := by
  obtain ⟨w, q, hw, hissued⟩ := issued_eq x (s.divOf n)
  refine ⟨w, q, hw, ?_⟩
  rw [State.blockOn, State.onStrand, hx]
  simp only [if_neg hk, hissued]

/-- A word that waits, its strand having kept something for its next turn. -/
theorem exec_block {i : Instr} {s : State} {x z : Strand} {f : State → Nat → Strand → Eff} {b : List Byte} {k : WaitKind} (h : Alone s x)
    (hi : exec i s = word s f) (hz : x.TimedTo z) (hk : k ≠ .lazy)
    (hf : f (atWord s x) s.cur (begun s x) = .block (s.setStrand s.cur { z with stash := b }) k) :
    ∃ y, exec i s = .next (s.setStrand s.cur y) ∧ y.wait = some k ∧ Ends x { y with wait := none } := by
  have hz' : Strand.TimedTo { x with stash := b } { z with stash := b } := ⟨by rw [hz.1], hz.2⟩
  obtain ⟨w, q, hw, hon⟩ := State.blockOn_eq (State.strand_setStrand_same s s.cur { z with stash := b }) hk
  have ht := hz'.trans hw
  obtain ⟨-, -, hpc, -⟩ := ht.keeps
  refine ⟨{ w with begun := q, wait := some k }, ?_, rfl, ?_, hpc⟩
  · rw [hi, word_block h hf, hon, State.setStrand_setStrand]
  · have hkeeps := keeps_of_timed ht w.pc w.reply w.stash w.fillBuf w.released w.gRdy
    exact ⟨hkeeps.g, hkeeps.v, hkeeps.p, hkeeps.csr, hkeeps.tcause, hkeeps.ident, hkeeps.streams, hkeeps.granules, hkeeps.queues, hkeeps.caches,
      hkeeps.barriers, hkeeps.debug, rfl⟩

/-! ### The parts of an access (R413) -/

/-- The access writes. -/
def csrWrites (op : BitVec 2) (a : BitVec 6) : Bool := op == 1 || (op != 0 && a != 0)

/-- The access is to an absent CSR, or writes one marked R, or is another than CSRR to a capability (R169, R172, R413). -/
def csrIllegal (op : BitVec 2) (a : BitVec 6) (c : BitVec 7) : Bool :=
  csrKind c == .absent || (csrKind c == .r && csrWrites op a) || (op != 0 && decide (0x30 ≤ c.toNat) && decide (c.toNat ≤ 0x32))

/-- What the access gives its register. -/
def csrOld (s : State) (x : Strand) (op : BitVec 2) (a : BitVec 6) (c : BitVec 7) : GReg :=
  if op = 0 then (operands s x [a]).readHeld c (readCsr (atWord s x) s.cur (operands s x [a]) c)
  else readCsr (atWord s x) s.cur (operands s x [a]) c

/-- What the access would write if every bit could be written. -/
def csrArg (s : State) (x : Strand) (op : BitVec 2) (a : BitVec 6) (c : BitVec 7) : W64 :=
  if op = 1 then (begun s x).rd a else if op = 2 then (csrOld s x op a c).bits.setWidth 64 ||| (begun s x).rd a
  else (csrOld s x op a c).bits.setWidth 64 &&& ~~~(begun s x).rd a

/-- What stops a write of SELV (R166). -/
def csrFault (s : State) (x : Strand) (op : BitVec 2) (a : BitVec 6) (c : BitVec 7) : Option Trap :=
  if csrWrites op a && c == 0x20#7 then selvFault (atWord s x) s.cur (begun s x) (bitsN (csrArg s x op a c) 18 0) else none

/-- Only a write of SELV can be stopped. -/
theorem csrFault_other {s : State} {x : Strand} {op : BitVec 2} {a : BitVec 6} {c : BitVec 7} (h : c ≠ 0x20#7) : csrFault s x op a c = none := by
  simp [csrFault, h]

/-- The strand after the access, but for the cycle that it issues in. -/
def csrAccessed (s : State) (x : Strand) (op : BitVec 2) (d a : BitVec 6) (c : BitVec 7) : Strand :=
  (if csrWrites op a then writeCsr (operands s x [a]) c (csrArg s x op a c) else operands s x [a]).setG d (csrOld s x op a c)

/-- The device after the access: a read of EVCNT for an event off the allow-list is noted (R34). -/
def csrNoted (s : State) (x : Strand) (c : BitVec 7) : State :=
  if c = 0x39#7 && ((atWord s x).readEvent (begun s x)).2 then
    (atWord s x).onPart (begun s x).id.part fun q => { q with hidden := q.hidden ||| (1#64 <<< (begun s x).id.vd) }
  else atWord s x

section
variable {s : State} {x : Strand} {op : BitVec 2} {d a : BitVec 6} {c : BitVec 7}

/-- What an access does, none of its registers pending: it is illegal, waits, is stopped, or is done. -/
theorem csrAccess_effect (h : s.Alone x) (hp : x.pending [d, a] = false) : ∃ f : State → Nat → Strand → Eff, csrAccess op d a c s = word s f ∧
    (csrIllegal op a c = true → f (atWord s x) s.cur (begun s x) = illegal (atWord s x) s.cur (begun s x)) ∧
    (csrIllegal op a c = false → csrWaits (atWord s x) s.cur (begun s x) c (csrWrites op a) = true →
      f (atWord s x) s.cur (begun s x) =
        .block (if op = 0 then (atWord s x).setStrand s.cur ((begun s x).holdChain c) else atWord s x) .own) ∧
    (csrIllegal op a c = false → csrWaits (atWord s x) s.cur (begun s x) c (csrWrites op a) = false →
      (∀ t, csrFault s x op a c = some t → f (atWord s x) s.cur (begun s x) = .trap (operands s x [a]) t) ∧
      (csrFault s x op a c = none →
        f (atWord s x) s.cur (begun s x) = .done ((csrNoted s x c).retire s.cur ((csrAccessed s x op d a c).later d 1 1) 1))) := by
  have hpend := gangPending_atWord h [d, a]
  rw [hp] at hpend
  refine ⟨_, rfl, fun hill => if_pos hill, fun hleg hwait => ?_, fun hleg hwait => ?_⟩
  · refine (if_neg (Bool.eq_false_iff.1 hleg)).trans (if_pos ?_)
    rw [hpend]
    exact hwait
  · have hgo : ¬ (gangPending (atWord s x) s.cur (begun s x) [d, a] || csrWaits (atWord s x) s.cur (begun s x) c (csrWrites op a)) = true := by
      rw [hpend, hwait]
      decide
    refine ⟨fun t ht => (if_neg (Bool.eq_false_iff.1 hleg)).trans ((if_neg hgo).trans ?_),
      fun ht => (if_neg (Bool.eq_false_iff.1 hleg)).trans ((if_neg hgo).trans ?_)⟩
    all_goals
      extract_lets r old o64 b v
      have hfault : (if csrWrites op a && c == 0x20#7 then selvFault (atWord s x) s.cur (begun s x) (bitsN v 18 0) else none) = _ := ht
      unfold csrWrites at hfault
      rw [hfault]
      rfl

theorem csrArg_eq : csrArg s x op a c = if op = 1 then x.rd a else if op = 2 then (csrOld s x op a c).bits.setWidth 64 ||| x.rd a
    else (csrOld s x op a c).bits.setWidth 64 &&& ~~~x.rd a := by
  rw [← (begun_timed s x).rd]
  rfl

theorem csrWrites_iff : csrWrites op a = true ↔ op = 1 ∨ (op ≠ 0 ∧ a ≠ 0) := by simp [csrWrites]

theorem csrIllegal_iff : csrIllegal op a c = false ↔ csrKind c ≠ .absent ∧ ¬ (csrKind c = .r ∧ csrWrites op a = true) ∧
    ¬ (op ≠ 0 ∧ 0x30 ≤ c.toNat ∧ c.toNat ≤ 0x32) := by
  rw [← Bool.not_eq_true, ← not_or, ← not_or]
  simp [csrIllegal, and_assoc]

/-- Only EVCNT is noted, and that is marked R (R34, R169). -/
theorem csrNoted_of_writes (hleg : csrIllegal op a c = false) (hw : csrWrites op a = true) : csrNoted s x c = atWord s x := by
  have hc : c ≠ 0x39#7 := by
    rintro rfl
    obtain ⟨-, hr, -⟩ := csrIllegal_iff.1 hleg
    exact hr ⟨rfl, hw⟩
  simp [csrNoted, hc]

theorem csrNoted_setStrand (y : Strand) : (csrNoted s x c).setStrand s.cur y =
    (if c = 0x39#7 ∧ ((atWord s x).readEvent (begun s x)).2 = true then
      s.onPart x.id.part fun q => { q with hidden := q.hidden ||| (1#64 <<< x.id.vd) } else s).setStrand s.cur y := by
  have hid : (begun s x).id = x.id := (begun_timed s x).keeps.1
  unfold csrNoted
  rw [hid]
  simp only [Bool.and_eq_true, decide_eq_true_eq]
  split
  · rw [atWord, State.onPart_setStrand, State.setStrand_setStrand]
  · exact setStrand_atWord _ _ _

/-! ### What a write does to the stored CSRs (R75, R77, R96, R169) -/

/-- The value that a CSR has after a write of `v`: the bits that a write may change are those of `v`. -/
def csrNew (r : Strand) (c : BitVec 7) (v : W64) : W64 := (r.csrAt c &&& ~~~csrMask c) ||| (v &&& csrMask c)

/-- Any CSR but CHN and CHSTALL takes its new value; CHLIM's limit check may note a crossing. -/
theorem writeCsr_timed (r : Strand) (v : W64) (h : c ≠ 0x10#7) (h' : c ≠ 0x14#7) : (r.setCsr c (csrNew r c v)).TimedTo (writeCsr r c v) := by
  unfold writeCsr
  split
  · exact absurd (BitVec.eq_of_toNat_eq ‹_›) h
  · exact Strand.limitCheck_timed _ _ _
  · exact absurd (BitVec.eq_of_toNat_eq ‹_›) h'
  · exact .refl _

/-- A write of CHN or CHSTALL touches only what cycles may touch. -/
theorem writeCsr_chain_timed (r : Strand) (v : W64) (h : c = 0x10#7 ∨ c = 0x14#7) : r.TimedTo (writeCsr r c v) := by
  rcases h with rfl | rfl
  · exact (r.setCsr_timed _ (.inl rfl)).trans (Strand.limitCheck_timed _ _ _)
  · exact r.setCsr_timed _ (.inr rfl)

theorem writeCsr_pc (r : Strand) (c : BitVec 7) (v : W64) : (writeCsr r c v).pc = r.pc ∧ (writeCsr r c v).begun = r.begun := by
  have hkeeps : ∀ {y z : Strand}, y.TimedTo z → z.pc = y.pc ∧ z.begun = y.begun := fun h => by
    rw [h.1]
    exact ⟨rfl, rfl⟩
  by_cases hc : c = 0x10#7 ∨ c = 0x14#7
  · exact hkeeps (writeCsr_chain_timed r v hc)
  · rw [not_or] at hc
    have h := hkeeps (writeCsr_timed r v hc.1 hc.2)
    exact h

theorem csrAt_writeCsr_chn (r : Strand) (v : W64) :
    (writeCsr r 0x10#7 v).csrAt 0x10#7 = csrNew r 0x10#7 v &&& (v ||| 0x7FFFFFFFFFFFFFFF#64) :=
  (Strand.csrAt_limitCheck _ _ _ (by decide)).trans (r.csrAt_setCsr_same _ _)

theorem csrAt_writeCsr_chstall (r : Strand) (v : W64) :
    (writeCsr r 0x14#7 v).csrAt 0x14#7 = csrNew r 0x14#7 v &&& (v ||| 0x7FFFFFFFFFFFFFFF#64) :=
  r.csrAt_setCsr_same _ _

/-- The low 48 bits of a word are those of another that agrees with it there. -/
theorem bitsN_chain_of_bits {w v : W64} (h : ∀ i < 48, w.getLsbD i = v.getLsbD i) : bitsN w 47 0 = v.toNat % 2 ^ 48 := by
  refine Nat.eq_of_testBit_eq fun i => ?_
  rw [testBit_bitsN, Nat.testBit_mod_two_pow, Nat.zero_add]
  by_cases hi : i < 48
  · rw [h i hi]
    rfl
  · simp [hi]

/-- CHN and CHLIM take 48 bits of a write (R75). -/
theorem getLsbD_csrNew_chain (r : Strand) (v : W64) (h : csrMask c = 0xFFFFFFFFFFFF#64) {i : Nat} (hi : i < 48) :
    (csrNew r c v).getLsbD i = v.getLsbD i := by
  have hm : ∀ i < 48, (0xFFFFFFFFFFFF#64).getLsbD i = true := by decide
  rw [csrNew, h, BitVec.getLsbD_or, BitVec.getLsbD_and, BitVec.getLsbD_and, BitVec.getLsbD_not, hm i hi]
  simp

/-- The chain that a write of CHN gives. -/
theorem chain_writeCsr_chn (r : Strand) (v : W64) : (writeCsr r 0x10#7 v).chain = v.toNat % 2 ^ 48 := by
  have hm : ∀ i < 48, (0x7FFFFFFFFFFFFFFF#64).getLsbD i = true := by decide
  rw [Strand.chain, csrAt_writeCsr_chn]
  refine bitsN_chain_of_bits fun i hi => ?_
  rw [BitVec.getLsbD_and, BitVec.getLsbD_or, hm i hi, getLsbD_csrNew_chain r v rfl hi, Bool.or_true, Bool.and_true]

/-- Its flag is lost only by a 0 written to it, and a 1 does not set it. -/
theorem ovf_writeCsr_chn (r : Strand) (v : W64) : (writeCsr r 0x10#7 v).ovf = (r.ovf && bit1 v 63) := by
  have hmask : csrMask 0x10#7 = 0xFFFFFFFFFFFF#64 := rfl
  rw [Strand.ovf, csrAt_writeCsr_chn, Strand.ovf, csrNew, hmask]
  simp [bit1]

/-- The limit that a write of CHLIM gives. -/
theorem chlim_setCsr_new (r : Strand) (v : W64) : (r.setCsr 0x13#7 (csrNew r 0x13#7 v)).chlim = v.toNat % 2 ^ 48 := by
  rw [Strand.chlim, r.csrAt_setCsr_same]
  exact bitsN_chain_of_bits fun i hi => getLsbD_csrNew_chain r v rfl hi

/-! ### The end of an access -/

/-- The strand when the access has ended. -/
def csrEnded (s : State) (x : Strand) (op : BitVec 2) (d a : BitVec 6) (c : BitVec 7) : Strand :=
  ((csrAccessed s x op d a c).later d 1 1).finish 1 ((csrNoted s x c).divOf s.cur) ((x.pc + 4) % 2 ^ 64)

theorem csrAccessed_keeps : (csrAccessed s x op d a c).pc = x.pc ∧ (csrAccessed s x op d a c).begun = x.begun := by
  have hr : (operands s x [a]).pc = x.pc ∧ (operands s x [a]).begun = x.begun := by
    rw [(operands_timed s x [a]).1]
    exact ⟨rfl, rfl⟩
  rw [csrAccessed, Strand.setG_eq]
  split
  · obtain ⟨hpc, hbegun⟩ := writeCsr_pc (operands s x [a]) c (csrArg s x op a c)
    exact ⟨hpc.trans hr.1, hbegun.trans hr.2⟩
  · exact hr

/-- An access that nothing stops is done. -/
theorem csrAccess_done (h : s.Alone x) (hp : x.pending [d, a] = false) (hleg : csrIllegal op a c = false)
    (hwait : csrWaits (atWord s x) s.cur (begun s x) c (csrWrites op a) = false) (hfault : csrFault s x op a c = none) :
    csrAccess op d a c s = .next ((csrNoted s x c).setStrand s.cur (csrEnded s x op d a c)) := by
  obtain ⟨f, hexec, -, -, hdone⟩ := csrAccess_effect (op := op) (c := c) h hp
  obtain ⟨q, hq⟩ := (csrAccessed s x op d a c).later_eq d 1 1
  have hpc : ((csrAccessed s x op d a c).later d 1 1).pcPlus 4 = (x.pc + 4) % 2 ^ 64 := by
    rw [hq, Strand.pcPlus]
    exact congrArg (fun k => (k + 4) % 2 ^ 64) csrAccessed_keeps.1
  rw [hexec, word_done h ((hdone hleg hwait).2 hfault), State.retire_eq, hpc]
  rfl

/-- The end of an access whose strand, cycles aside, is `w`. -/
theorem ends_csrEnded {w : Strand} (hw : w.TimedTo (csrAccessed s x op d a c)) : Ends (goOn w) (csrEnded s x op d a c) := by
  obtain ⟨-, -, hpcw, -⟩ := hw.keeps
  have hpc : w.pc = x.pc := hpcw.symm.trans csrAccessed_keeps.1
  have he := ends_finish_of_later hw d 1 1 1 ((csrNoted s x c).divOf s.cur) ((x.pc + 4) % 2 ^ 64)
  rw [← hpc] at he
  rw [csrEnded, ← hpc]
  exact he

/-- An access that writes nothing. -/
theorem retires_csr_read {i : Instr} (he : exec i s = csrAccess op d a c s) (h : s.Alone x) (hp : x.pending [d, a] = false)
    (hleg : csrIllegal op a c = false) (hwait : csrWaits (atWord s x) s.cur (begun s x) c (csrWrites op a) = false)
    (hw : csrWrites op a = false) :
    Retires i s (if c = 0x39#7 ∧ ((atWord s x).readEvent (begun s x)).2 = true then
      s.onPart x.id.part fun q => { q with hidden := q.hidden ||| (1#64 <<< x.id.vd) } else s)
      (goOn ((operands s x [a]).setG d (csrOld s x op a c))) := by
  have hfault : csrFault s x op a c = none := by simp [csrFault, hw]
  refine ⟨csrEnded s x op d a c, ?_, ends_csrEnded ?_⟩
  · rw [he, csrAccess_done h hp hleg hwait hfault, csrNoted_setStrand]
  · rw [csrAccessed, hw]
    exact .refl _

/-- An access that writes, and that nothing stops: how it leaves the strand. -/
theorem exec_csr_write {i : Instr} (he : exec i s = csrAccess op d a c s) (h : s.Alone x) (hp : x.pending [d, a] = false)
    (hleg : csrIllegal op a c = false) (hwait : csrWaits (atWord s x) s.cur (begun s x) c (csrWrites op a) = false)
    (hw : csrWrites op a = true) (hfault : csrFault s x op a c = none) :
    exec i s = .next (s.setStrand s.cur (csrEnded s x op d a c)) := by
  rw [he, csrAccess_done h hp hleg hwait hfault, csrNoted_of_writes hleg hw, setStrand_atWord]

/-- A write of a CSR other than CHN and CHSTALL. -/
theorem retires_csr_write {i : Instr} (he : exec i s = csrAccess op d a c s) (h : s.Alone x) (hp : x.pending [d, a] = false)
    (hleg : csrIllegal op a c = false) (hwait : csrWaits (atWord s x) s.cur (begun s x) c (csrWrites op a) = false)
    (hw : csrWrites op a = true) (hfault : csrFault s x op a c = none) (hchn : c ≠ 0x10#7) (hstall : c ≠ 0x14#7) :
    Retires i s s (goOn (((operands s x [a]).setCsr c (csrNew (operands s x [a]) c (csrArg s x op a c))).setG d (csrOld s x op a c))) := by
  refine ⟨csrEnded s x op d a c, exec_csr_write he h hp hleg hwait hw hfault, ends_csrEnded ?_⟩
  rw [csrAccessed, if_pos hw]
  exact timed_setG (writeCsr_timed _ _ hchn hstall) _ _

/-! ### CHN, CHSTALL and CHLIM (R77, R96) -/

/-- The CSRs when an access that writes has ended. -/
theorem csr_csrEnded (hw : csrWrites op a = true) : ∃ w : Strand, w.csr = (writeCsr (operands s x [a]) c (csrArg s x op a c)).csr ∧
    (csrEnded s x op d a c).csr = (w.own (if x.begun then 0 else (csrNoted s x c).divOf s.cur)).csr := by
  obtain ⟨q, hq⟩ := (csrAccessed s x op d a c).later_eq d 1 1
  obtain ⟨w, hcsr, hend⟩ := Strand.csr_finish_one ((csrAccessed s x op d a c).later d 1 1) ((csrNoted s x c).divOf s.cur) ((x.pc + 4) % 2 ^ 64)
  rw [hq] at hcsr hend
  refine ⟨w, hcsr.trans ?_, ?_⟩
  · show (csrAccessed s x op d a c).csr = _
    rw [csrAccessed, if_pos hw, Strand.setG_eq]
  · rw [← (csrAccessed_keeps (s := s) (op := op) (d := d) (a := a) (c := c)).2, csrEnded, hq]
    exact hend

/-- A write of CHN or CHSTALL leaves the strand at the next word, with the CSR's old value in its register. -/
theorem csrEnded_chain (hw : csrWrites op a = true) (hc : c = 0x10#7 ∨ c = 0x14#7) :
    (csrEnded s x op d a c).getG d = (if d = 0 then ⟨0, false⟩ else csrOld s x op a c) ∧ Keeps (goOn x) (csrEnded s x op d a c) [d] [] ∧
    (csrEnded s x op d a c).pc = (x.pc + 4) % 2 ^ 64 := by
  have ht : (x.setG d (csrOld s x op a c)).TimedTo (csrAccessed s x op d a c) := by
    rw [csrAccessed, if_pos hw]
    exact timed_setG ((operands_timed s x [a]).trans (writeCsr_chain_timed _ _ hc)) _ _
  obtain ⟨hk, hpc⟩ := ends_csrEnded ht
  refine ⟨(hk.g d List.not_mem_nil).trans ?_, ?_, ?_⟩
  · split
    case isTrue hd =>
      rw [hd]
      exact Strand.getG_zero _
    case isFalse hd => exact x.getG_setG_same _ hd
  · refine keeps_of_setG (v := csrOld s x op a c) ?_
    have hgoOn : goOn (x.setG d (csrOld s x op a c)) = (goOn x).setG d (csrOld s x op a c) := by
      rw [Strand.setG_eq, (goOn x).setG_eq]
      unfold Strand.setG
      split <;> rfl
    rwa [hgoOn] at hk
  · rw [hpc, Strand.setG_eq]
    rfl

/-- The chain and its flag after a write of CHN: the issue cycle is added to what was written (log 23). -/
theorem chn_csrEnded (h : s.Alone x) (hleg : csrIllegal op a 0x10#7 = false) (hw : csrWrites op a = true) :
    let own := if x.declared || x.begun then 0 else s.divOf s.cur
    (csrEnded s x op d a 0x10#7).chain = min (2 ^ 48 - 1) ((csrArg s x op a 0x10#7).toNat % 2 ^ 48 + own) ∧
    (csrEnded s x op d a 0x10#7).ovf = (((operands s x [a]).ovf && bit1 (csrArg s x op a 0x10#7) 63) ||
      decide (2 ^ 48 ≤ (csrArg s x op a 0x10#7).toNat % 2 ^ 48 + own)) := by
  intro own
  obtain ⟨w, hcsr, hend⟩ := csr_csrEnded (s := s) (x := x) (d := d) (c := 0x10#7) hw
  have hdv : (csrNoted s x 0x10#7).divOf s.cur = s.divOf s.cur := by
    rw [csrNoted_of_writes hleg hw, divOf_atWord h.1]
  have hdecl : w.declared = x.declared := by
    have ht := (operands_timed s x [a]).trans (writeCsr_chain_timed (operands s x [a]) (csrArg s x op a 0x10#7) (.inl rfl))
    rw [Strand.declared, Strand.csrAt_of_csr hcsr, ht.2.1 0x15#7 (by decide) (by decide) (by decide)]
    rfl
  have hticks : w.ownTicks (if x.begun then 0 else s.divOf s.cur) = own := by
    rw [Strand.ownTicks, hdecl]
    cases hd : x.declared <;> cases hb : x.begun <;> simp [own, hd, hb]
  have hchain : w.chain = (csrArg s x op a 0x10#7).toNat % 2 ^ 48 := by
    rw [Strand.chain, Strand.csrAt_of_csr hcsr, ← Strand.chain, chain_writeCsr_chn]
  have hovf : w.ovf = ((operands s x [a]).ovf && bit1 (csrArg s x op a 0x10#7) 63) := by
    rw [Strand.ovf, Strand.csrAt_of_csr hcsr, ← Strand.ovf, ovf_writeCsr_chn]
  rw [hdv] at hend
  rw [Strand.chain, Strand.ovf, Strand.csrAt_of_csr hend, ← Strand.chain, ← Strand.ovf, Strand.chain_own, Strand.ovf_own, hticks, hchain, hovf]
  exact ⟨rfl, rfl⟩

/-- CHSTALL after a write of it. -/
theorem chstall_csrEnded (hw : csrWrites op a = true) : (csrEnded s x op d a 0x14#7).csrAt 0x14#7 =
    csrNew (operands s x [a]) 0x14#7 (csrArg s x op a 0x14#7) &&& (csrArg s x op a 0x14#7 ||| 0x7FFFFFFFFFFFFFFF#64) := by
  obtain ⟨w, hcsr, hend⟩ := csr_csrEnded (s := s) (x := x) (d := d) (c := 0x14#7) hw
  rw [Strand.csrAt_of_csr hend, w.csrAt_own _ (by decide) (by decide), Strand.csrAt_of_csr hcsr, csrAt_writeCsr_chstall]

/-- A CHLIM written below the chain, the chain not above the limit before, sets chpend (R96). -/
theorem chpend_csrEnded (hw : csrWrites op a = true) (hbefore : above (operands s x [a]).chain (operands s x [a]).chlim = false)
    (hafter : above (operands s x [a]).chain ((csrArg s x op a 0x13#7).toNat % 2 ^ 48) = true)
    (hasync : ∀ t ∈ (operands s x [a]).async, t.1 ≠ 0x0C) : bit1 ((csrEnded s x op d a 0x13#7).csrAt 0x22#7) 11 = true := by
  obtain ⟨w, hcsr, hend⟩ := csr_csrEnded (s := s) (x := x) (d := d) (c := 0x13#7) hw
  rw [Strand.csrAt_of_csr hend]
  refine w.chpend_own _ ?_
  generalize csrArg s x op a 0x13#7 = v at *
  generalize operands s x [a] = r at *
  have hchain : (r.setCsr 0x13#7 (csrNew r 0x13#7 v)).chain = r.chain := congrArg (bitsN · 47 0) (r.csrAt_setCsr_other _ (by decide))
  have hcross : writeCsr r 0x13#7 v = (r.setCsr 0x13#7 (csrNew r 0x13#7 v)).markCross := by
    refine if_pos ?_
    show (!above r.chain r.chlim && above (r.setCsr 0x13#7 (csrNew r 0x13#7 v)).chain (r.setCsr 0x13#7 (csrNew r 0x13#7 v)).chlim) = true
    rw [hbefore, hchain, chlim_setCsr_new, hafter]
    rfl
  rw [Strand.csrAt_of_csr hcsr, hcross]
  exact Strand.chpend_markCross _ (.inr hasync)

/-! ### Accesses that trap or wait -/

/-- An access to an absent CSR, or one that the CSR's kind does not allow. -/
theorem traps_csr_illegal {i : Instr} (he : exec i s = csrAccess op d a c s) (h : s.Alone x) (hp : x.pending [d, a] = false)
    (hill : csrIllegal op a c = true) (hwait : x.wait = none) : Traps i s x 0x01 ((s.fetchWord s.cur x.pc).setWidth 64) := by
  obtain ⟨f, hexec, hf, -, -⟩ := csrAccess_effect (op := op) (c := c) h hp
  exact traps_of h (he.trans hexec) hwait (by decide) (by decide) (begun_timed s x)
    ((hf hill).trans (illegal_atWord h (begun_timed s x)))

/-- An access that must wait (R166, R358, R400). -/
theorem exec_csr_waits {i : Instr} (he : exec i s = csrAccess op d a c s) (h : s.Alone x) (hp : x.pending [d, a] = false)
    (hleg : csrIllegal op a c = false) (hwait : csrWaits (atWord s x) s.cur (begun s x) c (csrWrites op a) = true) :
    ∃ y, exec i s = .next (s.setStrand s.cur y) ∧ y.wait = some .own ∧ Ends x { y with wait := none } := by
  obtain ⟨f, hexec, -, hf, -⟩ := csrAccess_effect (op := op) (c := c) h hp
  have hheld : ∃ b, (if op = 0 then (atWord s x).setStrand s.cur ((begun s x).holdChain c) else atWord s x) =
      s.setStrand s.cur { begun s x with stash := b } := by
    unfold Strand.holdChain
    split
    · split
      · exact ⟨_, setStrand_atWord _ _ _⟩
      · exact ⟨(begun s x).stash, setStrand_atWord _ _ _⟩
    · exact ⟨(begun s x).stash, rfl⟩
  obtain ⟨b, hb⟩ := hheld
  exact exec_block h (he.trans hexec) (begun_timed s x) (by decide) ((hf hleg hwait).trans (by rw [hb]))

/-- SELV may be moved to a multiple of 256 from 256 to the end of the span (R166). -/
def Strand.selvMay (x : Strand) (dest : Nat) : Prop := dest % 256 = 0 ∧ 256 ≤ dest ∧ dest ≤ x.spanEnd

/-- A write of SELV to another place is illegal. -/
theorem csrFault_selv_illegal (h : s.Alone x) (hw : csrWrites op a = true) (hdest : ¬ x.selvMay ((csrArg s x op a 0x20#7).toNat % 2 ^ 19)) :
    csrFault s x op a 0x20#7 = some (.precise 0x01 ((s.fetchWord s.cur x.pc).setWidth 64)) := by
  have ht := begun_timed s x
  have hspan : (begun s x).spanEnd = x.spanEnd := by rw [ht.1]
  have hword : (atWord s x).wordAt s.cur (begun s x) = (s.fetchWord s.cur x.pc).setWidth 64 :=
    congrArg Trap.tval (Eff.trap.inj (illegal_atWord h ht)).2
  rw [csrFault, hw, ← hword]
  refine (if_pos rfl).trans (if_pos ?_)
  change ¬ x.selvMay (bitsN (csrArg s x op a 0x20#7) 18 0) at hdest
  unfold Strand.selvMay at hdest
  rw [hspan]
  simp only [Bool.or_eq_true, decide_eq_true_eq]
  omega

/-- A write of SELV that moves it down, or up over no locked byte, is not stopped. -/
theorem csrFault_selv_none (h : s.Alone x) (hdest : x.selvMay ((csrArg s x op a 0x20#7).toNat % 2 ^ 19))
    (hfree : (csrArg s x op a 0x20#7).toNat % 2 ^ 19 ≤ x.selv ∨
      (atWord s x).lockMeets x.id.vd s.cur x.selv ((csrArg s x op a 0x20#7).toNat % 2 ^ 19) = none) : csrFault s x op a 0x20#7 = none := by
  have ht := begun_timed s x
  have hspan : (begun s x).spanEnd = x.spanEnd := by rw [ht.1]
  have hid : (begun s x).id = x.id := ht.keeps.1
  change x.selvMay (bitsN (csrArg s x op a 0x20#7) 18 0) at hdest
  change bitsN (csrArg s x op a 0x20#7) 18 0 ≤ x.selv ∨ (atWord s x).lockMeets x.id.vd s.cur x.selv (bitsN (csrArg s x op a 0x20#7) 18 0) = none at hfree
  obtain ⟨halign, hlow, hhigh⟩ := hdest
  unfold csrFault
  split
  · refine (if_neg ?_).trans ?_
    · rw [ht.gang, h.2.2, hspan]
      simp only [Bool.or_eq_true, decide_eq_true_eq, Bool.false_eq_true, false_or]
      omega
    · rw [ht.selv, hid]
      rcases hfree with hle | hnone
      · exact if_neg (Nat.not_lt.2 hle)
      · rw [hnone]
        exact ite_self _
  · rfl

/-- A write of SELV to a place that it may not be moved to. -/
theorem traps_csr_selv {i : Instr} (he : exec i s = csrAccess op d a 0x20#7 s) (h : s.Alone x) (hp : x.pending [d, a] = false)
    (hleg : csrIllegal op a 0x20#7 = false) (hwait : csrWaits (atWord s x) s.cur (begun s x) 0x20#7 (csrWrites op a) = false)
    (hw : csrWrites op a = true) (hdest : ¬ x.selvMay ((csrArg s x op a 0x20#7).toNat % 2 ^ 19)) (hxw : x.wait = none) :
    Traps i s x 0x01 ((s.fetchWord s.cur x.pc).setWidth 64) := by
  obtain ⟨f, hexec, -, -, hf⟩ := csrAccess_effect (op := op) (c := 0x20#7) h hp
  exact traps_of h (he.trans hexec) hxw (by decide) (by decide) (operands_timed s x [a])
    ((hf hleg hwait).1 _ (csrFault_selv_illegal h hw hdest))

/-! ### The forms (R34, R77, R96, R166, R169, R172, R358, R400, R413) -/

/-- Each form is an access to its CSR. -/
theorem exec_csrForm {i : Instr} {o : BitVec 2} {b : BitVec 6} {k : BitVec 7}
    (h : (i, op, b, c) ∈ [(.csrr d k, 0, 0, k), (.csrw d a k, 1, a, k), (.csrs d a k, 2, a, k), (.csrc d a k, 3, a, k), (.selvWrite o d a, o, a, 0x20),
      (.chnWrite o d a false, o, a, 0x10), (.chnWrite o d a true, o, a, 0x14), (.chlimWrite o d a, o, a, 0x13), (.chmodeWrite o d a, o, a, 0x15),
      (.fpCsrAccess o d a k, o, a, k), (.rlthrRead d, 0, 0, 0x2D), (.evcntRead d, 0, 0, 0x39), (.capCsrRead d k, 0, 0, k),
      (.tcauseWrite o d a, o, a, 0x22)]) (s : State) : exec i s = csrAccess op d b c s := by
  simp only [List.mem_cons, List.not_mem_nil, or_false, Prod.mk.injEq] at h
  rcases h with h | h | h | h | h | h | h | h | h | h | h | h | h | h <;>
    (obtain ⟨rfl, rfl, rfl, rfl⟩ := h; rfl)

end

end Sys2Proof.Machine

namespace Sys2Proof.Claim
open Sys2Proof.Machine

/-- Settles O30: each clause by the lemma of its outcome. -/
theorem csrAccess : Obligations.CsrAccess := by
  unfold Obligations.CsrAccess
  intro s x i op o d a b c k h hp hi
  have he := exec_csrForm hi s
  intro z r writes old v new legal hides word
  have hwrites : writes ↔ csrWrites op b = true := csrWrites_iff.symm
  have hlegal : legal ↔ csrIllegal op b c = false := by rw [csrIllegal_iff, ← hwrites]
  have hdec : decide writes = csrWrites op b := by rw [Bool.eq_iff_iff, decide_eq_true_iff, hwrites]
  have hv : csrArg s x op b c = v := csrArg_eq
  rw [hdec, hlegal, hwrites, Bool.not_eq_false, Bool.not_eq_true]
  refine ⟨fun hill hw => traps_csr_illegal he h hp hill hw, fun hleg hwait => exec_csr_waits he h hp hleg hwait, fun hleg hwait =>
    ⟨fun hw => retires_csr_read he h hp hleg hwait hw, fun hw hc => ?write, fun hw hc => ?selv, fun hw hc => ?chn, fun hw hc => ?chstall,
     fun hw hc hbefore hafter hasync => ?chlim⟩⟩
  case write =>
    obtain ⟨hchn, hstall, hselv⟩ : c ≠ 0x10#7 ∧ c ≠ 0x14#7 ∧ c ≠ 0x20#7 := by simpa using hc
    have hret := retires_csr_write he h hp hleg hwait hw (csrFault_other hselv) hchn hstall
    rw [hv] at hret
    exact hret
  case selv =>
    subst hc
    intro dest
    have harg : (csrArg s x op b 0x20#7).toNat % 2 ^ 19 = dest := congrArg (·.toNat % 2 ^ 19) hv
    split
    case isTrue hdest =>
      intro hfree
      rw [← harg] at hdest hfree
      have hret := retires_csr_write he h hp hleg hwait hw (csrFault_selv_none h hdest hfree) (by decide) (by decide)
      rw [hv] at hret
      exact hret
    case isFalse hdest =>
      rw [← harg] at hdest
      exact traps_csr_selv he h hp hleg hwait hw hdest
  case chn =>
    subst hc
    obtain ⟨hchain, hovf⟩ := chn_csrEnded (d := d) h hleg hw
    rw [hv] at hchain hovf
    exact ⟨_, exec_csr_write he h hp hleg hwait hw (csrFault_other (by decide)), hchain, hovf, csrEnded_chain hw (.inl rfl)⟩
  case chstall =>
    subst hc
    have hstall := chstall_csrEnded (s := s) (x := x) (d := d) hw
    rw [hv] at hstall
    exact ⟨_, exec_csr_write he h hp hleg hwait hw (csrFault_other (by decide)), hstall, csrEnded_chain hw (.inr rfl)⟩
  case chlim =>
    subst hc
    rw [← hv] at hafter
    exact ⟨_, exec_csr_write he h hp hleg hwait hw (csrFault_other (by decide)), chpend_csrEnded hw hbefore hafter hasync⟩

end Sys2Proof.Claim
end

section
/-! SUPPORT. Settled cores, and a strand that a release resumes (R84, R94, R104): what both change. -/
namespace Sys2Proof.Machine

/-- What a device holds besides its strands. -/
def State.besides (s : State) : State := { s with strands := [] }

theorem State.onStrand_besides (s : State) (n : Nat) (f : Strand → Strand) : (s.onStrand n f).besides = s.besides := by
  unfold State.onStrand
  split <;> rfl

theorem State.eq_of_besides {s t : State} (h : t.besides = s.besides) : ∃ u, t = { s with strands := u } :=
  ⟨t.strands, congrArg (fun z : State => ({ z with strands := t.strands } : State)) (a₁ := t.besides) (a₂ := s.besides) h⟩

/-- Settling a core changes strands only. -/
theorem State.settleCore_eq (s : State) (n : Nat) : ∃ u, s.settleCore n = { s with strands := u } := by
  refine State.eq_of_besides ?_
  unfold State.settleCore
  split
  · exact foldl_keeps (fun z m => z.onStrand_besides m _) _ _
  · rfl

/-- The strand of a settled core, and what else its device holds. -/
theorem State.strand_settleCore {s : State} {n : Nat} {x : Strand} (hx : s.strand n = some x) :
    ∃ u y, s.settleCore n = { s with strands := u } ∧ (s.settleCore n).strand n = some y ∧ x.TimedTo y := by
  obtain ⟨u, hu⟩ := s.settleCore_eq n
  obtain ⟨y, hy, ht⟩ := s.settleCore_timedTo n n x hx
  exact ⟨u, y, hu, hy, ht⟩

theorem State.strand_onStrand_same {s : State} {n : Nat} {x : Strand} (hx : s.strand n = some x) (f : Strand → Strand) :
    (s.onStrand n f).strand n = some (f x) := by
  rw [State.strand_onStrand, if_pos rfl, hx]
  rfl

/-- A strand that is there, changed. -/
theorem State.onStrand_of_some {s : State} {n : Nat} {x : Strand} (hx : s.strand n = some x) (f : Strand → Strand) :
    s.onStrand n f = s.setStrand n (f x) := by rw [State.onStrand, hx]

theorem Strand.chain_le_finish (x : Strand) (k d pc : Nat) : x.chain ≤ (x.finish k d pc).chain := x.chain_le_cycles _ d

/-- `y` is `x` gone on at the next word with the release `h`: it has joined and acquired (R84, R94, R104, R194). -/
structure Strand.Resumed (x y : Strand) (h : Held) : Prop where
  pc : y.pc = (x.pc + 4) % 2 ^ 64
  wait : y.wait = none
  g : y.g = x.g
  v : y.v = x.v
  p : y.p = x.p
  held : y.held = x.held.filter (· != h)
  chain : min h.chain (2 ^ 48 - 1) ≤ y.chain
  last : y.csrAt 0x12#7 = h.last.setWidth 64
  cache : ∀ l ∈ y.cache, l.mask ≠ 0

theorem Strand.Resumed.after_timed {w x y : Strand} {h : Held} (ht : w.TimedTo x) (k : x.Resumed y h) : w.Resumed y h := by
  obtain ⟨-, -, hpc, hg, hv, hp, -⟩ := ht.keeps
  have hheld : x.held = w.held := by rw [ht.1]
  exact ⟨hpc ▸ k.pc, k.wait, k.g.trans hg, k.v.trans hv, k.p.trans hp, hheld ▸ k.held, k.chain, k.last, k.cache⟩

/-- Taking a release and going on. -/
theorem Strand.takeRelease_resumed (x : Strand) (n : Nat) (site : Site) (h : Held) (k d : Nat) :
    x.Resumed ((x.takeRelease n site h).finish k d ((x.takeRelease n site h).pcPlus 4)) h := by
  have hchain := x.le_chain_join n ⟨h.chain, h.max, h.last, h.ovf, site⟩
  have hlast := x.csrAt_join n ⟨h.chain, h.max, h.last, h.ovf, site⟩
  obtain ⟨c, a, t, e, hjoin⟩ := x.join_eq n ⟨h.chain, h.max, h.last, h.ovf, site⟩
  have hcache := (x.join n ⟨h.chain, h.max, h.last, h.ovf, site⟩).mask_of_mem_acquireAt Nat.one_ne_zero
  have hacq := (x.join n ⟨h.chain, h.max, h.last, h.ovf, site⟩).acquireAt_eq 1
  have hcsr : (x.takeRelease n site h).csr = (x.join n ⟨h.chain, h.max, h.last, h.ovf, site⟩).csr := by
    rw [Strand.takeRelease, hacq]
  have hkeeps : (x.takeRelease n site h).pc = x.pc ∧ (x.takeRelease n site h).g = x.g ∧ (x.takeRelease n site h).v = x.v ∧
      (x.takeRelease n site h).p = x.p ∧ (x.takeRelease n site h).held = x.held.filter (· != h) := by
    rw [Strand.takeRelease, hacq, hjoin]
    exact ⟨rfl, rfl, rfl, rfl, rfl⟩
  obtain ⟨hpc, hg, hv, hp, hheld⟩ := hkeeps
  have hend := (x.takeRelease n site h).finish_ended k d ((x.takeRelease n site h).pcPlus 4)
  obtain ⟨-, -, hpc', hg', hv', hp', hwait', -⟩ := hend.keeps
  have hle := (x.takeRelease n site h).chain_le_finish k d ((x.takeRelease n site h).pcPlus 4)
  refine ⟨hpc'.trans (by rw [Strand.pcPlus, hpc]), hwait', hg'.trans hg, hv'.trans hv, hp'.trans hp, ?_, ?_, ?_, ?_⟩
  · obtain ⟨w, q, hw, hy⟩ := hend
    rw [← hheld, hy, hw.1]
  · refine (hchain.trans (Nat.le_of_eq ?_)).trans hle
    rw [Strand.chain, Strand.chain, Strand.csrAt_of_csr hcsr]
  · rw [hend.csrAt (by decide) (by decide) (by decide), Strand.csrAt_of_csr hcsr, hlast]
  · obtain ⟨w, q, hw, hy⟩ := hend
    rw [hy, hw.1]
    exact hcache

end Sys2Proof.Machine
end

section
/-! SUPPORT. Homes of global addresses (R191, R192, R198): memory behind the cores leaves alone the step's operands, the directory and the writes
that migrations hold. One lemma for each operation, in the order of the model's file. -/
namespace Sys2Proof.Machine

/-- What homes of global addresses have no part in. -/
def State.front (s : State) : StepOp × Tbl DirEntry × List HeldWrite := (s.op, s.dir, s.heldWrites)

theorem foldl_front {α : Type} {f : State → α → State} (hf : ∀ s x, (f s x).front = s.front) (xs : List α) (s : State) :
    (xs.foldl f s).front = s.front :=
  foldl_keeps (g := State.front) hf xs s

theorem State.op_of_front {s t : State} (h : t.front = s.front) : t.op = s.op := congrArg Prod.fst h
theorem State.dir_of_front {s t : State} (h : t.front = s.front) : t.dir = s.dir := congrArg (·.2.1) h
theorem State.heldWrites_of_front {s t : State} (h : t.front = s.front) : t.heldWrites = s.heldWrites := congrArg (·.2.2) h

theorem State.onPart_front (s : State) (p : Nat) (f : Partition → Partition) : (s.onPart p f).front = s.front := by
  unfold State.onPart
  split <;> rfl

theorem State.charge_front (s : State) (p v e k : Nat) : (s.charge p v e k).front = s.front := by
  unfold State.charge
  split
  · exact s.onPart_front p _
  · rfl

theorem State.chargeFill_front (s : State) (p v sectors : Nat) : (s.chargeFill p v sectors).front = s.front :=
  (State.onPart_front _ p _).trans ((State.charge_front _ p v 8 _).trans (s.charge_front p v 6 1))

theorem State.markDirty_front (s : State) (a plog : Nat) : (s.markDirty a plog).front = s.front := by
  unfold State.markDirty
  dsimp only
  split <;> rfl

theorem State.memWrite_front (s : State) (a : Nat) (l : Line) (t : W64) (plog : Nat) : (s.memWrite a l t plog).front = s.front := by
  unfold State.memWrite
  dsimp only
  split
  · rfl
  · exact State.markDirty_front _ _ _

theorem State.writeFrame_front (s : State) (l : Line) : (s.writeFrame l).1.front = s.front := by
  unfold State.writeFrame
  dsimp only
  split
  · split <;> exact s.memWrite_front _ _ _ _
  · rfl

theorem State.llcClean_front (s : State) (k : LlcLine) : (s.llcClean k).front = s.front := by
  unfold State.llcClean
  split
  · rfl
  · have hr := s.writeFrame_front k.line
    dsimp only
    split
    · split
      · exact (State.charge_front _ _ _ _ _).trans hr
      · exact hr
    · exact hr

theorem State.llcPut_front (s : State) (k : LlcLine) : (s.llcPut k).front = s.front := by
  unfold State.llcPut
  extract_lets others set f
  split
  · rfl
  · split
    · rfl
    · exact State.llcClean_front _ _

theorem State.llcUnalias_front (s : State) (line : Nat) (t : W64) (plog : Nat) : (s.llcUnalias line t plog).front = s.front :=
  foldl_front (f := fun z k => (z.llcClean k).llcDrop k.line.va) (fun z k => z.llcClean_front k) _ _

theorem llcRead_front {s u : State} {w : Who} {line : Nat} {sectors : BitVec 4} {r : Line} (h : llcRead s w line sectors = .ok r u) :
    u.front = s.front := by
  grind [llcRead, State.llcPut_front, State.llcUnalias_front, State.chargeFill_front]

theorem globRead_front {s u : State} {w : Who} {xs : List (Nat × Nat × Nat)} {r : Got} (h : globRead w xs s = .ok r u) : u.front = s.front := by
  induction xs generalizing s r with
  | nil =>
    cases h
    rfl
  | cons x xs ih => grind [globRead, → llcRead_front]

end Sys2Proof.Machine
end

section
/-! PROOFS. How waits end (R84, R86, R87, R102, R104, R105, R336 to R338), and obligation O44. -/
namespace Sys2Proof.Machine
open Sys2Proof.Claim

/-! ### Waits at knots and monitors (R84, R86, R336 to R338) -/

/-- A wait that ends with an answer in its register. -/
theorem Strand.wake_setW {x w : Strand} (hpc : w.pc = x.pc) (hg : w.g = x.g) (d : BitVec 6) (v : W64) :
    ((w.setW d v).wake).stash = [1] ∧ ((w.setW d v).wake).wait = some .own ∧ ((w.setW d v).wake).pc = x.pc ∧
    ((w.setW d v).wake).getG d = (if d = 0 then ⟨0, false⟩ else word64 v) ∧ ∀ r, r ≠ d → ((w.setW d v).wake).getG r = x.getG r := by
  refine ⟨rfl, rfl, ?_, ?_, fun r hr => ?_⟩
  · rw [← hpc, Strand.wake, Strand.setW, Strand.setG_eq]
  · show (w.setG d (word64 v)).getG d = _
    split
    case isTrue hd =>
      subst hd
      rfl
    case isFalse hd => exact w.getG_setG_same _ hd
  · have hget : w.getG r = x.getG r := by simp only [Strand.getG, hg]
    exact (w.getG_setG_other _ hr).trans hget

/-- The CSRs of a strand that a snapshot wakes are those of the join, with an answer or without one. -/
theorem Strand.csr_wake_setW (x : Strand) (k : Nat) (d : BitVec 6) (v : W64) : (((x.acquireAt k).setW d v).wake).csr = x.csr := by
  rw [Strand.wake, Strand.setW, Strand.setG_eq, Strand.acquireAt_eq]

theorem Strand.cache_wake_setW (x : Strand) (d : BitVec 6) (v : W64) : ((x.setW d v).wake).cache = x.cache := by
  rw [Strand.wake, Strand.setW, Strand.setG_eq]

/-- What a snapshot gives the strand that it wakes. -/
def Snapshot.src (p : Snapshot) : JoinSrc := ⟨p.chain, p.max, p.last, p.ovf, p.site⟩

/-- A snapshot that reaches its waiter. -/
theorem exec_snapshotJoin {s : State} {p : Snapshot} {x : Strand} (hp : s.flight[s.op.a]? = some (.snapshot p)) (hx : s.strand p.core = some x) :
    ∃ (z : State) (x' : Strand), x.TimedTo x' ∧ z.flight = s.flight.eraseIdx s.op.a ∧
    (∀ d dl sc since, x.wait = some (.knot d dl sc since) →
      exec .snapshotJoin s = .next (z.setStrand p.core ((((x'.join p.core p.src).acquireAt sc.toNat).setW d 0).wake))) ∧
    (x.wait = some .kjoin → exec .snapshotJoin s = .next (z.setStrand p.core (x'.join p.core p.src).wake)) := by
  have hx' : (s.took s.op.a).strand p.core = some x := hx
  obtain ⟨u, y, hu, hy, ht⟩ := State.strand_settleCore hx'
  obtain ⟨-, -, -, -, -, -, hwait, -⟩ := ht.keeps
  refine ⟨(s.took s.op.a).settleCore p.core, y, ht, by rw [hu]; rfl, fun d dl sc since h => ?_, fun h => ?_⟩
  all_goals
    rw [← hwait] at h
    show execSnapshotJoin s = _
    simp only [execSnapshotJoin, hp, hy, h]
    rfl

/-- `y` is strand `x`, woken by the snapshot `p`, which it has joined, on device `t`. -/
structure Woken (s t : State) (p : Snapshot) (x y : Strand) : Prop where
  flight : t.flight = s.flight.eraseIdx s.op.a
  strand : t.strand p.core = some y
  stash : y.stash = [1]
  wait : y.wait = some .own
  pc : y.pc = x.pc
  chain : min p.chain (2 ^ 48 - 1) ≤ y.chain
  last : y.csrAt 0x12#7 = p.last.setWidth 64

/-- What a join leaves of registers and PC. -/
theorem Strand.join_keeps {x x' : Strand} (ht : x.TimedTo x') (n : Nat) (j : JoinSrc) : (x'.join n j).pc = x.pc ∧ (x'.join n j).g = x.g := by
  obtain ⟨-, -, hpc, hg, -⟩ := ht.keeps
  obtain ⟨c, a, t, e, hjoin⟩ := x'.join_eq n j
  rw [hjoin]
  exact ⟨hpc, hg⟩

section
variable {s : State} {p : Snapshot} {x : Strand} (hp : s.flight[s.op.a]? = some (.snapshot p)) (hx : s.strand p.core = some x)
include hp hx

/-- A WAIT that is met acquires and answers 0 (R86, R336). -/
theorem snapshot_wakes_knot {d : BitVec 6} {dl : Option Nat} {sc : BitVec 2} {since : Nat} (hw : x.wait = some (.knot d dl sc since)) :
    ∃ t y, exec .snapshotJoin s = .next t ∧ Woken s t p x y ∧ y.getG d = word64 0 ∧ (∀ r, r ≠ d → y.getG r = x.getG r) ∧
      (sc ≠ 0 → ∀ l ∈ y.cache, l.mask ≠ 0) := by
  obtain ⟨z, x', ht, hflight, hknot, -⟩ := exec_snapshotJoin hp hx
  obtain ⟨hpc, hg⟩ := Strand.join_keeps ht p.core p.src
  have hacq := (x'.join p.core p.src).acquireAt_eq sc.toNat
  have hcsr := (x'.join p.core p.src).csr_wake_setW sc.toNat d 0
  obtain ⟨hstash, hwait, hpc', hget, hother⟩ := Strand.wake_setW (x := x) (w := (x'.join p.core p.src).acquireAt sc.toNat)
    (by rw [hacq]; exact hpc) (by rw [hacq]; exact hg) d 0
  refine ⟨_, _, hknot d dl sc since hw, ⟨hflight, State.strand_setStrand_same _ _ _, hstash, hwait, hpc', ?_, ?_⟩, ?_, hother, fun hsc => ?_⟩
  · rw [Strand.chain, Strand.csrAt_of_csr hcsr]
    exact x'.le_chain_join p.core p.src
  · rw [Strand.csrAt_of_csr hcsr]
    exact x'.csrAt_join p.core p.src
  · rw [hget]
    exact ite_eq_right_iff.2 fun _ => rfl
  · rw [Strand.cache_wake_setW]
    exact Strand.mask_of_mem_acquireAt _ (by simpa [← BitVec.toNat_inj] using hsc)

/-- A KJOIN joins alone (R337). -/
theorem snapshot_wakes_kjoin (hw : x.wait = some .kjoin) : ∃ t y, exec .snapshotJoin s = .next t ∧ Woken s t p x y ∧ y.g = x.g := by
  obtain ⟨z, x', ht, hflight, -, hkjoin⟩ := exec_snapshotJoin hp hx
  obtain ⟨hpc, hg⟩ := Strand.join_keeps ht p.core p.src
  exact ⟨_, _, hkjoin hw, ⟨hflight, State.strand_setStrand_same _ _ _, rfl, rfl, hpc, x'.le_chain_join p.core p.src, x'.csrAt_join p.core p.src⟩, hg⟩

end

section
variable {s : State} {x : Strand} {d : BitVec 6}

/-- A WAIT past its deadline (R336). -/
theorem exec_waitTimeout {n since : Nat} {sc : BitVec 2} (hx : s.strand s.op.a = some x) (hw : x.wait = some (.knot d (some n) sc since))
    (hn : n < s.tick) (hany : s.waits.any (·.core == s.op.a) = true) :
    exec .waitTimeout s = .next { (s.settleCore s.op.a).onStrand s.op.a fun y => y.endWait d since 1 with
      waits := ((s.settleCore s.op.a).onStrand s.op.a fun y => y.endWait d since 1).waits.filter (·.core != s.op.a) } := by
  show execWaitTimeout s = _
  simp only [execWaitTimeout, hx, hw, hn, hany, and_self, if_true]

/-- A WAITM that something wakes (R338). -/
theorem exec_waitmWake {dl : Option Nat} {m : WaitReq × Bool} (hx : s.strand s.op.a = some x) (hw : x.wait = some (.monitor d dl))
    (hm : s.monitors.find? (fun m => m.1.core == s.op.a) = some m)
    (hok : (s.op.b = 0 ∧ m.2 = true) ∨ s.op.b = 1 ∨ (s.op.b = 2 ∧ ∃ n, dl = some n ∧ n ≤ s.tick) ∨ (s.op.b = 3 ∧ s.stopping x = true)) :
    exec .waitmWake s = .next { (s.settleCore s.op.a).onStrand s.op.a fun y => (y.setW d (BitVec.ofNat 64 s.op.b)).wake with
      monitors := ((s.settleCore s.op.a).onStrand s.op.a fun y => (y.setW d (BitVec.ofNat 64 s.op.b)).wake).monitors.filter
        (·.1.core != s.op.a) } := by
  show execWaitmWake s = _
  unfold execWaitmWake
  rcases hok with ⟨hb, hwritten⟩ | hb | ⟨hb, k, rfl, hk⟩ | ⟨hb, hstop⟩
  · simp only [hx, hm, hw, hb, hwritten, if_true]
  · simp only [hx, hm, hw, hb, if_true]
  · simp only [hx, hm, hw, hb, Option.map_some, Option.getD_some, hk, decide_true, if_true]
  · simp only [hx, hm, hw, hb, hstop, if_true]

end

/-! ### Releases (R104, R105) -/

/-- A release that is due, at a participant that is there. -/
theorem exec_barrierRelease {s : State} {r : Release} (hr : s.releases[s.op.a]? = some r) (hdue : r.tick ≤ s.tick) (haway : s.isAway r = false) :
    exec .barrierRelease s = .next (({ s with releases := s.releases.eraseIdx s.op.a } : State).deliver r) := by
  show execBarrierRelease s = _
  simp only [execBarrierRelease, hr, hdue, haway, decide_true, Bool.not_false, Bool.and_self, if_true]

section
variable {s : State} {r : Release} {x : Strand}

/-- A release for a strand that does not wait for it. -/
theorem State.deliver_held (hx : s.strand r.core = some x) (hid : x.id.same r.id = true)
    (hwait : x.wait ≠ some (.barrier r.held.bar r.held.gen)) : s.deliver r = s.setStrand r.core (x.hold r.held) := by
  simp only [State.deliver, hx, Option.filter_some, hid, if_true, if_neg hwait]

/-- The strand once its wait up to the release has been charged. -/
def State.waited (s : State) (r : Release) (x : Strand) : Strand :=
  (x.spend 1 (gapTicks x.now r.comp (s.divOf r.core))).spend 2
    (resumeTicks (x.spend 1 (gapTicks x.now r.comp (s.divOf r.core))).now r.tick (min s.tick (r.tick + 16)) (s.divOf r.core))

theorem State.waited_timed (s : State) (r : Release) (x : Strand) : x.TimedTo (s.waited r x) := (x.spend_timed _ _).trans (Strand.spend_timed _ _ _)

/-- A release for a strand that waits for it: the strand has it and, alone, goes on with it. -/
theorem State.deliver_waited (hx : s.strand r.core = some x) (hid : x.id.same r.id = true) (hwait : x.wait = some (.barrier r.held.bar r.held.gen)) :
    (x.gang.tacked = true → s.deliver r = s.setStrand r.core { (s.waited r x).take r.held with wait := some (.data 0) }) ∧
    (x.gang.tacked = false → ∃ site, s.deliver r = s.retire r.core (((s.waited r x).take r.held).takeRelease r.core site r.held) 1) := by
  have hgang : (s.waited r x).gang.tacked = x.gang.tacked := by rw [(s.waited_timed r x).gang]
  have hdeliver : s.deliver r = if (s.waited r x).gang.tacked then s.setStrand r.core { (s.waited r x).take r.held with wait := some (.data 0) }
      else s.retire r.core (((s.waited r x).take r.held).takeRelease r.core (s.barSite r.core x.id.part r.held.bar) r.held) 1 := by
    rw [State.deliver, hx, Option.filter_some, if_pos hid]
    exact if_pos hwait
  rw [hdeliver, hgang]
  exact ⟨fun h => if_pos h, fun h => ⟨_, if_neg (Bool.eq_false_iff.1 h)⟩⟩

end

theorem timed_take {x z : Strand} (h : x.TimedTo z) (k : Held) : (x.take k).TimedTo (z.take k) := by
  obtain ⟨c, a, n, e, h1⟩ := timed_rest h
  exact ⟨by rw [h1]; rfl, h.2⟩

section
variable {s : State} {r : Release} {x : Strand} (hr : s.releases[s.op.a]? = some r) (hdue : r.tick ≤ s.tick) (haway : s.isAway r = false)
  (hx : s.strand r.core = some x) (hid : x.id.same r.id = true)
include hr hdue haway hx hid

/-- A release that nothing waits for yet is held. -/
theorem release_held (hwait : x.wait ≠ some (.barrier r.held.bar r.held.gen)) : ∃ t, exec .barrierRelease s = .next t ∧
    t.releases = s.releases.eraseIdx s.op.a ∧ t.strand r.core = some (x.hold r.held) := by
  have hexec := exec_barrierRelease hr hdue haway
  rw [State.deliver_held (s := { s with releases := s.releases.eraseIdx s.op.a }) hx hid hwait] at hexec
  exact ⟨_, hexec, rfl, State.strand_setStrand_same _ _ _⟩

/-- A member of a gang keeps it and goes on with the others (R65). -/
theorem release_tacked (hwait : x.wait = some (.barrier r.held.bar r.held.gen)) (hgang : x.gang.tacked = true) : ∃ t z,
    exec .barrierRelease s = .next t ∧ t.releases = s.releases.eraseIdx s.op.a ∧ (x.take r.held).TimedTo z ∧
    t.strand r.core = some { z with wait := some (.data 0) } := by
  have hexec := exec_barrierRelease hr hdue haway
  rw [(State.deliver_waited (s := { s with releases := s.releases.eraseIdx s.op.a }) hx hid hwait).1 hgang] at hexec
  exact ⟨_, _, hexec, rfl, timed_take (State.waited_timed _ r x) r.held, State.strand_setStrand_same _ _ _⟩

/-- A strand alone goes on with it. -/
theorem release_resumes (hwait : x.wait = some (.barrier r.held.bar r.held.gen)) (hgang : x.gang.tacked = false) : ∃ t y,
    exec .barrierRelease s = .next t ∧ t.releases = s.releases.eraseIdx s.op.a ∧ (x.take r.held).Resumed y r.held ∧ t.strand r.core = some y := by
  have hexec := exec_barrierRelease hr hdue haway
  obtain ⟨site, hdeliver⟩ := (State.deliver_waited (s := { s with releases := s.releases.eraseIdx s.op.a }) hx hid hwait).2 hgang
  rw [hdeliver, State.retire_eq] at hexec
  exact ⟨_, _, hexec, rfl, (Strand.takeRelease_resumed _ _ _ _ _ _).after_timed (timed_take (State.waited_timed _ r x) r.held),
    State.strand_setStrand_same _ _ _⟩

end

/-- Holding a release leaves a strand's registers. -/
theorem Strand.hold_keeps (x : Strand) (h : Held) : (x.hold h).g = x.g ∧ (x.hold h).v = x.v := by
  unfold Strand.hold
  split <;> exact ⟨rfl, rfl⟩

/-! ### Domains that are loaded (R102) -/

theorem State.part_loadDomain {s : State} {p : Nat} {q : Partition} (h : s.part p = some q) (d : Nat) (r : Domain) :
    ∃ q' g, (s.loadDomain p d r).part p = some q' ∧ g % 2 = 0 ∧ q'.domains = q.domains.put d { r with bar := { r.bar with gen := g } } :=
  ⟨_, _, State.part_onPart_same h _, by omega, rfl⟩

/-- DOMLOAD's report on a page. -/
def Partition.domReport (q : Partition) (d code : Nat) : Partition :=
  { q with page := { q.page with domload := BitVec.ofNat 32 d, domStat := BitVec.ofNat 32 code } }

section
variable {s : State} {p : Partition}

theorem exec_domload_high (hup : s.linkUp = true) (hp : s.part s.op.a = some p) (h : 64 ≤ s.op.b) :
    exec .domload s = .next (s.onPart s.op.a fun q => q.domReport s.op.b 2) := by
  show execDomload s = _
  simp only [execDomload, onLink_of_up hup, hp, h, if_true]
  rfl

section
variable {s1 : State} {g : Got} (hup : s.linkUp = true) (hp : s.part s.op.a = some p) (hlt : s.op.b < 64)
  (hread : homeRead s ⟨s.op.a, 0, 0⟩ (.glob (p.page.domBase.toNat + 1024 * s.op.b)) 544 = .ok g s1)
include hup hp hlt hread

theorem exec_domload_invalid (h : g.poison.isSome = true ∨ domainRecord p.node g.bytes = none) :
    exec .domload s = .next (s1.onPart s.op.a fun q => q.domReport s.op.b 2) := by
  have hnone : (if g.poison.isSome then none else domainRecord p.node g.bytes) = none := by
    split
    · rfl
    · exact h.resolve_left ‹_›
  have hop : s1.op = s.op := State.op_of_front (globRead_front hread)
  show execDomload s = _
  simp only [execDomload, onLink_of_up hup, hp, Nat.not_le.2 hlt, if_false, hread, hnone, hop]
  rfl

theorem exec_domload_valid {r : Domain} (hpoison : g.poison = none) (hr : domainRecord p.node g.bytes = some r)
    (hidle : ∀ d, p.domains.find s.op.b = some d → d.bar.arrived = []) :
    exec .domload s = .next ((s1.loadDomain s.op.a s.op.b r).onPart s.op.a fun q => q.domReport s.op.b 0) := by
  have hfree : ((p.domains.find s.op.b).map (fun k => !k.bar.arrived.isEmpty)).getD false = false := by
    cases hd : p.domains.find s.op.b with
    | none => rfl
    | some d => simp [hidle d hd]
  have hop : (s1.loadDomain s.op.a s.op.b r).op = s.op := (State.op_of_front (s1.onPart_front _ _)).trans (State.op_of_front (globRead_front hread))
  show execDomload s = _
  simp only [execDomload, onLink_of_up hup, hp, Nat.not_le.2 hlt, if_false, hread, hpoison, Option.isSome_none, Bool.false_eq_true, hr, hfree, hop]
  rfl

end
end

/-- Settles O44: each clause by the step that ends the wait. -/
theorem wakes : Obligations.Wakes := by
  unfold Obligations.Wakes
  refine ⟨?snapshot, ?answers, fun s r x hr hdue haway hx hid => ?release,
    fun s p hup hp => ⟨fun h => ?high, fun hlt g s1 p1 hread hp1 => ⟨fun h => ?invalid, ?valid⟩⟩⟩
  case snapshot =>
    intro s p x hp hx joined
    have hjoined : ∀ t y, Woken s t p x y → joined t y := fun t y w => ⟨w.flight, w.strand, w.stash, w.wait, w.pc, w.chain, w.last⟩
    refine ⟨fun d dl sc since hw => ?_, fun hw => ?_⟩
    · obtain ⟨t, y, hexec, hwoken, hanswer⟩ := snapshot_wakes_knot hp hx hw
      exact ⟨t, y, hexec, hjoined t y hwoken, hanswer⟩
    · obtain ⟨t, y, hexec, hwoken, hg⟩ := snapshot_wakes_kjoin hp hx hw
      exact ⟨t, y, hexec, hjoined t y hwoken, hg⟩
  case answers =>
    intro s x hx answered
    refine ⟨?timeout, ?waitm⟩
    case timeout =>
      intro d n sc since hw hn hany
      obtain ⟨u, y, hu, hy, ht⟩ := State.strand_settleCore hx
      obtain ⟨-, -, hpc, hg, -⟩ := (ht.trans (y.own_timed (y.now - since))).keeps
      have hexec := exec_waitTimeout hx hw hn hany
      rw [State.onStrand_of_some hy] at hexec
      refine ⟨_, hexec, ⟨_, State.strand_setStrand_same _ _ _, Strand.wake_setW hpc hg d 1⟩, ?_⟩
      rw [hu]
      rfl
    case waitm =>
      intro d dl m hw hm hok
      obtain ⟨u, y, hu, hy, ht⟩ := State.strand_settleCore hx
      obtain ⟨-, -, hpc, hg, -⟩ := ht.keeps
      have hexec := exec_waitmWake hx hw hm hok
      rw [State.onStrand_of_some hy] at hexec
      refine ⟨_, hexec, ⟨_, State.strand_setStrand_same _ _ _, Strand.wake_setW hpc hg d (BitVec.ofNat 64 s.op.b)⟩, ?_⟩
      rw [hu]
      rfl
  case release =>
    by_cases hwait : x.wait = some (.barrier r.held.bar r.held.gen)
    · cases hgang : x.gang.tacked with
      | true =>
        obtain ⟨t, z, hexec, hrel, ht, hstrand⟩ := release_tacked hr hdue haway hx hid hwait hgang
        obtain ⟨-, -, hpc, hg, hv, -⟩ := ht.keeps
        have hheld : z.held = (x.take r.held).held := by rw [ht.1]
        refine ⟨t, _, hexec, hrel, hstrand, hg, hv, ?_⟩
        rw [if_pos hwait, if_pos rfl]
        exact ⟨rfl, hheld, hpc⟩
      | false =>
        obtain ⟨t, y, hexec, hrel, hres, hstrand⟩ := release_resumes hr hdue haway hx hid hwait hgang
        refine ⟨t, y, hexec, hrel, hstrand, hres.g, hres.v, ?_⟩
        rw [if_pos hwait, if_neg Bool.false_ne_true]
        exact ⟨hres.wait, hres.held, hres.pc, hres.chain, hres.last, hres.cache⟩
    · obtain ⟨t, hexec, hrel, hstrand⟩ := release_held hr hdue haway hx hid hwait
      obtain ⟨hg, hv⟩ := x.hold_keeps r.held
      refine ⟨t, _, hexec, hrel, hstrand, hg, hv, ?_⟩
      rw [if_neg hwait]
      unfold Strand.hold
      split <;> rfl
  case high => exact ⟨_, _, exec_domload_high hup hp h, State.part_onPart_same hp _, rfl, rfl⟩
  case invalid => exact ⟨_, _, exec_domload_invalid hup hp hlt hread h, State.part_onPart_same hp1 _, rfl, rfl⟩
  case valid =>
    intro r hpoison hr hidle
    obtain ⟨q, k, hq, heven, hdom⟩ := State.part_loadDomain hp1 s.op.b r
    exact ⟨_, _, exec_domload_valid hup hp hlt hread hpoison hr hidle, State.part_onPart_same hq _, rfl, k, heven, hdom⟩

end Sys2Proof.Machine
end

section
/-! SUPPORT. Releases with nothing to wait for (R194, R220): cycles hold no store fault, and the release goes on at once. -/
namespace Sys2Proof.Machine
open Sys2Proof.Claim

/-- A held store fault (R140). -/
def Strand.storeTrap (x : Strand) : Bool := x.async.any fun t => t.1 == 0x0A

theorem Strand.storeTrap_of_async {x y : Strand} (h : y.async = x.async) : y.storeTrap = x.storeTrap := by rw [Strand.storeTrap, h, Strand.storeTrap]

theorem Strand.storeTrap_markCross (x : Strand) : x.markCross.storeTrap = x.storeTrap := by
  unfold Strand.markCross
  split
  · rfl
  · simp [Strand.storeTrap]

theorem Strand.storeTrap_limitCheck (x : Strand) (a b : Nat) : (x.limitCheck a b).storeTrap = x.storeTrap := by
  unfold Strand.limitCheck
  split
  · exact x.storeTrap_markCross
  · rfl

theorem Strand.storeTrap_own (x : Strand) (t : Nat) : (x.own t).storeTrap = x.storeTrap := by
  unfold Strand.own
  split
  · rfl
  · exact Strand.storeTrap_limitCheck _ _ _

theorem Strand.storeTrap_cycles (x : Strand) (k d : Nat) : (x.cycles k d).storeTrap = x.storeTrap := by
  unfold Strand.cycles Strand.ownCycles
  dsimp only
  split
  · exact Strand.storeTrap_own _ _
  · exact (Strand.storeTrap_own _ _).trans (Strand.storeTrap_own _ _)

theorem Strand.storeTrap_spend (x : Strand) (c t : Nat) : (x.spend c t).storeTrap = x.storeTrap := by
  unfold Strand.spend
  dsimp only
  split
  · exact Strand.storeTrap_own _ _
  · split <;> rfl

theorem Strand.storeTrap_settle (x : Strand) (t d : Nat) : (x.settle t d).storeTrap = x.storeTrap := by
  have h : (if x.charge = 0 then x.cycles (gapTicks x.now t d / d) d else x.spend x.charge (gapTicks x.now t d)).storeTrap = x.storeTrap := by
    split
    · exact x.storeTrap_cycles _ _
    · exact x.storeTrap_spend _ _
  unfold Strand.settle Strand.settleAs
  dsimp only
  split <;> exact h

theorem faulted_begun (s : State) (x : Strand) : (begun s x).faulted = x.faulted := by
  have hactive : (begun s x).active = x.active := timed_bit (begun_timed s x) (by decide)
  show (!(begun s x).active && (begun s x).storeTrap) = _
  rw [hactive, begun, Strand.storeTrap_settle]
  rfl

/-- A strand with nothing for a release to wait for has nothing either when its word begins. -/
theorem quiet_begun (s : State) {x : Strand} (h : Quiet x) : Quiet (begun s x) := by
  obtain ⟨hcache, hunacked, hfaulted⟩ := h
  refine ⟨?_, ?_, (faulted_begun s x).trans hfaulted⟩
  · rwa [(begun_timed s x).1]
  · rwa [(begun_timed s x).1]

/-- A strand whose cache has been written back for a release (R187). -/
def Strand.writtenBack (x : Strand) : Strand := { x with cache := cleanLines x.cache, released := true }

theorem State.sendBack_clean (s : State) (n : Nat) {l : Line} (h : l.mask = 0) : s.sendBack n l = s := if_pos h

theorem State.foldl_sendBack_clean (s : State) (n : Nat) {c : List Line} (h : ∀ l ∈ c, l.mask = 0) :
    c.foldl (fun (z : State) l => z.sendBack n l) s = s := by
  induction c with
  | nil => rfl
  | cons l c ih =>
    rw [List.forall_mem_cons] at h
    rw [List.foldl_cons, s.sendBack_clean n h.1, ih h.2]

theorem releaseAt_quiet {s : State} {n scope : Nat} {x : Strand} (hs : scope ≠ 0) (hx : s.strand n = some x) (hq : Quiet x) (hr : x.released = false) :
    releaseAt scope s n x = .ok (s.setStrand n x.writtenBack) := by
  obtain ⟨hcache, hunacked, hfaulted⟩ := hq
  have hsent : (s.writeBackAll n).onStrand n (fun y => { y with released := true }) = s.setStrand n x.writtenBack := by
    rw [State.writeBackAll, hx]
    dsimp only
    rw [s.foldl_sendBack_clean n hcache, State.onStrand_of_some hx, State.onStrand_of_some (State.strand_setStrand_same _ _ _),
      State.setStrand_setStrand]
    rfl
  have hgo : (x.writtenBack.unacked = 0 && !x.writtenBack.faulted) = true := by
    show (decide (x.unacked = 0) && !x.faulted) = true
    rw [hunacked, hfaulted]
    rfl
  unfold releaseAt release
  simp only [hs, if_false, hr, Bool.false_eq_true, hsent, State.strand_setStrand_same]
  exact if_pos hgo

end Sys2Proof.Machine
end

section
/-! PROOFS. Barriers (R94, R100 to R105, R350, R411), and obligations O25 and O26. -/
namespace Sys2Proof.Machine
open Sys2Proof.Claim

/-! ### A barrier's record (R101, R103) -/

/-- A barrier is found by the strand's identity. -/
theorem State.barOf_congr (s : State) (n : Nat) {x y : Strand} (h : y.id = x.id) (b : BarId) : s.barOf n y b = s.barOf n x b := by
  unfold State.barOf
  rw [h]

/-- Strands, releases and messages have no part in it. -/
theorem State.barOf_setStrand (s : State) (m : Nat) (w : Strand) (n : Nat) (x : Strand) (b : BarId) :
    (s.setStrand m w).barOf n x b = s.barOf n x b := rfl

/-- A word that begins finds the barrier as it is. -/
theorem barOf_begun (s : State) (x : Strand) (b : BarId) : (atWord s x).barOf s.cur (begun s x) b = s.barOf s.cur x b :=
  State.barOf_congr _ _ (begun_timed s x).keeps.1 b

theorem State.setBar_eq (s : State) (n : Nat) (x : Strand) (b : BarId) (r : Bar) :
    ∃ c p, s.setBar n x b r = { s with clusters := c, parts := p } := by
  unfold State.setBar
  split
  · split <;> exact ⟨_, _, rfl⟩
  · unfold State.onPart
    split <;> exact ⟨_, _, rfl⟩

theorem State.strand_setBar (s : State) (n : Nat) (x : Strand) (b : BarId) (r : Bar) (m : Nat) : (s.setBar n x b r).strand m = s.strand m := by
  obtain ⟨c, p, h⟩ := s.setBar_eq n x b r
  rw [h]
  rfl

theorem State.releases_setBar (s : State) (n : Nat) (x : Strand) (b : BarId) (r : Bar) : (s.setBar n x b r).releases = s.releases := by
  obtain ⟨c, p, h⟩ := s.setBar_eq n x b r
  rw [h]

theorem State.tick_setBar (s : State) (n : Nat) (x : Strand) (b : BarId) (r : Bar) : (s.setBar n x b r).tick = s.tick := by
  obtain ⟨c, p, h⟩ := s.setBar_eq n x b r
  rw [h]

/-- A barrier that is there is replaced. -/
theorem State.barOf_setBar {s : State} {n : Nat} {x : Strand} {b : BarId} {r₀ : Bar} (h : s.barOf n x b = some r₀) (r : Bar) :
    (s.setBar n x b r).barOf n x b = some r := by
  unfold State.barOf at h
  split at h
  case isTrue hteam =>
    split at h
    case h_2 => cases h
    case h_1 j hj =>
      unfold State.barOf State.setBar
      rw [if_pos hteam, if_pos hteam, hj]
      simp [State.cluster, State.setCluster, Tbl.getD]
  case isFalse hteam =>
    split at h
    case h_1 => cases h
    case h_2 p hp =>
      split at h
      case h_2 => cases h
      case h_1 d hd =>
        split at h
        case isFalse => cases h
        case isTrue hmem =>
          unfold State.barOf State.setBar
          have hcores : (({ d with bar := r } : Domain).cores.contains n) = true := hmem
          rw [if_neg hteam, if_neg hteam, State.part_onPart_same hp, hd]
          simp only [Tbl.find_put_same]
          rw [if_pos hcores]

/-! ### An arrival's part in the record and in the strand (R94, R104) -/

/-- The record with the arrival of core `n`'s strand, whose chain reaches the barrier's home as `c`. -/
def joinedBar (r : Bar) (n : Nat) (x : Strand) (c : Nat × Bool) (xf : Bool) : Bar :=
  { r with
    arrived := insertNat n r.arrived
    max := if r.arrived.isEmpty || decide (r.chain < c.1) then x.wid else r.max
    chain := max r.chain c.1
    last := x.wid
    ovf := r.ovf || x.ovf || c.2
    xflag := r.xflag || xf }

/-- The strand that has arrived in generation `gen`, out of exchange mode (R246). -/
def Strand.arrived (x : Strand) (b : BarId) (gen : Nat) : Strand :=
  { x with arrivals := x.arrivals.filter (·.bar != b) ++ [⟨b, gen, false⟩], exch := { x.exch with origin := none } }

/-- The record for the next generation. -/
def Bar.next (r : Bar) : Bar := { r with arrived := [], chain := 0, max := 0, last := 0, ovf := false, xflag := false, gen := r.gen + 1 }

/-- Its chain as it reaches the barrier's home. -/
def State.arrivalChain (s : State) (n : Nat) (x : Strand) (b : BarId) : Nat × Bool :=
  satAdd x.chain (transitIn x.declared (.core n) (s.barSite n x.id.part b))

section
variable {s : State} {n : Nat} {x : Strand} {b : BarId} {xf : Bool} {r : Bar}

theorem Strand.arrivals_arrived (x : Strand) (b : BarId) (gen : Nat) : (x.arrived b gen).arrivals.any (fun a => a.bar == b && a.gen == gen) = true := by
  simp [Strand.arrived]

theorem not_full_joinedBar {c : Nat × Bool} {m : Nat} (hm : m ∈ r.members) (hn : m ≠ n) (h : r.arrived.contains m = false) :
    (joinedBar r n x c xf).full = false := by
  have hcontains : (insertNat n r.arrived).contains m = false := by
    rw [Bool.eq_false_iff, ne_eq, List.contains_iff_mem] at h ⊢
    rw [mem_insertNat, not_or]
    exact ⟨hn, h⟩
  have hall : r.members.all (insertNat n r.arrived).contains = false := List.all_eq_false.2 ⟨m, hm, by rw [hcontains]; decide⟩
  show (!r.members.isEmpty && r.members.all (insertNat n r.arrived).contains) = false
  rw [hall, Bool.and_false]

theorem full_joinedBar {c : Nat × Bool} (hn : n ∈ r.members) (h : ∀ m ∈ r.members, m = n ∨ r.arrived.contains m = true) :
    (joinedBar r n x c xf).full = true := by
  have hall : r.members.all (insertNat n r.arrived).contains = true := by
    refine List.all_eq_true.2 fun m hm => ?_
    rw [List.contains_iff_mem, mem_insertNat]
    exact (h m hm).imp id List.contains_iff_mem.1
  show (!r.members.isEmpty && r.members.all (insertNat n r.arrived).contains) = true
  rw [hall, Bool.and_true, Bool.not_eq_true', List.isEmpty_eq_false_iff]
  exact List.ne_nil_of_mem hn

/-- An arrival while others are missing. -/
theorem State.arrive_waiting (h : (joinedBar r n x (s.arrivalChain n x b) xf).full = false) :
    s.arrive n x b xf r = (s.setStrand n (x.arrived b r.gen)).setBar n (x.arrived b r.gen) b
      { joinedBar r n x (s.arrivalChain n x b) xf with ready := max r.ready x.now } := if_neg (Bool.eq_false_iff.1 h)

/-- The last arrival. -/
theorem State.arrive_last (h : (joinedBar r n x (s.arrivalChain n x b) xf).full = true) :
    s.arrive n x b xf r = (((s.setStrand n (x.arrived b r.gen)).setBar n (x.arrived b r.gen) b (joinedBar r n x (s.arrivalChain n x b) xf)).complete n
      (x.arrived b r.gen) b (joinedBar r n x (s.arrivalChain n x b) xf)) := if_pos h

end

/-! ### Completion (R104, R105) -/

/-- The completion's tick. -/
def State.completion (s : State) (x : Strand) (r : Bar) : Nat := max (max s.tick x.now) r.ready

/-- When its releases begin to fall due. -/
def State.releaseStart (s : State) (x : Strand) (b : BarId) (r : Bar) : Nat :=
  match s.domainOf x.id.part b with
  | some d => if s.large d.cores then s.boundary (s.completion x r) else s.completion x r
  | none => s.completion x r

/-- What a completion keeps for each participant. -/
def State.completedHeld (s : State) (x : Strand) (b : BarId) (r : Bar) : Held :=
  ⟨b, r.gen, r.chain, r.max, r.last, r.ovf, if r.xflag then some (s.releaseStart x b r + windowOf (s.domainOf x.id.part b)) else none⟩

/-- An exchange origin is kept where the generation has its flag (R246). -/
theorem State.origin_completedHeld (s : State) {x : Strand} {b : BarId} {r : Bar} : (s.completedHeld x b r).origin.isSome = r.xflag := by
  unfold State.completedHeld
  cases r.xflag <;> rfl

/-- The releases of a completion. -/
def State.newReleases (s : State) (x : Strand) (b : BarId) (r : Bar) : List Release :=
  r.members.flatMap fun c =>
    ((receivers s x.id.part c b r.gen).filter fun i => !b.team || (i.launch == x.id.launch && i.index == x.id.index && i.stage == x.id.stage)).map
      fun i => ⟨c, i, s.completedHeld x b r, s.completion x r, s.releaseStart x b r + pleatTicks (s.domainOf x.id.part b) c⟩

section
variable {s : State} {n : Nat} {x : Strand} {b : BarId} {r : Bar}

theorem State.complete_eq : s.complete n x b r = ({ s with releases := s.releases ++ s.newReleases x b r } : State).setBar n x b r.next := rfl

theorem State.le_boundary (s : State) (k : Nat) : k ≤ s.boundary k := by
  unfold State.boundary
  split
  · exact le_refl k
  · exact Nat.le_add_right _ _

theorem State.completion_le_releaseStart : s.completion x r ≤ s.releaseStart x b r := by
  unfold State.releaseStart
  split
  · split
    · exact s.le_boundary _
    · exact le_refl _
  · exact le_refl _

/-- What each release of a completion carries. -/
theorem State.mem_newReleases {q : Release} (h : q ∈ s.newReleases x b r) : q.core ∈ r.members ∧ q.held = s.completedHeld x b r ∧ s.tick ≤ q.comp ∧
    q.comp ≤ q.tick := by
  obtain ⟨c, hc, hq⟩ := List.mem_flatMap.1 h
  obtain ⟨i, -, rfl⟩ := List.mem_map.1 hq
  exact ⟨hc, rfl, (Nat.le_max_left _ _).trans (Nat.le_max_left _ _), s.completion_le_releaseStart.trans (Nat.le_add_right _ _)⟩

/-- The strand whose arrival it was is due one. -/
theorem State.newReleases_own (hn : n ∈ r.members) (hx : s.strand n = some x) (ha : x.arrivals.any (fun a => a.bar == b && a.gen == r.gen) = true) :
    ∃ q ∈ s.newReleases x b r, q.core = n ∧ q.id = x.id := by
  refine ⟨⟨n, x.id, s.completedHeld x b r, s.completion x r, s.releaseStart x b r + pleatTicks (s.domainOf x.id.part b) n⟩, ?_, rfl, rfl⟩
  refine List.mem_flatMap.2 ⟨n, hn, List.mem_map.2 ⟨x.id, List.mem_filter.2 ⟨?_, by simp⟩, rfl⟩⟩
  unfold receivers
  rw [hx]
  simp [ha]

end

/-! ### Words that arrive (R350, R411) -/

/-- A strand whose BAR or EXCH has made its arrival. -/
def Strand.waiting (x : Strand) : Strand := { x with stash := [1], released := false }

/-- What BARA, or BAR and EXCH, do once they have arrived. -/
def afterArrival (b : BarId) (waits : Bool) (c : Nat) (s : State) (y : Strand) : Eff :=
  if waits then awaitStep (s.setStrand c y.waiting) c y.waiting b
  else .done (s.retire c y 1)

section
variable {s : State} {x : Strand} {n : BitVec 6} {f : BitVec 1} {i : Instr} {xf waits : Bool} {r : Bar}

/-- The forms of an arrival. -/
theorem exec_arrivalForm (hi : (i, xf, waits) ∈ [(.bara n f, false, false), (.baraX n f, true, false), (.bar n f, false, true), (.exch n f, true, true)])
    (hstash : x.stash = []) : ∃ F, exec i s = word s F ∧
    F (atWord s x) s.cur (begun s x) = arriveStep (atWord s x) s.cur (begun s x) (barIdOf n f) xf (afterArrival (barIdOf n f) waits s.cur) := by
  have hbegun : (begun s x).stash.isEmpty = true := by
    rw [(begun_timed s x).1, List.isEmpty_iff]
    exact hstash
  simp only [List.mem_cons, List.not_mem_nil, or_false, Prod.mk.injEq] at hi
  rcases hi with ⟨rfl, rfl, rfl⟩ | ⟨rfl, rfl, rfl⟩ | ⟨rfl, rfl, rfl⟩ | ⟨rfl, rfl, rfl⟩
  · exact ⟨_, rfl, rfl⟩
  · exact ⟨_, rfl, rfl⟩
  · exact ⟨_, rfl, if_pos hbegun⟩
  · exact ⟨_, rfl, if_pos hbegun⟩

/-- The strand as it arrives: cycles aside, written back. -/
def State.arriving (s : State) (x : Strand) : Strand :=
  (begun s x).writtenBack.issued ((s.setStrand s.cur (begun s x).writtenBack).divOf s.cur)

/-- Cycles aside, what an arriving strand has is what it had. -/
theorem State.arriving_eq (s : State) (x : Strand) : ∃ w c q b, x.TimedTo w ∧ s.arriving x = { w with cache := c, released := q, begun := b } := by
  obtain ⟨w, b, hw, hissued⟩ := issued_eq (begun s x).writtenBack ((s.setStrand s.cur (begun s x).writtenBack).divOf s.cur)
  have hw' : (begun s x).TimedTo { w with cache := (begun s x).cache, released := (begun s x).released } := ⟨by rw [hw.1]; rfl, hw.2⟩
  exact ⟨_, w.cache, w.released, b, (begun_timed s x).trans hw', hissued⟩

theorem State.arriving_keeps (s : State) (x : Strand) : (s.arriving x).id = x.id ∧ (s.arriving x).wid = x.wid ∧ (s.arriving x).pc = x.pc ∧
    (s.arriving x).g = x.g ∧ (s.arriving x).v = x.v ∧ (s.arriving x).p = x.p ∧ (s.arriving x).held = x.held := by
  obtain ⟨w, c, q, b, hw, ha⟩ := s.arriving_eq x
  obtain ⟨hid, -, hpc, hg, hv, hp, -⟩ := hw.keeps
  have hwid : w.wid = x.wid := congrArg (BitVec.setWidth 32) (hw.2.1 0x08#7 (by decide) (by decide) (by decide))
  have hheld : w.held = x.held := by rw [hw.1]
  rw [ha]
  exact ⟨hid, hwid, hpc, hg, hv, hp, hheld⟩

/-- The arriving strand finds the barrier as it was. -/
theorem State.barOf_arriving (s : State) (x : Strand) (b : BarId) :
    (s.setStrand s.cur (begun s x).writtenBack).barOf s.cur (s.arriving x) b = s.barOf s.cur x b :=
  State.barOf_congr _ _ (s.arriving_keeps x).1 b

/-- The device once the strand has arrived. -/
def State.afterArrive (s : State) (x : Strand) (b : BarId) (xf : Bool) (r : Bar) : State :=
  (s.setStrand s.cur (begun s x).writtenBack).arrive s.cur (s.arriving x) b xf r

theorem State.strand_arrive (s : State) (n : Nat) (x : Strand) (b : BarId) (xf : Bool) (r : Bar) :
    (s.arrive n x b xf r).strand n = some (x.arrived b r.gen) := by
  cases hfull : (joinedBar r n x (s.arrivalChain n x b) xf).full with
  | true =>
    rw [State.arrive_last hfull, State.complete_eq, State.strand_setBar]
    exact (State.strand_setBar _ _ _ _ _ _).trans (State.strand_setStrand_same _ _ _)
  | false =>
    rw [State.arrive_waiting hfull, State.strand_setBar, State.strand_setStrand_same]

/-- An arrival leaves the strand's identity, by which its barrier is found. -/
theorem State.barOf_arrived (s : State) (n : Nat) (x : Strand) (b c : BarId) (gen : Nat) : s.barOf n x b = s.barOf n (x.arrived c gen) b :=
  s.barOf_congr n rfl b

theorem State.barOf_releases (s : State) (l : List Release) (n : Nat) (x : Strand) (b : BarId) :
    ({ s with releases := l } : State).barOf n x b = s.barOf n x b := rfl

theorem State.barOf_setStrand_arrived (s : State) {n m gen : Nat} {x : Strand} {b c : BarId} {r : Option Bar} (h : s.barOf n x b = r) (w : Strand) :
    (s.setStrand m w).barOf n (x.arrived c gen) b = r := by
  rw [← State.barOf_arrived, State.barOf_setStrand, h]

theorem State.barOf_arrive_waiting {s : State} {n : Nat} {x : Strand} {b : BarId} {xf : Bool} {r r₀ : Bar} (hb : s.barOf n x b = some r₀)
    (h : (joinedBar r n x (s.arrivalChain n x b) xf).full = false) :
    (s.arrive n x b xf r).barOf n x b = some { joinedBar r n x (s.arrivalChain n x b) xf with ready := max r.ready x.now } := by
  rw [State.arrive_waiting h, State.barOf_arrived _ _ _ _ b r.gen]
  exact State.barOf_setBar (s.barOf_setStrand_arrived hb _) _

theorem State.barOf_arrive_last {s : State} {n : Nat} {x : Strand} {b : BarId} {xf : Bool} {r r₀ : Bar} (hb : s.barOf n x b = some r₀)
    (h : (joinedBar r n x (s.arrivalChain n x b) xf).full = true) :
    (s.arrive n x b xf r).barOf n x b = some (joinedBar r n x (s.arrivalChain n x b) xf).next := by
  rw [State.arrive_last h, State.complete_eq, State.barOf_arrived _ _ _ _ b r.gen]
  refine State.barOf_setBar (r₀ := joinedBar r n x (s.arrivalChain n x b) xf) ?_ _
  rw [State.barOf_releases]
  exact State.barOf_setBar (s.barOf_setStrand_arrived hb _) _

/-- The releases of the last arrival. -/
theorem State.releases_arrive_last {s : State} {n : Nat} {x : Strand} {b : BarId} {xf : Bool} {r : Bar}
    (h : (joinedBar r n x (s.arrivalChain n x b) xf).full = true) (hn : n ∈ r.members) :
    ∃ (u : State) (new : List Release), (s.arrive n x b xf r).releases = s.releases ++ new ∧ (∃ q ∈ new, q.core = n ∧ q.id = x.id) ∧
      ∀ q ∈ new, q.core ∈ r.members ∧ q.held = u.completedHeld (x.arrived b r.gen) b (joinedBar r n x (s.arrivalChain n x b) xf) ∧
        s.tick ≤ q.comp ∧ q.comp ≤ q.tick := by
  have htick := (s.setStrand n (x.arrived b r.gen)).tick_setBar n (x.arrived b r.gen) b (joinedBar r n x (s.arrivalChain n x b) xf)
  have hrel := (s.setStrand n (x.arrived b r.gen)).releases_setBar n (x.arrived b r.gen) b (joinedBar r n x (s.arrivalChain n x b) xf)
  have hstrand := ((s.setStrand n (x.arrived b r.gen)).strand_setBar n (x.arrived b r.gen) b (joinedBar r n x (s.arrivalChain n x b) xf) n).trans
    (State.strand_setStrand_same _ _ _)
  rw [State.arrive_last h, State.complete_eq, State.releases_setBar]
  generalize (s.setStrand n (x.arrived b r.gen)).setBar n (x.arrived b r.gen) b (joinedBar r n x (s.arrivalChain n x b) xf) = u at *
  refine ⟨u, u.newReleases (x.arrived b r.gen) b (joinedBar r n x (s.arrivalChain n x b) xf), congrArg (· ++ _) hrel,
    State.newReleases_own hn hstrand (x.arrivals_arrived b r.gen), fun q hq => ?_⟩
  obtain ⟨hmember, hheld, hle, hdue⟩ := State.mem_newReleases hq
  exact ⟨hmember, hheld, htick ▸ hle, hdue⟩

theorem State.barOf_arrive {s : State} {n : Nat} {x : Strand} {b : BarId} {r₀ : Bar} (hb : s.barOf n x b = some r₀) (xf : Bool) (r : Bar) :
    ∃ r', (s.arrive n x b xf r).barOf n x b = some r' := by
  cases hfull : (joinedBar r n x (s.arrivalChain n x b) xf).full with
  | true => exact ⟨_, State.barOf_arrive_last hb hfull⟩
  | false => exact ⟨_, State.barOf_arrive_waiting hb hfull⟩

/-! ### Waiting for a generation (R104) -/

/-- A strand that has arrived waits for the generation of its arrival. -/
theorem Strand.barGen_arrived (x : Strand) (b : BarId) (gen : Nat) (r : Bar) : (x.arrived b gen).waiting.barGen b r = gen := by
  have hnone : (x.arrivals.filter (·.bar != b)).find? (fun a => a.bar == b) = none := by
    rw [List.find?_eq_none]
    intro a ha
    simpa using (List.mem_filter.1 ha).2
  have hfind : (x.arrivals.filter (fun a => a.bar != b) ++ [(⟨b, gen, false⟩ : Arrival)]).find? (fun a => a.bar == b) = some ⟨b, gen, false⟩ := by
    rw [List.find?_append, hnone]
    simp
  show (match (x.arrivals.filter (fun a => a.bar != b) ++ [(⟨b, gen, false⟩ : Arrival)]).find? (fun a => a.bar == b) with
    | some a => if a.waited then r.gen else a.gen
    | none => r.gen) = gen
  rw [hfind]
  rfl

/-- Without a held release of the generation the strand waits for one. -/
theorem awaitStep_waits {s : State} {n : Nat} {x : Strand} {b : BarId} {r : Bar} (hb : s.barOf n x b = some r)
    (hnone : x.held.find? (fun h => h.bar == b && h.gen == x.barGen b r) = none) : awaitStep s n x b =
      .block (s.setStrand n (if x.stash.isEmpty then { x with stash := barStash b (x.barGen b r) } else x)) (.barrier b (x.barGen b r)) := by
  simp only [awaitStep, hb, hnone]

/-- A strand that has arrived and waits does not hold a release of the barrier. -/
theorem find_held_none {x : Strand} {b : BarId} {gen : Nat} (h : ∀ k ∈ x.held, k.bar ≠ b) : x.held.find? (fun k => k.bar == b && k.gen == gen) = none := by
  rw [List.find?_eq_none]
  intro k hk
  simp [h k hk]

/-! ### The word -/

/-- `y` has what strand `x` had of registers, arrivals and exchange mode. -/
structure Strand.Left (x y : Strand) : Prop where
  g : y.g = x.g
  v : y.v = x.v
  p : y.p = x.p
  arrivals : y.arrivals = x.arrivals
  exch : y.exch = x.exch

theorem Strand.TimedTo.left {x y : Strand} (h : x.TimedTo y) : x.Left y := by
  rw [h.1]
  exact ⟨rfl, rfl, rfl, rfl, rfl⟩

/-- BARA goes on after its arrival. -/
theorem word_arrival_goOn {F : State → Nat → Strand → Eff} {b : BarId} {u : State} {a : Strand} (h : s.Alone x)
    (hF : F (atWord s x) s.cur (begun s x) = afterArrival b false s.cur u a) :
    ∃ y, word s F = .next (u.setStrand s.cur y) ∧ a.Left y ∧ y.wait = none ∧ y.pc = (a.pc + 4) % 2 ^ 64 := by
  refine ⟨_, word_done h hF, ?_⟩
  obtain ⟨w, q, hw, hy⟩ := a.finish_ended 1 (u.divOf s.cur) (a.pcPlus 4)
  rw [hy]
  exact ⟨⟨hw.left.g, hw.left.v, hw.left.p, hw.left.arrivals, hw.left.exch⟩, rfl, rfl⟩

/-- BAR and EXCH wait after their arrival for its generation. -/
theorem word_arrival_waits {F : State → Nat → Strand → Eff} {b : BarId} {gen : Nat} {u : State} {a : Strand} (h : s.Alone x)
    (hF : F (atWord s x) s.cur (begun s x) = afterArrival b true s.cur u (a.arrived b gen)) (hb : u.barOf s.cur a b = some r)
    (hheld : ∀ k ∈ a.held, k.bar ≠ b) :
    ∃ y, word s F = .next (u.setStrand s.cur y) ∧ (a.arrived b gen).Left y ∧ y.wait = some (.barrier b gen) ∧ y.pc = a.pc := by
  have hbar : (u.setStrand s.cur (a.arrived b gen).waiting).barOf s.cur (a.arrived b gen).waiting b = some r := hb
  have hgen := a.barGen_arrived b gen r
  have hnone : (a.arrived b gen).waiting.held.find? (fun k => k.bar == b && k.gen == (a.arrived b gen).waiting.barGen b r) = none :=
    find_held_none hheld
  have hblock := awaitStep_waits hbar hnone
  rw [hgen, State.setStrand_setStrand] at hblock
  obtain ⟨w, q, hw, hon⟩ := State.blockOn_eq (k := .barrier b gen) (State.strand_setStrand_same u s.cur (a.arrived b gen).waiting) (by simp)
  rw [State.setStrand_setStrand] at hon
  obtain ⟨-, -, hpc, -⟩ := hw.keeps
  refine ⟨_, (word_block h (hF.trans hblock)).trans (congrArg _ hon), ?_, rfl, hpc⟩
  exact ⟨hw.left.g, hw.left.v, hw.left.p, hw.left.arrivals, hw.left.exch⟩

/-- An arrival that nothing holds up is made, and its word goes on with `g`. -/
theorem arriveStep_arrives {b : BarId} (hb : s.barOf s.cur x b = some r) (harr : x.arrivals.any (fun a => a.bar == b && a.gen == r.gen) = false)
    (hmem : memReady x [] = true) (hsend : x.sending = false) (hrel : x.released = false) (hq : Quiet x) (g : State → Strand → Eff) :
    arriveStep (atWord s x) s.cur (begun s x) b xf g = g (s.afterArrive x b xf r) ((s.arriving x).arrived b r.gen) := by
  have ht := begun_timed s x
  have hid : (begun s x).writtenBack.id = x.id := ht.keeps.1
  have hready : memReady (begun s x) [] = true := by
    unfold memReady at hmem ⊢
    rw [ht.pending]
    rw [ht.1]
    exact hmem
  have hkeeps : (begun s x).sending = false ∧ (begun s x).released = false ∧
      (begun s x).writtenBack.arrivals.any (fun a => a.bar == b && a.gen == r.gen) = false := by
    rw [Strand.writtenBack, ht.1]
    exact ⟨hsend, hrel, harr⟩
  obtain ⟨hsending, hreleased, harrivals⟩ := hkeeps
  have hrelease := releaseAt_quiet Nat.one_ne_zero (strand_atWord s x) (quiet_begun s hq) hreleased
  rw [setStrand_atWord] at hrelease
  have hfound : (s.setStrand s.cur (begun s x).writtenBack).barOf s.cur (begun s x).writtenBack b = some r := (State.barOf_congr _ _ hid b).trans hb
  have hstrand : (s.afterArrive x b xf r).strand s.cur = some ((s.arriving x).arrived b r.gen) := State.strand_arrive _ _ _ _ _ _
  unfold Strand.sending at hsending
  unfold State.afterArrive State.arriving at hstrand
  simp only [arriveStep, (barOf_begun s x b).trans hb, hready, hsending, hrelease, withStrand, State.strand_setStrand_same, hfound, harrivals, hstrand,
    Bool.not_true, Bool.false_eq_true, if_false]
  rfl

/-- A word whose arrival nothing holds up, and what becomes of its strand. -/
theorem exec_arrival (h : s.Alone x) (hstash : x.stash = [])
    (hi : (i, xf, waits) ∈ [(.bara n f, false, false), (.baraX n f, true, false), (.bar n f, false, true), (.exch n f, true, true)])
    (hb : s.barOf s.cur x (barIdOf n f) = some r) (harr : x.arrivals.any (fun a => a.bar == barIdOf n f && a.gen == r.gen) = false)
    (hmem : memReady x [] = true) (hsend : x.sending = false) (hrel : x.released = false) (hq : Quiet x)
    (hheld : waits = true → ∀ k ∈ x.held, k.bar ≠ barIdOf n f) :
    ∃ y, exec i s = .next ((s.afterArrive x (barIdOf n f) xf r).setStrand s.cur y) ∧
      y.arrivals.any (fun a => a.bar == barIdOf n f && a.gen == r.gen) = true ∧ y.exch.origin = none ∧ y.g = x.g ∧ y.v = x.v ∧ y.p = x.p ∧
      (if waits then y.wait = some (.barrier (barIdOf n f) r.gen) ∧ y.pc = x.pc else y.wait = none ∧ y.pc = (x.pc + 4) % 2 ^ 64) := by
  obtain ⟨F, hexec, hF⟩ := exec_arrivalForm (s := s) hi hstash
  have harrive := hF.trans (arriveStep_arrives (xf := xf) hb harr hmem hsend hrel hq (afterArrival (barIdOf n f) waits s.cur))
  obtain ⟨hid, -, hpc, hg, hv, hp, hheld'⟩ := s.arriving_keeps x
  have hown := (s.arriving x).arrivals_arrived (barIdOf n f) r.gen
  cases hwaits : waits with
  | false =>
    rw [hwaits] at harrive
    obtain ⟨y, hy, hleft, hwait, hnext⟩ := word_arrival_goOn h harrive
    refine ⟨y, hexec.trans hy, by rw [hleft.arrivals, hown], by rw [hleft.exch]; rfl, hleft.g.trans hg, hleft.v.trans hv, hleft.p.trans hp, hwait, ?_⟩
    exact hpc ▸ hnext
  | true =>
    rw [hwaits] at harrive
    obtain ⟨r', hr'⟩ := State.barOf_arrive ((s.barOf_arriving x (barIdOf n f)).trans hb) xf r
    obtain ⟨y, hy, hleft, hwait, hnext⟩ := word_arrival_waits h harrive hr' (hheld'.symm ▸ hheld hwaits)
    exact ⟨y, hexec.trans hy, by rw [hleft.arrivals, hown], by rw [hleft.exch]; rfl, hleft.g.trans hg, hleft.v.trans hv, hleft.p.trans hp, hwait,
      hnext.trans hpc⟩

/-- An arrival at a barrier that the strand is no participant of (R103). -/
theorem traps_arrival (h : s.Alone x) (hxw : x.wait = none) (hstash : x.stash = [])
    (hi : (i, xf, waits) ∈ [(.bara n f, false, false), (.baraX n f, true, false), (.bar n f, false, true), (.exch n f, true, true)])
    (hb : s.barOf s.cur x (barIdOf n f) = none) : Traps i s x 0x01 ((s.fetchWord s.cur x.pc).setWidth 64) := by
  obtain ⟨F, hexec, hF⟩ := exec_arrivalForm (s := s) hi hstash
  have ht := begun_timed s x
  have hbar := (barOf_begun s x (barIdOf n f)).trans hb
  refine traps_of h hexec hxw (by decide) (by decide) ht (hF.trans ?_)
  rw [arriveStep, hbar]
  exact illegal_atWord h ht

/-! ### BARW (R104) -/

theorem barGen_begun (s : State) (x : Strand) (b : BarId) (r : Bar) : (begun s x).barGen b r = x.barGen b r := by
  rw [(begun_timed s x).1]
  rfl

/-- BARW waits for nothing where no release of its strand is under way. -/
theorem exec_barw (h : s.releasing s.cur = false) : ∃ F, exec (.barw n f) s = word s F ∧
    F (atWord s x) s.cur (begun s x) = awaitStep (atWord s x) s.cur (begun s x) (barIdOf n f) := by
  have hnone : (if (begun s x).stash.isEmpty then acquireWait (atWord s x) s.cur 1 else none) = none := by
    have hfree : acquireWait (atWord s x) s.cur 1 = none := if_neg fun hr => Bool.eq_false_iff.1 h hr.2
    rw [hfree, ite_self]
  refine ⟨_, rfl, ?_⟩
  show (match (if (begun s x).stash.isEmpty then acquireWait (atWord s x) s.cur 1 else none) with
    | some k => Eff.block (atWord s x) k
    | none => awaitStep (atWord s x) s.cur (begun s x) (barIdOf n f)) = _
  rw [hnone]

theorem traps_barw (h : s.Alone x) (hrel : s.releasing s.cur = false) (hxw : x.wait = none) (hb : s.barOf s.cur x (barIdOf n f) = none) :
    Traps (.barw n f) s x 0x01 ((s.fetchWord s.cur x.pc).setWidth 64) := by
  obtain ⟨F, hexec, hF⟩ := exec_barw (x := x) (n := n) (f := f) hrel
  have ht := begun_timed s x
  have hbar := (barOf_begun s x (barIdOf n f)).trans hb
  refine traps_of h hexec hxw (by decide) (by decide) ht (hF.trans ?_)
  rw [awaitStep, hbar]
  exact illegal_atWord h ht

/-- BARW takes the release that is held for it. -/
theorem exec_barw_held {k : Held} (h : s.Alone x) (hrel : s.releasing s.cur = false) (hb : s.barOf s.cur x (barIdOf n f) = some r)
    (hk : x.held.find? (fun k => k.bar == barIdOf n f && k.gen == x.barGen (barIdOf n f) r) = some k) :
    ∃ y, exec (.barw n f) s = .next (s.setStrand s.cur y) ∧ x.Resumed y k := by
  obtain ⟨F, hexec, hF⟩ := exec_barw (x := x) (n := n) (f := f) hrel
  have ht := begun_timed s x
  have hbar := (barOf_begun s x (barIdOf n f)).trans hb
  have hfind : (begun s x).held.find? (fun k => k.bar == barIdOf n f && k.gen == (begun s x).barGen (barIdOf n f) r) = some k := by
    rw [barGen_begun, ht.1]
    exact hk
  have hdone : awaitStep (atWord s x) s.cur (begun s x) (barIdOf n f) = .done ((atWord s x).retire s.cur
      (((begun s x).issued ((atWord s x).divOf s.cur)).takeRelease s.cur ((atWord s x).barSite s.cur (begun s x).id.part (barIdOf n f)) k) 1) := by
    simp only [awaitStep, hbar, hfind]
  refine ⟨_, hexec.trans ((word_done h (hF.trans hdone)).trans (by rw [State.retire_eq, setStrand_atWord])), ?_⟩
  obtain ⟨w, q, hw, hissued⟩ := issued_eq (begun s x) ((atWord s x).divOf s.cur)
  have hres := ((begun s x).issued ((atWord s x).divOf s.cur)).takeRelease_resumed s.cur
    ((atWord s x).barSite s.cur (begun s x).id.part (barIdOf n f)) k 1 ((atWord s x).divOf s.cur)
  refine Strand.Resumed.after_timed (ht.trans hw) ⟨?_, hres.wait, ?_, ?_, ?_, ?_, hres.chain, hres.last, hres.cache⟩
  · rw [hres.pc, hissued]
  · rw [hres.g, hissued]
  · rw [hres.v, hissued]
  · rw [hres.p, hissued]
  · rw [hres.held, hissued]

/-- BARW waits where none is. -/
theorem exec_barw_waits (h : s.Alone x) (hrel : s.releasing s.cur = false) (hb : s.barOf s.cur x (barIdOf n f) = some r)
    (hk : x.held.find? (fun k => k.bar == barIdOf n f && k.gen == x.barGen (barIdOf n f) r) = none) :
    ∃ y, exec (.barw n f) s = .next (s.setStrand s.cur y) ∧ y.wait = some (.barrier (barIdOf n f) (x.barGen (barIdOf n f) r)) ∧
      Ends x { y with wait := none } := by
  obtain ⟨F, hexec, hF⟩ := exec_barw (x := x) (n := n) (f := f) hrel
  have ht := begun_timed s x
  have hbar := (barOf_begun s x (barIdOf n f)).trans hb
  have hblock := awaitStep_waits hbar (by rw [barGen_begun, ht.1]; exact hk)
  rw [barGen_begun] at hblock
  have hkept : ∃ st, (atWord s x).setStrand s.cur (if (begun s x).stash.isEmpty then
      { begun s x with stash := barStash (barIdOf n f) (x.barGen (barIdOf n f) r) } else begun s x) = s.setStrand s.cur { begun s x with stash := st } := by
    split
    · exact ⟨_, setStrand_atWord _ _ _⟩
    · exact ⟨(begun s x).stash, setStrand_atWord _ _ _⟩
  obtain ⟨st, hst⟩ := hkept
  exact exec_block h hexec ht (by simp) (hF.trans (hblock.trans (by rw [hst])))

end

/-- Settles O25: an arrival before the others is made and leaves its strand as its form says. -/
theorem barrierArrival : Obligations.BarrierArrival := by
  unfold Obligations.BarrierArrival
  intro s x n f i xf waits h hxw hstash hi b
  refine ⟨fun hb => traps_arrival h hxw hstash hi hb, fun r hb harr hmem hsend hrel hq hmiss hheld => ?_⟩
  obtain ⟨m, hm, hne, hmissing⟩ := hmiss
  obtain ⟨y, hexec, harrived, hexch, hg, hv, hp, hwait⟩ := exec_arrival h hstash hi hb harr hmem hsend hrel hq hheld
  obtain ⟨hid, hwid, -⟩ := s.arriving_keeps x
  have hnot := not_full_joinedBar (n := s.cur) (x := s.arriving x) (xf := xf)
    (c := (s.setStrand s.cur (begun s x).writtenBack).arrivalChain s.cur (s.arriving x) b) hm hne hmissing
  have hbar := State.barOf_arrive_waiting ((s.barOf_arriving x b).trans hb) hnot
  rw [State.barOf_congr _ _ hid] at hbar
  obtain ⟨c, q, hset⟩ := State.setBar_eq ((s.setStrand s.cur (begun s x).writtenBack).setStrand s.cur ((s.arriving x).arrived b r.gen)) s.cur
    ((s.arriving x).arrived b r.gen) b { joinedBar r s.cur (s.arriving x)
      ((s.setStrand s.cur (begun s x).writtenBack).arrivalChain s.cur (s.arriving x) b) xf with ready := max r.ready (s.arriving x).now }
  have hkeeps : (s.afterArrive x b xf r).releases = s.releases ∧ (s.afterArrive x b xf r).hbm = s.hbm ∧ (s.afterArrive x b xf r).host = s.host ∧
      (s.afterArrive x b xf r).scratch = s.scratch ∧ (s.afterArrive x b xf r).chip = s.chip := by
    rw [State.afterArrive, State.arrive_waiting hnot, hset]
    exact ⟨rfl, rfl, rfl, rfl, rfl⟩
  obtain ⟨hreleases, hmemory⟩ := hkeeps
  exact ⟨_, y, _, hexec, State.strand_setStrand_same _ _ _, hbar, rfl, rfl, rfl, hwid, rfl, Nat.le_max_left _ _, harrived, hexch, hreleases,
    hg, hv, hp, hwait, hmemory⟩

/-- Settles O26: the last arrival completes the generation, and BARW waits for or takes a release. -/
theorem barrierReleases : Obligations.BarrierReleases := by
  unfold Obligations.BarrierReleases
  refine ⟨?_, fun s x n f h hrel => ⟨fun hb hxw => traps_barw h hrel hxw hb, fun r hb => ⟨fun k hk => ?_, exec_barw_waits h hrel hb⟩⟩⟩
  · intro s x n f i xf waits r h hxw hstash hi b hb harr hmem hsend hrel hq hcur hall hheld
    obtain ⟨y, hexec, -, hexch, hg, hv, hp, hwait⟩ := exec_arrival h hstash hi hb harr hmem hsend hrel hq hheld
    obtain ⟨hid, hwid, -⟩ := s.arriving_keeps x
    have hfull := full_joinedBar (x := s.arriving x) (xf := xf)
      (c := (s.setStrand s.cur (begun s x).writtenBack).arrivalChain s.cur (s.arriving x) b) hcur hall
    have hbar := State.barOf_arrive_last ((s.barOf_arriving x b).trans hb) hfull
    rw [State.barOf_congr _ _ hid] at hbar
    obtain ⟨u, new, hreleases, hown, hcarry⟩ := State.releases_arrive_last hfull hcur
    refine ⟨_, y, new, hexec, State.strand_setStrand_same _ _ _, hreleases, hid ▸ hown, fun q hq => ?_, hbar, hwait, hexch, hg, hv, hp⟩
    obtain ⟨hmember, hheld, htick, hdue⟩ := hcarry q hq
    rw [hheld]
    exact ⟨hmember, rfl, rfl, Nat.le_max_left _ _, hwid, htick, hdue, u.origin_completedHeld⟩
  · obtain ⟨y, hexec, hres⟩ := exec_barw_held h hrel hb hk
    exact ⟨y, hexec, hres.pc, hres.wait, hres.g, hres.v, hres.p, hres.held, hres.chain, hres.last, hres.cache⟩

end Sys2Proof.Machine
end

section
/-! SUPPORT. A core's own scratchpad as the home of a request (R121, R175, R178): what is read there, what a write leaves. -/
namespace Sys2Proof.Machine
open Sys2Proof.Claim

/-- The scratchpad of core `c` is that of a started strand of virtual device `v` of partition `p`, with no line to be filled. -/
def State.HomeAt (s : State) (c p v : Nat) : Prop :=
  ∃ w, s.strand c = some w ∧ w.id.part = p ∧ w.id.vd = v ∧ w.phase ≠ .placed ∧ w.lineAbsent = []

section
variable {s : State} {c p v off : Nat}

theorem State.ownerAt_home (h : s.HomeAt c p v) : ∃ w, s.ownerAt p v c = some (w, false) ∧ w.id.vd = v := by
  obtain ⟨w, hw, hp, hv, hphase, -⟩ := h
  refine ⟨w, ?_, hv⟩
  unfold State.ownerAt
  simp [hw, hp, hv, hphase]

theorem State.fillRange_home (h : s.HomeAt c p v) (off len : Nat) : s.fillRange c off len = s := by
  obtain ⟨w, hw, -, -, -, habsent⟩ := h
  rw [State.fillRange, hw, Option.map_some, habsent]
  rfl

theorem State.siteOf_home (h : s.HomeAt c p v) : s.siteOf p v (.scratch c off) = .core c := by
  obtain ⟨w, hw, -⟩ := State.ownerAt_home h
  simp only [State.siteOf, hw]

theorem State.holderOf_home (h : s.HomeAt c p v) : s.holderOf p v (.scratch c off) = v := by
  obtain ⟨w, hw, hv⟩ := State.ownerAt_home h
  simp only [State.holderOf, hw, Option.map_some, Option.getD_some, hv]

theorem homeRead_home (h : s.HomeAt c p v) (pol n : Nat) : homeRead s ⟨p, v, pol⟩ (.scratch c off) n = .ok (s.scratchGot c off n) s := by
  obtain ⟨w, hw, -⟩ := State.ownerAt_home h
  simp only [homeRead, hw, s.fillRange_home h]

theorem homeReadW_home (h : s.HomeAt c p v) (pol n : Nat) : homeReadW s ⟨p, v, pol⟩ (.scratch c off) n = .ok (s.scratchGot c off n) s :=
  homeRead_home h pol n

/-- The device after a write at the scratchpad. -/
def State.putAt (s : State) (c off : Nat) (bs : List Byte) (tag : Bool) : State :=
  (s.touch (.scratch c off) bs.length).scratchPut c off bs tag

theorem homeWrite_home (h : s.HomeAt c p v) (pol : Nat) (bs : List Byte) (tag : Bool) :
    homeWrite s ⟨p, v, pol⟩ (.scratch c off) bs tag = .ok () (s.putAt c off bs tag) := by
  obtain ⟨w, hw, -⟩ := State.ownerAt_home h
  have hfill : (s.touch (.scratch c off) bs.length).fillRange c off bs.length = s.touch (.scratch c off) bs.length :=
    State.fillRange_home (s := s.touch (.scratch c off) bs.length) h off bs.length
  simp only [homeWrite, hw, hfill, State.putAt]

/-- A write at a scratchpad touches its bank, its strand's list of clean lines, monitors and the agenda. -/
theorem State.putAt_eq (s : State) (c off : Nat) (bs : List Byte) (tag : Bool) : ∃ b u m a, b.bytes = writeRaw s.scratch.bytes (scratchAt c off) bs ∧
    s.putAt c off bs tag = { s with scratch := b, strands := u, monitors := m, agenda := a } := by
  have hb : (if tag then (s.scratch.writeList (scratchAt c off) bs).setTag (scratchAt c off) true else
      s.scratch.writeList (scratchAt c off) bs).bytes = writeRaw s.scratch.bytes (scratchAt c off) bs := by
    rw [← Bank.bytes_writeList]
    split <;> rfl
  obtain ⟨u, hu⟩ := State.eq_of_besides (State.onStrand_besides ({ s.touch (.scratch c off) bs.length with
    scratch := if tag then (s.scratch.writeList (scratchAt c off) bs).setTag (scratchAt c off) true else s.scratch.writeList (scratchAt c off) bs } : State)
    c fun x => x.dirtyLines off bs.length)
  exact ⟨_, u, _, _, hb, hu⟩

theorem State.scratch_putAt (s : State) (c off : Nat) (bs : List Byte) (tag : Bool) :
    (s.putAt c off bs tag).scratch.bytes = writeRaw s.scratch.bytes (scratchAt c off) bs := by
  obtain ⟨b, u, m, a, hb, heq⟩ := s.putAt_eq c off bs tag
  rw [heq, hb]

/-- The bytes written are there. -/
theorem State.readList_putAt (h : s.scratch.wf = true) (bs : List Byte) (tag : Bool) {n : Nat} (hn : bs.length = n) :
    (s.putAt c off bs tag).scratch.readList (scratchAt c off) n = bs := by
  rw [← hn]
  exact Bank.readList_writeRaw h (s.scratch_putAt c off bs tag)

theorem State.onlyScratch_putAt (bs : List Byte) (tag : Bool) {n : Nat} (hn : bs.length = n) : OnlyScratch s (s.putAt c off bs tag) c off n := by
  obtain ⟨b, u, m, a, hb, heq⟩ := s.putAt_eq c off bs tag
  rw [heq]
  refine ⟨rfl, rfl, rfl, fun k hk => ?_⟩
  rw [← hn] at hk
  have hread : b.read k = (s.scratch.writeList (scratchAt c off) bs).read k := by
    unfold Bank.read
    rw [hb, Bank.bytes_writeList]
  exact hread.trans (Bank.read_writeList_other bs s.scratch hk)

/-- Who stands on a core is not changed by it. -/
theorem State.strand_putAt (s : State) (c off : Nat) (bs : List Byte) (tag : Bool) (m : Nat) :
    ((s.putAt c off bs tag).strand m).map (fun x => (x.id, x.phase, x.lineAbsent)) = (s.strand m).map fun x => (x.id, x.phase, x.lineAbsent) := by
  have hdirty : ∀ x : Strand, ((x.dirtyLines off bs.length).id, (x.dirtyLines off bs.length).phase, (x.dirtyLines off bs.length).lineAbsent) =
      (x.id, x.phase, x.lineAbsent) := by
    intro x
    unfold Strand.dirtyLines
    split <;> rfl
  unfold State.putAt State.scratchPut
  rw [State.strand_onStrand]
  split
  · rw [Option.map_map]
    exact congrArg (fun f => (s.strand m).map f) (funext hdirty)
  · rfl

/-- Who owns a scratchpad depends on who stands on its core. -/
theorem State.holderOf_congr {t : State} (hs : ∀ m, (t.strand m).map (fun x => (x.id, x.phase, x.lineAbsent)) =
    (s.strand m).map fun x => (x.id, x.phase, x.lineAbsent)) (hp : t.parts = s.parts) (p v : Nat) (l : Loc) : t.holderOf p v l = s.holderOf p v l := by
  cases l with
  | scratch c o =>
    have hsaved : t.savedAt p v c = s.savedAt p v c := by simp only [State.savedAt, State.part, hp]
    have hc := hs c
    show ((t.ownerAt p v c).map (·.1.id.vd)).getD 0 = ((s.ownerAt p v c).map (·.1.id.vd)).getD 0
    unfold State.ownerAt
    rw [hsaved]
    cases ht : t.strand c with
    | none =>
      rw [ht, Option.map_none] at hc
      rw [Option.map_eq_none_iff.1 hc.symm]
    | some y =>
      rw [ht, Option.map_some] at hc
      obtain ⟨x, hx, hxy⟩ := Option.map_eq_some_iff.1 hc.symm
      obtain ⟨hid, hphase, -⟩ : x.id = y.id ∧ x.phase = y.phase ∧ x.lineAbsent = y.lineAbsent := by simpa using hxy
      rw [hx]
      simp only [hid, hphase]
      split
      · simp only [Option.map_some, hid]
      · rfl
  | chip _ => rfl
  | glob _ => rfl
  | phys _ => rfl

theorem State.homeAt_putAt (h : s.HomeAt c p v) (m off : Nat) (bs : List Byte) (tag : Bool) : (s.putAt m off bs tag).HomeAt c p v := by
  obtain ⟨w, hw, hp, hv, hphase, habsent⟩ := h
  have hc := s.strand_putAt m off bs tag c
  rw [hw, Option.map_some] at hc
  obtain ⟨y, hy, hxy⟩ := Option.map_eq_some_iff.1 hc
  obtain ⟨hid, hph, hab⟩ : y.id = w.id ∧ y.phase = w.phase ∧ y.lineAbsent = w.lineAbsent := by simpa using hxy
  exact ⟨y, hy, hid ▸ hp, hid ▸ hv, hph ▸ hphase, hab.trans habsent⟩

/-- Nothing is sent and no wait is held or ends. -/
theorem State.queues_putAt (s : State) (c off : Nat) (bs : List Byte) (tag : Bool) :
    (s.putAt c off bs tag).waits = s.waits ∧ (s.putAt c off bs tag).flight = s.flight ∧ (s.putAt c off bs tag).tick = s.tick := by
  obtain ⟨b, u, m, a, -, heq⟩ := s.putAt_eq c off bs tag
  rw [heq]
  exact ⟨rfl, rfl, rfl⟩

theorem State.flight_send_putAt (s : State) (c off : Nat) (bs : List Byte) (tag : Bool) (m : Msg) :
    ((s.putAt c off bs tag).send m).flight = s.flight ++ [m] := by
  obtain ⟨-, hflight, -⟩ := s.queues_putAt c off bs tag
  exact congrArg (· ++ [m]) hflight

theorem State.parts_putAt (s : State) (c off : Nat) (bs : List Byte) (tag : Bool) : (s.putAt c off bs tag).parts = s.parts := by
  obtain ⟨b, u, m, a, -, heq⟩ := s.putAt_eq c off bs tag
  rw [heq]

end

end Sys2Proof.Machine
end

section
/-! PROOFS. Messages that arrive at a scratchpad (R85, R86, R178, R336, R337): the clauses of obligation O43 about signals, waits and accesses. -/
namespace Sys2Proof.Machine
open Sys2Proof.Claim

section
variable {s : State} {c off p v : Nat}

/-! ### Signals (R85, R86) -/

/-- A wait that knot `k` meets: it is held there, for the strand whose scratchpad it is, and its deadline has not passed (R336). -/
def State.meets (s : State) (knot : Loc) (p v : Nat) (k : Knot) (w : WaitReq) : Bool :=
  w.knot == knot && w.part == p && s.holderOf p w.vd knot == v && w.target.sle k.count && (w.deadline.map fun d => decide (s.tick ≤ d)).getD true

theorem WaitReq.met_eq (w : WaitReq) (count : W64) (tick : Nat) :
    w.met count tick = (w.target.sle count && (w.deadline.map fun d => decide (tick ≤ d)).getD true) := by
  unfold WaitReq.met
  cases w.deadline <;> rfl

/-- What a knot that has been written does to the waits held there. -/
theorem State.testWaits_putAt (h : s.HomeAt c p v) (k : Knot) : (s.putAt c off k.bytes false).testWaits (.scratch c off) p v k =
    { s.putAt c off k.bytes false with
      waits := s.waits.filter fun w => !s.meets (.scratch c off) p v k w
      flight := s.flight ++ (s.waits.filter (s.meets (.scratch c off) p v k)).map fun w => .snapshot (k.snap w (.core c)) } := by
  have hsite := State.siteOf_home (off := off) (State.homeAt_putAt h c off k.bytes false)
  have hholder : ∀ w, (s.putAt c off k.bytes false).holderOf p w (.scratch c off) = s.holderOf p w (.scratch c off) := fun w =>
    State.holderOf_congr (s.strand_putAt c off k.bytes false) (s.parts_putAt c off k.bytes false) p w _
  have hown := State.holderOf_home (off := off) h
  obtain ⟨hwaits, hflight, htick⟩ := s.queues_putAt c off k.bytes false
  have hhit : ∀ w : WaitReq, (w.knot == .scratch c off && w.part == p && (s.putAt c off k.bytes false).holderOf p w.vd (.scratch c off) ==
      (s.putAt c off k.bytes false).holderOf p v (.scratch c off) && w.met k.count (s.putAt c off k.bytes false).tick) =
      s.meets (.scratch c off) p v k w := by
    intro w
    rw [hholder, hholder, hown, WaitReq.met_eq, htick, ← Bool.and_assoc]
    rfl
  unfold State.testWaits
  simp only [hhit, hsite, hwaits, hflight]

/-- The knot that a signal leaves (R85). -/
def State.signalled (s : State) (c off : Nat) (x : Signal) : Knot := (knotOf (s.scratch.readList (scratchAt c off) 32)).apply x s.tick

theorem exec_signalApply {x : Signal} (hm : s.flight[s.op.a]? = some (.signal x)) (ho : s.inOrder s.op.a (.signal x) = true)
    (hk : x.knot = .scratch c off) (h : s.HomeAt c x.part x.vd) : exec .signalApply s = .next
      (if x.ack then (((s.took s.op.a).putAt c off (s.signalled c off x).bytes false).testWaits (.scratch c off) x.part x.vd (s.signalled c off x)).send
          (.ack x.src)
        else ((s.took s.op.a).putAt c off (s.signalled c off x).bytes false).testWaits (.scratch c off) x.part x.vd (s.signalled c off x)) := by
  have hh : (s.took s.op.a).HomeAt c x.part x.vd := h
  have happly : applySignal (s.took s.op.a) x =
      .ok () (((s.took s.op.a).putAt c off (s.signalled c off x).bytes false).testWaits (.scratch c off) x.part x.vd (s.signalled c off x)) := by
    simp only [applySignal, hk, homeReadW_home hh, homeWrite_home hh]
    rfl
  show execSignalApply s = _
  simp only [execSignalApply, hm, ho, happly, Bool.not_true, Bool.false_eq_true, if_false]

theorem Knot.length_bytes (k : Knot) : k.bytes.length = 32 := length_bytesOf _ _

/-! ### Waits (R86, R336, R337) -/

/-- The device once a WAIT or KJOIN, taken from flight, has reached its knot: met there it gets its snapshot, else it is held. -/
def State.waitTaken (s : State) (c off : Nat) (q : WaitReq) : State :=
  if q.kind = 1 || q.target.sle (knotOf (s.scratch.readList (scratchAt c off) 32)).count then
    s.send (.snapshot ((knotOf (s.scratch.readList (scratchAt c off) 32)).snap q (.core c)))
  else { s with waits := s.waits ++ [q] }

theorem exec_waitHomeArrival {q : WaitReq} (hm : s.flight[s.op.a]? = some (.wait q)) (ho : s.inOrder s.op.a (.wait q) = true) (hkind : q.kind ≤ 1)
    (hk : q.knot = .scratch c off) (h : s.HomeAt c q.part q.vd) : exec .waitHomeArrival s = .next ((s.took s.op.a).waitTaken c off q) := by
  have hh : (s.took s.op.a).HomeAt c q.part q.vd := h
  have hsite : (s.took s.op.a).siteOf q.part q.vd (.scratch c off) = .core c := State.siteOf_home hh
  have happly : applyWait (s.took s.op.a) q = .ok () ((s.took s.op.a).waitTaken c off q) := by
    simp only [applyWait, hk, homeRead_home hh, hsite]
    exact (apply_ite (HomeR.ok ()) _ _ _).symm
  have hne : q.kind ≠ 2 := by omega
  show execWaitHomeArrival s = _
  simp only [execWaitHomeArrival, hm, ho, hne, happly, Bool.not_true, Bool.false_eq_true, if_false]

/-! ### Accesses (R178, R216) -/

/-- A request that a migration does not hold: at a scratchpad none does. -/
theorem State.holdsRequest_scratch (s : State) {r : Access} (hl : r.loc = .scratch c off) : s.holdsRequest r = false := by
  unfold State.holdsRequest
  rw [hl]
  split <;> simp_all

section
variable {r : Access} (hm : s.flight[s.op.a]? = some (.access r)) (ho : s.inOrder s.op.a (.access r) = true) (hl : r.loc = .scratch c off)
  (h : s.HomeAt c r.part r.vd)
include hm ho hl h

theorem exec_homeAccess_load (hop : r.op = .load) (hb : r.blocking = true) : exec .homeAccessArrival s = .next ((s.took s.op.a).send
    (.reply r.core ⟨numOf (s.scratch.readList (scratchAt c off) r.size), (s.scratchGot c off r.size).tag, false, (s.scratchGot c off r.size).poison, none⟩)) := by
  have hh : (s.took s.op.a).HomeAt c r.part r.vd := h
  show execHomeAccessArrival s = _
  simp only [execHomeAccessArrival, hm, ho, applyAccess, (s.took s.op.a).holdsRequest_scratch hl, hop, hl, homeRead_home hh, hb, Bool.not_true,
    Bool.false_eq_true, if_false, if_true]
  rfl

theorem exec_homeAccess_store {tag : Bool} (hop : r.op = .storec tag) (hb : r.blocking = false) : exec .homeAccessArrival s =
    .next (((s.took s.op.a).putAt c off (bytesOf r.value r.size) tag).send (.ack r.core)) := by
  have hh : (s.took s.op.a).HomeAt c r.part r.vd := h
  show execHomeAccessArrival s = _
  simp only [execHomeAccessArrival, hm, ho, applyAccess, (s.took s.op.a).holdsRequest_scratch hl, hop, hl, homeWrite_home hh, hb, Bool.not_true,
    Bool.false_eq_true, if_false, AccOp.acked, if_true]

/-- The record that a trace request sends on, where the ring's count is `i` (log 55). -/
def Access.traced (r : Access) (off i ents c tick : Nat) : Access :=
  { r with op := .storec false, loc := .scratch c (off + (64 + 32 * (i % ents))), value := r.value + i % 2 ^ 32 * 2 ^ 96 + tick % 2 ^ 64 * 2 ^ 192 }

theorem exec_homeAccess_trace {ents : Nat} (hop : r.op = .trace ents) (hb : r.blocking = false) : exec .homeAccessArrival s =
    .next (((s.took s.op.a).putAt c off (bytesOf ((numOf (s.scratch.readList (scratchAt c off) 8) + 1) % 2 ^ 64) 8) false).send
      (.access (r.traced off (numOf (s.scratch.readList (scratchAt c off) 8)) ents c s.tick))) := by
  have hh : (s.took s.op.a).HomeAt c r.part r.vd := h
  have happend : appendTrace (s.took s.op.a) r ents = .ok ()
      (((s.took s.op.a).putAt c off (bytesOf ((numOf (s.scratch.readList (scratchAt c off) 8) + 1) % 2 ^ 64) 8) false).send
        (.access (r.traced off (numOf (s.scratch.readList (scratchAt c off) 8)) ents c s.tick))) := by
    simp only [appendTrace, hl, homeReadW_home hh, homeWrite_home hh]
    rfl
  show execHomeAccessArrival s = _
  simp only [execHomeAccessArrival, hm, ho, applyAccess, (s.took s.op.a).holdsRequest_scratch hl, hop, happend, hb, Bool.not_true, Bool.false_eq_true,
    if_false, AccOp.acked]

end
end

end Sys2Proof.Machine
end

section
/-! SUPPORT. Written bytes at their home (R186, R191, R192, R198): what a merge puts into a line, a put into the last-level cache, and a write of
a line into a frame. -/
namespace Sys2Proof.Machine
open Sys2Proof.Claim

/-! ### Masks and merges (R186) -/

/-- The bytes of a mask's first `n` bits, as a number. -/
def maskNum (m : BitVec 256) (n : Nat) : Nat := (List.range n).foldl (fun v i => if m.getLsbD i then v + 255 * 2 ^ (8 * i) else v) 0

theorem maskNum_succ (m : BitVec 256) (n : Nat) : maskNum m (n + 1) = 2 ^ (8 * n) * (if m.getLsbD n then 255 else 0) + maskNum m n := by
  unfold maskNum
  rw [List.range_succ, List.foldl_append]
  simp only [List.foldl_cons, List.foldl_nil]
  split <;> omega

theorem maskNum_lt (m : BitVec 256) (n : Nat) : maskNum m n < 2 ^ (8 * n) := by
  induction n with
  | zero => exact Nat.one_pos
  | succ n ih =>
    rw [maskNum_succ, show 8 * (n + 1) = 8 * n + 8 from rfl, Nat.pow_add]
    split <;> omega

theorem testBit_maskNum (m : BitVec 256) (n j : Nat) : (maskNum m n).testBit j = (decide (j < 8 * n) && m.getLsbD (j / 8)) := by
  induction n with
  | zero => simp [maskNum]
  | succ n ih =>
    rw [maskNum_succ, Nat.testBit_two_pow_mul_add _ (maskNum_lt m n)]
    by_cases hj : j < 8 * n
    · have hj' : j < 8 * (n + 1) := by omega
      rw [if_pos hj, ih]
      simp [hj, hj']
    · rw [if_neg hj]
      by_cases hj' : j < 8 * (n + 1)
      · have hdiv : j / 8 = n := by omega
        have hlow : j - 8 * n < 8 := by omega
        rw [hdiv]
        cases m.getLsbD n
        · simp
        · have hbit : Nat.testBit (2 ^ 8 - 1) (j - 8 * n) = true := by rw [Nat.testBit_two_pow_sub_one, decide_eq_true hlow]
          simpa [hj'] using hbit
      · have hhigh : ¬ j - 8 * n < 8 := by omega
        have hbit : Nat.testBit (2 ^ 8 - 1) (j - 8 * n) = false := by rw [Nat.testBit_two_pow_sub_one, decide_eq_false hhigh]
        split
        · simpa [hj'] using hbit
        · simp [hj']

/-- A mask spreads each of its bits over a byte. -/
theorem getLsbD_maskBytes (m : BitVec 256) {o i : Nat} (ho : o < 256) (hi : i < 8) : (maskBytes m).getLsbD (8 * o + i) = m.getLsbD o := by
  have hlt : 8 * o + i < 2048 := by omega
  have hdiv : (8 * o + i) / 8 = o := by omega
  show (BitVec.ofNat 2048 (maskNum m 256)).getLsbD (8 * o + i) = _
  rw [BitVec.getLsbD_ofNat, testBit_maskNum, hdiv]
  simp [hlt]

/-- A merge puts the written bytes in. -/
theorem Line.byte_merge (l w : Line) {o : Nat} (ho : o < 256) (h : w.mask.getLsbD o = true) : (l.merge w).byte o = w.byte o := by
  refine BitVec.eq_of_getLsbD_eq fun i hi => ?_
  have hmask := getLsbD_maskBytes w.mask ho hi
  have hlt : 8 * o + i < 2048 := by omega
  unfold Line.byte Line.merge
  rw [BitVec.getLsbD_extractLsb', BitVec.getLsbD_extractLsb', BitVec.getLsbD_or, BitVec.getLsbD_and, BitVec.getLsbD_and, BitVec.getLsbD_not, hmask, h]
  simp

theorem Line.mask_merge (l w : Line) {o : Nat} (h : w.mask.getLsbD o = true) : (l.merge w).mask.getLsbD o = true := by
  unfold Line.merge
  simp [h]

/-! ### The last-level cache (R191) -/

/-- A line that has been put is found. -/
theorem State.llcLine_llcPut (s : State) (k : LlcLine) : (s.llcPut k).llcLine k.line.va = some k := by
  have hfind : ∀ ls : List LlcLine, ((ls.filter fun j => j.line.va != k.line.va) ++ [k]).find? (fun j => j.line.va == k.line.va) = some k := by
    intro ls
    have hnone : (ls.filter fun j => j.line.va != k.line.va).find? (fun j => j.line.va == k.line.va) = none := by
      rw [List.find?_eq_none]
      intro j hj
      simpa using (List.mem_filter.1 hj).2
    rw [List.find?_append, hnone]
    simp
  unfold State.llcPut State.llcLine
  dsimp only
  split
  · exact hfind _
  · split
    · exact hfind _
    · exact hfind _

theorem State.va_of_llcLine {s : State} {line : Nat} {k : LlcLine} (h : s.llcLine line = some k) : k.line.va = line := by
  simpa using List.find?_some h

/-! ### Frames (R192, R209) -/

/-- The banks behind the cores have their canonical form. -/
def State.BanksOk (s : State) : Prop := s.hbm.wf = true ∧ s.host.wf = true

theorem State.BanksOk.markDirty {s : State} (h : s.BanksOk) (a plog : Nat) : (s.markDirty a plog).BanksOk := by
  unfold State.markDirty
  dsimp only
  split
  · exact h
  · exact ⟨Bank.wf_bytes h.1 (Memory.wf_write _ _ _ ((Bank.wf_iff _).1 h.1).1), h.2⟩

theorem State.BanksOk.memWrite {s : State} (h : s.BanksOk) (a : Nat) (l : Line) (t : W64) (plog : Nat) : (s.memWrite a l t plog).BanksOk := by
  unfold State.memWrite
  dsimp only
  split
  · exact ⟨h.1, Bank.wf_writeLine _ _ _ _ h.2⟩
  · refine State.BanksOk.markDirty ?_ a plog
    exact ⟨Bank.wf_writeLine _ _ _ _ h.1, h.2⟩

theorem State.BanksOk.writeFrame {s : State} (h : s.BanksOk) (l : Line) : (s.writeFrame l).1.BanksOk := by
  unfold State.writeFrame
  dsimp only
  split
  · split <;> exact h.memWrite _ _ _ _
  · exact h

theorem State.BanksOk.onPart {s : State} (h : s.BanksOk) (p : Nat) (f : Partition → Partition) : (s.onPart p f).BanksOk := by
  unfold State.onPart
  split <;> exact h

theorem State.BanksOk.charge {s : State} (h : s.BanksOk) (p v e k : Nat) : (s.charge p v e k).BanksOk := by
  unfold State.charge
  split
  · exact h.onPart p _
  · exact h

theorem State.BanksOk.llcClean {s : State} (h : s.BanksOk) (k : LlcLine) : (s.llcClean k).BanksOk := by
  have hw := h.writeFrame k.line
  unfold State.llcClean
  split
  · exact h
  · dsimp only
    split
    · split
      · refine State.BanksOk.charge ?_ _ _ _ _
        exact hw
      · exact hw
    · exact hw

theorem State.BanksOk.foldl_llcClean {s : State} (h : s.BanksOk) (ls : List LlcLine) :
    (ls.foldl (fun (z : State) k => (z.llcClean k).llcDrop k.line.va) s).BanksOk := by
  induction ls generalizing s with
  | nil => exact h
  | cons k ls ih => exact ih (s := (s.llcClean k).llcDrop k.line.va) (h.llcClean k)

theorem State.BanksOk.llcUnalias {s : State} (h : s.BanksOk) (line : Nat) (t : W64) (plog : Nat) : (s.llcUnalias line t plog).BanksOk :=
  h.foldl_llcClean _

/-- Writes of a line's written bytes, one after the other: each is there in the end. -/
theorem Bank.read_foldl_write (pa : Nat) (l : Line) {o : Nat} (hm : l.mask.getLsbD o = true) (is : List Nat) {b : Bank} (hb : b.wf = true)
    (h : o ∈ is ∨ b.read (pa + o) = l.byte o) :
    (is.foldl (fun (b : Bank) i => if l.mask.getLsbD i then b.write (pa + i) (l.byte i) else b) b).read (pa + o) = l.byte o := by
  induction is generalizing b with
  | nil => exact h.resolve_left List.not_mem_nil
  | cons i is ih =>
    rw [List.foldl_cons]
    have hwf : (if l.mask.getLsbD i then b.write (pa + i) (l.byte i) else b).wf = true := by
      split
      · exact Bank.wf_write _ _ _ hb
      · exact hb
    refine ih hwf ?_
    by_cases hio : i = o
    · rw [hio, if_pos hm]
      exact .inr (Bank.read_write_same _ _ _ ((Bank.wf_iff _).1 hb).1)
    · refine h.imp (fun hmem => (List.mem_cons.1 hmem).resolve_left (Ne.symm hio)) fun hread => ?_
      split
      · rw [Bank.read_write_other _ _ (by omega), hread]
      · exact hread

/-- A byte of a line that has been written into a bank. -/
theorem Bank.read_writeLine {b : Bank} (hb : b.wf = true) (pa : Nat) {l : Line} (tags : Bool) {o : Nat} (ho : o < 256) (hm : l.mask.getLsbD o = true) :
    (b.writeLine pa l tags).read (pa + o) = l.byte o := by
  have hbytes : (b.writeLine pa l tags).bytes =
      ((List.range 256).foldl (fun (b : Bank) i => if l.mask.getLsbD i then b.write (pa + i) (l.byte i) else b) b).bytes := by
    unfold Bank.writeLine
    dsimp only
    rw [foldl_keeps (g := Bank.bytes), foldl_keeps (g := Bank.bytes)]
    · intro b i
      split <;> rfl
    · intro b i
      split <;> rfl
  rw [Bank.read, hbytes]
  exact Bank.read_foldl_write pa l hm _ hb (.inl (List.mem_range.2 ho))

section
variable {s : State} {a plog : Nat} {l : Line} {t : W64} {o : Nat}

/-- A line written to a host frame. -/
theorem State.host_memWrite (h : s.BanksOk) (ht : tState t = 2) (ho : o < 256) (hm : l.mask.getLsbD o = true) :
    (s.memWrite a l t plog).host.read (s.frameOf a t plog + o) = l.byte o := by
  unfold State.memWrite
  simp only [ht, if_true]
  exact Bank.read_writeLine h.2 _ _ ho hm

/-- A line written to a local frame, its dirty bit elsewhere. -/
theorem State.hbm_memWrite (h : s.BanksOk) (ht : tState t ≠ 2) (ho : o < 256) (hm : l.mask.getLsbD o = true)
    (hdirty : (s.dirtyBit a plog).1 ≠ s.frameOf a t plog + o) : (s.memWrite a l t plog).hbm.read (s.frameOf a t plog + o) = l.byte o := by
  have hread := Bank.read_writeLine h.1 (s.frameOf a t plog) true ho hm
  unfold State.memWrite State.markDirty
  simp only [ht, if_false]
  split
  · exact hread
  · exact (Memory.read_write_other _ _ (Ne.symm hdirty)).trans hread

end

end Sys2Proof.Machine
end

section
/-! PROOFS. Write-backs, acknowledgements and replies that arrive (R139, R140, R191, R194, R197, R198, R214), and obligation O43. -/
namespace Sys2Proof.Machine
open Sys2Proof.Claim

/-! ### What a write of bytes at their home does (R191, R198, R214) -/

section
variable {s : State} {l : Line} (w : Who)

theorem llcWrite_held (h : s.migrating (l.va * 256) = true) : llcWrite s w l = .held := if_pos h

/-- The line is there. -/
theorem llcWrite_hit {k : LlcLine} (h : s.migrating (l.va * 256) = false) (hk : s.llcLine l.va = some k) :
    llcWrite s w l = .ok () (s.llcPut { k with line := k.line.merge l, ctx := w.vd }) := by
  simp only [llcWrite, h, hk, Bool.false_eq_true, if_false]

/-- It is not there and has no translation. -/
theorem llcWrite_fault {f : Bool} (h : s.migrating (l.va * 256) = false) (hk : s.llcLine l.va = none) (hwalk : walk s (l.va * 256) true = .fault f) :
    llcWrite s w l = .fault f (l.va * 256) := by
  simp only [llcWrite, h, hk, hwalk, Bool.false_eq_true, if_false]

section
variable {e : W64} {g : Nat} (h : s.migrating (l.va * 256) = false) (hk : s.llcLine l.va = none) (hwalk : walk s (l.va * 256) true = .leaf e g)
include h hk hwalk

/-- It is not there and may be kept. -/
theorem llcWrite_allocates (hallow : (s.llcUnalias l.va e g).llcAllows (l.va * 256) e w.cpol = true) :
    llcWrite s w l = .ok () ((s.llcUnalias l.va e g).llcPut ⟨(Line.empty l.va).merge l, w.vd, w.part⟩) := by
  simp only [llcWrite, h, hk, hwalk, hallow, Bool.false_eq_true, if_false, if_true]

/-- It is not there and may not be kept. -/
theorem llcWrite_toFrame (hallow : (s.llcUnalias l.va e g).llcAllows (l.va * 256) e w.cpol = false) :
    llcWrite s w l = .ok () ((s.llcUnalias l.va e g).memWrite (l.va * 256) l e g) := by
  simp only [llcWrite, h, hk, hwalk, hallow, Bool.false_eq_true, if_false]

end
end

/-! ### What depends on the directory alone (R197, R209, R215) -/

theorem State.llcAllows_of_dir {s t : State} (h : t.dir = s.dir) (a : Nat) (e : W64) (pol : Nat) : t.llcAllows a e pol = s.llcAllows a e pol := by
  unfold State.llcAllows State.regionCattr State.region
  rw [h]

theorem State.frameOf_of_dir {s t : State} (h : t.dir = s.dir) (a : Nat) (e : W64) (g : Nat) : t.frameOf a e g = s.frameOf a e g := by
  unfold State.frameOf State.sliceOf
  rw [h]

theorem State.dirtyBit_of_dir {s t : State} (h : t.dir = s.dir) (a g : Nat) : t.dirtyBit a g = s.dirtyBit a g := by
  simp only [State.dirtyBit, h]

/-! ### Write-backs that arrive (R140, R191, R214) -/

/-- Monitors that a written line wakes are no part of memory. -/
theorem State.touchLine_keeps (s : State) (l : Line) : (s.touchLine l).llc = s.llc ∧ (s.touchLine l).hbm = s.hbm ∧ (s.touchLine l).host = s.host ∧
    (s.touchLine l).heldWrites = s.heldWrites := by
  have h := foldl_keeps (g := fun z : State => (z.llc, z.hbm, z.host, z.heldWrites)) (f := fun (z : State) i =>
    if (maskSectors l.mask).getLsbD i then z.touch (.glob (l.va * 256 + 64 * i)) 64 else z) (fun z i => by split <;> rfl) (List.range 4) s
  simp only [Prod.mk.injEq] at h
  exact h

/-- The written bytes stand in the line that the last-level cache holds. -/
def State.keepsLine (t : State) (l : Line) : Prop :=
  ∀ o, o < 256 → l.mask.getLsbD o = true → ∃ k, t.llcLine l.va = some k ∧ k.line.byte o = l.byte o ∧ k.line.mask.getLsbD o = true

theorem State.keepsLine_put {l : Line} {t s1 : State} {k : LlcLine} {m : Line} (hva : k.line.va = l.va) (hk : k.line = m.merge l)
    (ht : t.llc = (s1.llcPut k).llc) : t.keepsLine l := by
  intro o ho hbit
  have hline : t.llcLine l.va = some k := by
    rw [State.llcLine, ht, ← hva]
    exact s1.llcLine_llcPut k
  exact ⟨k, hline, by rw [hk, m.byte_merge l ho hbit], by rw [hk, m.mask_merge l hbit]⟩

section
variable {s : State} {n p v u : Nat} {l : Line} {d : Bool} (hm : s.flight[s.op.a]? = some (.writeback n p v l u d))
  (ho : s.inOrder s.op.a (.writeback n p v l u d) = true)
include hm ho

/-- Bytes that are taken are acknowledged. -/
theorem exec_llcWriteback_ok {r : Unit} {s1 : State} (hw : llcWrite (s.took s.op.a) ⟨p, v, u⟩ l = .ok r s1) (hheld : s1.heldWrites = s.heldWrites) :
    ∃ t, exec .llcWritebackArrival s = .next t ∧ .ack n ∈ t.flight ∧ t.heldWrites = s.heldWrites ∧ t.llc = s1.llc ∧ t.hbm = s1.hbm ∧
      t.host = s1.host := by
  obtain ⟨hllc, hhbm, hhost, hh⟩ := s1.touchLine_keeps l
  refine ⟨(s1.touchLine l).send (.ack n), ?_, List.mem_append_right _ (List.mem_singleton.2 rfl), hh.trans hheld, hllc, hhbm, hhost⟩
  show execLlcWritebackArrival s = _
  simp only [execLlcWritebackArrival, hm, ho, hw, Bool.not_true, Bool.false_eq_true, if_false]

/-- A migration holds them. -/
theorem exec_llcWriteback_held (h : s.migrating (l.va * 256) = true) : exec .llcWritebackArrival s =
    .next { s.took s.op.a with heldWrites := s.heldWrites ++ [⟨n, p, v, l, u⟩] } := by
  have hw := llcWrite_held (s := s.took s.op.a) (l := l) ⟨p, v, u⟩ h
  show execLlcWritebackArrival s = _
  simp only [execLlcWritebackArrival, hm, ho, hw, Bool.not_true, Bool.false_eq_true, if_false]
  rfl

/-- They miss and have no translation: they are dropped, and their core is told. -/
theorem exec_storeWritebackFault {f : Bool} (h : s.migrating (l.va * 256) = false) (hk : s.llcLine l.va = none)
    (hwalk : walk s (l.va * 256) true = .fault f) : exec .storeWritebackFault s =
    .next (((s.took s.op.a).storeFault n l.lowest f).send (.ack n)) := by
  have hw := llcWrite_fault (s := s.took s.op.a) ⟨p, v, u⟩ h hk hwalk
  show execStoreWritebackFault s = _
  simp only [execStoreWritebackFault, hm, ho, hw, Bool.not_true, Bool.false_eq_true, if_false]

/-- Bytes of a line that is there, or that may be kept, are merged into it. -/
theorem exec_llcWriteback_kept (h : s.migrating (l.va * 256) = false)
    (hkeep : (s.llcLine l.va).isSome = true ∨ s.llcLine l.va = none ∧ ∃ e g, walk s (l.va * 256) true = .leaf e g ∧ s.llcAllows (l.va * 256) e u = true) :
    ∃ t, exec .llcWritebackArrival s = .next t ∧ .ack n ∈ t.flight ∧ t.heldWrites = s.heldWrites ∧ t.keepsLine l := by
  rcases hkeep with hsome | ⟨hnone, e, g, hwalk, hallow⟩
  · obtain ⟨k, hk⟩ := Option.isSome_iff_exists.1 hsome
    have hw := llcWrite_hit (s := s.took s.op.a) ⟨p, v, u⟩ h hk
    obtain ⟨t, ht, hack, hheld, hllc, -⟩ := exec_llcWriteback_ok hm ho hw (State.heldWrites_of_front (State.llcPut_front _ _))
    exact ⟨t, ht, hack, hheld, State.keepsLine_put (k := { k with line := k.line.merge l, ctx := v }) (show (k.line.merge l).va = l.va from State.va_of_llcLine hk) rfl hllc⟩
  · have hfront := (s.took s.op.a).llcUnalias_front l.va e g
    have hdir : ((s.took s.op.a).llcUnalias l.va e g).dir = s.dir := State.dir_of_front hfront
    rw [← State.llcAllows_of_dir hdir] at hallow
    have hw := llcWrite_allocates (s := s.took s.op.a) ⟨p, v, u⟩ h hnone hwalk hallow
    obtain ⟨t, ht, hack, hheld, hllc, -⟩ := exec_llcWriteback_ok hm ho hw
      (State.heldWrites_of_front ((State.llcPut_front _ _).trans hfront))
    exact ⟨t, ht, hack, hheld, State.keepsLine_put (k := ⟨(Line.empty l.va).merge l, v, p⟩) (m := Line.empty l.va) rfl rfl hllc⟩

/-- Bytes that may not be kept go to their frame. -/
theorem exec_llcWriteback_frame {e : W64} {g : Nat} (h : s.migrating (l.va * 256) = false) (hk : s.llcLine l.va = none)
    (hwalk : walk s (l.va * 256) true = .leaf e g) (hallow : s.llcAllows (l.va * 256) e u = false) (hbanks : s.BanksOk) :
    ∃ t, exec .llcWritebackArrival s = .next t ∧ .ack n ∈ t.flight ∧ t.heldWrites = s.heldWrites ∧ ∀ o, o < 256 → l.mask.getLsbD o = true →
      (tState e = 2 → t.host.read (s.frameOf (l.va * 256) e g + o) = l.byte o) ∧
      (tState e ≠ 2 → (s.dirtyBit (l.va * 256) g).1 ≠ s.frameOf (l.va * 256) e g + o → t.hbm.read (s.frameOf (l.va * 256) e g + o) = l.byte o) := by
  have hfront := (s.took s.op.a).llcUnalias_front l.va e g
  have hdir : ((s.took s.op.a).llcUnalias l.va e g).dir = s.dir := State.dir_of_front hfront
  have hok : ((s.took s.op.a).llcUnalias l.va e g).BanksOk := State.BanksOk.llcUnalias (s := s.took s.op.a) hbanks l.va e g
  rw [← State.llcAllows_of_dir hdir] at hallow
  have hw := llcWrite_toFrame (s := s.took s.op.a) ⟨p, v, u⟩ h hk hwalk hallow
  obtain ⟨t, ht, hack, hheld, -, hhbm, hhost⟩ := exec_llcWriteback_ok hm ho hw
    (State.heldWrites_of_front ((State.memWrite_front _ _ _ _ _).trans hfront))
  refine ⟨t, ht, hack, hheld, fun o ho256 hbit => ⟨fun he => ?_, fun he hdirty => ?_⟩⟩
  · rw [hhost, ← State.frameOf_of_dir hdir]
    exact State.host_memWrite hok he ho256 hbit
  · rw [hhbm, ← State.frameOf_of_dir hdir]
    rw [← State.frameOf_of_dir hdir, ← State.dirtyBit_of_dir hdir] at hdirty
    exact State.hbm_memWrite hok he ho256 hbit hdirty

end

/-! ### Acknowledgements and replies (R139, R194) -/

section
variable {s : State} {n : Nat} {x : Strand}

/-- A held store fault of a strand that holds no trap (R140). -/
theorem State.storeFault_first (hx : s.strand n = some x) (hasync : x.async = []) (hactive : x.active = false) (a : Nat) (f : Bool) :
    s.storeFault n a f = s.setStrand n { x with async := [(0x0A, BitVec.ofNat 64 a, transDetail f true)] } := by
  rw [State.storeFault, State.onStrand_of_some hx]
  simp [Strand.addAsync, hasync, hactive]

theorem exec_writeAcknowledged (hm : s.flight[s.op.a]? = some (.ack n)) (hx : s.strand n = some x) :
    exec .writeAcknowledged s = .next ((s.took s.op.a).setStrand n { x with unacked := x.unacked - 1 }) := by
  have hx' : (s.took s.op.a).strand n = some x := hx
  show execWriteAcknowledged s = _
  simp only [execWriteAcknowledged, hm]
  rw [State.onStrand_of_some hx']

/-- The reply that a strand waits for. -/
theorem exec_loadDataArrival_reply {r : Reply} (hm : s.flight[s.op.a]? = some (.reply n r)) (hx : s.strand n = some x)
    (hwait : x.wait = some (.data 1)) (hreply : x.reply = none) : ∃ (u : State) (y : Strand), x.TimedTo y ∧ u.flight = s.flight.eraseIdx s.op.a ∧
      exec .loadDataArrival s = .next (u.setStrand n { y with reply := some r, wait := some (.data 0) }) := by
  have hx' : (s.took s.op.a).strand n = some x := hx
  obtain ⟨u, y, hu, hy, ht⟩ := State.strand_settleCore hx'
  have hyr : y.reply = none ∧ y.wait = some (.data 1) := by
    rw [ht.1]
    exact ⟨hreply, hwait⟩
  have hexpects : x.expects = true := by simp [Strand.expects, hwait]
  refine ⟨(s.took s.op.a).settleCore n, y, ht, by rw [hu]; rfl, ?_⟩
  show execLoadDataArrival s = _
  simp only [execLoadDataArrival, hm, State.answer, hx', hexpects, if_true]
  rw [State.onStrand_of_some hy, hyr.1, hyr.2]
  rfl

end

/-- Settles O43: each clause by the step at which the message arrives. -/
theorem messages : Obligations.Messages := by
  unfold Obligations.Messages
  intro s k hk hwf rest first home knotAt snap
  subst hk
  refine ⟨?signal, ?wait, ?access, ?writeback, fun n x hm hx => ?ack, fun n r x hm hx hwait hreply => ?reply⟩
  case signal =>
    intro x c off hfirst hknot hhome old new met
    obtain ⟨hm, ho⟩ := hfirst
    have h : s.HomeAt c x.part x.vd := hhome
    have hmet : met = s.meets (.scratch c off) x.part x.vd new := by
      funext w
      simp only [met, hknot]
      rfl
    have hexec := exec_signalApply hm ho hknot h
    rw [State.testWaits_putAt (s := s.took s.op.a) h] at hexec
    have hput := State.readList_putAt (s := s.took s.op.a) (c := c) (off := off) hwf new.bytes false new.length_bytes
    have honly := State.onlyScratch_putAt (s := s.took s.op.a) (c := c) (off := off) new.bytes false new.length_bytes
    refine ⟨_, hexec, ?_⟩
    rw [hmet]
    cases x.ack with
    | true => exact ⟨hput, honly, rfl, rfl⟩
    | false => exact ⟨hput, honly, rfl, (List.append_nil _).symm⟩
  case wait =>
    intro q c off hfirst hkind hknot hhome n
    obtain ⟨hm, ho⟩ := hfirst
    have hexec := exec_waitHomeArrival hm ho hkind hknot hhome
    refine ⟨fun hmet => ?_, fun hkind0 hmiss => ?_⟩
    · have hcond : (q.kind = 1 || q.target.sle n.count) = true := by simpa using hmet
      rw [State.waitTaken] at hexec
      exact ⟨_, hexec.trans (congrArg _ (if_pos hcond)), rfl, rfl, rfl⟩
    · have hcond : ¬ (q.kind = 1 || q.target.sle n.count) = true := by simp [hkind0, hmiss]
      exact ⟨_, hexec.trans (congrArg _ (if_neg hcond)), rfl, rfl, rfl⟩
  case access =>
    intro r c off hfirst hloc hhome
    obtain ⟨hm, ho⟩ := hfirst
    refine ⟨fun hop hb => ⟨_, _, exec_homeAccess_load hm ho hloc hhome hop hb, rfl, rfl, rfl, rfl⟩, fun tag hop hb => ?_, fun ents hop hb => ?_⟩
    · exact ⟨_, exec_homeAccess_store hm ho hloc hhome hop hb, (s.took s.op.a).flight_send_putAt _ _ _ _ _,
        State.readList_putAt (s := s.took s.op.a) hwf _ tag (length_bytesOf _ _),
        State.onlyScratch_putAt (s := s.took s.op.a) _ tag (length_bytesOf _ _)⟩
    · exact ⟨_, _, exec_homeAccess_trace hm ho hloc hhome hop hb, (s.took s.op.a).flight_send_putAt _ _ _ _ _, rfl, rfl, rfl, rfl,
        State.readList_putAt (s := s.took s.op.a) hwf _ false (length_bytesOf _ _),
        State.onlyScratch_putAt (s := s.took s.op.a) _ false (length_bytesOf _ _)⟩
  case writeback =>
    intro n p v l u d hfirst
    obtain ⟨hm, ho⟩ := hfirst
    refine ⟨fun hmig hnone f hwalk x hx hasync hactive => ?dropped, fun hmig => ⟨_, exec_llcWriteback_held hm ho hmig, rfl, rfl, rfl, rfl⟩,
      fun hmig => ⟨fun hsome => ?hit, fun hnone e g hwalk => ⟨fun hallow => ?allocated, fun hallow hhbm hhost => ?frame⟩⟩⟩
    case dropped =>
      have hexec := exec_storeWritebackFault hm ho hmig hnone hwalk
      rw [State.storeFault_first (s := s.took s.op.a) hx hasync hactive] at hexec
      exact ⟨_, _, hexec, rfl, rfl, rfl, State.strand_setStrand_same _ _ _, rfl⟩
    case hit => exact exec_llcWriteback_kept hm ho hmig (.inl hsome)
    case allocated => exact exec_llcWriteback_kept hm ho hmig (.inr ⟨hnone, e, g, hwalk, hallow⟩)
    case frame =>
      obtain ⟨t, ht, hack, hheld, hbytes⟩ := exec_llcWriteback_frame hm ho hmig hnone hwalk hallow ⟨hhbm, hhost⟩
      exact ⟨fun he => ⟨t, ht, hack, hheld, fun o ho256 hbit => (hbytes o ho256 hbit).1 he⟩,
        fun he hdirty => ⟨t, ht, hack, hheld, fun o ho256 hbit => (hbytes o ho256 hbit).2 he (hdirty o ho256)⟩⟩
  case ack =>
    exact ⟨_, exec_writeAcknowledged hm hx, rfl, State.strand_setStrand_same _ _ _, fun m hne => State.strand_setStrand_other _ _ hne⟩
  case reply =>
    obtain ⟨u, y, ht, hflight, hexec⟩ := exec_loadDataArrival_reply hm hx hwait hreply
    obtain ⟨-, -, hpc, hg, -⟩ := ht.keeps
    exact ⟨_, _, hexec, hflight, State.strand_setStrand_same _ _ _, rfl, rfl, hpc, hg⟩

end Sys2Proof.Machine
end
